-- ==== Sys2Proof/Word.lean ====
section
/-! DEFINITION. The word types and their plainest arithmetic, the operand forms of the lane format (02_encoding.md
R41), and the plain data that the environment supplies to a step of the device. -/

namespace Sys2Proof

/-- A byte of memory. -/
abbrev Byte := BitVec 8
/-- A 64-bit scalar register value (R63). -/
abbrev Word64 := BitVec 64
/-- A 32-bit lane word (R144). -/
abbrev Word32 := BitVec 32
/-- A generic address (R283). -/
abbrev Addr := BitVec 64

/-- `Bits(x, hi, lo)` of R9, as a number. -/
def bits (x hi lo : Nat) : Nat := x / 2 ^ lo % 2 ^ (hi + 1 - lo)

/-- Sign extension of the low `w` bits of a word to 64 bits: `SignExtend(x, w)` of R9. -/
def signExtendFrom (w : Nat) (x : Word64) : Word64 := ((x.truncate w : BitVec w).signExtend 64)

/-- A lane source, with its level (R41).  `reserved` holds the ten bits of an encoding that R41 does not assign. -/
inductive Src where
  /-- level 0b00: main-file register -/
  | reg (n : BitVec 8)
  /-- level 0b01: operand-file slot -/
  | slot (n : BitVec 4)
  /-- level 0b10: latch -/
  | latch (n : BitVec 2)
  /-- level 0b11: lane-block constant -/
  | konst (n : BitVec 3)
  /-- level 0b11, special value 0x08: the instruction's imm32 -/
  | imm
  /-- level 0b11: small immediate, six bits -/
  | small (v : BitVec 6)
  /-- an encoding that R41 makes ILLOP -/
  | reserved (raw : BitVec 10)
  deriving DecidableEq, Repr

/-- The fields of the 96-bit lane format (R40) but its opcode. -/
structure LaneArgs where
  vd : BitVec 8
  w : Bool
  h : Bool
  sa : Src
  sb : Src
  sc : Src
  mask : BitVec 4
  ty : BitVec 4
  mods : BitVec 6
  imm : BitVec 32
  deriving DecidableEq, Repr

/-- The all-zero operand fields: sources naming v0. -/
def LaneArgs.zero : LaneArgs :=
  { vd := 0, w := false, h := false, sa := .reg 0, sb := .reg 0, sc := .reg 0, mask := 0, ty := 0, mods := 0, imm := 0 }

/-- Which stream's illegal encoding this is: its bits, for the record (R46 to R48). -/
inductive IllegalKind where
  | scalar (word : BitVec 32)
  | lane (word : BitVec 96)
  deriving DecidableEq, Repr

/-- Which stream's extension encoding this is (R49). -/
inductive ExtensionKind where
  | scalar (word : BitVec 32)
  | lane (word : BitVec 96)
  deriving DecidableEq, Repr

/-- A failure of bring-up: its FAILCODE, 1 to 6, and the die it names (R438, R443). -/
structure StepFailure where
  step : BitVec 4
  die : BitVec 4
  deriving DecidableEq, Repr

/-- What firmware does with a fault record: it writes table entries (physical address and value), or declares the fault fatal
(R294); or, for an emulated instruction, its routine writes bytes of the wave's frame, by offset, and of memory, by generic
address (R49). -/
inductive FaultAction where
  | map (entries : List (BitVec 48 × BitVec 64))
  | fatal
  | routine (frame : List (BitVec 16 × Byte)) (memory : List (BitVec 64 × Byte))
  deriving DecidableEq, Repr

/-- An access from outside the package: a read of `n` bytes, a write of bytes, or an atomic of another package on `n`
bytes, with its modifiers, type code, data and compare value (R339, R392). -/
inductive HostAccess where
  | read (n : Nat)
  | write (bytes : List Byte)
  | atomic (mods : BitVec 6) (type : BitVec 4) (n : Nat) (data cmp : BitVec 64)
  deriving DecidableEq, Repr

/-- A link of the device: a base-die link (0: B0–B1, 1: B2–B3, 2: B0–B2, 3: B1–B3; R12, R387), or a Skovyind port
(R391). -/
inductive LinkId where
  | base (k : BitVec 2)
  | port (p : BitVec 4)
  deriving DecidableEq, Repr

end Sys2Proof
end

