-- ==== Sys2Proof/Syntax.lean ====
section
/-! DEFINITION. The syntax of Ziush and of the device: one constructor for each row of spec/opcode_table.json, in
the table's order but for the device's steps, which stand last.  A scalar instruction carries the fields its row gives (02_encoding.md R35 to R39), a lane
instruction the fields of the 96-bit format (R40).  A whole step of the device (95_what_each_step_holds.md) carries
nothing: what its environment supplies (which queue, launch, wave, core or request it is about, and the values that
reach the device from outside) stands in the state's `input`. -/

namespace Sys2Proof

/-- The steps of the TJ9: scalar instructions, lane instructions, firmware commands and events. -/
inductive Instr where
  /-- R37: Supplies bits 39:14 of the following S-I instruction's immediate, forming one indivisible instruction. -/
  | longImmediatePrefix (hi : BitVec 26) (word : BitVec 32)
  /-- R188: s[sd] ← s[sa] + s[sb] modulo 2^64. -/
  | add (d a b : BitVec 6)
  /-- R188: s[sd] ← s[sa] − s[sb]. -/
  | sub (d a b : BitVec 6)
  /-- R188: Bitwise AND. -/
  | and (d a b : BitVec 6)
  /-- R188: Bitwise OR. -/
  | or (d a b : BitVec 6)
  /-- R188: Bitwise XOR. -/
  | xor (d a b : BitVec 6)
  /-- R188: a AND NOT b. -/
  | andn (d a b : BitVec 6)
  /-- R189: Left shift by bits 5:0 of s[sb]. -/
  | shl (d a b : BitVec 6)
  /-- R189: Logical right shift by bits 5:0 of s[sb]. -/
  | shr (d a b : BitVec 6)
  /-- R189: Arithmetic right shift by bits 5:0 of s[sb]. -/
  | sra (d a b : BitVec 6)
  /-- R188: Left shift by the sb field count. -/
  | shli (d a n : BitVec 6)
  /-- R188: Logical right shift by the sb field count. -/
  | shri (d a n : BitVec 6)
  /-- R188: Arithmetic right shift by the sb field count. -/
  | srai (d a n : BitVec 6)
  /-- R188: 1 if signed a < b, else 0. -/
  | slt (d a b : BitVec 6)
  /-- R188: 1 if unsigned a < b, else 0. -/
  | sltu (d a b : BitVec 6)
  /-- R188: Signed minimum. -/
  | min (d a b : BitVec 6)
  /-- R188: Signed maximum. -/
  | max (d a b : BitVec 6)
  /-- R188: Unsigned minimum. -/
  | minu (d a b : BitVec 6)
  /-- R188: Unsigned maximum. -/
  | maxu (d a b : BitVec 6)
  /-- R188: Low 64 bits of the product. -/
  | mul (d a b : BitVec 6)
  /-- R188: High 64 bits of the signed product. -/
  | mulh (d a b : BitVec 6)
  /-- R188: High 64 bits of the unsigned product. -/
  | mulhu (d a b : BitVec 6)
  /-- R190: Signed quotient truncated towards zero, with fixed results for zero divisor and overflow. -/
  | div (d a b : BitVec 6)
  /-- R190: Unsigned quotient. -/
  | divu (d a b : BitVec 6)
  /-- R190: Signed remainder with the dividend's sign. -/
  | rem (d a b : BitVec 6)
  /-- R190: Unsigned remainder. -/
  | remu (d a b : BitVec 6)
  /-- R188: Leading zeros of a, 0–64. -/
  | clz (d a : BitVec 6)
  /-- R188: Trailing zeros of a, 0–64. -/
  | ctz (d a : BitVec 6)
  /-- R188: Set bits of a. -/
  | popc (d a : BitVec 6)
  /-- R188: Sign-extends bits 7:0. -/
  | sextb (d a : BitVec 6)
  /-- R188: Sign-extends bits 15:0. -/
  | sexth (d a : BitVec 6)
  /-- R188: Sign-extends bits 31:0. -/
  | sextw (d a : BitVec 6)
  /-- R191: s[sd] ← s[sa] + immediate. -/
  | addi (d a : BitVec 6) (i : BitVec 14)
  /-- R191: s[sd] ← s[sa] AND immediate. -/
  | andi (d a : BitVec 6) (i : BitVec 14)
  /-- R191: s[sd] ← s[sa] OR immediate. -/
  | ori (d a : BitVec 6) (i : BitVec 14)
  /-- R191: s[sd] ← s[sa] XOR immediate. -/
  | xori (d a : BitVec 6) (i : BitVec 14)
  /-- R191: 1 if signed a < immediate. -/
  | slti (d a : BitVec 6) (i : BitVec 14)
  /-- R191: 1 if unsigned a < immediate read as unsigned. -/
  | sltiu (d a : BitVec 6) (i : BitVec 14)
  /-- R191: Low 64 bits of a × immediate. -/
  | muli (d a : BitVec 6) (i : BitVec 14)
  /-- R304: Scalar load of a sign-extended byte. -/
  | sldB (d a : BitVec 6) (i : BitVec 14)
  /-- R304: Scalar load of a zero-extended byte. -/
  | sldBu (d a : BitVec 6) (i : BitVec 14)
  /-- R304: Scalar load of a sign-extended half. -/
  | sldH (d a : BitVec 6) (i : BitVec 14)
  /-- R304: Scalar load of a zero-extended half. -/
  | sldHu (d a : BitVec 6) (i : BitVec 14)
  /-- R304: Scalar load of a sign-extended word. -/
  | sldW (d a : BitVec 6) (i : BitVec 14)
  /-- R304: Scalar load of a zero-extended word. -/
  | sldWu (d a : BitVec 6) (i : BitVec 14)
  /-- R304: Scalar load of a doubleword. -/
  | sldD (d a : BitVec 6) (i : BitVec 14)
  /-- R304: Scalar store of a byte. -/
  | sstB (d a : BitVec 6) (i : BitVec 14)
  /-- R304: Scalar store of a half. -/
  | sstH (d a : BitVec 6) (i : BitVec 14)
  /-- R304: Scalar store of a word. -/
  | sstW (d a : BitVec 6) (i : BitVec 14)
  /-- R304: Scalar store of a doubleword. -/
  | sstD (d a : BitVec 6) (i : BitVec 14)
  /-- R129: Branches by a signed word offset. -/
  | b (o : BitVec 22)
  /-- R129: Writes PC+4 to s63 and branches. -/
  | call (o : BitVec 22)
  /-- R130: Branches if equal. -/
  | beq (a b : BitVec 6) (o : BitVec 14)
  /-- R130: Branches if not equal. -/
  | bne (a b : BitVec 6) (o : BitVec 14)
  /-- R130: Branches if signed less. -/
  | blt (a b : BitVec 6) (o : BitVec 14)
  /-- R130: Branches if signed greater or equal. -/
  | bge (a b : BitVec 6) (o : BitVec 14)
  /-- R130: Branches if unsigned less. -/
  | bltu (a b : BitVec 6) (o : BitVec 14)
  /-- R130: Branches if unsigned greater or equal. -/
  | bgeu (a b : BitVec 6) (o : BitVec 14)
  /-- R131: Jumps to s[sa], trapping ALIGN if misaligned. -/
  | jr (a : BitVec 6)
  /-- R131: Writes PC+4 to s[sd] and jumps to s[sa]. -/
  | callr (d a : BitVec 6)
  /-- R131: Returns to s[sa]; a transfer to 0 ends the scalar stream. -/
  | ret (a : BitVec 6)
  /-- R132: Enqueues a lane block with a k0–k7 snapshot and the format register, stalling while LQCNT is 8. -/
  | lrun (d a : BitVec 6) (i : BitVec 14)
  /-- R133: Waits until LQCNT ≤ n. -/
  | lwait (n : BitVec 6)
  /-- R172: Writes FMTW, returns the old value and reseeds the generators when sb is named. -/
  | fmt (d a b : BitVec 6)
  /-- R173: Loads S and BS of a seed register and recomputes its tag after earlier blocks complete. -/
  | seedld (z : BitVec 3) (a b : BitVec 6)
  /-- R174: Computes the CRC tag of S and BS into s[sd]. -/
  | seedtag (d a b : BitVec 6)
  /-- R244: Validates a chord parameter block and sets the chord, adopting a retained set where it qualifies. -/
  | chset (d a b : BitVec 6)
  /-- R245: Writes back and releases a chord. -/
  | chrel (d a : BitVec 6)
  /-- R246: Sets a chord's persistence key and returns the old key. -/
  | chkey (d a b : BitVec 6)
  /-- R247: Starts fills of a chord's lines in a range and returns their count. -/
  | chfill (d a b : BitVec 6)
  /-- R248: Sets a chord's rotation tag and returns the old tag. -/
  | chtag (d a b : BitVec 6)
  /-- R361: Issues a byte copy command to a copy engine. -/
  | cpy (d a b : BitVec 6)
  /-- R348: Issues a tiled transposing copy command. -/
  | cpyt (d a b : BitVec 6)
  /-- R349: Issues a reducing copy that adds the source elementwise into the destination. -/
  | cpyr (d a b : BitVec 6)
  /-- R351: Issues a chained copy carrying a running CRC-32C. -/
  | cpyc (d a b : BitVec 6)
  /-- R362: Waits for completion slots, reports done and failed slots, and acquires at sys scope. -/
  | ewait (d a : BitVec 6)
  /-- R362: Reports done and failed completion slots without waiting. -/
  | epoll (d a : BitVec 6)
  /-- R338: Performs a release, an acquire or both at a scope, publishing stash writes and invalidating the L1. -/
  | phase (h : BitVec 2) (s : BitVec 3)
  /-- R378: Arrives at a block barrier and waits for the phase to complete. -/
  | barb (d a : BitVec 6)
  /-- R378: Arrives at a block barrier and returns the phase count without waiting. -/
  | bara (d a : BitVec 6)
  /-- R378: Waits for a block barrier phase to complete. -/
  | barw (d a b : BitVec 6)
  /-- R380: Arrives at a grid barrier object at its home. -/
  | garrive (d a : BitVec 6)
  /-- R380: Waits until a grid barrier's PHASE differs from the awaited value. -/
  | gwait (d a b : BitVec 6)
  /-- R98: Raises REGCNT, waiting for pool budget and zeroing the granted registers. -/
  | ctxgrow (d a : BitVec 6)
  /-- R98: Lowers REGCNT, discarding the given-up registers and crediting RUSED. -/
  | ctxshrink (d a : BitVec 6)
  /-- R99: Moves the wave to a landing slot on the home die of an address, optionally copying its frame. -/
  | migrate (d a b : BitVec 6)
  /-- R100: Gives up the activation entry through a voluntary switch. -/
  | yield
  /-- R101: Sets SPINF, marking a waiting loop for demotion. -/
  | spin
  /-- R381: A block leader starts a child grid from a launch record. -/
  | launch (d a : BitVec 6)
  /-- R382: Waits for a launch or all children, acquires and returns the status. -/
  | ljoin (d a : BitVec 6)
  /-- R134: Pushes consecutive items into the core's item queue and optionally seals it. -/
  | itempush (d a b : BitVec 6)
  /-- R53: No operation. -/
  | nop
  /-- R428: Raises a named code as a scalar trap with a detail. -/
  | trap (a c : BitVec 6)
  /-- R429: Returns from the scalar handler, retrying or skipping, and takes held traps or latched halts. -/
  | tret (k : BitVec 1)
  /-- R430: Halts the block with kind 2. -/
  | halt (a : BitVec 6)
  /-- R431: Breakpoint: raises BRK or halts with kind 3 under BRKH. -/
  | brk (t : BitVec 6)
  /-- R432: Enters a stage, returning the old count and reading the stage budget. -/
  | stage (d n : BitVec 6)
  /-- R433: Reads a special register into s[sd]. -/
  | srdsr (d h l : BitVec 6)
  /-- R187: Reads SFLAGS after every earlier lane block has completed. -/
  | srdsrSflags (d : BitVec 6)
  /-- R398: Reads PTC, never smaller than a value the wave read before. -/
  | srdsrPtc (d : BitVec 6)
  /-- R433: Writes a special register that has no row of its own, field by field. -/
  | swrsr (d h l : BitVec 6)
  /-- R187: Replaces SFLAGS after earlier lane blocks complete. -/
  | swrsrSflags (d : BitVec 6)
  /-- R418: Writes DBGCTL after earlier lane blocks complete, controlling debug, step, undo and trace. -/
  | swrsrDbgctl (d : BitVec 6)
  /-- R416: Arms or disarms the deadline timer at once. -/
  | swrsrDeadline (d : BitVec 6)
  /-- R54: Writes TRAMPBASE, affecting every later trampoline entry including queued blocks. -/
  | swrsrTrampbase (d : BitVec 6)
  /-- R454: Parks the wave and calls a firmware service. -/
  | fwcall (d a b : BitVec 6)
  /-- R135: Enters a scalar trampoline, storing the link in the tool area. -/
  | tramps (i : BitVec 20)
  /-- R135: Returns from a scalar trampoline past the patched instruction. -/
  | trampsRet
  /-- R49: An extension opcode without hardware support parks the wave and sends an EMU record. -/
  | extensionInstruction (kind : ExtensionKind)
  /-- R195: Lane 32-bit add. -/
  | vadd (a : LaneArgs)
  /-- R195: Lane subtract. -/
  | vsub (a : LaneArgs)
  /-- R195: Low 32 bits of the product. -/
  | vmul (a : LaneArgs)
  /-- R195: High 32 bits of the product. -/
  | vmulh (a : LaneArgs)
  /-- R195: Low 32 bits of a×b+c. -/
  | vmad (a : LaneArgs)
  /-- R195: Lane AND. -/
  | vand (a : LaneArgs)
  /-- R195: Lane OR. -/
  | vor (a : LaneArgs)
  /-- R195: Lane XOR. -/
  | vxor (a : LaneArgs)
  /-- R195: Lane AND NOT. -/
  | vandn (a : LaneArgs)
  /-- R196: Lane left shift. -/
  | vshl (a : LaneArgs)
  /-- R196: Lane right shift by type. -/
  | vshr (a : LaneArgs)
  /-- R195: Lane minimum. -/
  | vmin (a : LaneArgs)
  /-- R195: Lane maximum. -/
  | vmax (a : LaneArgs)
  /-- R198: Absolute value, optionally saturating. -/
  | vabs (a : LaneArgs)
  /-- R198: Negation, optionally saturating. -/
  | vneg (a : LaneArgs)
  /-- R195: Leading zeros of the lane word. -/
  | vclz (a : LaneArgs)
  /-- R195: Set bits of the lane word. -/
  | vpopc (a : LaneArgs)
  /-- R199: Integer compare to all-ones or zero. -/
  | vcmp (a : LaneArgs)
  /-- R199: Selects a or b by the raw bits of c. -/
  | vsel (a : LaneArgs)
  /-- R197: Rounding right shift. -/
  | vshrr (a : LaneArgs)
  /-- R198: Saturating add. -/
  | vadds (a : LaneArgs)
  /-- R198: Saturating subtract. -/
  | vsubs (a : LaneArgs)
  /-- R198: Saturating left shift. -/
  | vshls (a : LaneArgs)
  /-- R200: Packed 16-bit add. -/
  | vpadd (a : LaneArgs)
  /-- R200: Packed 16-bit subtract. -/
  | vpsub (a : LaneArgs)
  /-- R200: Packed 16-bit multiply. -/
  | vpmul (a : LaneArgs)
  /-- R201: Pairwise 16-bit dot product into a 32-bit accumulator. -/
  | vpmad2 (a : LaneArgs)
  /-- R200: Packed saturating add. -/
  | vpadds (a : LaneArgs)
  /-- R200: Packed saturating subtract. -/
  | vpsubs (a : LaneArgs)
  /-- R200: Packed minimum. -/
  | vpmin (a : LaneArgs)
  /-- R200: Packed maximum. -/
  | vpmax (a : LaneArgs)
  /-- R200: Packed rounding right shift. -/
  | vpshrr (a : LaneArgs)
  /-- R200: Packed compare. -/
  | vpcmp (a : LaneArgs)
  /-- R203: Floating-point add. -/
  | vfadd (a : LaneArgs)
  /-- R203: Floating-point subtract. -/
  | vfsub (a : LaneArgs)
  /-- R203: Floating-point multiply. -/
  | vfmul (a : LaneArgs)
  /-- R203: Fused multiply-add. -/
  | vfma (a : LaneArgs)
  /-- R204: Floating-point minimum. -/
  | vfmin (a : LaneArgs)
  /-- R204: Floating-point maximum. -/
  | vfmax (a : LaneArgs)
  /-- R203: Clears the sign. -/
  | vfabs (a : LaneArgs)
  /-- R203: Inverts the sign. -/
  | vfneg (a : LaneArgs)
  /-- R205: Floating-point compare. -/
  | vfcmp (a : LaneArgs)
  /-- R203: Floating-point divide. -/
  | vfdiv (a : LaneArgs)
  /-- R206: Reciprocal. -/
  | vrcp (a : LaneArgs)
  /-- R206: Reciprocal square root. -/
  | vrsq (a : LaneArgs)
  /-- R206: Square root. -/
  | vsqrt (a : LaneArgs)
  /-- R206: Power of two. -/
  | vexp2 (a : LaneArgs)
  /-- R206: Base-2 logarithm. -/
  | vlog2 (a : LaneArgs)
  /-- R206: sin(πx). -/
  | vsin (a : LaneArgs)
  /-- R206: cos(πx). -/
  | vcos (a : LaneArgs)
  /-- R206: Hyperbolic tangent. -/
  | vtanh (a : LaneArgs)
  /-- R175: Converts elements within the same container width. -/
  | vcvt (a : LaneArgs)
  /-- R176: Narrowing conversion, optionally through rotation. -/
  | vcvtn (a : LaneArgs)
  /-- R177: Widening conversion, inverting rotation for tagged sources. -/
  | vcvtw (a : LaneArgs)
  /-- R178: Quantises a run into MX blocks or asymmetric groups. -/
  | vqnt (a : LaneArgs)
  /-- R179: Dequantises MX or asymmetric data into a wide run. -/
  | vdqnt (a : LaneArgs)
  /-- R180: Rotates wide data forward with a seed. -/
  | vrot (a : LaneArgs)
  /-- R180: Inverts the rotation of wide data. -/
  | virot (a : LaneArgs)
  /-- R181: Scales elements or MX block scales by a power of two. -/
  | vscl (a : LaneArgs)
  /-- R182: Writes a seed's tag into a sidecar. -/
  | vtagSet (a : LaneArgs)
  /-- R182: Clears a sidecar's tag. -/
  | vtagClr (a : LaneArgs)
  /-- R182: Reads a sidecar's tag into the scalar window. -/
  | vtagGet (a : LaneArgs)
  /-- R182: Writes the fragment's format register copy. -/
  | vtagFmt (a : LaneArgs)
  /-- R183: Adds microscaled registers and requantises. -/
  | vmxadd (a : LaneArgs)
  /-- R184: Moves block scales from a sidecar into lanes. -/
  | vmxsclGet (a : LaneArgs)
  /-- R184: Moves lane words into a sidecar's block scales. -/
  | vmxsclPut (a : LaneArgs)
  /-- R210: Slides elements across lanes with a fill. -/
  | vslide (a : LaneArgs)
  /-- R211: Permutes elements by indices. -/
  | vshuf (a : LaneArgs)
  /-- R212: Broadcasts one element. -/
  | vbcast (a : LaneArgs)
  /-- R213: Reduces across lanes in a fixed tree. -/
  | vred (a : LaneArgs)
  /-- R214: Prefix across lanes in a fixed order. -/
  | vscan (a : LaneArgs)
  /-- R215: Gathers a predicate word of active non-zero lanes. -/
  | vballot (a : LaneArgs)
  /-- R143: Mask AND. -/
  | mand (a : LaneArgs)
  /-- R143: Mask OR. -/
  | mor (a : LaneArgs)
  /-- R143: Mask XOR. -/
  | mxor (a : LaneArgs)
  /-- R143: Mask AND NOT. -/
  | mandn (a : LaneArgs)
  /-- R143: Mask NOT. -/
  | mnot (a : LaneArgs)
  /-- R143: Mask move. -/
  | mmov (a : LaneArgs)
  /-- R143: Counts set mask bits into the scalar window. -/
  | mcnt (a : LaneArgs)
  /-- R143: Sets mask bits from non-zero lane words. -/
  | mset (a : LaneArgs)
  /-- R308: Loads contiguous lane words. -/
  | vld (a : LaneArgs)
  /-- R308: Stores contiguous lane words. -/
  | vst (a : LaneArgs)
  /-- R309: Gathers from per-lane addresses. -/
  | vgth (a : LaneArgs)
  /-- R309: Scatters to per-lane addresses. -/
  | vsct (a : LaneArgs)
  /-- R250: Loads from per-lane stash words. -/
  | vlds (a : LaneArgs)
  /-- R250: Stores to per-lane stash words. -/
  | vsts (a : LaneArgs)
  /-- R251: Stores one 128-byte chord row, with its scales and tag check. -/
  | vstsRow (a : LaneArgs)
  /-- R251: Loads one 128-byte chord row with its format, tag and scales. -/
  | vldc (a : LaneArgs)
  /-- R252: Prefetches stash fills or L1 lines. -/
  | vpft (a : LaneArgs)
  /-- R310: Loads packed blocks, unpacking them into containers. -/
  | vldb (a : LaneArgs)
  /-- R310: Stores a register as packed blocks. -/
  | vstb (a : LaneArgs)
  /-- R339: Performs lane atomics without returns. -/
  | vatom (a : LaneArgs)
  /-- R339: Performs lane atomics returning the old values. -/
  | vatomr (a : LaneArgs)
  /-- R278: Queues a matrix multiply-accumulate on the pair. -/
  | mma (a : LaneArgs)
  /-- R278: Queues a matrix multiply into zeroed accumulators. -/
  | mmaz (a : LaneArgs)
  /-- R279: Copies a tile pair into a register run. -/
  | maccOut (a : LaneArgs)
  /-- R279: Copies a register run into a tile pair. -/
  | maccIn (a : LaneArgs)
  /-- R279: Reads out a tile pair, then zeroes it. -/
  | maccz (a : LaneArgs)
  /-- R280: Closes a batch numbered by PTC. -/
  | mfence (a : LaneArgs)
  /-- R281: Waits until batches are no longer outstanding. -/
  | mwait (a : LaneArgs)
  /-- R282: Queues a stamp record write for a tile identifier. -/
  | mstamp (a : LaneArgs)
  /-- R137: Lane branch, splitting on divergence. -/
  | vbr (a : LaneArgs)
  /-- R137: Lane branch on a condition word. -/
  | vbrc (a : LaneArgs)
  /-- R138: Lane call setting CLINK. -/
  | vcall (a : LaneArgs)
  /-- R139: Lane return through CLINK or a link word. -/
  | vret (a : LaneArgs)
  /-- R121: Regang point where parts arrive at their parent. -/
  | regang (a : LaneArgs)
  /-- R122: Ends the issuing fragment. -/
  | lend (a : LaneArgs)
  /-- R140: Refills requesting lanes from the item queue, optionally waiting. -/
  | itemnext (a : LaneArgs)
  /-- R435: Raises a lane trap on the active lanes. -/
  | vtrap (a : LaneArgs)
  /-- R436: Lane breakpoint. -/
  | vbrk (a : LaneArgs)
  /-- R102: Copies a lane value, optionally with its sidecar or into an operand slot. -/
  | vmov (a : LaneArgs)
  /-- R103: Writes a lane identity plus an addend. -/
  | vlid (a : LaneArgs)
  /-- R437: Reads a special register into lanes. -/
  | vrdsr (a : LaneArgs)
  /-- R53: Lane no operation. -/
  | vnop (a : LaneArgs)
  /-- R141: Enters a lane trampoline, setting TLINK. -/
  | vtramp (a : LaneArgs)
  /-- R142: Returns from a lane handler or trampoline, retrying or skipping. -/
  | vtret (a : LaneArgs)
  /-- R52: Raises a TOOL lane trap on the active lanes. -/
  | vtool (n : BitVec 3) (a : LaneArgs)
  /-- R47: Issuing a word or lane instruction that the base maps mark permanently illegal, unassigned or reserved traps ILLOP. -/
  | illegalInstruction (stream : IllegalKind)
  /-- R443: After power-on or a full reset, firmware runs PHY calibration, link and HBM training, memory initialisation, die self-test and time alignment, then sets READY. -/
  | bringUp
  /-- R440: A command slot with an unlisted OPC or a non-zero reserved byte completes with status 1 and has no effect. -/
  | invalidCommand
  /-- R441: Firmware returns its revision, form, DIEMAP, feature registers, down links, corrected-sector counts, package number and clusters in use. -/
  | query
  /-- R445: Ends every live launch with status 7 after its outstanding work lands, then clears queues, ASIDs, keys, pools, trace rings and retained sets. -/
  | resetWarm
  /-- R445: Answers at once, clears READY within 1 ms, discards patches and reruns bring-up from step 1. -/
  | resetFull
  /-- R287: Registers the top-level page table of an ASID, or returns status 2 if the ASID has a live launch. -/
  | asidset
  /-- R441: Unregisters an ASID's page table, or returns status 2 if the ASID has a live launch. -/
  | asidclr
  /-- R291: Invalidates the ingress translation caches for a virtual range of an ASID, so that later accesses use the new tables. -/
  | inval
  /-- R442: Sets the cluster mask on which later launches of an ASID may place blocks. -/
  | partition
  /-- R301: Loads the XTS key and the tag key into key slot 1–63, or returns status 2 if a live leaf names the slot. -/
  | keyload
  /-- R301: Unloads a key slot, after which walks that name it are walk errors. -/
  | keyclr
  /-- R296: Moves a page to a new frame on the same home die: sets the move lock, recalls owners, copies and re-encrypts, writes the leaf, invalidates, then clears the lock and applies the held writes. -/
  | pgmove
  /-- R365: Configures launch queue q with a ring of 2^k slots and resets its head slot and expected sequence value. -/
  | queuecfg
  /-- R367: Ends a launch with status 7; its waves stop at once. -/
  | kill
  /-- R441: Supplies the per-base-die frame lists from which firmware maps a pool's pages. -/
  | poolres
  /-- R441: Releases a pool's reservation, or returns status 2 while a launch names the pool. -/
  | poolrel
  /-- R396: Sets the package number, the time reference and the time port for joining a load-store domain. -/
  | domain
  /-- R392: Writes an export-table entry, refusing reserved bits or an LBASE beyond local HBM with status 1. -/
  | exportEntry
  /-- R422: Registers or unregisters an ASID's trace ring. -/
  | trace
  /-- R412: Attaches a debugger to a launch, so that its halted blocks stay halted. -/
  | dbgattach
  /-- R410: Forces a halt of kind 4 on a block. -/
  | dbghalt
  /-- R414: Resumes a halted block from its frames, with the origin retrying its instruction. -/
  | dbgresume
  /-- R441: Detaches a debugger from a launch. -/
  | dbgdetach
  /-- R449: Writes a 4,096-byte attestation report signed with Ed25519 and ML-DSA-65 over the nonce and device state. -/
  | attest
  /-- R447: Verifies both signatures and the SVN of a patch image, then installs it and updates FEAT0, FEAT2 and FWREV. -/
  | patch
  /-- R452: Sets the sustained power cap between 600 W and 1,800 W, effective within 1 ms. -/
  | powercap
  /-- R441: Returns PSTATE, the cap, the 1 ms rail-group averages and the clock frequency. -/
  | powerstat
  /-- R365: When the head slot's SEQ equals the expected value, the line monitor reads and validates the record, writes ACK and advances the head. -/
  | launchRecordParse
  /-- R367: The dispatcher admits an eligible launch by priority, checks its record and either fails it with a status or starts placement. -/
  | launchAdmission
  /-- R370: A block is placed on the permitted die, cluster and place with the most free places once a place is free. -/
  | blockPlacement
  /-- R86: Once a slot and budget are free, the CCP allots a frame slot, charges RUSED, zero-fills the frame and writes the initial state. -/
  | waveCreation
  /-- R371: At block start the chords of CHORDTAB are set on the ORIGIN core, ending the launch with status 1 on failure. -/
  | blockStart
  /-- R456: A wave whose scalar stream has ended retires once LQCNT is zero and its children have completed, crediting RUSED and freeing its slot. -/
  | waveRetirement
  /-- R368: When all of a grid's waves, engine work and children are done, the device releases at sys scope and writes the completion record. -/
  | gridCompletion
  /-- R374: After 1 ms in which a launch is stalled at barriers, BARFAULT is delivered to every wave waiting at a barrier. -/
  | launchStall
  /-- R84: The activation controller gives a ready wave an entry, resetting TP and TD where required and waiting for PTC on a new die. -/
  | waveActivation
  /-- R84: A wave that has held its entry for 65,536 cycles while another ready wave waits is marked for a voluntary switch. -/
  | entryHoldExpiry
  /-- R84: At the first boundary outside a latch chain, the wave leaves its entry and its LATV bits clear. -/
  | voluntarySwitch
  /-- R90: The CCP preloads the shadow bank with the incoming launch's entries and saves and restores items and chords. -/
  | shadowBankPreload
  /-- R90: A 96-cycle switch stops issue, drains pipelines, freezes departing state, marks lines departing and activates the preloaded bank. -/
  | shadowBankSwitch
  /-- R373: When a launch's slice of 65,536·(PRIO+1) cycles ends, the CCP rotates the pair to the next launch. -/
  | sliceExpiry
  /-- R91: The spill engine writes back the departing launch's scalar state, lines, stash lines and accumulator tiles in order, making departing waves swapped. -/
  | spillWriteback
  /-- R81: A main-file miss fetches the 128-byte line from the frame and the stalled fragment continues. -/
  | registerCacheFill
  /-- R79: An operand-file miss fetches the slot line from the frame. -/
  | operandFileFill
  /-- R117: A reference to an uncached split-table entry fetches it from the frame. -/
  | splitEntryFill
  /-- R88: A return lands in the register cache or the frame by its generation and the wave's state, or is discarded and counted in DROPCNT. -/
  | returnArrival
  /-- R94: When CTXGROW waiters cannot proceed, firmware either raises RBUD towards RRES or fails the youngest request. -/
  | pooldeadlock
  /-- R96: An in-transit wave takes the first landing slot that frees on a core of its target die, oldest first. -/
  | landingSlotAcquire
  /-- R96: A wave that has held a landing slot for 65,536 cycles while another wave targets the die releases it and goes in transit. -/
  | landingSlotExpiry
  /-- R106: The head lane block starts: LBASE is set, the split table is freed and entry 0 becomes the root fragment with mask m0. -/
  | laneBlockStart
  /-- R120: When every live fragment waits for split entries, the wave takes ILLREG detail 2 as a wave-stop trap. -/
  | splitTableExhaustion
  /-- R112: A candidate that has been ready for 64 cycles without issuing becomes boosted. -/
  | issueBoost
  /-- R101: A spinning wave leaves its wait when a store is published to a line it loaded or 4,096 cycles pass. -/
  | spinWaitEnd
  /-- R231: A fill fetches the record fields of a chord line into its invalid bytes and sets them VALID. -/
  | stashFill
  /-- R235: The home registers a 512-byte block's owner, first recalling any previous owner. -/
  | directoryRegistration
  /-- R236: A read of a registered block is served from the owner's PUB bytes and memory for the rest. -/
  | forwardedRead
  /-- R237: The owner writes the block's PUB bytes to memory, clears PUB and the block is deregistered. -/
  | recall
  /-- R239: When a block's last wave on a core retires, its chords are released or written back and retained by PKEY. -/
  | blockEnd
  /-- R278: At the head of the pair queue an operation collects or reuses A and streams B columns, updating tiles step by step. -/
  | matrixOpExecute
  /-- R268: An operation retires when its last column lands, updating its stamp entry and freeing its queue entry. -/
  | matrixOpRetire
  /-- R282: MSTAMP at the queue head writes the 64-byte stamp record and frees the stamp entry. -/
  | stampRecordWrite
  /-- R290: The home ingress translates a request, walking the three-level table on a miss. -/
  | pageWalk
  /-- R294: Firmware maps the page and resumes the wave, or declares the fault fatal and delivers MEMFAULT. -/
  | faultRecordService
  /-- R49: The CCP's emulation handler performs an extension instruction on the wave's frame and resumes it, or delivers ILLOP. -/
  | emuHandler
  /-- R297: A read request is served at its home through the L2, the memory-side cache and HBM. -/
  | homeRead
  /-- R321: A store is applied at its home after any recall or move lock and acknowledged. -/
  | homeWrite
  /-- R329: An atomic lane is performed indivisibly at its place: a stash bank, the home atomic unit or a remote home. -/
  | atomicPerform
  /-- R328: A host CXL.mem read or write goes to the home, with forwarding and recalls. -/
  | hostMemoryAccess
  /-- R392: A remote request entering a package is translated through the export table and served locally, or returns an error. -/
  | remoteAccessTarget
  /-- R389: A link adapter detecting a CRC error replays from its retry buffer and retrains if errors persist. -/
  | linkCrcError
  /-- R389: A retrain not succeeding within 500 µs takes the link down until reset, and firmware learns of it. -/
  | linkDown
  /-- R390: A request unanswered 1 ms after issue completes with LINKDOWN. -/
  | requestTimeout
  /-- R390: A reply arriving after its request timed out is discarded. -/
  | lateReplyDiscard
  /-- R396: Every 125 µs a two-way exchange measures offset and delay and the slave slews its PTC copy. -/
  | timeAlignmentExchange
  /-- R397: When a required exchange has failed for more than 1 ms, SKEWPKG or SKEWDOM returns to all ones. -/
  | skewBoundLoss
  /-- R342: An engine starts its next queued command once the previous command's writes are acknowledged, stalling on page faults. -/
  | engineCommandStart
  /-- R355: After all of a command's writes are acknowledged, the engine writes the whole completion slot and hands over the chain seed. -/
  | engineCompletion
  /-- R359: Apziesh takes a completion record out of its event queue, which joins the CCP. -/
  | eventRecordRead
  /-- R379: A GWAIT wave not recorded by a full barrier unit re-reads PHASE every 4,096 cycles. -/
  | gwaitPollExpiry
  /-- R413: A halt latched during a handler and not taken within 1,000,000 ticks is taken at once. -/
  | haltLatchTimeout
  /-- R416: When PTC reaches DEADLINE, TIMER is raised at the next scalar boundary and DEADLINE becomes 0. -/
  | deadlineExpiry
  /-- R417: When COUNT exceeds budget plus margin with FIRED clear, STAGEOVER is raised and FIRED set. -/
  | stageBudgetExpiry
  /-- R418: Every 2^(12+SAMP) WCLK cycles a SAMPLE trace record is written. -/
  | sampleTimerExpiry
  /-- R425: The first access to a 128 KiB granule under capture is held while the home copies the granule into the capture buffer. -/
  | captureFirstTouch
  /-- R454: The CCP runs the requested firmware service for a parked wave, writes the result and resumes it. -/
  | fwcallService
  /-- R450: Firmware lowers or raises the arithmetic clock in 68.75 MHz steps to hold the 1 ms average within the cap. -/
  | powerCapThrottle
  /-- R450: At 3,600 A, or after 20 µs above 3,222 A, matrix cadence halves and lane issue is limited to two per cycle. -/
  | coreRailPeakLimit
  /-- R453: A die above 100 °C puts the package in THERMAL at 550 MHz. -/
  | thermalThrottle
  /-- R453: A die above 110 °C ends every live launch with status 7 and clears READY. -/
  | thermalTrip
  /-- R28: When the supplies are removed, as for standby, no part of the device keeps state or answers requests. -/
  | supplyRemoval
  /-- R438: When PCIe link training ends, B0's 64 KiB BAR with FWSTAT and the command ring becomes available to the host. -/
  | hostLinkTraining
  /-- R452: A TJ9-M board controller signals its own power limit, which acts as a second cap, the lower of the two applying. -/
  | boardPowerLimit
  /-- R444: The loss of all of a base die's HBM clears READY, stops admission and ends live launches with status 7. -/
  | baseDieHbmLoss
  /-- R453: A die falling back below 100 °C lets the package leave the THERMAL power state. -/
  | thermalExit
  deriving DecidableEq, Repr

end Sys2Proof
end

