-- ==== Sys2Proof/WellFormed.lean ====
section
/-! DEFINITION. Which instructions are well formed: the encoding fates of 02_encoding.md R36 to R47 that make an
encoding ILLOP, stated on the decoded fields.  A lane instruction is checked against the fields its entry gives
(R136, R143, R169, R192, R249, R277, R306, R339, R434 and the entries of 03_contexts.md and 06_lane_arith.md). -/

namespace Sys2Proof

/-- The value of a small immediate: `SignExtend(bits 5:0, 6)` (R41). -/
def smallValue (v : BitVec 6) : Int := v.toInt

/-- R41's table: is the small immediate exact in the element format with this type code? -/
def smallExact (ty : BitVec 4) (v : BitVec 6) : Bool :=
  let n := smallValue v
  match ty.toNat with
  | 0x0 | 0x2 | 0x4 | 0x8 | 0x9 | 0xA => true
  | 0x1 | 0x3 | 0x5 => decide (0 ≤ n)
  | 0x6 => decide (-8 ≤ n ∧ n ≤ 7)
  | 0x7 => decide (0 ≤ n ∧ n ≤ 15)
  | 0xB => decide (-16 ≤ n ∧ n ≤ 16) || n % 2 == 0
  | 0xC => decide (-8 ≤ n ∧ n ≤ 8) || [10, 12, 14, 16, 20, 24, 28].contains n.natAbs || n == -32
  | 0xD => decide (-7 ≤ n ∧ n ≤ 7)
  | 0xE => decide (-8 ≤ n ∧ n ≤ 8) || [10, 12, 14, 16, 20, 24, 28].contains n.natAbs
  | _ => [0, 1, 2, 3, 4, 6].contains n.natAbs

/-- How an entry uses one source field of the lane format. -/
inductive SrcUse where
  /-- not used: zero (R45) -/
  | none
  /-- a lane source at any level; a small immediate is converted to the format of the type field (R41) -/
  | lane
  /-- a lane source at any level, read as 32-bit words: any small immediate -/
  | word
  /-- a lane source at any level whose small immediate is an unsigned index (R211) -/
  | index
  /-- the accumulator of VPMAD2: i32 for type i16, n32 for n16 (R201) -/
  | accum
  /-- a main-file register, level 0b00 -/
  | reg
  /-- a mask register in bits 3:0 of a level-0b00 field (R143) -/
  | mask
  /-- level 0b11 only: small immediate, k constant or imm32 (R210, R212) -/
  | special
  /-- level 0b11 only: small immediate or k constant (R181) -/
  | smallOrK
  /-- a k constant -/
  | konst
  /-- a base: zero, or a k constant (R306) -/
  | base
  /-- an asymmetric parameter register: level 0b00, 0b01 or 0b10 (R178) -/
  | param
  deriving DecidableEq, Repr

/-- Is the source field one that the use admits?  `free`: imm32 may serve as an operand (R41). -/
def SrcUse.ok (u : SrcUse) (free : Bool) (ty : BitVec 4) : Src → Bool
  | .reserved _ => false
  | .reg n =>
    match u with
    | .none | .base => n == 0
    | .mask => n.toNat < 16
    | .special | .smallOrK | .konst => false
    | .lane | .word | .index | .accum | .reg | .param => true
  | .slot _ | .latch _ =>
    match u with
    | .lane | .word | .index | .accum | .param => true
    | .none | .base | .mask | .special | .smallOrK | .konst | .reg => false
  | .konst _ =>
    match u with
    | .lane | .word | .index | .accum | .special | .smallOrK | .konst | .base => true
    | .none | .mask | .reg | .param => false
  | .imm =>
    match u with
    | .lane | .word | .index | .accum | .special => free
    | .none | .base | .mask | .smallOrK | .konst | .reg | .param => false
  | .small v =>
    match u with
    | .lane => smallExact ty v
    | .index => smallExact ty v && decide (0 ≤ smallValue v)
    | .accum => if ty = 3 then decide (0 ≤ smallValue v) else true
    | .word | .special | .smallOrK => true
    | .none | .base | .mask | .konst | .reg | .param => false

/-- What an entry admits in each field of the lane format. -/
structure LaneForm where
  /-- a predicate other than 0 is accepted (R42) -/
  pred : Bool := true
  /-- vd lies below this bound; 1 means zero -/
  vdBound : Nat := 256
  /-- W = 1 is accepted (R43) -/
  w : Bool := false
  /-- H = 1 is accepted (R43) -/
  h : Bool := false
  sa : SrcUse := .none
  sb : SrcUse := .none
  sc : SrcUse := .none
  /-- the type codes accepted, one bit each (R44) -/
  types : BitVec 16 := 1
  /-- the values of the modifiers accepted, one bit each (R45) -/
  mods : BitVec 64 := 1
  /-- imm32 is free for an operand (R41) -/
  free : Bool := false
  /-- the bits of imm32 that may be set when imm32 is not an operand -/
  imm : BitVec 32 := 0
  deriving DecidableEq, Repr

/-- Does a source name special value 0x08? -/
def LaneArgs.namesImm (a : LaneArgs) : Bool := a.sa == .imm || a.sb == .imm || a.sc == .imm

/-- Are the fields of a lane instruction the ones its form admits (R41 to R45)? -/
def LaneForm.ok (f : LaneForm) (a : LaneArgs) : Bool :=
  (f.pred || a.mask == 0) && decide (a.vd.toNat < f.vdBound) && (!a.w || (f.w && a.vd == 0)) && (!a.h || f.h) &&
    f.sa.ok f.free a.ty a.sa && f.sb.ok f.free a.ty a.sb && f.sc.ok f.free a.ty a.sc &&
    f.types.getLsbD a.ty.toNat && f.mods.getLsbD a.mods.toNat &&
    ((f.free && a.namesImm) || a.imm &&& ~~~f.imm == 0)

/-- The modifier values whose bits lie within a mask, as a set of 64 bits. -/
def modsWithin (m : BitVec 6) : BitVec 64 :=
  (List.range 64).foldl (fun acc k => if BitVec.ofNat 6 k &&& ~~~m == 0 then acc ||| BitVec.twoPow 64 k else acc) 0

/-- The modifier values in a list, as a set of 64 bits. -/
def modsIn (l : List Nat) : BitVec 64 := l.foldl (fun acc k => acc ||| BitVec.twoPow 64 k) 0

/-- The type codes in a list, as a set of 16 bits. -/
def typesIn (l : List Nat) : BitVec 16 := l.foldl (fun acc k => acc ||| BitVec.twoPow 16 k) 0

/-- R195's types. -/
def intTypes : BitVec 16 := 0x0003
/-- R200's types. -/
def packedTypes : BitVec 16 := 0x000C
/-- R202's types. -/
def floatTypes : BitVec 16 := 0x0700
/-- Every type code. -/
def allTypes : BitVec 16 := 0xFFFF

/-- A one-source instruction of 06_lane_arith.md (R192). -/
def unaryForm (types : BitVec 16) (mods : BitVec 64) : LaneForm :=
  { w := true, sa := .lane, types := types, mods := mods, free := true }
/-- A two-source instruction of 06_lane_arith.md (R192). -/
def binaryForm (types : BitVec 16) (mods : BitVec 64) : LaneForm :=
  { w := true, sa := .lane, sb := .lane, types := types, mods := mods, free := true }
/-- A three-source instruction of 06_lane_arith.md (R192). -/
def ternaryForm (types : BitVec 16) (mods : BitVec 64) : LaneForm :=
  { w := true, sa := .lane, sb := .lane, sc := .lane, types := types, mods := mods, free := true }

/-! ### Extra checks of single entries -/

/-- The container width of a format code, in bits (R144); 0 for a code that is no element container. -/
def containerBits (code : Nat) : Nat :=
  match code with
  | 0x00 | 0x01 | 0x08 => 32
  | 0x02 | 0x03 | 0x09 | 0x0A => 16
  | 0x04 | 0x05 | 0x0B | 0x0C | 0x0D | 0x0E | 0x10 | 0x11 | 0x12 | 0x13 | 0x14 | 0x15 | 0x18 => 8
  | 0x06 | 0x07 | 0x0F | 0x16 | 0x17 => 4
  | _ => 0

/-- Is the code a floating-point element format of R146? -/
def isFloatCode (code : Nat) : Bool := decide (8 ≤ code ∧ code ≤ 15)
/-- Is the code a microscaled format (R156)? -/
def isMxCode (code : Nat) : Bool := decide (0x11 ≤ code ∧ code ≤ 0x16)
/-- Is the code an asymmetric format (R158)? -/
def isQiCode (code : Nat) : Bool := code == 0x17 || code == 0x18

/-- CODE of R169. -/
def LaneArgs.code (a : LaneArgs) : Nat := (a.imm.extractLsb' 0 5).toNat
/-- SEED of R169. -/
def LaneArgs.seed (a : LaneArgs) : Nat := (a.imm.extractLsb' 8 3).toNat
/-- SEEDSEL of R169. -/
def LaneArgs.seedSel (a : LaneArgs) : Bool := a.imm.getLsbD 11
/-- SEED and SEEDSEL are zero: no seed is named (R169). -/
def LaneArgs.noSeed (a : LaneArgs) : Bool := a.imm.extractLsb' 8 4 == 0
/-- SEED holds zero unless SEEDSEL has the instruction use it (R169, R45). -/
def LaneArgs.seedUsed (a : LaneArgs) : Bool := a.seedSel || a.seed == 0
/-- RND of R169. -/
def LaneArgs.rnd (a : LaneArgs) : Nat := (a.mods.extractLsb' 2 3).toNat
/-- The RND modifier of the arithmetic instructions (R202). -/
def LaneArgs.rnd3 (a : LaneArgs) : Nat := (a.mods.extractLsb' 0 3).toNat

/-- The conditions of R175 to R177 on type, CODE, R, RND and the seed. -/
def convertOk (which : Nat) (a : LaneArgs) : Bool :=
  let src := containerBits a.ty.toNat
  let tgt := containerBits a.code
  let r := a.mods.getLsbD 0
  decide (a.code < 16) && decide (a.rnd < 6) && (!r || (isFloatCode a.ty.toNat && isFloatCode a.code)) &&
    (match which with
     | 0 => src == tgt && !r && a.noSeed
     | 1 => decide (tgt < src) && (r || a.noSeed)
     | _ => decide (src < tgt) && decide (a.rnd < 5))

/-- The conditions of R178 on CODE, R and the seed. -/
def quantOk (a : LaneArgs) : Bool :=
  let r := a.mods.getLsbD 0
  (isMxCode a.code || isQiCode a.code) && decide (a.rnd < 6) && (!r || isMxCode a.code) && (r || a.noSeed) &&
    !(isQiCode a.code && a.w)

/-- The conditions of R179. -/
def dequantOk (a : LaneArgs) : Bool :=
  let r := a.mods.getLsbD 0
  (isMxCode a.code || isQiCode a.code) && decide (a.rnd < 5) && (!r || isMxCode a.code) && (r || a.noSeed) &&
    (if isMxCode a.code then a.sb == .reg 0 else true)

/-- The conditions of R181. -/
def scaleOk (a : LaneArgs) : Bool :=
  decide (a.rnd < 5) &&
    (if a.code = 0 then floatTypes.getLsbD a.ty.toNat
     else isMxCode a.code && a.ty == 0 && (match a.sa with | .reg _ => true | _ => false))

/-- The conditions of R213 and R214 on OP and S. -/
def reduceOk (a : LaneArgs) : Bool :=
  let op := (a.mods.extractLsb' 0 3).toNat
  let s := a.mods.getLsbD 3
  (if a.ty = 8 then decide (op < 3) && !s else decide (op < 6) && (!s || op == 0))

/-- The conditions of R339. -/
def atomicOk (ret : Bool) (a : LaneArgs) : Bool :=
  let op := (a.mods.extractLsb' 0 4).toNat
  let d := a.mods.getLsbD 4
  let int := a.ty == 0 || a.ty == 1
  decide (op < 9) && (!d || int) && (int || !(op == 3 || op == 4 || op == 5)) && (ret || decide (op < 7)) &&
    !(op == 7 && a.w) && decide ((a.imm.extractLsb' 24 3).toNat < 6) &&
    (if op = 8 then a.sc == .reg 0 else if d then (match a.sc with | .reg _ => true | _ => false) else true)

/-- The conditions of R306 on the format and the scale base of VLDB and VSTB. -/
def packedBlockOk (a : LaneArgs) : Bool :=
  let f := (a.mods.extractLsb' 0 5).toNat
  decide (f ≤ 0x18) && f != 0x10 && (isMxCode f == (a.sb != .reg 0))

/-- The trap codes that TRAP and VTRAP may raise (R428, R435). -/
def trapCodeOk (c : Nat) : Bool := decide (1 ≤ c ∧ c ≤ 0x15) && c != 0x02 && c != 0x0E && c != 0x0F

/-- A type other than zero stands only beside a small immediate (R143, R215). -/
def typeBesideSmall (a : LaneArgs) : Bool := a.ty == 0 || (match a.sa with | .small _ => true | _ => false)

/-! ### The forms -/

/-- The lane instruction's opcode (R46, R51) and operand fields; none for every other constructor. -/
def Instr.laneParts : Instr → Option (BitVec 10 × LaneArgs)
  | .vadd a => some (0x001, a)
  | .vsub a => some (0x002, a)
  | .vmul a => some (0x003, a)
  | .vmulh a => some (0x004, a)
  | .vmad a => some (0x005, a)
  | .vand a => some (0x006, a)
  | .vor a => some (0x007, a)
  | .vxor a => some (0x008, a)
  | .vandn a => some (0x009, a)
  | .vshl a => some (0x00A, a)
  | .vshr a => some (0x00B, a)
  | .vmin a => some (0x00C, a)
  | .vmax a => some (0x00D, a)
  | .vabs a => some (0x00E, a)
  | .vneg a => some (0x00F, a)
  | .vclz a => some (0x010, a)
  | .vpopc a => some (0x011, a)
  | .vcmp a => some (0x012, a)
  | .vsel a => some (0x013, a)
  | .vshrr a => some (0x014, a)
  | .vadds a => some (0x015, a)
  | .vsubs a => some (0x016, a)
  | .vshls a => some (0x017, a)
  | .vpadd a => some (0x040, a)
  | .vpsub a => some (0x041, a)
  | .vpmul a => some (0x042, a)
  | .vpmad2 a => some (0x043, a)
  | .vpadds a => some (0x044, a)
  | .vpsubs a => some (0x045, a)
  | .vpmin a => some (0x046, a)
  | .vpmax a => some (0x047, a)
  | .vpshrr a => some (0x048, a)
  | .vpcmp a => some (0x049, a)
  | .vfadd a => some (0x060, a)
  | .vfsub a => some (0x061, a)
  | .vfmul a => some (0x062, a)
  | .vfma a => some (0x063, a)
  | .vfmin a => some (0x064, a)
  | .vfmax a => some (0x065, a)
  | .vfabs a => some (0x066, a)
  | .vfneg a => some (0x067, a)
  | .vfcmp a => some (0x068, a)
  | .vfdiv a => some (0x069, a)
  | .vrcp a => some (0x080, a)
  | .vrsq a => some (0x081, a)
  | .vsqrt a => some (0x082, a)
  | .vexp2 a => some (0x083, a)
  | .vlog2 a => some (0x084, a)
  | .vsin a => some (0x085, a)
  | .vcos a => some (0x086, a)
  | .vtanh a => some (0x087, a)
  | .vcvt a => some (0x0A0, a)
  | .vcvtn a => some (0x0A1, a)
  | .vcvtw a => some (0x0A2, a)
  | .vqnt a => some (0x0A3, a)
  | .vdqnt a => some (0x0A4, a)
  | .vrot a => some (0x0A5, a)
  | .virot a => some (0x0A6, a)
  | .vscl a => some (0x0A7, a)
  | .vtagSet a => some (0x0A8, a)
  | .vtagClr a => some (0x0A8, a)
  | .vtagGet a => some (0x0A8, a)
  | .vtagFmt a => some (0x0A8, a)
  | .vmxadd a => some (0x0A9, a)
  | .vmxsclGet a => some (0x0AA, a)
  | .vmxsclPut a => some (0x0AA, a)
  | .vslide a => some (0x0C0, a)
  | .vshuf a => some (0x0C1, a)
  | .vbcast a => some (0x0C2, a)
  | .vred a => some (0x0C3, a)
  | .vscan a => some (0x0C4, a)
  | .vballot a => some (0x0C5, a)
  | .mand a => some (0x0D0, a)
  | .mor a => some (0x0D1, a)
  | .mxor a => some (0x0D2, a)
  | .mandn a => some (0x0D3, a)
  | .mnot a => some (0x0D4, a)
  | .mmov a => some (0x0D5, a)
  | .mcnt a => some (0x0D6, a)
  | .mset a => some (0x0D7, a)
  | .vld a => some (0x100, a)
  | .vst a => some (0x101, a)
  | .vgth a => some (0x102, a)
  | .vsct a => some (0x103, a)
  | .vlds a => some (0x104, a)
  | .vsts a => some (0x105, a)
  | .vstsRow a => some (0x105, a)
  | .vldc a => some (0x106, a)
  | .vpft a => some (0x107, a)
  | .vldb a => some (0x108, a)
  | .vstb a => some (0x109, a)
  | .vatom a => some (0x10A, a)
  | .vatomr a => some (0x10B, a)
  | .mma a => some (0x140, a)
  | .mmaz a => some (0x141, a)
  | .maccOut a => some (0x142, a)
  | .maccIn a => some (0x142, a)
  | .maccz a => some (0x143, a)
  | .mfence a => some (0x144, a)
  | .mwait a => some (0x145, a)
  | .mstamp a => some (0x146, a)
  | .vbr a => some (0x180, a)
  | .vbrc a => some (0x181, a)
  | .vcall a => some (0x182, a)
  | .vret a => some (0x183, a)
  | .regang a => some (0x184, a)
  | .lend a => some (0x185, a)
  | .itemnext a => some (0x186, a)
  | .vtrap a => some (0x187, a)
  | .vbrk a => some (0x188, a)
  | .vmov a => some (0x1C0, a)
  | .vlid a => some (0x1C1, a)
  | .vrdsr a => some (0x1C2, a)
  | .vnop a => some (0x1C3, a)
  | .vtramp a => some (0x3F0, a)
  | .vtret a => some (0x3F1, a)
  | .vtool n a => some (0x3F2 + n.zeroExtend 10, a)
  | _ => none

/-- The form of each lane opcode, from the field table of its entry; none for an opcode that R46 does not assign. -/
def laneForm (op : Nat) : Option LaneForm :=
  match op with
  -- R195
  | 0x001 | 0x002 | 0x003 | 0x004 | 0x006 | 0x007 | 0x008 | 0x009 | 0x00A | 0x00B | 0x00C | 0x00D
  | 0x014 | 0x015 | 0x016 | 0x017 => some (binaryForm intTypes 1)
  | 0x005 | 0x013 => some (ternaryForm intTypes 1)
  | 0x00E | 0x00F => some (unaryForm 1 (modsIn [0, 1]))
  | 0x010 | 0x011 => some (unaryForm intTypes 1)
  | 0x012 => some (binaryForm intTypes (modsIn [0, 1, 2, 3, 4, 5]))
  -- R200, R201
  | 0x040 | 0x041 | 0x042 | 0x044 | 0x045 | 0x046 | 0x047 | 0x048 => some (binaryForm packedTypes 1)
  | 0x043 => some { ternaryForm packedTypes (modsIn [0, 1]) with sc := .accum }
  | 0x049 => some (binaryForm packedTypes (modsIn [0, 1, 2, 3, 4, 5]))
  -- R203
  | 0x060 | 0x061 | 0x062 | 0x069 => some (binaryForm floatTypes (modsIn [0, 1, 2, 3, 4]))
  | 0x063 => some (ternaryForm floatTypes (modsIn [0, 1, 2, 3, 4]))
  | 0x064 | 0x065 => some (binaryForm floatTypes 1)
  | 0x066 | 0x067 => some (unaryForm floatTypes 1)
  | 0x068 => some (binaryForm floatTypes (modsIn [0, 1, 2, 3, 4, 5, 6, 7]))
  -- R206
  | 0x080 | 0x081 | 0x083 | 0x084 | 0x085 | 0x086 | 0x087 => some (unaryForm floatTypes 1)
  | 0x082 => some (unaryForm floatTypes (modsIn [0, 1, 2, 3, 4]))
  -- R169, R175 to R184
  | 0x0A0 => some { w := true, sa := .lane, types := allTypes, mods := modsWithin 0x1F, imm := 0xF1F }
  | 0x0A1 => some { w := true, sa := .reg, types := allTypes, mods := modsWithin 0x1F, imm := 0xF1F }
  | 0x0A2 => some { sa := .reg, types := allTypes, mods := modsWithin 0x1F, imm := 0xF1F }
  | 0x0A3 => some { w := true, sa := .reg, types := floatTypes, mods := modsWithin 0x1D, imm := 0xF1F }
  | 0x0A4 => some { sa := .reg, sb := .param, types := floatTypes, mods := modsWithin 0x1D, imm := 0xF1F }
  | 0x0A5 | 0x0A6 => some { sa := .reg, types := floatTypes, mods := modsIn [0, 4, 8, 12, 16], imm := 0xF00 }
  | 0x0A7 => some { w := true, sa := .lane, sb := .smallOrK, types := 0x0701, mods := modsWithin 0x1E, imm := 0x01F }
  | 0x0A8 => some { mods := modsIn [0, 1, 2, 3] }
  | 0x0A9 => some { w := true, sa := .reg, sb := .reg, mods := modsIn [0, 4, 8, 12, 16, 20], imm := 0x01F }
  | 0x0AA => some { mods := modsIn [0, 1] }
  -- R210 to R215
  | 0x0C0 => some { w := true, sa := .lane, sb := .special, types := allTypes, mods := modsIn [0, 1, 2], free := true }
  | 0x0C1 => some { w := true, sa := .lane, sb := .index, types := 0x7F3F, free := true }
  | 0x0C2 => some { w := true, sa := .lane, sb := .special, types := allTypes, free := true }
  | 0x0C3 => some { w := true, sa := .lane, types := 0x0103, mods := modsWithin 0x0F, free := true }
  | 0x0C4 => some { w := true, sa := .lane, types := 0x0103, mods := modsWithin 0x1F, free := true }
  | 0x0C5 => some { w := true, sa := .lane, types := allTypes, free := true }
  -- R143
  | 0x0D0 | 0x0D1 | 0x0D2 | 0x0D3 => some { vdBound := 16, sa := .mask, sb := .mask }
  | 0x0D4 | 0x0D5 => some { vdBound := 16, sa := .mask }
  | 0x0D6 => some { vdBound := 8, sa := .mask }
  | 0x0D7 => some { vdBound := 16, sa := .lane, types := allTypes, free := true }
  -- R306, R249, R339
  | 0x100 => some { w := true, sa := .base, types := allTypes, mods := modsWithin 0x38, imm := 0xFFFFFFFF }
  | 0x101 => some { vdBound := 1, sa := .base, sb := .word, mods := modsWithin 0x18, imm := 0xFFFFFFFF }
  | 0x102 => some { w := true, sa := .word, sb := .base, types := allTypes,
                    mods := modsWithin 0x3F &&& ~~~(modsIn ((List.range 64).filter (fun k => 4 < k % 8))),
                    imm := 0xFFFFFFFF }
  | 0x103 => some { vdBound := 1, sa := .word, sb := .base, sc := .word,
                    mods := modsIn ((List.range 32).filter (fun k => k % 8 < 3)), imm := 0xFFFFFFFF }
  | 0x104 => some { w := true, sa := .word, types := allTypes, mods := modsIn ((List.range 16).filter (fun k => k % 8 < 5)),
                    imm := 0xFFFFFFFF }
  | 0x105 => some { vdBound := 1, sa := .word, sb := .word, mods := modsIn [0, 1, 2, 4, 5, 6, 8], imm := 0xFFFFFFFF }
  | 0x106 => some { w := true, sa := .base, imm := 0xFFFFFF9F }
  | 0x107 => some { vdBound := 1, sa := .word, imm := 0xFFFFFFFF }
  | 0x108 => some { sa := .base, sb := .base, mods := modsWithin 0x1F, imm := 0xFFFFFFFF }
  | 0x109 => some { vdBound := 1, sa := .base, sb := .base, sc := .reg, mods := modsWithin 0x1F, imm := 0xFFFFFFFF }
  | 0x10A => some { vdBound := 1, sa := .word, sb := .base, sc := .lane, types := 0x0703, mods := modsWithin 0x1F,
                    imm := 0x07FFFFFF }
  | 0x10B => some { w := true, sa := .word, sb := .base, sc := .lane, types := 0x0703, mods := modsWithin 0x1F,
                    imm := 0x07FFFFFF }
  -- R277
  | 0x140 | 0x141 => some { vdBound := 64, h := true, sa := .reg, sb := .konst, sc := .reg, mods := modsIn [0, 1],
                            imm := 0xFFFF }
  | 0x142 => some { vdBound := 64, sa := .reg, types := 0x0103, mods := modsIn [0, 1], imm := 0xFFFF }
  | 0x143 => some { vdBound := 64, sa := .reg, types := 0x0103, imm := 0xFFFF }
  | 0x144 => some { vdBound := 8 }
  | 0x145 => some { vdBound := 1, sa := .base, imm := 0xF }
  | 0x146 => some { vdBound := 1, sa := .konst, imm := 0xFFFF }
  -- R136, R434
  | 0x180 => some { vdBound := 1, imm := 0xFFFFFFFF }
  | 0x181 => some { vdBound := 1, sa := .lane, types := allTypes, mods := modsIn [0, 1], imm := 0xFFFFFFFF }
  | 0x182 => some { w := true, imm := 0xFFFFFFFF }
  | 0x183 => some { pred := false, vdBound := 1, sa := .word }
  | 0x184 | 0x185 => some { pred := false, vdBound := 1 }
  | 0x186 => some { mods := modsIn [0, 1], imm := 0xF }
  | 0x187 => some { vdBound := 1, imm := 0xFFFFFFFF }
  | 0x188 => some { vdBound := 1, imm := 0xFFFF }
  -- R102, R103, R437, R53
  | 0x1C0 => some { w := true, sa := .lane, types := allTypes, mods := modsIn [0, 1, 2], free := true }
  | 0x1C1 => some { w := true, mods := modsIn [0, 1, 2, 3, 4, 5], imm := 0xFFFFFFFF }
  | 0x1C2 => some { w := true, mods := modsIn [0, 1], imm := 0xFFF }
  | 0x1C3 => some { vdBound := 1 }
  -- R51, R52
  | 0x3F0 => some { pred := false, vdBound := 1, imm := 0xFFFFF }
  | 0x3F1 => some { pred := false, vdBound := 1, mods := modsIn [0, 1] }
  | 0x3F2 | 0x3F3 | 0x3F4 | 0x3F5 | 0x3F6 | 0x3F7 => some { vdBound := 1 }
  | _ => none

/-- The checks of an entry that its field table does not express. -/
def laneExtra (op : Nat) (a : LaneArgs) : Bool :=
  match op with
  | 0x0A0 => convertOk 0 a && a.seedUsed
  | 0x0A1 => convertOk 1 a && a.seedUsed
  | 0x0A2 => convertOk 2 a && a.seedUsed
  | 0x0A3 => quantOk a && a.seedUsed
  | 0x0A4 => dequantOk a && a.seedUsed
  | 0x0A5 | 0x0A6 => a.seedUsed
  | 0x0A7 => scaleOk a
  | 0x0A9 => isMxCode a.code
  | 0x0C0 => a.mods == 1 || a.sc == .reg 0
  | 0x0C3 | 0x0C4 => reduceOk a
  | 0x0C5 | 0x0D7 => typeBesideSmall a
  | 0x108 | 0x109 => packedBlockOk a
  | 0x10A => atomicOk false a
  | 0x10B => atomicOk true a
  | 0x142 => !a.mods.getLsbD 0 || a.ty == 0
  | 0x145 => a.sa == .reg 0 || a.imm == 0
  | 0x146 => a.imm != 0
  | 0x186 => a.imm != 0
  | 0x187 => trapCodeOk (a.imm.extractLsb' 0 8).toNat
  -- R102: X needs a register source and W = 0; O needs W = 0 and a slot number
  | 0x1C0 => (a.mods != 1 || (!a.w && (match a.sa with | .reg _ => true | _ => false))) &&
      (a.mods != 2 || (!a.w && decide (a.vd.toNat < 16)))
  | _ => true

/-- VTAG's four forms and VMXSCL's two (R182, R184), VSLIDE's neighbour (R210), the row form of VSTS (R249). -/
def laneFormOf (op : Nat) (a : LaneArgs) : Option LaneForm :=
  match op, (a.mods.extractLsb' 0 2).toNat with
  | 0x0A8, 0 => some { imm := 0xF00 }
  | 0x0A8, 1 => some { mods := modsIn [1] }
  | 0x0A8, 2 => some { vdBound := 8, sa := .reg, mods := modsIn [2] }
  | 0x0A8, _ => some { pred := false, vdBound := 1, mods := modsIn [3], imm := 0xFFFFFFFF }
  | 0x0AA, 0 => some { w := true, sa := .reg, mods := modsIn [0] }
  | 0x0AA, _ => some { sa := .word, mods := modsIn [1], imm := 0x01F }
  | 0x0C0, 1 => some { w := true, sa := .lane, sb := .special, sc := .lane, types := allTypes, mods := modsIn [1], free := true }
  | 0x105, _ =>
    if a.mods.getLsbD 3 then some { vdBound := 1, sa := .base, sb := .reg, mods := modsIn [8], imm := 0xFFFFFF9F }
    else laneForm op
  | _, _ => laneForm op

/-- Is a lane instruction's encoding legal (R41 to R47)? -/
def laneOk (op : Nat) (a : LaneArgs) : Bool :=
  match laneFormOf op a with
  | some f => f.ok a && laneExtra op a && (op != 0x0AA || a.mods != 1 || isMxCode a.code) &&
      (op != 0x0A8 || a.mods != 0 || a.seedUsed)
  | none => false

/-- The special-register numbers that have a row of their own in the opcode table. -/
def srdsrOwnRow (h l : BitVec 6) : Bool := (h == 0 && l == 0) || (h == 1 && l == 0x20)
/-- The same for writes. -/
def swrsrOwnRow (h l : BitVec 6) : Bool :=
  (h == 1 && (l == 0x20 || l == 0x10 || l == 0)) || (h == 0 && l == 0x20)

/-- Is the instruction well formed?  A device step is; an encoding of an instruction is when R36 to R47 do not make it
ILLOP and, for the two special-register instructions, when no row of its own holds its number. -/
def Instr.wf : Instr → Bool
  | .lrun d _ _ => decide (d.toNat < 57)
  | .lwait n => decide (n.toNat < 9)
  | .phase h s => h != 0 && decide (s.toNat < 6)
  | .trap _ c => trapCodeOk c.toNat
  | .stage _ n => decide (n.toNat < 16)
  | .srdsr _ h l => !srdsrOwnRow h l
  | .swrsr _ h l => !swrsrOwnRow h l
  | .vtool n a => decide (n.toNat < 6) && laneOk 0x3F2 a
  | .extensionInstruction (.scalar w) => decide (0x30 ≤ (w.extractLsb' 26 6).toNat ∧ (w.extractLsb' 26 6).toNat ≤ 0x3D)
  | .extensionInstruction (.lane w) => decide (0x300 ≤ (w.extractLsb' 86 10).toNat ∧ (w.extractLsb' 86 10).toNat ≤ 0x3EF)
  | .illegalInstruction _ => false
  | .vstsRow a => a.mods.getLsbD 3 && laneOk 0x105 a
  | .vsts a => !a.mods.getLsbD 3 && laneOk 0x105 a
  | .maccIn a => a.mods.getLsbD 0 && laneOk 0x142 a
  | .maccOut a => !a.mods.getLsbD 0 && laneOk 0x142 a
  | .vtagSet a => a.mods == 0 && laneOk 0x0A8 a
  | .vtagClr a => a.mods == 1 && laneOk 0x0A8 a
  | .vtagGet a => a.mods == 2 && laneOk 0x0A8 a
  | .vtagFmt a => a.mods == 3 && laneOk 0x0A8 a
  | .vmxsclGet a => a.mods == 0 && laneOk 0x0AA a
  | .vmxsclPut a => a.mods == 1 && laneOk 0x0AA a
  | i => match i.laneParts with
    | some (op, a) => laneOk op.toNat a
    | none => true

end Sys2Proof
end

