-- ==== Sys2Proof/Decode.lean ====
section
/-! DEFINITION. Decoding of the two streams (02_encoding.md R35 to R51), total on any bits: an encoding that R36 to
R47 make ILLOP decodes to `illegalInstruction`, an encoding of the extension space to `extensionInstruction`.  The
encoder, written from the same tables, follows. -/

namespace Sys2Proof

/-! ### Operand fields of the lane format -/

/-- The ten bits of a source field as a source (R41). -/
def decodeSrc (f : BitVec 10) : Src :=
  match (f.extractLsb' 8 2).toNat with
  | 0 => .reg (f.extractLsb' 0 8)
  | 1 => if f.extractLsb' 4 4 = 0 then .slot (f.extractLsb' 0 4) else .reserved f
  | 2 => if f.extractLsb' 2 6 = 0 then .latch (f.extractLsb' 0 2) else .reserved f
  | _ =>
    if f.extractLsb' 3 5 = 0 then .konst (f.extractLsb' 0 3)
    else if f.extractLsb' 0 8 = 8 then .imm
    else if f.extractLsb' 6 2 = 3 then .small (f.extractLsb' 0 6)
    else .reserved f

/-- A source as the ten bits of its field (R41). -/
def encodeSrc : Src → BitVec 10
  | .reg n => 0#2 ++ n
  | .slot n => 1#2 ++ 0#4 ++ n
  | .latch n => 2#2 ++ 0#6 ++ n
  | .konst n => 3#2 ++ 0#5 ++ n
  | .imm => 0x308#10
  | .small v => 3#2 ++ 3#2 ++ v
  | .reserved raw => raw

/-- The operand fields of a lane word (R40). -/
def decodeLaneArgs (w : BitVec 96) : LaneArgs :=
  { vd := w.extractLsb' 78 8, w := w.getLsbD 77, h := w.getLsbD 76,
    sa := decodeSrc (w.extractLsb' 66 10), sb := decodeSrc (w.extractLsb' 56 10),
    sc := decodeSrc (w.extractLsb' 46 10), mask := w.extractLsb' 42 4, ty := w.extractLsb' 38 4,
    mods := w.extractLsb' 32 6, imm := w.extractLsb' 0 32 }

/-- A lane word from its opcode and operand fields (R40). -/
def packLane (op : BitVec 10) (a : LaneArgs) : BitVec 96 :=
  op ++ a.vd ++ BitVec.ofBool a.w ++ BitVec.ofBool a.h ++ encodeSrc a.sa ++ encodeSrc a.sb ++ encodeSrc a.sc ++
    a.mask ++ a.ty ++ a.mods ++ a.imm

/-! ### The lane opcode map (R46, R51) -/

/-- Lane opcodes 0x001 to 0x017. -/
def laneRowInt (op : Nat) (a : LaneArgs) : Option Instr :=
  match op with
  | 0x001 => some (.vadd a)
  | 0x002 => some (.vsub a)
  | 0x003 => some (.vmul a)
  | 0x004 => some (.vmulh a)
  | 0x005 => some (.vmad a)
  | 0x006 => some (.vand a)
  | 0x007 => some (.vor a)
  | 0x008 => some (.vxor a)
  | 0x009 => some (.vandn a)
  | 0x00A => some (.vshl a)
  | 0x00B => some (.vshr a)
  | 0x00C => some (.vmin a)
  | 0x00D => some (.vmax a)
  | 0x00E => some (.vabs a)
  | 0x00F => some (.vneg a)
  | 0x010 => some (.vclz a)
  | 0x011 => some (.vpopc a)
  | 0x012 => some (.vcmp a)
  | 0x013 => some (.vsel a)
  | 0x014 => some (.vshrr a)
  | 0x015 => some (.vadds a)
  | 0x016 => some (.vsubs a)
  | 0x017 => some (.vshls a)
  | _ => none

/-- Lane opcodes 0x040 to 0x049. -/
def laneRowPacked (op : Nat) (a : LaneArgs) : Option Instr :=
  match op with
  | 0x040 => some (.vpadd a)
  | 0x041 => some (.vpsub a)
  | 0x042 => some (.vpmul a)
  | 0x043 => some (.vpmad2 a)
  | 0x044 => some (.vpadds a)
  | 0x045 => some (.vpsubs a)
  | 0x046 => some (.vpmin a)
  | 0x047 => some (.vpmax a)
  | 0x048 => some (.vpshrr a)
  | 0x049 => some (.vpcmp a)
  | _ => none

/-- Lane opcodes 0x060 to 0x069. -/
def laneRowFloat (op : Nat) (a : LaneArgs) : Option Instr :=
  match op with
  | 0x060 => some (.vfadd a)
  | 0x061 => some (.vfsub a)
  | 0x062 => some (.vfmul a)
  | 0x063 => some (.vfma a)
  | 0x064 => some (.vfmin a)
  | 0x065 => some (.vfmax a)
  | 0x066 => some (.vfabs a)
  | 0x067 => some (.vfneg a)
  | 0x068 => some (.vfcmp a)
  | 0x069 => some (.vfdiv a)
  | _ => none

/-- Lane opcodes 0x080 to 0x087. -/
def laneRowSpecial (op : Nat) (a : LaneArgs) : Option Instr :=
  match op with
  | 0x080 => some (.vrcp a)
  | 0x081 => some (.vrsq a)
  | 0x082 => some (.vsqrt a)
  | 0x083 => some (.vexp2 a)
  | 0x084 => some (.vlog2 a)
  | 0x085 => some (.vsin a)
  | 0x086 => some (.vcos a)
  | 0x087 => some (.vtanh a)
  | _ => none

/-- Lane opcodes 0x0A0 to 0x0AA. -/
def laneRowConvert (op : Nat) (a : LaneArgs) : Option Instr :=
  match op with
  | 0x0A0 => some (.vcvt a)
  | 0x0A1 => some (.vcvtn a)
  | 0x0A2 => some (.vcvtw a)
  | 0x0A3 => some (.vqnt a)
  | 0x0A4 => some (.vdqnt a)
  | 0x0A5 => some (.vrot a)
  | 0x0A6 => some (.virot a)
  | 0x0A7 => some (.vscl a)
  | 0x0A8 => match (a.mods.extractLsb' 0 2).toNat with
    | 0 => some (.vtagSet a)
    | 1 => some (.vtagClr a)
    | 2 => some (.vtagGet a)
    | _ => some (.vtagFmt a)
  | 0x0A9 => some (.vmxadd a)
  | 0x0AA => match (a.mods.extractLsb' 0 2).toNat with
    | 0 => some (.vmxsclGet a)
    | 1 => some (.vmxsclPut a)
    | _ => none
  | _ => none

/-- Lane opcodes 0x0C0 to 0x0C5. -/
def laneRowCross (op : Nat) (a : LaneArgs) : Option Instr :=
  match op with
  | 0x0C0 => some (.vslide a)
  | 0x0C1 => some (.vshuf a)
  | 0x0C2 => some (.vbcast a)
  | 0x0C3 => some (.vred a)
  | 0x0C4 => some (.vscan a)
  | 0x0C5 => some (.vballot a)
  | _ => none

/-- Lane opcodes 0x0D0 to 0x0D7. -/
def laneRowMask (op : Nat) (a : LaneArgs) : Option Instr :=
  match op with
  | 0x0D0 => some (.mand a)
  | 0x0D1 => some (.mor a)
  | 0x0D2 => some (.mxor a)
  | 0x0D3 => some (.mandn a)
  | 0x0D4 => some (.mnot a)
  | 0x0D5 => some (.mmov a)
  | 0x0D6 => some (.mcnt a)
  | 0x0D7 => some (.mset a)
  | _ => none

/-- Lane opcodes 0x100 to 0x10B. -/
def laneRowMemory (op : Nat) (a : LaneArgs) : Option Instr :=
  match op with
  | 0x100 => some (.vld a)
  | 0x101 => some (.vst a)
  | 0x102 => some (.vgth a)
  | 0x103 => some (.vsct a)
  | 0x104 => some (.vlds a)
  | 0x105 => if a.mods.getLsbD 3 then some (.vstsRow a) else some (.vsts a)
  | 0x106 => some (.vldc a)
  | 0x107 => some (.vpft a)
  | 0x108 => some (.vldb a)
  | 0x109 => some (.vstb a)
  | 0x10A => some (.vatom a)
  | 0x10B => some (.vatomr a)
  | _ => none

/-- Lane opcodes 0x140 to 0x146. -/
def laneRowMatrix (op : Nat) (a : LaneArgs) : Option Instr :=
  match op with
  | 0x140 => some (.mma a)
  | 0x141 => some (.mmaz a)
  | 0x142 => if a.mods.getLsbD 0 then some (.maccIn a) else some (.maccOut a)
  | 0x143 => some (.maccz a)
  | 0x144 => some (.mfence a)
  | 0x145 => some (.mwait a)
  | 0x146 => some (.mstamp a)
  | _ => none

/-- Lane opcodes 0x180 to 0x188. -/
def laneRowControl (op : Nat) (a : LaneArgs) : Option Instr :=
  match op with
  | 0x180 => some (.vbr a)
  | 0x181 => some (.vbrc a)
  | 0x182 => some (.vcall a)
  | 0x183 => some (.vret a)
  | 0x184 => some (.regang a)
  | 0x185 => some (.lend a)
  | 0x186 => some (.itemnext a)
  | 0x187 => some (.vtrap a)
  | 0x188 => some (.vbrk a)
  | _ => none

/-- Lane opcodes 0x1C0 to 0x1C3. -/
def laneRowMove (op : Nat) (a : LaneArgs) : Option Instr :=
  match op with
  | 0x1C0 => some (.vmov a)
  | 0x1C1 => some (.vlid a)
  | 0x1C2 => some (.vrdsr a)
  | 0x1C3 => some (.vnop a)
  | _ => none

/-- Lane opcodes 0x3F0 to 0x3F1. -/
def laneRowTramp (op : Nat) (a : LaneArgs) : Option Instr :=
  match op with
  | 0x3F0 => some (.vtramp a)
  | 0x3F1 => some (.vtret a)
  | _ => none

/-- The instruction of an assigned lane opcode (R46, R51): none for an unassigned or permanently illegal one. -/
def laneRow (op : Nat) (a : LaneArgs) : Option Instr :=
  if op < 0x40 then laneRowInt op a
  else if op < 0x60 then laneRowPacked op a
  else if op < 0x80 then laneRowFloat op a
  else if op < 0xA0 then laneRowSpecial op a
  else if op < 0xC0 then laneRowConvert op a
  else if op < 0xD0 then laneRowCross op a
  else if op < 0x100 then laneRowMask op a
  else if op < 0x140 then laneRowMemory op a
  else if op < 0x180 then laneRowMatrix op a
  else if op < 0x1C0 then laneRowControl op a
  else if op < 0x300 then laneRowMove op a
  else if 0x3F2 ≤ op ∧ op ≤ 0x3F7 then some (.vtool (BitVec.ofNat 3 (op - 0x3F2)) a)
  else laneRowTramp op a

/-- Decoding of a 96-bit lane word: total (R46 to R49). -/
def decodeLane (w : BitVec 96) : Instr :=
  let op := (w.extractLsb' 86 10).toNat
  if 0x300 ≤ op ∧ op ≤ 0x3EF then .extensionInstruction (.lane w)
  else match laneRow op (decodeLaneArgs w) with
    | some i => if i.wf then i else .illegalInstruction (.lane w)
    | none => .illegalInstruction (.lane w)

/-! ### The scalar stream -/

/-- sd (R35). -/
def fieldD (w : BitVec 32) : BitVec 6 := w.extractLsb' 20 6
/-- sa (R35). -/
def fieldA (w : BitVec 32) : BitVec 6 := w.extractLsb' 14 6
/-- sb (R35). -/
def fieldB (w : BitVec 32) : BitVec 6 := w.extractLsb' 8 6
/-- func (R35). -/
def fieldF (w : BitVec 32) : BitVec 8 := w.extractLsb' 0 8
/-- imm14 or offset14 (R35). -/
def fieldI (w : BitVec 32) : BitVec 14 := w.extractLsb' 0 14
/-- The major opcode (R35). -/
def fieldMajor (w : BitVec 32) : BitVec 6 := w.extractLsb' 26 6

/-- `some i` when a condition on must-be-zero fields holds (R45, R47). -/
def onlyIf (c : Bool) (i : Instr) : Option Instr := if c then some i else none

/-- Major 0x02: the integer group (R38, R188). -/
def rowInteger (w : BitVec 32) : Option Instr :=
  let d := fieldD w
  let a := fieldA w
  let b := fieldB w
  match (fieldF w).toNat with
  | 0x00 => some (.add d a b)
  | 0x01 => some (.sub d a b)
  | 0x02 => some (.and d a b)
  | 0x03 => some (.or d a b)
  | 0x04 => some (.xor d a b)
  | 0x05 => some (.andn d a b)
  | 0x06 => some (.shl d a b)
  | 0x07 => some (.shr d a b)
  | 0x08 => some (.sra d a b)
  | 0x09 => some (.shli d a b)
  | 0x0A => some (.shri d a b)
  | 0x0B => some (.srai d a b)
  | 0x0C => some (.slt d a b)
  | 0x0D => some (.sltu d a b)
  | 0x0E => some (.min d a b)
  | 0x0F => some (.max d a b)
  | 0x10 => some (.minu d a b)
  | 0x11 => some (.maxu d a b)
  | 0x12 => some (.mul d a b)
  | 0x13 => some (.mulh d a b)
  | 0x14 => some (.mulhu d a b)
  | 0x15 => some (.div d a b)
  | 0x16 => some (.divu d a b)
  | 0x17 => some (.rem d a b)
  | 0x18 => some (.remu d a b)
  | 0x19 => onlyIf (b == 0) (.clz d a)
  | 0x1A => onlyIf (b == 0) (.ctz d a)
  | 0x1B => onlyIf (b == 0) (.popc d a)
  | 0x1C => onlyIf (b == 0) (.sextb d a)
  | 0x1D => onlyIf (b == 0) (.sexth d a)
  | 0x1E => onlyIf (b == 0) (.sextw d a)
  | _ => none

/-- Major 0x1C: indirect transfers (R131). -/
def rowIndirect (w : BitVec 32) : Option Instr :=
  let d := fieldD w
  let a := fieldA w
  let b := fieldB w
  match (fieldF w).toNat with
  | 0x00 => onlyIf (d == 0 && b == 0) (.jr a)
  | 0x01 => onlyIf (b == 0) (.callr d a)
  | 0x02 => onlyIf (d == 0 && b == 0) (.ret a)
  | _ => none

/-- Major 0x1E: the stream and format group (R38). -/
def rowStream (w : BitVec 32) : Option Instr :=
  let d := fieldD w
  let a := fieldA w
  let b := fieldB w
  match (fieldF w).toNat with
  | 0x00 => onlyIf (d == 0 && a == 0) (.lwait b)
  | 0x01 => some (.fmt d a b)
  | 0x02 => onlyIf (w.extractLsb' 23 3 == 0) (.seedld (w.extractLsb' 20 3) a b)
  | 0x03 => some (.seedtag d a b)
  | _ => none

/-- Major 0x1F: the chord group (R38). -/
def rowChord (w : BitVec 32) : Option Instr :=
  let d := fieldD w
  let a := fieldA w
  let b := fieldB w
  match (fieldF w).toNat with
  | 0x00 => some (.chset d a b)
  | 0x01 => onlyIf (b == 0) (.chrel d a)
  | 0x02 => some (.chkey d a b)
  | 0x03 => some (.chfill d a b)
  | 0x04 => some (.chtag d a b)
  | _ => none

/-- Major 0x20: the engine group (R38). -/
def rowEngine (w : BitVec 32) : Option Instr :=
  let d := fieldD w
  let a := fieldA w
  let b := fieldB w
  match (fieldF w).toNat with
  | 0x00 => some (.cpy d a b)
  | 0x01 => some (.cpyt d a b)
  | 0x02 => some (.cpyr d a b)
  | 0x03 => some (.cpyc d a b)
  | 0x04 => onlyIf (b == 0) (.ewait d a)
  | 0x05 => onlyIf (b == 0) (.epoll d a)
  | _ => none

/-- Major 0x21: the phase and barrier group (R38). -/
def rowPhase (w : BitVec 32) : Option Instr :=
  let d := fieldD w
  let a := fieldA w
  let b := fieldB w
  match (fieldF w).toNat with
  | 0x00 => onlyIf (d == 0 && a == 0 && w.extractLsb' 13 1 == 0) (.phase (w.extractLsb' 11 2) (w.extractLsb' 8 3))
  | 0x01 => onlyIf (b == 0) (.barb d a)
  | 0x02 => onlyIf (b == 0) (.bara d a)
  | 0x03 => some (.barw d a b)
  | 0x04 => onlyIf (b == 0) (.garrive d a)
  | 0x05 => some (.gwait d a b)
  | _ => none

/-- Major 0x22: the context group (R38). -/
def rowContext (w : BitVec 32) : Option Instr :=
  let d := fieldD w
  let a := fieldA w
  let b := fieldB w
  match (fieldF w).toNat with
  | 0x00 => onlyIf (b == 0) (.ctxgrow d a)
  | 0x01 => onlyIf (b == 0) (.ctxshrink d a)
  | 0x02 => some (.migrate d a b)
  | 0x03 => onlyIf (d == 0 && a == 0 && b == 0) (.yield)
  | 0x04 => onlyIf (d == 0 && a == 0 && b == 0) (.spin)
  | _ => none

/-- Major 0x23: the launch group (R38). -/
def rowLaunch (w : BitVec 32) : Option Instr :=
  let d := fieldD w
  let a := fieldA w
  let b := fieldB w
  match (fieldF w).toNat with
  | 0x00 => onlyIf (b == 0) (.launch d a)
  | 0x01 => onlyIf (b == 0) (.ljoin d a)
  | 0x02 => some (.itempush d a b)
  | _ => none

/-- Major 0x24: the system group (R38, R427). -/
def rowSystem (w : BitVec 32) : Option Instr :=
  let d := fieldD w
  let a := fieldA w
  let b := fieldB w
  match (fieldF w).toNat with
  | 0x00 => onlyIf (d == 0 && a == 0 && b == 0) (.nop)
  | 0x01 => onlyIf (d == 0) (.trap a b)
  | 0x02 => onlyIf (d == 0 && a == 0 && w.extractLsb' 9 5 == 0) (.tret (w.extractLsb' 8 1))
  | 0x03 => onlyIf (d == 0 && b == 0) (.halt a)
  | 0x04 => onlyIf (d == 0 && a == 0) (.brk b)
  | 0x05 => onlyIf (a == 0) (.stage d b)
  | 0x06 => some (if a == 0 && b == 0 then .srdsrPtc d else if a == 1 && b == 0x20 then .srdsrSflags d else .srdsr d a b)
  | 0x07 => some (if a == 1 && b == 0x20 then .swrsrSflags d else if a == 1 && b == 0x10 then .swrsrDbgctl d
      else if a == 1 && b == 0 then .swrsrDeadline d else if a == 0 && b == 0x20 then .swrsrTrampbase d else .swrsr d a b)
  | 0x08 => some (.fwcall d a b)
  | _ => none

/-- The S-I instructions, majors 0x03 to 0x14 and 0x1D (R38). -/
def rowImmediate (w : BitVec 32) : Option Instr :=
  let d := fieldD w
  let a := fieldA w
  let i := fieldI w
  match (fieldMajor w).toNat with
  | 0x03 => some (.addi d a i)
  | 0x04 => some (.andi d a i)
  | 0x05 => some (.ori d a i)
  | 0x06 => some (.xori d a i)
  | 0x07 => some (.slti d a i)
  | 0x08 => some (.sltiu d a i)
  | 0x09 => some (.muli d a i)
  | 0x0A => some (.sldB d a i)
  | 0x0B => some (.sldBu d a i)
  | 0x0C => some (.sldH d a i)
  | 0x0D => some (.sldHu d a i)
  | 0x0E => some (.sldW d a i)
  | 0x0F => some (.sldWu d a i)
  | 0x10 => some (.sldD d a i)
  | 0x11 => some (.sstB d a i)
  | 0x12 => some (.sstH d a i)
  | 0x13 => some (.sstW d a i)
  | 0x14 => some (.sstD d a i)
  | 0x1D => some (.lrun d a i)
  | _ => none

/-- The S-CB instructions, majors 0x16 to 0x1B (R36, R38). -/
def rowCompare (w : BitVec 32) : Option Instr :=
  let a := fieldD w
  let b := fieldA w
  let o := fieldI w
  match (fieldMajor w).toNat with
  | 0x16 => some (.beq a b o)
  | 0x17 => some (.bne a b o)
  | 0x18 => some (.blt a b o)
  | 0x19 => some (.bge a b o)
  | 0x1A => some (.bltu a b o)
  | 0x1B => some (.bgeu a b o)
  | _ => none

/-- Is a word in format S-I (R35, R38)? -/
def isImmediateWord (w : BitVec 32) : Bool :=
  decide (3 ≤ (fieldMajor w).toNat ∧ (fieldMajor w).toNat ≤ 0x14) || fieldMajor w == 0x1D

/-- The instruction of an assigned scalar encoding (R38, R39); `next` is the word after it, which a long-immediate
pair takes in (R37). -/
def scalarRow (w next : BitVec 32) : Option Instr :=
  let major := (fieldMajor w).toNat
  if major = 0x01 then some (.longImmediatePrefix (w.extractLsb' 0 26) next)
  else if major = 0x02 then rowInteger w
  else if isImmediateWord w then rowImmediate w
  else if major = 0x15 then
    match (w.extractLsb' 22 4).toNat with
    | 0 => some (.b (w.extractLsb' 0 22))
    | 1 => some (.call (w.extractLsb' 0 22))
    | _ => none
  else if major < 0x1C then rowCompare w
  else if major = 0x1C then rowIndirect w
  else if major = 0x1E then rowStream w
  else if major = 0x1F then rowChord w
  else if major = 0x20 then rowEngine w
  else if major = 0x21 then rowPhase w
  else if major = 0x22 then rowContext w
  else if major = 0x23 then rowLaunch w
  else if major = 0x24 then rowSystem w
  else if major = 0x3E then
    match (w.extractLsb' 20 6).toNat with
    | 0x00 => some (.tramps (w.extractLsb' 0 20))
    | 0x10 => onlyIf (w.extractLsb' 0 20 == 0) .trampsRet
    | _ => none
  else none

/-- Decoding of a scalar word, with the word after it: total (R47 to R49). -/
def decodeScalar (w next : BitVec 32) : Instr :=
  if 0x30 ≤ (fieldMajor w).toNat ∧ (fieldMajor w).toNat ≤ 0x3D then .extensionInstruction (.scalar w)
  else match scalarRow w next with
    | some i => if i.wf then i else .illegalInstruction (.scalar w)
    | none => .illegalInstruction (.scalar w)

/-! ### The encoder -/

/-- Format S-R (R35). -/
def packR (major d a b : BitVec 6) (func : BitVec 8) : BitVec 32 := major ++ d ++ a ++ b ++ func
/-- Formats S-I and S-CB (R35). -/
def packI (major d a : BitVec 6) (i : BitVec 14) : BitVec 32 := major ++ d ++ a ++ i

/-- The bits of an instruction, first word lowest: 32 for a scalar word, 64 for a long-immediate pair, 96 for a lane
instruction. -/
inductive Code where
  | scalar (w : BitVec 32)
  | pair (w next : BitVec 32)
  | lane (w : BitVec 96)
  deriving DecidableEq, Repr

/-- The bits of an instruction (R35 to R46); none for a step of the device, which has no encoding. -/
def encode : Instr → Option Code
  | .longImmediatePrefix hi next => some (.pair (0x01#6 ++ hi) next)
  | .add d a b => some (.scalar (packR 0x02 d a b 0x00))
  | .sub d a b => some (.scalar (packR 0x02 d a b 0x01))
  | .and d a b => some (.scalar (packR 0x02 d a b 0x02))
  | .or d a b => some (.scalar (packR 0x02 d a b 0x03))
  | .xor d a b => some (.scalar (packR 0x02 d a b 0x04))
  | .andn d a b => some (.scalar (packR 0x02 d a b 0x05))
  | .shl d a b => some (.scalar (packR 0x02 d a b 0x06))
  | .shr d a b => some (.scalar (packR 0x02 d a b 0x07))
  | .sra d a b => some (.scalar (packR 0x02 d a b 0x08))
  | .shli d a n => some (.scalar (packR 0x02 d a n 0x09))
  | .shri d a n => some (.scalar (packR 0x02 d a n 0x0A))
  | .srai d a n => some (.scalar (packR 0x02 d a n 0x0B))
  | .slt d a b => some (.scalar (packR 0x02 d a b 0x0C))
  | .sltu d a b => some (.scalar (packR 0x02 d a b 0x0D))
  | .min d a b => some (.scalar (packR 0x02 d a b 0x0E))
  | .max d a b => some (.scalar (packR 0x02 d a b 0x0F))
  | .minu d a b => some (.scalar (packR 0x02 d a b 0x10))
  | .maxu d a b => some (.scalar (packR 0x02 d a b 0x11))
  | .mul d a b => some (.scalar (packR 0x02 d a b 0x12))
  | .mulh d a b => some (.scalar (packR 0x02 d a b 0x13))
  | .mulhu d a b => some (.scalar (packR 0x02 d a b 0x14))
  | .div d a b => some (.scalar (packR 0x02 d a b 0x15))
  | .divu d a b => some (.scalar (packR 0x02 d a b 0x16))
  | .rem d a b => some (.scalar (packR 0x02 d a b 0x17))
  | .remu d a b => some (.scalar (packR 0x02 d a b 0x18))
  | .clz d a => some (.scalar (packR 0x02 d a 0 0x19))
  | .ctz d a => some (.scalar (packR 0x02 d a 0 0x1A))
  | .popc d a => some (.scalar (packR 0x02 d a 0 0x1B))
  | .sextb d a => some (.scalar (packR 0x02 d a 0 0x1C))
  | .sexth d a => some (.scalar (packR 0x02 d a 0 0x1D))
  | .sextw d a => some (.scalar (packR 0x02 d a 0 0x1E))
  | .addi d a i => some (.scalar (packI 0x03 d a i))
  | .andi d a i => some (.scalar (packI 0x04 d a i))
  | .ori d a i => some (.scalar (packI 0x05 d a i))
  | .xori d a i => some (.scalar (packI 0x06 d a i))
  | .slti d a i => some (.scalar (packI 0x07 d a i))
  | .sltiu d a i => some (.scalar (packI 0x08 d a i))
  | .muli d a i => some (.scalar (packI 0x09 d a i))
  | .sldB d a i => some (.scalar (packI 0x0A d a i))
  | .sldBu d a i => some (.scalar (packI 0x0B d a i))
  | .sldH d a i => some (.scalar (packI 0x0C d a i))
  | .sldHu d a i => some (.scalar (packI 0x0D d a i))
  | .sldW d a i => some (.scalar (packI 0x0E d a i))
  | .sldWu d a i => some (.scalar (packI 0x0F d a i))
  | .sldD d a i => some (.scalar (packI 0x10 d a i))
  | .sstB d a i => some (.scalar (packI 0x11 d a i))
  | .sstH d a i => some (.scalar (packI 0x12 d a i))
  | .sstW d a i => some (.scalar (packI 0x13 d a i))
  | .sstD d a i => some (.scalar (packI 0x14 d a i))
  | .b o => some (.scalar (0x15#6 ++ 0#4 ++ o))
  | .call o => some (.scalar (0x15#6 ++ 1#4 ++ o))
  | .beq a b o => some (.scalar (packI 0x16 a b o))
  | .bne a b o => some (.scalar (packI 0x17 a b o))
  | .blt a b o => some (.scalar (packI 0x18 a b o))
  | .bge a b o => some (.scalar (packI 0x19 a b o))
  | .bltu a b o => some (.scalar (packI 0x1A a b o))
  | .bgeu a b o => some (.scalar (packI 0x1B a b o))
  | .jr a => some (.scalar (packR 0x1C 0 a 0 0x00))
  | .callr d a => some (.scalar (packR 0x1C d a 0 0x01))
  | .ret a => some (.scalar (packR 0x1C 0 a 0 0x02))
  | .lrun d a i => some (.scalar (packI 0x1D d a i))
  | .lwait n => some (.scalar (packR 0x1E 0 0 n 0x00))
  | .fmt d a b => some (.scalar (packR 0x1E d a b 0x01))
  | .seedld z a b => some (.scalar (packR 0x1E (0#3 ++ z) a b 0x02))
  | .seedtag d a b => some (.scalar (packR 0x1E d a b 0x03))
  | .chset d a b => some (.scalar (packR 0x1F d a b 0x00))
  | .chrel d a => some (.scalar (packR 0x1F d a 0 0x01))
  | .chkey d a b => some (.scalar (packR 0x1F d a b 0x02))
  | .chfill d a b => some (.scalar (packR 0x1F d a b 0x03))
  | .chtag d a b => some (.scalar (packR 0x1F d a b 0x04))
  | .cpy d a b => some (.scalar (packR 0x20 d a b 0x00))
  | .cpyt d a b => some (.scalar (packR 0x20 d a b 0x01))
  | .cpyr d a b => some (.scalar (packR 0x20 d a b 0x02))
  | .cpyc d a b => some (.scalar (packR 0x20 d a b 0x03))
  | .ewait d a => some (.scalar (packR 0x20 d a 0 0x04))
  | .epoll d a => some (.scalar (packR 0x20 d a 0 0x05))
  | .phase h s => some (.scalar (packR 0x21 0 0 (0#1 ++ h ++ s) 0x00))
  | .barb d a => some (.scalar (packR 0x21 d a 0 0x01))
  | .bara d a => some (.scalar (packR 0x21 d a 0 0x02))
  | .barw d a b => some (.scalar (packR 0x21 d a b 0x03))
  | .garrive d a => some (.scalar (packR 0x21 d a 0 0x04))
  | .gwait d a b => some (.scalar (packR 0x21 d a b 0x05))
  | .ctxgrow d a => some (.scalar (packR 0x22 d a 0 0x00))
  | .ctxshrink d a => some (.scalar (packR 0x22 d a 0 0x01))
  | .migrate d a b => some (.scalar (packR 0x22 d a b 0x02))
  | .yield => some (.scalar (packR 0x22 0 0 0 0x03))
  | .spin => some (.scalar (packR 0x22 0 0 0 0x04))
  | .launch d a => some (.scalar (packR 0x23 d a 0 0x00))
  | .ljoin d a => some (.scalar (packR 0x23 d a 0 0x01))
  | .itempush d a b => some (.scalar (packR 0x23 d a b 0x02))
  | .nop => some (.scalar (packR 0x24 0 0 0 0x00))
  | .trap a c => some (.scalar (packR 0x24 0 a c 0x01))
  | .tret k => some (.scalar (packR 0x24 0 0 (0#5 ++ k) 0x02))
  | .halt a => some (.scalar (packR 0x24 0 a 0 0x03))
  | .brk t => some (.scalar (packR 0x24 0 0 t 0x04))
  | .stage d n => some (.scalar (packR 0x24 d 0 n 0x05))
  | .srdsr d h l => some (.scalar (packR 0x24 d h l 0x06))
  | .srdsrSflags d => some (.scalar (packR 0x24 d 1 32 0x06))
  | .srdsrPtc d => some (.scalar (packR 0x24 d 0 0 0x06))
  | .swrsr d h l => some (.scalar (packR 0x24 d h l 0x07))
  | .swrsrSflags d => some (.scalar (packR 0x24 d 1 32 0x07))
  | .swrsrDbgctl d => some (.scalar (packR 0x24 d 1 16 0x07))
  | .swrsrDeadline d => some (.scalar (packR 0x24 d 1 0 0x07))
  | .swrsrTrampbase d => some (.scalar (packR 0x24 d 0 32 0x07))
  | .fwcall d a b => some (.scalar (packR 0x24 d a b 0x08))
  | .tramps i => some (.scalar (0x3E#6 ++ 0#6 ++ i))
  | .trampsRet => some (.scalar (0xF9000000#32))
  | .extensionInstruction (.scalar w) => some (.scalar w)
  | .extensionInstruction (.lane w) => some (.lane w)
  | .illegalInstruction (.scalar w) => some (.scalar w)
  | .illegalInstruction (.lane w) => some (.lane w)
  | i => i.laneParts.map (fun p => .lane (packLane p.1 p.2))

/-- Decoding of encoded bits. -/
def decodeCode : Code → Instr
  | .scalar w => decodeScalar w 0
  | .pair w next => decodeScalar w next
  | .lane w => decodeLane w

/-! ### Bytes -/

/-- The little-endian bytes of a number (R3), `n` of them. -/
def littleEndian : Nat → Nat → List Byte
  | 0, _ => []
  | n + 1, x => BitVec.ofNat 8 x :: littleEndian n (x / 256)

/-- The number of a list of little-endian bytes (R3). -/
def fromLittleEndian : List Byte → Nat
  | [] => 0
  | b :: bs => b.toNat + 256 * fromLittleEndian bs

/-- The bytes of an instruction, lowest address first (R3, R40). -/
def Code.bytes : Code → List Byte
  | .scalar w => littleEndian 4 w.toNat
  | .pair w next => littleEndian 4 w.toNat ++ littleEndian 4 next.toNat
  | .lane w => littleEndian 12 w.toNat

/-- The scalar instruction that the bytes at a program counter hold: the first word, and the word after it, which only
a long-immediate pair takes in. -/
def decodeScalarBytes (bs : List Byte) : Instr :=
  decodeScalar (BitVec.ofNat 32 (fromLittleEndian (bs.take 4))) (BitVec.ofNat 32 (fromLittleEndian ((bs.drop 4).take 4)))

/-- The lane instruction that twelve bytes hold (R40). -/
def decodeLaneBytes (bs : List Byte) : Instr := decodeLane (BitVec.ofNat 96 (fromLittleEndian (bs.take 12)))

/-- How many bytes of the scalar stream an instruction takes (R32, R37). -/
def Instr.scalarBytes : Instr → Nat
  | .longImmediatePrefix _ _ => 8
  | _ => 4

/-- The instruction the decoder reads from an instruction whose low `nbits` bits are `w`, first word lowest, and whose
other bits are zero: a lane word where `nbits` exceeds 64, a scalar word or pair otherwise.  A row of the table
without bits has no encoding, and 0 bits decode to none. -/
def decodeTableWord (nbits w : Nat) : Option Instr :=
  if nbits = 0 then none
  else
    let bs := littleEndian 12 (w % 2 ^ nbits)
    some (if 64 < nbits then decodeLaneBytes bs else decodeScalarBytes bs)

end Sys2Proof
end

