-- ==== Sys2Proof/Machine/Flags.lean ====
section
/-! DEFINITION. The sticky flags of SFLAGS (06_lane_arith.md R185) and how an instruction's flags join (R186). -/

namespace Sys2Proof.Machine

/-- SFLAGS bits 5:0 (R185). -/
abbrev Sticky := BitVec 6

/-- Invalid. -/
def flagNV : Sticky := 0x01
/-- Division by zero. -/
def flagDZ : Sticky := 0x02
/-- Overflow. -/
def flagOF : Sticky := 0x04
/-- Underflow. -/
def flagUF : Sticky := 0x08
/-- Inexact. -/
def flagNX : Sticky := 0x10
/-- Saturation: an integer result was clamped. -/
def flagQC : Sticky := 0x20

/-- A flag when a condition holds. -/
def flagIf (c : Bool) (f : Sticky) : Sticky := if c then f else 0

/-- The flags of several elements, ORed (R186). -/
def flagsOr (l : List Sticky) : Sticky := l.foldl (fun a b => a ||| b) 0

end Sys2Proof.Machine
end

