-- ==== Sys2Proof/Machine/Fp.lean ====
section
/-! DEFINITION. The number formats of 05_formats.md (R144 to R149), rounding (R150 to R154) and the exact floating
point operations of 06_lane_arith.md (R202 to R205).  A finite value is exact: a sign and a quotient of naturals. -/

namespace Sys2Proof.Machine

/-! ### Values -/

/-- The value of a floating-point encoding: NaNs are alike (R147), both zeros exist. -/
inductive Fv where
  | nan
  | inf (neg : Bool)
  /-- (−1)^neg × num / den -/
  | fin (neg : Bool) (num den : Nat)
  deriving DecidableEq, Repr

/-- A rounding mode (R150); stochastic rounding carries its draw `u` (R154). -/
inductive Rm where
  | rne | rz | ru | rd
  | sr (u : BitVec 32)
  deriving DecidableEq, Repr

/-- A floating-point format: a row of R146's table.  `maxMag` is the encoding of the largest finite magnitude. -/
structure FloatFormat where
  expBits : Nat
  manBits : Nat
  bias : Nat
  maxMag : Nat
  hasInf : Bool
  nan : Option Nat
  deriving DecidableEq, Repr

/-- R146 and R147 by format code; codes that are no floating-point format take fp32's row and are never asked for. -/
def floatFormat (code : Nat) : FloatFormat :=
  match code with
  | 0x9 => ⟨5, 10, 15, 0x7BFF, true, some 0x7E00⟩
  | 0xA => ⟨8, 7, 127, 0x7F7F, true, some 0x7FC0⟩
  | 0xB => ⟨4, 3, 7, 0x7E, false, some 0x7F⟩
  | 0xC => ⟨5, 2, 15, 0x7B, true, some 0x7E⟩
  | 0xD => ⟨2, 3, 1, 0x1F, false, none⟩
  | 0xE => ⟨3, 2, 3, 0x1F, false, none⟩
  | 0xF => ⟨2, 1, 1, 0x7, false, none⟩
  | _ => ⟨8, 23, 127, 0x7F7FFFFF, true, some 0x7FC00000⟩

/-- Is the code a signed integer format (R44)? -/
def isSignedCode (code : Nat) : Bool := code == 0 || code == 2 || code == 4 || code == 6

/-- Bits of an element: the container, but six for the 6-bit formats, whose bits 7:6 are ignored on a read (R144). -/
def elementBits (code : Nat) : Nat :=
  if code = 0xD ∨ code = 0xE ∨ code = 0x14 ∨ code = 0x15 then 6 else containerBits code

/-- Elements per lane (R144). -/
def epl (code : Nat) : Nat := 32 / containerBits code

/-- Element `p` of a lane word in containers of `w` bits (R144). -/
def elementOf (w : Nat) (x : Word32) (p : Nat) : Nat := x.toNat / 2 ^ (w * p) % 2 ^ w

/-- A lane word from its elements (R144). -/
def packElements (w : Nat) (es : List Nat) : Word32 :=
  BitVec.ofNat 32 (es.foldr (fun e acc => e % 2 ^ w + 2 ^ w * acc) 0)

/-- A natural times a power of two, as a quotient. -/
def scaled (neg : Bool) (n : Nat) (e : Int) : Fv :=
  if 0 ≤ e then .fin neg (n * 2 ^ e.toNat) 1 else .fin neg n (2 ^ (-e).toNat)

/-- The value of a floating-point encoding (R146, R147). -/
def decodeFloat (code x : Nat) : Fv :=
  let f := floatFormat code
  let span := f.expBits + f.manBits
  let mag := x % 2 ^ span
  let neg := x / 2 ^ span % 2 == 1
  if f.maxMag < mag then
    if f.hasInf && mag == f.maxMag + 1 then .inf neg else .nan
  else
    let e := mag / 2 ^ f.manBits
    let m := mag % 2 ^ f.manBits
    if e = 0 then scaled neg m (1 - f.bias - f.manBits)
    else scaled neg (2 ^ f.manBits + m) (e - f.bias - f.manBits)

/-- The encoding of a sign and magnitude bits. -/
def signed (f : FloatFormat) (neg : Bool) (mag : Nat) : Nat :=
  if neg then 2 ^ (f.expBits + f.manBits) + mag else mag

/-- The canonical NaN of a format (R147); a format without NaN gives +0 (R151). -/
def canonicalNan (code : Nat) : Nat := ((floatFormat code).nan).getD 0

/-! ### Rounding -/

/-- floor(log2(num / den)) for a positive quotient. -/
def ilog2 (num den : Nat) : Int :=
  let e : Int := (Nat.log2 num : Int) - Nat.log2 den
  let reaches := if 0 ≤ e then decide (den * 2 ^ e.toNat ≤ num) else decide (den ≤ num * 2 ^ (-e).toNat)
  if reaches then e else e - 1

/-- num / den in units of 2^q: the whole number of units, and the remainder over a divisor. -/
def inUnits (num den : Nat) (q : Int) : Nat × Nat × Nat :=
  let n := if 0 ≤ q then num else num * 2 ^ (-q).toNat
  let d := if 0 ≤ q then den * 2 ^ q.toNat else den
  (n / d, n % d, d)

/-- Does the mode choose the value further from zero (R150, R154)? -/
def roundsAway (m : Rm) (neg : Bool) (k rem d : Nat) : Bool :=
  match m with
  | .rne => decide (d < 2 * rem) || (2 * rem == d && k % 2 == 1)
  | .rz => false
  | .ru => !neg && rem != 0
  | .rd => neg && rem != 0
  | .sr u => decide (2 ^ 32 ≤ rem * 2 ^ 32 / d + u.toNat)

/-- A quotient rounded once to a whole number of units: the magnitude and whether it was exact. -/
def roundUnits (m : Rm) (neg : Bool) (num den : Nat) (q : Int) : Nat × Bool :=
  let (k, rem, d) := inUnits num den q
  (if roundsAway m neg k rem d then k + 1 else k, rem == 0)

/-- Magnitude bits of k units of 2^q, where k has at most manBits + 2 bits: subnormal below 2^manBits. -/
def magnitudeBits (f : FloatFormat) (k : Nat) (q : Int) : Nat :=
  if k < 2 ^ f.manBits then k
  else (q + f.manBits + f.bias).toNat * 2 ^ f.manBits + (k - 2 ^ f.manBits)

/-- Does an overflow give infinity under the mode (IEEE 754; R151)? -/
def overflowsToInf (m : Rm) (neg : Bool) : Bool :=
  match m with
  | .rne => true
  | .rz => false
  | .ru => !neg
  | .rd => neg
  | .sr _ => true

/-- The result of an overflow, before its sign (R151). -/
def overflowMag (f : FloatFormat) (m : Rm) (neg sat : Bool) : Nat :=
  if sat then f.maxMag
  else if f.hasInf then (if overflowsToInf m neg then f.maxMag + 1 else f.maxMag)
  else f.nan.getD f.maxMag

/-- Is the value, rounded with an unbounded exponent range, below the smallest normal (R185)? -/
def tinyUnbounded (f : FloatFormat) (m : Rm) (neg : Bool) (num den : Nat) : Bool :=
  let e := ilog2 num den
  let emin : Int := 1 - f.bias
  decide (e < emin) &&
    !(e == emin - 1 && (roundUnits m neg num den (e - f.manBits)).1 == 2 ^ (f.manBits + 1))

/-- A finite exact value rounded once into a format: the encoding and the flags (R150 to R152).  `arith` judges
underflow as R185 does, on the rounding to an unbounded exponent range; a conversion judges it on the result. -/
def roundFinite (code : Nat) (m : Rm) (sat arith neg : Bool) (num den : Nat) : Nat × Sticky :=
  let f := floatFormat code
  if num = 0 then (signed f neg 0, 0)
  else
    let emin : Int := 1 - f.bias
    let q := max (ilog2 num den) emin - f.manBits
    let (k, exact) := roundUnits m neg num den q
    let mag := magnitudeBits f k q
    if f.maxMag < mag then
      let o := overflowMag f m neg sat
      (if !f.hasInf && !sat && f.nan.isSome then canonicalNan code else signed f neg o, flagOF ||| flagNX)
    else
      let tiny := if arith then tinyUnbounded f m neg num den else decide (mag < 2 ^ f.manBits)
      (signed f neg mag, flagIf (!exact) flagNX ||| flagIf (tiny && !exact) flagUF)

/-- fmt.FZ on an fp32 result: a subnormal becomes a zero of its sign, with underflow and inexact (R153). -/
def flushResult (fz : Bool) (code : Nat) (r : Nat × Sticky) : Nat × Sticky :=
  let mag := r.1 % 2 ^ 31
  if fz && code == 8 && mag != 0 && decide (mag < 2 ^ 23) then
    (r.1 / 2 ^ 31 * 2 ^ 31, r.2 ||| flagUF ||| flagNX)
  else r

/-- fmt.FZ on an fp32 source (R153). -/
def flushSource (fz : Bool) (code x : Nat) : Nat :=
  let mag := x % 2 ^ 31
  if fz && code == 8 && mag != 0 && decide (mag < 2 ^ 23) then x / 2 ^ 31 * 2 ^ 31 else x

/-! ### Conversion of one element (R151, R152) -/

/-- A floating-point value into a floating-point format. -/
def toFloat (code : Nat) (m : Rm) (sat : Bool) (v : Fv) : Nat × Sticky :=
  let f := floatFormat code
  match v with
  | .nan => (canonicalNan code, flagIf f.nan.isNone flagNV)
  | .inf neg =>
    if f.hasInf then (if sat then (signed f neg f.maxMag, flagOF) else (signed f neg (f.maxMag + 1), 0))
    else if f.nan.isSome && !sat then (canonicalNan code, flagNV)
    else (signed f neg f.maxMag, flagNV ||| flagOF)
  | .fin neg num den => roundFinite code m sat false neg num den

/-- The least value of an integer format. -/
def intMin (code : Nat) : Int := if isSignedCode code then -(2 ^ (containerBits code - 1) : Int) else 0
/-- The greatest value of an integer format. -/
def intMax (code : Nat) : Int :=
  if isSignedCode code then (2 ^ (containerBits code - 1) : Int) - 1 else (2 ^ containerBits code : Int) - 1

/-- An integer as the bits of an integer format, modulo 2^N. -/
def intBits (code : Nat) (z : Int) : Nat := (z % (2 ^ containerBits code : Int)).toNat

/-- The value of an integer encoding (R149). -/
def decodeInt (code x : Nat) : Int :=
  let w := containerBits code
  let y := x % 2 ^ w
  if isSignedCode code && decide (2 ^ (w - 1) ≤ y) then (y : Int) - 2 ^ w else y

/-- Clamp, with the saturation flag. -/
def clampInt (code : Nat) (z : Int) : Int × Sticky :=
  if z < intMin code then (intMin code, flagQC) else if intMax code < z then (intMax code, flagQC) else (z, 0)

/-- A floating-point value into an integer format. -/
def toInt (code : Nat) (m : Rm) (v : Fv) : Nat × Sticky :=
  match v with
  | .nan => (0, flagNV)
  | .inf neg => (intBits code (if neg then intMin code else intMax code), flagNV)
  | .fin neg num den =>
    let (k, exact) := roundUnits m neg num den 0
    let z : Int := if neg then -(k : Int) else k
    let (r, q) := clampInt code z
    (intBits code r, q ||| flagIf (!exact) flagNX)

/-- The exact value of an integer. -/
def ofInt (z : Int) : Fv := .fin (decide (z < 0)) z.natAbs 1

/-- One element from a source format to a target format (R150 to R153): codes 0x0 to 0xF. -/
def convertElement (src tgt : Nat) (m : Rm) (sat fz : Bool) (x : Nat) : Nat × Sticky :=
  if isFloatCode src then
    let v := decodeFloat src (flushSource fz src x)
    if isFloatCode tgt then flushResult fz tgt (toFloat tgt m sat v) else toInt tgt m v
  else
    let z := decodeInt src x
    if isFloatCode tgt then flushResult fz tgt (toFloat tgt m sat (ofInt z))
    else if sat then let (r, q) := clampInt tgt z; (intBits tgt r, q) else (intBits tgt z, 0)

/-! ### Exact arithmetic (R202, R203) -/

/-- The exact sum of two finite values as a signed quotient. -/
def sumFinite (rd : Bool) (na : Bool) (a da : Nat) (nb : Bool) (b db : Nat) : Fv :=
  let x : Int := (if na then -(a : Int) else a) * db + (if nb then -(b : Int) else b) * da
  if x = 0 then .fin (if a = 0 ∧ b = 0 ∧ na = nb then na else rd) 0 1
  else .fin (decide (x < 0)) x.natAbs (da * db)

/-- a + b with its invalid case; `rd`: the mode is RD, which makes an exact zero sum −0. -/
def fAdd (rd : Bool) : Fv → Fv → Fv × Sticky
  | .nan, _ => (.nan, 0)
  | _, .nan => (.nan, 0)
  | .inf s, .inf t => if s = t then (.inf s, 0) else (.nan, flagNV)
  | .inf s, .fin _ _ _ => (.inf s, 0)
  | .fin _ _ _, .inf t => (.inf t, 0)
  | .fin na a da, .fin nb b db => (sumFinite rd na a da nb b db, 0)

/-- The sign inverted. -/
def fNeg : Fv → Fv
  | .nan => .nan
  | .inf s => .inf (!s)
  | .fin s n d => .fin (!s) n d

/-- a × b with its invalid case. -/
def fMul : Fv → Fv → Fv × Sticky
  | .nan, _ => (.nan, 0)
  | _, .nan => (.nan, 0)
  | .inf s, .inf t => (.inf (s != t), 0)
  | .inf s, .fin t n _ => if n = 0 then (.nan, flagNV) else (.inf (s != t), 0)
  | .fin s n _, .inf t => if n = 0 then (.nan, flagNV) else (.inf (s != t), 0)
  | .fin s n d, .fin t k e => (.fin (s != t) (n * k) (d * e), 0)

/-- a × b + c, exact: 0 × ∞ is invalid even when c is a NaN. -/
def fFma (rd : Bool) (a b c : Fv) : Fv × Sticky :=
  let (p, q) := fMul a b
  if q ≠ 0 then (.nan, q) else fAdd rd p c

/-- a / b with its invalid and division-by-zero cases. -/
def fDiv : Fv → Fv → Fv × Sticky
  | .nan, _ => (.nan, 0)
  | _, .nan => (.nan, 0)
  | .inf _, .inf _ => (.nan, flagNV)
  | .inf s, .fin t _ _ => (.inf (s != t), 0)
  | .fin s _ _, .inf t => (.fin (s != t) 0 1, 0)
  | .fin s n d, .fin t k e =>
    if k = 0 then (if n = 0 then (.nan, flagNV) else (.inf (s != t), flagDZ))
    else (.fin (s != t) (n * e) (d * k), 0)

/-- The rounding of an exact result into the type (R202): NaN is canonical, fmt.SAT does not act. -/
def roundArith (code : Nat) (m : Rm) (fz : Bool) (r : Fv × Sticky) : Nat × Sticky :=
  let f := floatFormat code
  match r.1 with
  | .nan => (canonicalNan code, r.2)
  | .inf neg => (signed f neg (f.maxMag + 1), r.2)
  | .fin neg num den =>
    let (x, q) := flushResult fz code (roundFinite code m false true neg num den)
    (x, q ||| r.2)

/-- The source value of an element, flushed (R153). -/
def sourceValue (code : Nat) (fz : Bool) (x : Nat) : Fv := decodeFloat code (flushSource fz code x)

/-! ### Comparison (R204, R205) -/

/-- The sign of the difference a − b of two numbers; −0 and +0 are equal. None when unordered. -/
def fCompare : Fv → Fv → Option Int
  | .nan, _ => none
  | _, .nan => none
  | .inf s, .inf t => some (if s = t then 0 else if s then -1 else 1)
  | .inf s, .fin _ _ _ => some (if s then -1 else 1)
  | .fin _ _ _, .inf t => some (if t then 1 else -1)
  | .fin na a da, .fin nb b db =>
    some ((if na then -(a : Int) else a) * db - (if nb then -(b : Int) else b) * da)

/-- Is the sign negative? -/
def Fv.isNeg : Fv → Bool
  | .nan => false
  | .inf s => s
  | .fin s _ _ => s

/-- VFMIN and VFMAX on encodings (R204): canonical NaN for a NaN, −0 below +0. -/
def fMinMax (isMax : Bool) (code : Nat) (fz : Bool) (x y : Nat) : Nat :=
  let x := flushSource fz code x
  let y := flushSource fz code y
  let a := decodeFloat code x
  let b := decodeFloat code y
  match fCompare a b with
  | none => canonicalNan code
  | some c =>
    let less := decide (c < 0) || (c == 0 && a.isNeg && !b.isNeg)
    if less != isMax then x else y

/-- The conditions of R205. -/
def fCondition (cond : Nat) (a b : Fv) : Bool :=
  match fCompare a b with
  | none => cond == 1 || cond == 6
  | some c =>
    match cond with
    | 0 => c == 0
    | 1 => c != 0
    | 2 => decide (c < 0)
    | 3 => decide (c ≤ 0)
    | 4 => decide (0 < c)
    | 5 => decide (0 ≤ c)
    | 6 => false
    | _ => true

/-- The rounding mode of the format register: fmt.RM (R160). -/
def rmOfFmt (fmt : Word32) : Rm :=
  match (fmt.extractLsb' 14 2).toNat with
  | 0 => .rne
  | 1 => .rz
  | 2 => .ru
  | _ => .rd

/-- fmt.FZ. -/
def fmtFZ (fmt : Word32) : Bool := fmt.getLsbD 12
/-- fmt.SAT. -/
def fmtSAT (fmt : Word32) : Bool := fmt.getLsbD 13
/-- fmt.SRE. -/
def fmtSRE (fmt : Word32) : Bool := fmt.getLsbD 16
/-- fmt.SEED. -/
def fmtSEED (fmt : Word32) : Nat := (fmt.extractLsb' 17 3).toNat
/-- The asymmetric group size of fmt.GS (R160). -/
def fmtGroup (fmt : Word32) : Nat := 32 * 2 ^ (fmt.extractLsb' 20 2).toNat
/-- fmt.AFMT. -/
def fmtA (fmt : Word32) : Nat := (fmt.extractLsb' 27 5).toNat
/-- fmt.BFMT. -/
def fmtB (fmt : Word32) : Nat := (fmt.extractLsb' 22 5).toNat

/-- The RND modifier of the arithmetic instructions: 0 is fmt.RM (R202). -/
def rmOfRnd (fmt : Word32) (rnd : Nat) : Rm :=
  match rnd with
  | 1 => .rne
  | 2 => .rz
  | 3 => .ru
  | 4 => .rd
  | _ => rmOfFmt fmt

/-- Is the mode RD (R202, exact zeros)? -/
def Rm.isRd : Rm → Bool
  | .rd => true
  | _ => false

/-- A write of the format register, field by field (R7, R160): a reserved AFMT or BFMT code, or GS of 3, keeps its
field; reserved bits are dropped. -/
def writeFmt (old new : Word32) : Word32 :=
  let a := if (new.extractLsb' 27 5).toNat < 0x1B then new.extractLsb' 27 5 else old.extractLsb' 27 5
  let b := if (new.extractLsb' 22 5).toNat < 0x1B then new.extractLsb' 22 5 else old.extractLsb' 22 5
  let g := if (new.extractLsb' 20 2).toNat < 3 then new.extractLsb' 20 2 else old.extractLsb' 20 2
  a ++ b ++ g ++ new.extractLsb' 12 8 ++ 0#12

end Sys2Proof.Machine
end

