-- ==== Sys2Proof/Machine/LaneAlu.lean ====
section
/-! DEFINITION. The element operations of the lane integer, packed and floating-point instructions (06_lane_arith.md
R195 to R205) on plain words. -/

namespace Sys2Proof.Machine

/-- The value of a 32-bit word by type: signed for i32, unsigned for n32 (R195). -/
def wordValue (uns : Bool) (x : Word32) : Int := if uns then x.toNat else x.toInt

/-- The least and greatest value of a `w`-bit type. -/
def typeRange (uns : Bool) (w : Nat) : Int × Int :=
  if uns then (0, 2 ^ w - 1) else (-(2 ^ (w - 1)), 2 ^ (w - 1) - 1)

/-- An exact result clamped to the type's range, with QC on a clamp (R198). -/
def saturate (uns : Bool) (w : Nat) (t : Int) : Int × Sticky :=
  let (lo, hi) := typeRange uns w
  if t < lo then (lo, flagQC) else if hi < t then (hi, flagQC) else (t, 0)

/-- The saturated result as a lane word. -/
def satWord (uns : Bool) (t : Int) : Word32 × Sticky :=
  let (r, q) := saturate uns 32 t
  (BitVec.ofInt 32 r, q)

/-- Leading zeros of a 32-bit word. -/
def clz32 (x : Word32) : Word32 := if x = 0 then 32 else BitVec.ofNat 32 (31 - Nat.log2 x.toNat)

/-- Number of set bits. -/
def popcount (w : Nat) (x : Nat) : Nat := (List.range w).foldl (fun n i => if x.testBit i then n + 1 else n) 0

/-- VSHL (R196). -/
def shl32 (a c : Word32) : Word32 := if 32 ≤ c.toNat then 0 else a <<< c.toNat

/-- VSHR (R196). -/
def shr32 (uns : Bool) (a c : Word32) : Word32 :=
  if uns then (if 32 ≤ c.toNat then 0 else a >>> c.toNat) else a.sshiftRight (min c.toNat 32)

/-- Floor((a + 2^(c−1)) / 2^c), or a when c = 0 (R197, R200); counts above 64 act as 64 does on these widths. -/
def roundShift (a : Int) (c : Nat) : Int :=
  if c = 0 then a
  else
    let k := min c 64
    (a + 2 ^ (k - 1)) / 2 ^ k

/-- a × 2^c before the clamp; the clamp decides for every count above 64 (R198). -/
def satShift (a : Int) (c : Nat) : Int := a * 2 ^ (min c 64)

/-- The conditions of R199. -/
def condition (cond : Nat) (a b : Int) : Bool :=
  match cond with
  | 0 => a == b
  | 1 => a != b
  | 2 => decide (a < b)
  | 3 => decide (a ≤ b)
  | 4 => decide (b < a)
  | _ => decide (b ≤ a)

/-- All ones or zero. -/
def truth (c : Bool) : Word32 := if c then 0xFFFFFFFF else 0

/-- Elementwise on the two 16-bit elements of a lane word (R200). -/
def packed16 (f : Nat → Nat → Nat × Sticky) (a b : Word32) : Word32 × Sticky :=
  let r0 := f (elementOf 16 a 0) (elementOf 16 b 0)
  let r1 := f (elementOf 16 a 1) (elementOf 16 b 1)
  (packElements 16 [r0.1, r1.1], r0.2 ||| r1.2)

/-- The value of a 16-bit element by type. -/
def halfValue (uns : Bool) (x : Nat) : Int := if uns then x else (BitVec.ofNat 16 x).toInt

/-- A result wrapped modulo 2^16. -/
def wrap16 (t : Int) : Nat := (t % 65536).toNat

/-- VPMAD2 (R201). -/
def pmad2 (uns sat : Bool) (a b c : Word32) : Word32 × Sticky :=
  let e (x : Word32) (p : Nat) := halfValue uns (elementOf 16 x p)
  let t := wordValue uns c + e a 0 * e b 0 + e a 1 * e b 1
  if sat then satWord uns t else (BitVec.ofInt 32 t, 0)

/-- An operation on each element of a floating-point type (R202): elements of one lane, and the ORed flags. -/
def floatLanes (code : Nat) (f : Nat → Nat × Sticky) (a : Word32) : Word32 × Sticky :=
  let w := containerBits code
  let rs := (List.range (epl code)).map (fun p => f (elementOf w a p))
  (packElements w (rs.map (·.1)), flagsOr (rs.map (·.2)))

/-- The same on two operands. -/
def floatLanes2 (code : Nat) (f : Nat → Nat → Nat × Sticky) (a b : Word32) : Word32 × Sticky :=
  let w := containerBits code
  let rs := (List.range (epl code)).map (fun p => f (elementOf w a p) (elementOf w b p))
  (packElements w (rs.map (·.1)), flagsOr (rs.map (·.2)))

/-- The same on three operands. -/
def floatLanes3 (code : Nat) (f : Nat → Nat → Nat → Nat × Sticky) (a b c : Word32) : Word32 × Sticky :=
  let w := containerBits code
  let rs := (List.range (epl code)).map (fun p => f (elementOf w a p) (elementOf w b p) (elementOf w c p))
  (packElements w (rs.map (·.1)), flagsOr (rs.map (·.2)))

/-- VFADD on one element. -/
def faddElement (code : Nat) (m : Rm) (fz : Bool) (x y : Nat) : Nat × Sticky :=
  roundArith code m fz (fAdd m.isRd (sourceValue code fz x) (sourceValue code fz y))
/-- VFSUB on one element. -/
def fsubElement (code : Nat) (m : Rm) (fz : Bool) (x y : Nat) : Nat × Sticky :=
  roundArith code m fz (fAdd m.isRd (sourceValue code fz x) (fNeg (sourceValue code fz y)))
/-- VFMUL on one element. -/
def fmulElement (code : Nat) (m : Rm) (fz : Bool) (x y : Nat) : Nat × Sticky :=
  roundArith code m fz (fMul (sourceValue code fz x) (sourceValue code fz y))
/-- VFMA on one element. -/
def fmaElement (code : Nat) (m : Rm) (fz : Bool) (x y z : Nat) : Nat × Sticky :=
  roundArith code m fz (fFma m.isRd (sourceValue code fz x) (sourceValue code fz y) (sourceValue code fz z))
/-- VFDIV on one element. -/
def fdivElement (code : Nat) (m : Rm) (fz : Bool) (x y : Nat) : Nat × Sticky :=
  roundArith code m fz (fDiv (sourceValue code fz x) (sourceValue code fz y))

/-- VFABS and VFNEG on one element: the sign cleared or inverted, a NaN canonical (R203). -/
def fsignElement (neg : Bool) (code : Nat) (fz : Bool) (x : Nat) : Nat × Sticky :=
  let x := flushSource fz code x
  let half := 2 ^ (containerBits code - 1)
  match decodeFloat code x with
  | .nan => (canonicalNan code, 0)
  | _ => (if neg then (if x < half then x + half else x - half) else x % half, 0)

/-- VFCMP on one element: all ones or zero (R205). -/
def fcmpElement (code cond : Nat) (fz : Bool) (x y : Nat) : Nat × Sticky :=
  (if fCondition cond (sourceValue code fz x) (sourceValue code fz y) then 2 ^ containerBits code - 1 else 0, 0)

/-! ### Scalar integer operations (R188 to R190) -/

/-- Leading zeros of a 64-bit word. -/
def clz64 (x : Word64) : Word64 := if x = 0 then 64 else BitVec.ofNat 64 (63 - Nat.log2 x.toNat)

/-- Trailing zeros from bit `i` on, `n` bits to look at. -/
def ctzFrom : Nat → Word64 → Nat → Nat
  | 0, _, i => i
  | n + 1, x, i => if x.getLsbD i then i else ctzFrom n x (i + 1)

/-- Trailing zeros of a 64-bit word. -/
def ctz64 (x : Word64) : Word64 := BitVec.ofNat 64 (ctzFrom 64 x 0)

/-- DIV (R190). -/
def divSigned (a b : Word64) : Word64 := if b = 0 then -1 else BitVec.ofInt 64 (a.toInt.tdiv b.toInt)
/-- REM (R190). -/
def remSigned (a b : Word64) : Word64 := if b = 0 then a else BitVec.ofInt 64 (a.toInt.tmod b.toInt)
/-- DIVU (R190). -/
def divUnsigned (a b : Word64) : Word64 := if b = 0 then -1 else BitVec.ofNat 64 (a.toNat / b.toNat)
/-- REMU (R190). -/
def remUnsigned (a b : Word64) : Word64 := if b = 0 then a else BitVec.ofNat 64 (a.toNat % b.toNat)
/-- MULH (R188). -/
def mulHigh (a b : Word64) : Word64 := BitVec.ofInt 64 (a.toInt * b.toInt / 2 ^ 64)
/-- MULHU (R188). -/
def mulHighUnsigned (a b : Word64) : Word64 := BitVec.ofNat 64 (a.toNat * b.toNat / 2 ^ 64)

end Sys2Proof.Machine
end

