-- ==== Sys2Proof/Machine/Blocks.lean ====
section
/-! DEFINITION. Microscaled blocks, asymmetric groups, block rotation, tags and the stochastic-rounding generator
(05_formats.md R154 to R168), on plain values. -/

namespace Sys2Proof.Machine

/-! ### The generator (R155) -/

/-- One draw: the new generator state, which is also the value drawn. -/
def drawNext (g : Word32) : Word32 :=
  let g := g ^^^ (g <<< 13)
  let g := g ^^^ (g >>> 17)
  g ^^^ (g <<< 5)

/-- The first `n` draws of a generator, in order. -/
def draws : Nat → Word32 → List Word32
  | 0, _ => []
  | n + 1, g => drawNext g :: draws n (drawNext g)

/-- The generator after `n` draws. -/
def drawMany : Nat → Word32 → Word32
  | 0, g => g
  | n + 1, g => drawMany n (drawNext g)

/-- The seeded state of a lane's generator. -/
def seedGenerator (w : Word32) (gen : BitVec 16) (lane : Nat) : Word32 :=
  let h := w ^^^ (gen.zeroExtend 32 * 0x00010001) ^^^ (BitVec.ofNat 32 ((lane + 1) * 0x9E3779B9))
  if h = 0 then 0x6D2B79F5 else h

/-! ### Tags (R163) -/

/-- One byte into CRC-16/CCITT-FALSE: the bits that remain. -/
def crc16Bits : Nat → BitVec 16 → BitVec 16
  | 0, c => c
  | n + 1, c => crc16Bits n (if c.getLsbD 15 then (c <<< 1) ^^^ 0x1021 else c <<< 1)

/-- One byte into CRC-16/CCITT-FALSE. -/
def crc16Byte (c : BitVec 16) (b : Byte) : BitVec 16 := crc16Bits 8 (c ^^^ (b.zeroExtend 16 <<< 8))

/-- The tag of a seed: S and BS (R163). -/
def seedTag (s : BitVec 64) (bs : Bool) : BitVec 16 :=
  let c := ((if bs then 0x40#8 else 0x20#8) :: littleEndian 8 s.toNat).foldl crc16Byte 0xFFFF
  if c = 0 then 1 else c

/-! ### Block formats -/

/-- The element format under a microscaled code (R156). -/
def mxBase (code : Nat) : Nat :=
  match code with
  | 0x11 => 0x4
  | 0x12 => 0xB
  | 0x13 => 0xC
  | 0x14 => 0xD
  | 0x15 => 0xE
  | _ => 0xF

/-- emax of R157. -/
def mxEmax (code : Nat) : Int :=
  match code with
  | 0x11 => 0
  | 0x12 => 8
  | 0x13 => 15
  | 0x14 => 2
  | 0x15 => 4
  | _ => 2

/-- A value times a power of two. -/
def Fv.scale (v : Fv) (e : Int) : Fv :=
  match v with
  | .fin neg n d => if 0 ≤ e then .fin neg (n * 2 ^ e.toNat) d else .fin neg n (d * 2 ^ (-e).toNat)
  | .nan => .nan
  | .inf s => .inf s

/-- Is the value a NaN or an infinity? -/
def Fv.special : Fv → Bool
  | .fin _ _ _ => false
  | _ => true

/-- Is the value a zero? -/
def Fv.isZero : Fv → Bool
  | .fin _ n _ => n == 0
  | _ => false

/-- The value of an element of a plain format (R146, R149), fp32 flushed by `fz`. -/
def plainValue (code : Nat) (fz : Bool) (x : Nat) : Fv :=
  if isFloatCode code then sourceValue code fz x else ofInt (decodeInt code x)

/-- The value of a microscaled element under its scale byte (R156). -/
def mxValue (code scale x : Nat) : Fv :=
  if scale = 0xFF then .nan
  else
    let v := if code = 0x11 then scaled (decide (decodeInt 0x4 x < 0)) (decodeInt 0x4 x).natAbs (-6)
      else decodeFloat (mxBase code) x
    v.scale ((scale : Int) - 127)

/-- The value of an asymmetric element under its parameter word (R158): a product with `q − z` = 0 is NaN under an infinite scale and −0
under a negative one (DESIGN CHOICE, log entry 99). -/
def qiValue (param : Word32) (x : Nat) : Fv :=
  let d := decodeFloat 0x9 (param.toNat % 2 ^ 16)
  let z : Nat := param.toNat / 2 ^ 16 % 256
  (fMul d (ofInt ((x : Int) - (z : Int)))).1

/-- Compare magnitudes of finite values: is |a| < |b|? -/
def Fv.absLt (a b : Fv) : Bool :=
  match a, b with
  | .fin _ n d, .fin _ k e => decide (n * e < k * d)
  | _, _ => false

/-- The finite value of greatest magnitude. -/
def maxAbs (l : List Fv) : Fv := l.foldl (fun a b => if a.absLt b then b else a) (.fin false 0 1)

/-- floor(log2 |v|) of a finite non-zero value. -/
def Fv.ilog (v : Fv) : Int :=
  match v with
  | .fin _ n d => ilog2 n d
  | _ => 0

/-- One element of a microscaled block from a value already scaled by 2^−X (R157, step 4). -/
def mxElement (code : Nat) (m : Rm) (v : Fv) : Nat × Sticky :=
  if code = 0x11 then
    match v with
    | .fin neg n d =>
      let (k, exact) := roundUnits m neg (64 * n) d 0
      let r := if 127 < k then 127 else k
      (intBits 0x4 (if neg then -(r : Int) else r), flagIf (127 < k) flagQC ||| flagIf (!exact) flagNX)
    | _ => (0, 0)
  else toFloat (mxBase code) m true v

/-- Quantising a block of exact values (R157): the scale byte, the elements and the flags.  `ms` gives each element's
rounding. -/
def mxQuantise (code : Nat) (ms : List Rm) (vs : List Fv) : Nat × List Nat × Sticky :=
  if vs.any Fv.special then (0xFF, vs.map (fun _ => 0), flagNV)
  else if vs.all Fv.isZero then (0, vs.map (fun _ => 0), 0)
  else
    let x := max (-127) (min 127 ((maxAbs vs).ilog - mxEmax code))
    let es := (ms.zip vs).map (fun p => mxElement code p.1 (p.2.scale (-x)))
    ((x + 127).toNat, es.map (·.1), flagsOr (es.map (·.2)))

/-- a < b of finite values. -/
def Fv.lt (a b : Fv) : Bool :=
  match fCompare a b with
  | some c => decide (c < 0)
  | none => false

/-- Quantising a group of exact values into qi`b` (R159): the parameter word, the elements and the flags.  The rounding of `d` to
fp16 raises its flags and that of `z` none (DESIGN CHOICE, log entry 84). -/
def qiQuantise (b : Nat) (ms : List Rm) (vs : List Fv) : Word32 × List Nat × Sticky :=
  let top : Nat := 2 ^ b - 1
  if vs.any Fv.special then (0x00007E00, vs.map (fun _ => 0), flagNV)
  else
    let zero := Fv.fin false 0 1
    let lo := vs.foldl (fun a v => if v.lt a then v else a) zero
    let hi := vs.foldl (fun a v => if a.lt v then v else a) zero
    let span := (fAdd false hi (fNeg lo)).1
    let (d, z, q) : Nat × Nat × Sticky :=
      if span.isZero then (0x3C00, 0, 0)
      else
        let (d0, q) := toFloat 0x9 .rne false (fDiv span (ofInt top)).1
        let d := if d0 % 2 ^ 15 = 0 then 1 else if d0 % 2 ^ 15 = 0x7C00 then 0x7BFF else d0
        let z := match (fDiv (fNeg lo) (decodeFloat 0x9 d)).1 with
          | .fin _ n e => min top (roundUnits .rne false n e 0).1
          | _ => 0
        (d, z, q)
    let one (p : Rm × Fv) : Nat × Sticky :=
      match (fDiv p.2 (decodeFloat 0x9 d)).1 with
      | .fin neg n e =>
        let (k, exact) := roundUnits p.1 neg n e 0
        let r : Int := (if neg then -(k : Int) else k) + z
        let c := max 0 (min (top : Int) r)
        (c.toNat, flagIf (c ≠ r) flagQC ||| flagIf (!exact) flagNX)
      | _ => (0, 0)
    let es := (ms.zip vs).map one
    (BitVec.ofNat 32 (z * 2 ^ 16 + d), es.map (·.1), q ||| flagsOr (es.map (·.2)))

/-! ### Rotation (R164) -/

/-- H_n times a vector of 2^k integers. -/
def hadamard : Nat → List Int → List Int
  | 0, l => l
  | k + 1, l =>
    let a := l.take (2 ^ k)
    let b := l.drop (2 ^ k)
    hadamard k (a.zipWith (· + ·) b) ++ hadamard k (a.zipWith (· - ·) b)

/-- diag(s) times a vector: the sign bits of S. -/
def applySigns (s : BitVec 64) (l : List Int) : List Int :=
  l.zipIdx.map (fun p => if s.getLsbD p.2 then -p.1 else p.1)

/-- log2 of the block size: 5 for 32, 6 for 64. -/
def blockLog (n : Nat) : Nat := if n = 64 then 6 else 5

/-- An integer times 2^e, as a value; a zero is +0. -/
def ofScaledInt (q : Int) (e : Int) : Fv := (Fv.fin (decide (q < 0)) q.natAbs 1).scale e

/-- RotateForward: exact after the alignment of its elements. -/
def rotateForward (s : BitVec 64) (xs : List Fv) : List Fv :=
  if xs.all Fv.isZero then xs.map (fun _ => .fin false 0 1)
  else
    let f := 27 - (maxAbs xs).ilog
    let aligned := xs.map fun v => match v.scale f with
      | .fin neg n d => let k : Int := (roundUnits .rne neg n d 0).1; if neg then -k else k
      | _ => 0
    (hadamard (blockLog xs.length) (applySigns s aligned)).map (fun q => ofScaledInt q (-f))

/-- RotateInverse: exact whatever the spread of exponents. -/
def rotateInverse (s : BitVec 64) (ys : List Fv) : List Fv :=
  let whole := ys.map fun v => match v with
    | .fin neg n d => let k : Int := n * 2 ^ 300 / d; if neg then -k else k
    | _ => 0
  let k := blockLog ys.length
  (applySigns s (hadamard k whole)).map (fun q => ofScaledInt q (-(300 + (k : Int))))

/-- A list in pieces of `n`. -/
def chunks (n : Nat) : Nat → List α → List (List α)
  | 0, _ => []
  | k + 1, l => l.take n :: chunks n k (l.drop n)

end Sys2Proof.Machine
end

