-- ==== Sys2Proof/Config.lean ====
section
/-! DEFINITION. What the manual leaves to the part, or leaves open: opaque constants without a value, so that no
proof can lean on one.  Each is named in a row of the assumption log. -/

namespace Sys2Proof.Config

/-- The fixed function of its source bits that an approximate special function computes (06_lane_arith.md R206): the
function's opcode, the type code and the source element give an encoding, which stands where it meets R206's bound. -/
opaque sfuResult : Nat → Nat → BitVec 32 → BitVec 32

/-- A free choice, fresh for each count: used where the manual allows two outcomes. -/
opaque freeBit : Nat → Bool

/-- A free byte, fresh for each count. -/
opaque freeByte : Nat → BitVec 8

/-- Which of the two values that a last-use drop left to a byte a read returns: by its physical address and the time of the
read (09_memory.md R299). -/
opaque dropBit : Nat → Nat → Bool

/-- The package time counter of another package of the domain, by package and time, which reaches the device with the lines
that package serves (10_visibility.md R324). -/
opaque peerClock : Nat → Nat → BitVec 64

/-- A free 64-bit value, fresh for each count. -/
opaque freeWord : Nat → BitVec 64

/-- The secret fused into the device (R448). -/
opaque fusedSecret : List (BitVec 8)

/-- The device's private keys, Ed25519 and ML-DSA-65, derived from the fused secret at every bring-up (R448). -/
opaque deriveEd25519 : List (BitVec 8) → List (BitVec 8)

/-- The second derivation. -/
opaque deriveMlDsa : List (BitVec 8) → List (BitVec 8)

/-- The public key of a private one, with its Kerip certificate (R448): Ed25519. -/
opaque publicEd25519 : List (BitVec 8) → List (BitVec 64)

/-- The same, ML-DSA-65. -/
opaque publicMlDsa : List (BitVec 8) → List (BitVec 64)

/-- The Ed25519 signature of a message under a private key (R449). -/
opaque signEd25519 : List (BitVec 8) → List (BitVec 8) → BitVec 512

/-- The ML-DSA-65 signature. -/
opaque signMlDsa : List (BitVec 8) → List (BitVec 8) → BitVec 26472

/-- Kerip's public keys in ROM (R447). -/
opaque romEd25519 : List (BitVec 8)

/-- The second one. -/
opaque romMlDsa : List (BitVec 8)

/-- Their fused SHA-384 digests (R447). -/
opaque fusedEd25519 : BitVec 384

/-- The second one. -/
opaque fusedMlDsa : BitVec 384

/-- An Ed25519 signature, the third argument, of a message verifies under a public key (R447). -/
opaque verifyEd25519 : List (BitVec 8) → List (BitVec 8) → List (BitVec 8) → Bool

/-- The same, ML-DSA-65. -/
opaque verifyMlDsa : List (BitVec 8) → List (BitVec 8) → List (BitVec 8) → Bool

/-- The firmware revision that a patch brings (R438). -/
opaque patchRevision : List (BitVec 8) → BitVec 32

end Sys2Proof.Config
end

