-- ==== Sys2Proof/Machine/Sparse.lean ====
section
/-! DEFINITION. The two containers of the state.  `Sparse w` is a map from naturals to words of `w` bits in ONE canonical
form: keys strictly rising, no entry zero, so that equal maps are equal lists; an unlisted key reads zero.  Memory is
`Sparse 8`, a list of `Host.Cell`.  `Table α` is a list of keyed records, keys strictly rising. -/

namespace Sys2Proof.Machine

/-- A map from naturals to `w`-bit words; what is not listed is zero. -/
abbrev Sparse (w : Nat) := List (Nat × BitVec w)

/-- The word at a key. -/
def Sparse.get {w : Nat} : Sparse w → Nat → BitVec w
  | [], _ => 0
  | (k, v) :: m, a => if a = k then v else Sparse.get m a

/-- The map without a key. -/
def Sparse.erase {w : Nat} : Sparse w → Nat → Sparse w
  | [], _ => []
  | (k, v) :: m, a => if a = k then Sparse.erase m a else (k, v) :: Sparse.erase m a

/-- The map with an entry more, at its place. -/
def Sparse.insert {w : Nat} : Sparse w → Nat → BitVec w → Sparse w
  | [], a, x => [(a, x)]
  | (k, v) :: m, a, x => if a < k then (a, x) :: (k, v) :: m else (k, v) :: Sparse.insert m a x

/-- The map with the word at a key replaced; a zero is not listed. -/
def Sparse.set {w : Nat} (m : Sparse w) (a : Nat) (x : BitVec w) : Sparse w :=
  if x = 0 then Sparse.erase m a else Sparse.insert (Sparse.erase m a) a x

/-- Keys strictly rising from a bound, no zero word. -/
def Sparse.wfFrom {w : Nat} : Nat → Sparse w → Bool
  | _, [] => true
  | b, (k, v) :: m => decide (b ≤ k) && v != 0 && Sparse.wfFrom (k + 1) m

/-- The canonical form. -/
def Sparse.wf {w : Nat} (m : Sparse w) : Bool := Sparse.wfFrom 0 m

/-- Words written one after another from a key. -/
def Sparse.setList {w : Nat} : Sparse w → Nat → List (BitVec w) → Sparse w
  | m, _, [] => m
  | m, a, x :: xs => Sparse.setList (Sparse.set m a x) (a + 1) xs

/-- `n` words from a key. -/
def Sparse.getList {w : Nat} (m : Sparse w) : Nat → Nat → List (BitVec w)
  | _, 0 => []
  | a, n + 1 => Sparse.get m a :: Sparse.getList m (a + 1) n

/-- The entries outside the keys `a` to `a + n − 1`. -/
def Sparse.clear {w : Nat} (m : Sparse w) (a n : Nat) : Sparse w :=
  m.filter (fun c => decide (c.1 < a) || decide (a + n ≤ c.1))

/-- The entries at the keys `a` to `a + n − 1`. -/
def Sparse.range {w : Nat} (m : Sparse w) (a n : Nat) : Sparse w :=
  m.filter (fun c => decide (a ≤ c.1) && decide (c.1 < a + n))

/-- Records by key. -/
abbrev Table (α : Type) := List (Nat × α)

/-- The record at a key. -/
def Table.find {α : Type} : Table α → Nat → Option α
  | [], _ => none
  | (k, v) :: m, a => if a = k then some v else Table.find m a

/-- The record at a key, or a default. -/
def Table.getD {α : Type} (m : Table α) (a : Nat) (d : α) : α := (Table.find m a).getD d

/-- The table with the record at a key replaced or added. -/
def Table.put {α : Type} : Table α → Nat → α → Table α
  | [], a, x => [(a, x)]
  | (k, v) :: m, a, x =>
    if a < k then (a, x) :: (k, v) :: m else if a = k then (a, x) :: m else (k, v) :: Table.put m a x

/-- The table without the record at a key. -/
def Table.erase {α : Type} (m : Table α) (a : Nat) : Table α := m.filter (fun c => c.1 != a)

/-- Keys strictly rising from a bound. -/
def Table.wfFrom {α : Type} : Nat → Table α → Bool
  | _, [] => true
  | b, (k, _) :: m => decide (b ≤ k) && Table.wfFrom (k + 1) m

/-! ### Sorted lists -/

/-- An element put before the first that it does not follow. -/
def insertBy {α : Type} (le : α → α → Bool) (x : α) : List α → List α
  | [] => [x]
  | y :: l => if le x y then x :: y :: l else y :: insertBy le x l

/-- A list in order, equals in their order of appearance. -/
def sortBy {α : Type} (le : α → α → Bool) : List α → List α
  | [] => []
  | x :: l => insertBy le x (sortBy le l)

end Sys2Proof.Machine
end

