-- ==== Sys2Proof/Machine/State.lean ====
section
/-! DEFINITION. The state of the TJ9: every piece of state the manual gives the machine, as plain data, and the state
right after reset.  INVENTORY.md lists each field with the rule that names it. -/

namespace Sys2Proof.Machine

/-! ### Outcomes that stop -/

/-- The machine stops with a fault.  No instruction of the base set raises one: every trap, park and halt that the
manual describes is a next state. -/
inductive Fault where
  /-- Raised by nothing the manual describes; kept so that the type has a value.  Safe: no step answers it. -/
  | none
  deriving DecidableEq, Repr

/-- A step has no meaning. -/
inductive Refusal where
  /-- An arm of `exec` that has no meaning yet.  Safe: no step is taken. -/
  | notModelled (mnemonic : String)
  deriving DecidableEq, Repr

/-! ### Waves -/

/-- Residency states (R73). -/
inductive Residency where
  | active | ready | waiting | parked | swapped | retired
  deriving DecidableEq, Repr

/-- PLACE of WSTAT (R64). -/
inductive Place where
  | origin
  | landing (slot : Bool)
  | transit
  deriving DecidableEq, Repr

/-- PARKC of WSTAT (R64). -/
inductive ParkCause where
  | none | ctxFault | page | emu | debugHalt | fwcall
  deriving DecidableEq, Repr

/-- STATE of a split-table entry; a free entry is not listed (R65). -/
inductive FragState where
  | live | waiting | handler
  deriving DecidableEq, Repr

/-- A split-table entry (R65), and the selector's record of its stream (R112, R113). -/
structure SplitEntry where
  lpc : BitVec 32
  rga : BitVec 32
  clink : BitVec 32
  tlink : BitVec 32
  lmask : BitVec 32
  fmtc : BitVec 32
  parent : BitVec 5
  state : FragState
  latv : BitVec 4
  chain : BitVec 3
  clv : Bool
  tlv : Bool
  npart : BitVec 6
  fmask : BitVec 32
  /-- FMASK is kept for a handler's return (R409): it is no replay of the handler's own instructions -/
  keeps : Bool
  /-- the FMASK lanes await the first execution of their instruction: a trap came before it (R409) -/
  unrun : Bool := false
  /-- the fragment is held at its instruction: a held trap (R406), a second lane trap (R124) -/
  held : Bool
  /-- time at which the stream last became ready (R112) -/
  age : Nat
  /-- boosted (R112) -/
  boost : Bool
  /-- a backward branch was taken since the last store and the last release (R113) -/
  backward : Bool
  /-- the fragment waits for split entries since a time (R119, R120) -/
  entryWait : Option Nat
  /-- the fragment waits in ITEMNEXT (R140) -/
  itemWait : Bool
  /-- the ITEMNEXT that it waits in -/
  itemArgs : Option LaneArgs := none
  deriving DecidableEq, Repr

/-- A lane-queue save entry (R67). -/
structure LaneBlock where
  pc : BitVec 64
  k : List (BitVec 64)
  fmt : BitVec 32
  started : Bool
  deriving DecidableEq, Repr

/-- What a trap records before it is taken (R400, R404, R405). -/
structure TrapInfo where
  code : BitVec 8
  detail : BitVec 24
  addr : BitVec 64
  lanes : BitVec 32
  pc : BitVec 64
  /-- raised by a lane instruction, and its split entry -/
  frag : Option Nat
  /-- raised by TRAP or VTRAP -/
  sw : Bool
  /-- not resumable (R408) -/
  nr : Bool
  /-- class W -/
  stop : Bool
  /-- TRAPPC names the instruction before which the trap is taken (R417) -/
  here : Bool := false
  /-- the instruction has been executed once: what awaits its lanes is a replay (R292, R409) -/
  part : Bool := false
  deriving DecidableEq, Repr

/-- Which handler a wave runs: none, the scalar handler, or the lane handler of a split entry; and whether it serves a
wave-stop trap, which keeps the wave's other streams stopped (R401, R409). -/
structure Handler where
  frag : Option Nat
  stop : Bool
  nr : Bool
  /-- number of the last request sent before the handler began -/
  since : Nat
  /-- the trapping instruction has been executed once (R409) -/
  part : Bool := false
  deriving DecidableEq, Repr

/-- What a wave that does not issue waits for (R73), with what its instruction has already done. -/
inductive Wait where
  /-- CTXGROW: the registers asked for (R98); `failed` once R94 failed the request -/
  | grow (need : Nat) (failed : Bool)
  /-- a block barrier: its number and the phase waited for (R377) -/
  | barrier (n : Nat) (phase : BitVec 32)
  /-- a grid barrier: the object's address and the phase waited for (R379) -/
  | grid (addr : BitVec 64) (phase : BitVec 32)
  /-- engine completions: the slots, and whether one of them is enough (R362) -/
  | engine (mask : BitVec 16) (any : Bool)
  /-- child grids: the handle (R382) -/
  | join (handle : BitVec 64)
  /-- SPIN: the time at which the wait ends (R101) -/
  | spin (until_ : Nat)
  /-- every fragment waits in ITEMNEXT (R140) -/
  | item
  /-- no wait: a copy instruction stalls, with the descriptor it has read (R361) -/
  | copy (desc : BitVec 512)
  deriving DecidableEq, Repr

/-- A completion slot of a frame (R355). -/
structure CompletionSlot where
  bytes : BitVec 128
  deriving DecidableEq, Repr

/-- A wave: its context (R62 to R68), its residency (R73) and what a core keeps with its activation entry. -/
structure Wave where
  id : Nat
  /-- the wave is a CCP's firmware (R23) -/
  ccp : Bool
  frame : BitVec 64
  slot : Nat
  gen : BitVec 16
  asid : BitVec 16
  lid : BitVec 32
  blk : Nat
  widx : Nat
  depth : BitVec 4
  bx : BitVec 32
  by_ : BitVec 16
  bz : BitVec 16
  waveid : BitVec 64
  origin : BitVec 13
  core : BitVec 13
  place : Place
  residency : Residency
  parkc : ParkCause
  swapped : Bool
  /-- time of creation order: the wave's age -/
  born : Nat
  /-- time of the activation, for the hold limits of R84 and R96 -/
  since : Nat
  /-- the next activation is the first, or follows a park, a swap or a migration: TP and TD are set afresh (R325) -/
  fresh : Bool
  /-- the same of the stage budget -/
  budgetDue : Bool
  /-- a read of the stage budget has failed: it stays zero until the next STAGE (R417) -/
  budgetLost : Bool
  /-- in transit: the target (R99) -/
  target : Option (BitVec 13)
  -- registers
  v : Sparse 32
  x : Sparse 128
  sreg : Sparse 64
  m : Sparse 32
  z : Sparse 65
  o : Sparse 32
  l : Sparse 32
  gens : Sparse 32
  fmtw : BitVec 32
  regcnt : Nat
  spc : BitVec 64
  lbase : BitVec 22
  poolptr : BitVec 64
  spinf : Bool
  stage : BitVec 4
  -- lane queue and split table
  lqhead : Nat
  lq : List LaneBlock
  split : Table SplitEntry
  /-- split entries cached in the core, most recently used first (R117) -/
  splitCache : List Nat
  -- pending writes: the request of the youngest outstanding write (R88, R116)
  pendS : Sparse 64
  pendV : Sparse 64
  pendT : BitVec 64
  pendcnt : Nat
  slots : Sparse 128
  /-- TRAPF of the latest command of each completion slot (R344, R358) -/
  slotTrapf : BitVec 16
  -- special registers (R67)
  trampbase : BitVec 64
  trapbase : BitVec 64
  trapcause : BitVec 64
  trappc : BitVec 64
  trapaddr : BitVec 64
  trapmask : BitVec 64
  deadline : BitVec 64
  stagemargin : BitVec 64
  stagecnt : BitVec 64
  dbgctl : BitVec 64
  sflags : BitVec 64
  wclk : BitVec 64
  /-- WCLK at the latest SAMPLE record or write of DBGCTL (R418) -/
  sampled : BitVec 64
  /-- budget of the current stage (R417) -/
  budget : BitVec 32
  /-- base of the stage table -/
  stagetab : BitVec 64
  -- traps
  inhandler : Bool
  haltlatch : Bool
  haltAt : Nat
  haltInfo : BitVec 24
  handler : Option Handler
  heldTraps : List TrapInfo
  /-- the scalar stream is held at its instruction (R406) -/
  scalarHeld : Bool
  -- waits
  wait : Option Wait
  /-- what the current scalar instruction has already done, while it waits -/
  progress : Option Wait
  spinCount : Nat
  spinLines : List Nat
  -- thresholds and stash publication
  tp : BitVec 64
  td : BitVec 64
  lastPtc : BitVec 64
  clusterWrites : BitVec 192
  -- selector's record of the scalar stream
  age : Nat
  boost : Bool
  backward : Bool
  /-- batches the wave has closed (R270) -/
  batches : Nat
  /-- the scalar stream stalled at its last attempt to issue -/
  sstall : Bool
  /-- the activation controller has decided to take the wave off its core (R84) -/
  switching : Bool
  deriving DecidableEq, Repr

/-! ### Cores -/

/-- A chord (R225, R226): its parameter block of 64 bytes. -/
structure Chord where
  image : BitVec 512
  deriving DecidableEq, Repr

/-- A retained set (R239). -/
structure Retained where
  asid : BitVec 16
  image : BitVec 512
  base : Nat
  valid : Table (BitVec 128)
  deriving DecidableEq, Repr

/-- An L1 line (R322): its launch, its address, the clock of the home and of the package that served it, and its 128
bytes. -/
structure L1Line where
  lid : BitVec 32
  asid : BitVec 16
  line : Nat
  stamp : BitVec 64
  domStamp : BitVec 64
  data : BitVec 1024
  deriving DecidableEq, Repr

/-- The image in a core's collector (R269): the A format, run, parameter run and wave it came from, the words and sidecars
held, and the held mark. -/
structure Collector where
  fmt : BitVec 5
  run : Nat
  prun : Nat
  frame : BitVec 64
  gen : BitVec 16
  aWords : List (BitVec 32)
  pWords : List (BitVec 32)
  sides : List (BitVec 128)
  held : Bool
  deriving DecidableEq, Repr

/-- Items of a launch and its sealed flag, saved while another launch has the queue (R126). -/
structure SavedItems where
  lid : BitVec 32
  items : List (BitVec 32)
  isSealed : Bool
  deriving DecidableEq, Repr

/-- The register cache and the operand file of a core (R79, R80): the lines present, by address space and frame address,
with a mark on those written since their fill; most recently used first. -/
structure RegCache where
  rc : List (Nat × Bool)
  operand : List (Nat × Bool)
  deriving DecidableEq, Repr

/-- A core: banks, local store partitions, chord tables, queue, caches (R21, R84, R95, R218 to R243). -/
structure Core where
  /-- the launch of the active bank, and the waves that hold its entries -/
  active : Option (BitVec 32)
  activeWaves : List Nat
  /-- the launch of the shadow bank, preloaded waves, and whether the preload is complete -/
  shadow : Option (BitVec 32)
  shadowWaves : List Nat
  /-- launches first preloaded on this core, whose stash has been zeroed (R219) -/
  zeroed : List (BitVec 32)
  /-- departing waves of the shadow bank, whose state the spill engine has not written back (R91) -/
  departing : List Nat
  /-- stash bytes by local-store address -/
  store : Sparse 8
  /-- byte masks by local-store line (R230) -/
  valid : Sparse 128
  dirty : Sparse 128
  pub : Sparse 128
  /-- lines being filled, with their launch (R231) -/
  filling : List (BitVec 32 × Nat)
  /-- the fills among them that VPFT has started (R252) -/
  prefetched : List (BitVec 32 × Nat) := []
  /-- live chords: launch and number -/
  chords : List ((BitVec 32 × Nat) × Chord)
  retained : List Retained
  l1 : List L1Line
  items : List (BitVec 32 × BitVec 32)
  sealed : List (BitVec 32)
  /-- items of launches that are off the core's banks (R126) -/
  savedItems : List SavedItems
  tiles : Sparse 32
  collector : Option Collector
  /-- waves that hold the landing slots -/
  landing : List Nat
  /-- time of the last bank switch -/
  switched : Nat
  /-- the shadow bank holds the next launch's preloaded entries (R90) -/
  preloaded : Bool
  /-- the launch whose lines are departing, until the spill engine has written them back (R90, R91) -/
  spill : Option (BitVec 32)
  /-- its lines of the local store that are departing and not written back (R90, R91, R220) -/
  leaving : List Nat
  /-- launches whose accumulator tiles of this core stand in their ACCSAVE area (R85, R91) -/
  saved : List (BitVec 32)
  /-- the launch whose accumulator tiles the core holds (R91, R254) -/
  tileLid : Option (BitVec 32)
  deriving DecidableEq, Repr

/-! ### Base dies -/

/-- A cached translation (R290). -/
structure TlbEntry where
  asid : BitVec 16
  base : Nat
  size : Nat
  leaf : BitVec 64
  deriving DecidableEq, Repr

/-- A line held away from its home: a remote-data cache line (R300, R323), or a line of another package's memory in a
home L2 (R324).  `domStamp`: the clock of the package that served another package's memory; all ones for this package's
(R324). -/
structure StampedLine where
  asid : BitVec 16
  line : Nat
  stamp : BitVec 64
  domStamp : BitVec 64
  data : BitVec 1024
  deriving DecidableEq, Repr

/-- A line of a memory-side cache, with its eviction priority (R298). -/
structure CacheLine where
  line : Nat
  ep : BitVec 2
  deriving DecidableEq, Repr

/-- A directory entry (R235): the owner core and the local-store address of the block's image, with the bytes of it that the
chords of the owner map onto this block, and the key slot under which they are written. -/
structure Owner where
  core : BitVec 13
  addr : Nat
  cover : BitVec 512
  key : Nat := 0
  deriving DecidableEq, Repr

/-- A base die. -/
structure Die where
  ptc : BitVec 64
  tlb : List TlbEntry
  rdc : List StampedLine
  /-- lines of the home L2 by physical address, most recently used first; the data of those of other packages (R297,
  R324) -/
  l2 : List Nat
  remote : List StampedLine
  /-- lines of the memory-side cache, most recently used first (R297, R298) -/
  msc : List CacheLine
  /-- pages under a move lock, by physical address, with their size (R296) -/
  locks : List (Nat × Nat)
  corrected : BitVec 64
  hbmLost : Bool
  /-- ticks by which the copy is ahead of its reference, still to be removed by slewing (R395, R396) -/
  slew : Int
  deriving DecidableEq, Repr

/-! ### Requests, records -/

/-- The hint bits of an access: eviction priority and last use (R298, R299). -/
structure Hint where
  ep : BitVec 2
  lu : Bool
  deriving DecidableEq, Repr

/-- The hint of a scalar access, a fill, an engine's access or a walk (R298). -/
def Hint.normal : Hint := { ep := 1, lu := false }

/-- What a request asks of its home. -/
inductive ReqKind where
  | load (h : Hint)
  | store (ep : BitVec 2)
  /-- an atomic: its modifiers field (R339), and whether it returns a value -/
  | atomic (op : BitVec 6) (returns : Bool)
  deriving DecidableEq, Repr

/-- Where a request's data lands (R88). -/
inductive Dest where
  | none
  | scalar (d : BitVec 6) (bytes : Nat) (signed : Bool)
  | lane (n lane : Nat) (bytes : Nat) (signed : Bool)
  deriving DecidableEq, Repr

/-- Where a request stands. -/
inductive ReqStage where
  | sent
  | answered (data : BitVec 64)
  | failed (code : BitVec 8)
  | timedOut
  /-- performed after its time-out: its reply is to be discarded -/
  | late
  deriving DecidableEq, Repr

/-- An access in flight (R88, R390, R477). -/
structure Request where
  seq : Nat
  kind : ReqKind
  dest : Dest
  wave : Nat
  frame : BitVec 64
  gen : BitVec 16
  lid : BitVec 32
  /-- block of the issuer (R408) -/
  blk : Nat
  asid : BitVec 16
  core : BitVec 13
  addr : BitVec 64
  /-- the translation: physical address and key slot -/
  pa : Nat
  key : Nat
  size : Nat
  /-- the bytes to write: up to a line -/
  data : BitVec 1024
  cmp : BitVec 64
  /-- of an atomic: type code and scope -/
  type : BitVec 4
  scope : BitVec 3
  td : BitVec 64
  pc : BitVec 64
  lanes : BitVec 32
  frag : Option Nat
  /-- the latch that the value enters; 4 for none -/
  latch : Nat
  /-- PTC at issue (R390) -/
  issued : BitVec 64
  /-- time of its instruction's issue: the accesses of one instruction share it (R309, R477) -/
  at_ : Nat
  /-- a store or an atomic of the base die dropped its line since: its fill does not allocate (R321) -/
  noFill : Bool
  stage : ReqStage
  deriving DecidableEq, Repr

/-- Who waits for firmware to serve a fault record (R294, R295). -/
inductive Claimant where
  | nobody
  | wave (id : Nat)
  /-- a wave whose trap-vector entry or stage budget could not be read -/
  | vector (id : Nat) (trap : TrapInfo)
  | budget (id : Nat)
  | engine (e : Nat)
  | pair (q : Nat)
  | spill (core : Nat)
  | launch (lid : BitVec 32)
  /-- a wave whose LAUNCH waits for its pool's descriptor, with the result's register (R367, R381) -/
  | pool (id : Nat) (d : BitVec 6)
  deriving DecidableEq, Repr

/-- A fault record (R295). -/
structure FaultRecord where
  code : BitVec 8
  access : BitVec 4
  agent : BitVec 4
  second : Bool
  prot : Bool
  core : BitVec 13
  asid : BitVec 16
  time : BitVec 64
  vaddr : BitVec 64
  frame : BitVec 64
  pc : BitVec 64
  lmask : BitVec 32
  gen : BitVec 16
  detail : BitVec 16
  paddr : BitVec 64
  wave : BitVec 64
  /-- the model's: the fragment whose access it was, and who waits -/
  frag : Option Nat
  who : Claimant
  deriving DecidableEq, Repr

/-- A completion record of an event queue (R359). -/
structure EventRecord where
  time : BitVec 64
  wave : BitVec 64
  done : BitVec 32
  crc : BitVec 32
  seq : BitVec 16
  code : BitVec 8
  evtag : BitVec 8
  slot : BitVec 8
  engid : BitVec 8
  deriving DecidableEq, Repr

/-- A firmware call that waits for its service (R454): the wave, its destination, the service and its argument. -/
structure FwCall where
  wave : Nat
  dest : BitVec 6
  service : BitVec 64
  arg : BitVec 64
  deriving DecidableEq, Repr

/-- A cluster control processor (R23): its fault queue, its event queue, halts notified to it (R412), and waves that
wait for a firmware service (R454). -/
structure Ccp where
  faults : List FaultRecord
  /-- records whose issuers keep them while the queue is full (R295) -/
  held : List FaultRecord
  events : List EventRecord
  halts : List (BitVec 32 × Nat)
  calls : List FwCall
  deriving DecidableEq, Repr

/-! ### Launches -/

/-- Where a launch stands (R363 to R368). -/
inductive Phase where
  | parsed | admitted | completed
  deriving DecidableEq, Repr

/-- A launch: its record (R363) and its progress. -/
structure Launch where
  lid : BitVec 32
  record : BitVec 2048
  queue : Option Nat
  parent : Option Nat
  depth : BitVec 4
  phase : Phase
  /-- the status the launch ends with -/
  status : BitVec 8
  /-- the launch is ending: its waves have stopped (R368, R412) -/
  ending : Bool
  /-- joined by its parent (R382) -/
  joined : Bool
  parsedAt : Nat
  admittedAt : Nat
  /-- the clusters that PARTITION allowed when the launch was admitted (R442) -/
  mask : BitVec 22
  /-- the next block to place, in linear order (R370) -/
  nextBlock : Nat
  drops : BitVec 64
  debugger : Bool
  /-- package time since which the launch is stalled (R374) -/
  stalledAt : Option (BitVec 64)
  /-- granules captured, bytes used, and whether the capture overflowed (R424, R425) -/
  captured : List Nat
  capUsed : BitVec 64
  capOver : Bool
  deriving DecidableEq, Repr

/-- A frame slot: generation, returns outstanding, in use, the time it was freed (R86, R87). -/
structure PoolSlot where
  gen : BitVec 16
  pend : Nat
  live : Bool
  freed : Nat
  deriving DecidableEq, Repr

/-- A frame pool that a launch names or a reservation serves (R85). -/
structure Pool where
  asid : BitVec 16
  desc : BitVec 64
  pbase : BitVec 64
  npages : Nat
  rbud : BitVec 64
  rres : BitVec 64
  rused : BitVec 64
  accsave : BitVec 64
  slots : Table PoolSlot
  launch : Option (BitVec 32)
  /-- frame lists of POOLRES: base die, address of the list, count (R441) -/
  reserve : List (BitVec 2 × BitVec 64 × BitVec 32)
  /-- frames of the reservation in use: mapped, or holding what the CCP saves for a launch on a core (R85, R126, R225, R441) -/
  taken : List (Nat × Option (BitVec 32 × Nat))
  deriving DecidableEq, Repr

/-- A placed block: its place, its barriers (R369, R376). -/
structure Block where
  lid : BitVec 32
  blk : Nat
  cluster : Nat
  place : Nat
  created : Nat
  retired : Nat
  /-- cores on which the block has started: its chords are set (R371) -/
  started : List Nat
  /-- cores on which the block's chords have ended (R239) -/
  ended : List Nat
  halted : Bool
  /-- phase counts, arrival bits -/
  phases : Sparse 32
  arrived : Sparse 256
  deriving DecidableEq, Repr

/-- A launch queue (R365). -/
structure Queue where
  ring : BitVec 48
  k : Nat
  head : Nat
  expect : Nat
  deriving DecidableEq, Repr

/-! ### Copy engines and matrix pairs -/

/-- A command of a copy engine (R340 to R357). -/
structure EngineCmd where
  kind : BitVec 2
  desc : BitVec 512
  ctl : BitVec 64
  seed : Option (BitVec 32)
  /-- identity of the command; and, for a seed to be handed over, the predecessor's -/
  seq : Nat
  pred : Nat
  /-- the predecessor failed (R351) -/
  cancel : Bool
  wave : Nat
  frame : BitVec 64
  gen : BitVec 16
  lid : BitVec 32
  asid : BitVec 16
  pbase : BitVec 64
  /-- the core of the issuer's ORIGIN, whose control processor takes the completion record (R359) -/
  core : BitVec 13
  waveid : BitVec 64
  /-- SEQ of the slot after this completion (R354) -/
  slotSeq : BitVec 16
  started : Bool
  /-- bytes (CPYT: tiles) written -/
  pos : Nat
  crc : BitVec 32
  /-- stalled on a page fault (R357) -/
  stalled : Bool
  /-- the code the command ended with, once its writes are done -/
  outcome : Option (BitVec 8)
  /-- its slot is returned, and its completion record waits for room in the event queue (R359) -/
  returned : Bool
  /-- PTC at its completion (R359) -/
  endTime : BitVec 64 := 0
  /-- the bytes that a CPYT has read of its tile, and how many of the tile it has written (R357) -/
  tile : List Byte := []
  wrote : Nat := 0
  /-- the sum that a CPYR has computed of its element and not written (R349) -/
  sum : Option Nat := none
  deriving DecidableEq, Repr

/-- The kinds of matrix queue entry (R255). -/
inductive MatKind where
  | mma | mmaz | out | in_ | outz | stamp
  deriving DecidableEq, Repr

/-- An entry of a matrix queue: what the instruction read at issue (R273, R278). -/
structure MatOp where
  kind : MatKind
  leader : BitVec 13
  wave : Nat
  frag : Nat
  frame : BitVec 64
  gen : BitVec 16
  lid : BitVec 32
  /-- block of the issuer (R408) -/
  blk : Nat
  asid : BitVec 16
  waveid : BitVec 64
  pc : BitVec 64
  fmtc : BitVec 32
  sat : Bool
  hold : Bool
  tid : BitVec 16
  tile : Nat
  run : Nat
  prun : Nat
  word : BitVec 64
  /-- the words of the A run, of its parameter run, the sidecars of the run, and the shift r of R267 -/
  aWords : List (BitVec 32)
  pWords : List (BitVec 32)
  sides : List (BitVec 128)
  shift : Nat
  type : BitVec 4
  addr : BitVec 64
  /-- the batch that holds the operation, and its number (R270) -/
  batch : Option (Nat × BitVec 64)
  issued : BitVec 64
  fill0 : BitVec 64
  fill1 : BitVec 64
  start : BitVec 64
  /-- its A and parameter runs are collected (R269, R273) -/
  collected : Bool
  /-- columns landed -/
  col : Nat
  faulted : Bool
  /-- waits for firmware to serve a fault of its fills (R276) -/
  stalled : Bool
  cancelled : Bool
  done : Bool
  /-- request number of the operation, for its pending marks -/
  seq : Nat
  deriving DecidableEq, Repr

/-- A stamp entry (R271). -/
structure Stamp where
  frame : BitVec 64
  gen : BitVec 16
  tid : BitVec 16
  nops : BitVec 16
  fault : Bool
  cancel : Bool
  fill0 : BitVec 64
  fill1 : BitVec 64
  first : BitVec 64
  start : BitVec 64
  lastEnd : Option (BitVec 64)
  lastOut : Option (BitVec 64)
  deriving DecidableEq, Repr

/-- A matrix pair (R253 to R272). -/
structure Pair where
  queue : List MatOp
  stamps : List Stamp
  lost : BitVec 16
  /-- the launches in the pair's rotation, the next first, and whether a rotation is ordered (R373) -/
  rotation : List (BitVec 32)
  due : Bool
  deriving DecidableEq, Repr

/-! ### Firmware -/

/-- A response of a command slot (R439): its result is a list of 64-bit words. -/
structure Response where
  status : BitVec 32
  tag : BitVec 32
  result : List (BitVec 64)
  done : BitVec 8
  deriving DecidableEq, Repr

/-- What the host has written in a slot of the command ring: bytes 0x00 to 0x7F, and SEQ (R439). -/
structure CommandSlot where
  body : BitVec 1024
  seq : BitVec 8
  deriving DecidableEq, Repr

/-- A slot that the host has not written. -/
def CommandSlot.empty : CommandSlot := { body := 0, seq := 0 }

/-- A registered address space (R287, R442). -/
structure Asid where
  top : BitVec 64
  clusters : BitVec 22
  deriving DecidableEq, Repr

/-- Firmware's state, and the fused values (R18, R50, R392, R395 to R397, R438 to R453). -/
structure Fw where
  fwrev : BitVec 32
  romrev : BitVec 32
  failcode : BitVec 4
  faildie : BitVec 4
  failb : BitVec 4
  step : BitVec 4
  fail : Bool
  ready : Bool
  barUp : Bool
  cmdHead : Nat
  cmdExpect : Nat
  slots : Table CommandSlot
  responses : Table Response
  diemap : BitVec 64
  form : Bool
  serial : BitVec 128
  svnMin : BitVec 32
  romHash : BitVec 384
  patchHash : BitVec 384
  feat0 : BitVec 64
  feat1 : BitVec 64
  feat2 : BitVec 64
  feat3 : BitVec 64
  keys : Table (BitVec 768)
  asids : Table Asid
  /-- the device's private keys, Ed25519 and ML-DSA-65, once bring-up has derived them (R448) -/
  keyPair : Option (List Byte × List Byte)
  exports : Sparse 64
  traces : Table (BitVec 64 × Nat)
  pkg : BitVec 10
  reference : Bool
  port : BitVec 4
  joining : Bool
  /-- DOMAIN has been accepted since the last reset (R396, R397) -/
  domain : Bool
  skewPkg : BitVec 64
  skewDom : BitVec 64
  down : List LinkId
  /-- when each of them went down (R397) -/
  downAt : List (LinkId × Nat)
  cap : Nat
  /-- when a cap came into force (R452) -/
  capAt : Nat
  boardCap : Option Nat
  /-- steps of 68.75 MHz by which R450 has lowered the arithmetic clock, 0 to 8 -/
  slow : Nat
  average : List (BitVec 64)
  railLimit : Bool
  hot : Bool
  supplied : Bool
  /-- bring-up is due: after power-on and after a full reset (R443, R445) -/
  due : Bool
  /-- a warm reset waits for the launches it ended, and the TAG of its command (R439, R445) -/
  warm : Bool
  warmTag : BitVec 32
  deriving DecidableEq, Repr

/-- What its environment supplies to a step of the device: which object it is about, and the values that reach the
device from outside.  A step reads the fields its own rule names. -/
structure Input where
  fail : Option StepFailure
  asid : BitVec 16
  addr : BitVec 64
  va : BitVec 64
  len : BitVec 64
  mask : BitVec 32
  slot : Nat
  xts : BitVec 512
  tagKey : BitVec 256
  nonce : BitVec 256
  k : Nat
  lid : BitVec 32
  blk : Nat
  wave : Nat
  core : Nat
  pair : Nat
  line : Nat
  entry : BitVec 64
  index : Nat
  die : Nat
  ccp : Nat
  engine : Nat
  write : Bool
  fetch : Bool
  action : FaultAction
  /-- other packages of the domain as they stand from now on (R392), and byte errors that have come over sectors (R302) -/
  peers : Option (Table (Sparse 64))
  errors : List (Nat × BitVec 8)
  access : HostAccess
  /-- the host's access is to the BAR, at offset `addr` (R438) -/
  bar : Bool
  reference : Bool
  port : BitVec 4
  link : LinkId
  retrained : Bool
  t1 : BitVec 64
  t2 : BitVec 64
  t3 : BitVec 64
  t4 : BitVec 64
  watts : Nat
  amps : Nat
  longPeak : Bool
  temp : Nat
  frames : List (BitVec 2 × BitVec 64 × BitVec 32)
  deriving DecidableEq, Repr

/-- What moves next: a step of the device with what its environment supplies, or a stream of a wave; `defer` leaves the
global accesses of the instruction outstanding as requests (log entry 5). -/
inductive Pick where
  | event (i : Instr) (input : Input)
  | issue (wave : Nat) (lane : Bool) (frag : Nat) (defer : Bool)
  deriving DecidableEq, Repr

/-! ### The machine -/

/-- The state of a TJ9. -/
structure State where
  /-- the wave whose stream moves, and the other waves -/
  w : Wave
  others : List Wave
  /-- the stream that moves: a fragment, or the scalar stream -/
  lane : Bool
  frag : Nat
  /-- the instruction did not complete and stays at its place -/
  stalled : Bool
  agenda : List Pick
  input : Input
  now : Nat
  seq : Nat
  free : Nat
  defer : Bool
  nextWave : Nat
  /-- memory by device physical address, and what HBM holds behind the memory-side cache (R297, R299); of a byte that a
  last-use drop left with two values, the other one, with bit 8 set (R299) -/
  mem : Sparse 8
  hbm : Sparse 8
  limbo : Sparse 9
  /-- the other packages of the domain that answer, each with its export table, V clear where KEY names no key there
  (R392); like their memory, it stands outside the device -/
  peers : Table (Sparse 64)
  /-- key material each sector was written under, and the byte errors of its ciphertext and parity (R301, R302) -/
  keyed : Sparse 768
  poison : Sparse 8
  cores : Table Core
  /-- register caches and operand files, by core (R79, R80) -/
  caches : Table RegCache
  dies : Table Die
  /-- directory: 512-byte physical blocks with their owners (R235) -/
  directory : Table Owner
  /-- waves recorded by the barrier units: die, frame, generation, object (R379) -/
  waiters : List (Nat × BitVec 64 × BitVec 16 × BitVec 64)
  requests : List Request
  ccps : Table Ccp
  launches : List Launch
  /-- statuses of completed launches, youngest first (R364), and launches whose record was dropped (R367, R368) -/
  statuses : List (BitVec 32 × BitVec 8)
  lost : List (BitVec 32 × BitVec 8)
  children : BitVec 31
  /-- records parsed per queue (R364) -/
  parsed : Sparse 25
  queues : Table Queue
  pools : List Pool
  blocks : List Block
  engines : Table (List EngineCmd)
  pairs : Table Pair
  fw : Fw
  /-- MSI-X vectors raised (R363) -/
  msix : List Nat
  /-- the last reply to the host or to another package: bytes, each with its poison mark, or an error -/
  reply : List (BitVec 8 × Bool)
  replyError : Bool
  deriving DecidableEq, Repr

/-! ### Reset -/

/-- No lane-block, no wave: the context of a wave at creation before the launch writes it (R64, R69), and of the focus
when no wave has issued.  It is retired: it holds nothing. -/
def Wave.blank : Wave :=
  { id := 0, ccp := false, frame := 0, slot := 0, gen := 0, asid := 0, lid := 0, blk := 0, widx := 0, depth := 0,
    bx := 0, by_ := 0, bz := 0, waveid := 0, origin := 0, core := 0, place := .origin, residency := .retired,
    parkc := .none, swapped := false, born := 0, since := 0, fresh := true, budgetDue := true, budgetLost := false, target := none, v := [], x := [], sreg := [], m := [],
    z := [], o := [], l := [], gens := [], fmtw := 0, regcnt := 0, spc := 0, lbase := 0, poolptr := 0, spinf := false,
    stage := 0, lqhead := 0, lq := [], split := [], splitCache := [], pendS := [], pendV := [], pendT := 0, pendcnt := 0,
    slots := [], slotTrapf := 0, trampbase := 0, trapbase := 0, trapcause := 0, trappc := 0, trapaddr := 0,
    trapmask := 0, deadline := 0, stagemargin := 0, stagecnt := 0, dbgctl := 0, sflags := 0, wclk := 0, sampled := 0, budget := 0,
    stagetab := 0, inhandler := false, haltlatch := false, haltAt := 0, haltInfo := 0, handler := none,
    heldTraps := [], scalarHeld := false, wait := none, progress := none, spinCount := 0, spinLines := [],
    tp := 0, td := 0, lastPtc := 0, clusterWrites := 0, age := 0, boost := false, backward := false, batches := 0,
    sstall := false, switching := false }

/-- A core that holds nothing. -/
def Core.empty : Core :=
  { active := none, activeWaves := [], shadow := none, shadowWaves := [], zeroed := [], departing := [], store := [],
    valid := [], dirty := [], pub := [], filling := [], chords := [], retained := [], l1 := [], items := [],
    sealed := [], savedItems := [], tiles := [], collector := none, landing := [], switched := 0, preloaded := false, spill := none,
    leaving := [], saved := [], tileLid := none }

/-- A register cache and an operand file without a line. -/
def RegCache.empty : RegCache := { rc := [], operand := [] }

/-- A base die that holds nothing, its clock copy at zero (R395). -/
def Die.empty : Die :=
  { ptc := 0, tlb := [], rdc := [], l2 := [], remote := [], msc := [], locks := [], corrected := 0, hbmLost := false, slew := 0 }

/-- A control processor with empty queues. -/
def Ccp.empty : Ccp := { faults := [], held := [], events := [], halts := [], calls := [] }

/-- A pair with an empty queue and no open stamp. -/
def Pair.empty : Pair := { queue := [], stamps := [], lost := 0, rotation := [], due := false }

/-- An input that names nothing. -/
def Input.none : Input :=
  { fail := Option.none, asid := 0, addr := 0, va := 0, len := 0, mask := 0, slot := 0, xts := 0,
    tagKey := 0, nonce := 0, k := 0, lid := 0, blk := 0, wave := 0, core := 0, pair := 0, line := 0, entry := 0,
    index := 0, die := 0, ccp := 0, engine := 0, write := false, fetch := false, action := .fatal, peers := Option.none, errors := [], access := .read 0, bar := false,
    reference := false, port := 0, link := .base 0, retrained := false, t1 := 0, t2 := 0, t3 := 0, t4 := 0,
    watts := 0, amps := 0, longPeak := false, temp := 0, frames := [] }

/-- Firmware's state after reset (R438, R395, R397): nothing brought up.  The fused and ROM values are the model's: the
die map of R18's worked example, the rest zero but ISAREV (log entry 13). -/
def Fw.reset : Fw :=
  { fwrev := 0, romrev := 0, failcode := 0, faildie := 0xF, failb := 0xF, step := 0, fail := false,
    ready := false, barUp := false, cmdHead := 0, cmdExpect := 1, slots := [], responses := [], diemap := 0x018530FB, form := false,
    serial := 0, svnMin := 0, romHash := 0, patchHash := 0, feat0 := 0, feat1 := 0, feat2 := 0, feat3 := 1, keys := [],
    asids := [], keyPair := Option.none, exports := [], traces := [], pkg := 0, reference := true, port := 0, joining := false, domain := false,
    skewPkg := BitVec.allOnes 64, skewDom := BitVec.allOnes 64, down := [], downAt := [], cap := 1800, capAt := 0, boardCap := none,
    slow := 0, average := [], railLimit := false, hot := false, supplied := true,
    due := true, warm := false, warmTag := 0 }

/-- The machine right after a power-on reset: no wave, no launch, memory with nothing listed (R443 step 3 writes
zeros), every field as INVENTORY.md lists it. -/
def State.reset : State :=
  { w := Wave.blank, others := [], lane := false, frag := 0, stalled := false, agenda := [], input := Input.none,
    now := 0, seq := 0, free := 0, defer := false, nextWave := 1, mem := [], hbm := [], limbo := [], peers := [], keyed := [],
    poison := [], cores := [], caches := [], dies := [], directory := [], waiters := [], requests := [], ccps := [], launches := [],
    statuses := [], lost := [], children := 0, parsed := [], queues := [], pools := [], blocks := [], engines := [],
    pairs := [], fw := Fw.reset, msix := [], reply := [], replyError := false }

end Sys2Proof.Machine
end

