-- ==== Sys2Proof/Machine/Regs.lean ====
section
/-! DEFINITION. Registers of the wave that moves: scalar registers, lane words, masks, sidecars, program counters, and
the fields that a step of one stream advances. -/

namespace Sys2Proof.Machine

/-- What a meaning answers. -/
abbrev Out := Host.Outcome State Fault Refusal

/-- A function on the wave that moves. -/
def State.onW (s : State) (f : Wave → Wave) : State := { s with w := f s.w }

/-- A function on every wave but the one that moves. -/
def State.mapOthers (s : State) (f : Wave → Wave) : State := { s with others := s.others.map f }

/-- A function on every wave. -/
def State.mapWaves (s : State) (f : Wave → Wave) : State := { s with w := f s.w, others := s.others.map f }

/-- Every wave of the machine. -/
def State.waves (s : State) : List Wave := s.w :: s.others

/-- The wave of a number. -/
def State.wave (s : State) (id : Nat) : Option Wave := s.waves.find? (fun w => w.id == id)

/-- The state with another wave in focus, if it exists; no wave, number 0, is kept beside it. -/
def State.focus (s : State) (id : Nat) : Option State :=
  if s.w.id = id then some s
  else match s.others.find? (fun w => w.id == id) with
    | none => none
    | some w =>
      let rest := s.others.filter (fun x => x.id != id)
      some { s with w := w, others := if s.w.id = 0 then rest else s.w :: rest }

/-! ### Scalar registers (R35, R63) -/

/-- A scalar register; s0 reads zero. -/
def State.rs (s : State) (r : BitVec 6) : Word64 := if r = 0 then 0 else Sparse.get s.w.sreg r.toNat

/-- A scalar register write; a write to s0 is discarded.  The youngest write stands (R116). -/
def State.setS (s : State) (d : BitVec 6) (x : Word64) : State :=
  if d = 0 then s
  else { s with w := { s.w with sreg := Sparse.set s.w.sreg d.toNat x, pendS := Sparse.set s.w.pendS d.toNat 0 } }

/-- The scalar program counter moved past the instruction. -/
def State.advance (s : State) (len : Nat) : State := { s with w := { s.w with spc := s.w.spc + BitVec.ofNat 64 len } }

/-- The instruction stays at its place: its stream stalls and issues again later (R112). -/
def State.stall (s : State) : State := { s with stalled := true }

/-- What a wave waits for has come (R73): it is ready, and its instruction goes on with what it has already done. -/
def Wave.wake (w : Wave) : Wave :=
  match w.wait with
  | none => w
  | some p =>
    { w with
      wait := none
      progress := match p with
        | .spin _ => none
        | .item => none
        | p => some p
      spinCount := match p with
        | .spin _ => 0
        | _ => w.spinCount
      residency := if w.residency == .waiting then .ready else w.residency }

/-! ### Lane state -/

/-- Word of lane `L` of a main-file register. -/
def Wave.rv (w : Wave) (n L : Nat) : Word32 := Sparse.get w.v (n * 32 + L)

/-- Word of lane `L` of an operand slot. -/
def Wave.ro (w : Wave) (n L : Nat) : Word32 := Sparse.get w.o (n * 32 + L)

/-- Word of lane `L` of a latch. -/
def Wave.rl (w : Wave) (n L : Nat) : Word32 := Sparse.get w.l (n * 32 + L)

/-- A mask register. -/
def Wave.rm (w : Wave) (n : Nat) : Word32 := Sparse.get w.m n

/-- A sidecar (R68). -/
def Wave.rx (w : Wave) (n : Nat) : BitVec 128 := Sparse.get w.x n

/-- FMTCODE of a sidecar. -/
def sideCode (x : BitVec 128) : Nat := bits x.toNat 87 83

/-- TAG of a sidecar. -/
def sideTag (x : BitVec 128) : BitVec 16 := x.extractLsb' 64 16

/-- SCALES of a sidecar. -/
def sideScales (x : BitVec 128) : BitVec 64 := x.extractLsb' 0 64

/-- A sidecar from its fields; its reserved bits read zero. -/
def mkSide (code : Nat) (tag : BitVec 16) (scales : BitVec 64) : BitVec 128 :=
  BitVec.ofNat 128 ((code % 32) * 2 ^ 83 + tag.toNat * 2 ^ 64 + scales.toNat)

/-- A free split entry (R65). -/
def SplitEntry.free : SplitEntry :=
  { lpc := 0, rga := 0, clink := 0, tlink := 0, lmask := 0, fmtc := 0, parent := 0, state := .live, latv := 0,
    chain := 0, clv := false, tlv := false, npart := 0, fmask := 0, keeps := false, held := false, age := 0, boost := false,
    backward := false, entryWait := none, itemWait := false }

/-- The lanes that await a replay of the fragment's instruction (R292, R409). -/
def SplitEntry.redo (e : SplitEntry) : Word32 := if e.keeps then 0 else e.fmask

/-- The fragment's instruction is executed for the first time: no lane awaits a replay of it, or those lanes await it unexecuted
(R162, R409). -/
def SplitEntry.first (e : SplitEntry) : Bool := e.redo == 0 || e.unrun

/-- CHAIN after one more instruction of the fragment (R77). -/
def SplitEntry.counted (e : SplitEntry) : BitVec 3 := if e.chain = 0 then 0 else e.chain - 1

/-- The split entry of the fragment that moves. -/
def State.entry (s : State) : SplitEntry := Table.getD s.w.split s.frag SplitEntry.free

/-- The split entry of the fragment that moves, replaced. -/
def State.setEntry (s : State) (e : SplitEntry) : State :=
  { s with w := { s.w with split := Table.put s.w.split s.frag e } }

/-- Byte address of a lane program counter (R65). -/
def Wave.laneAddr (w : Wave) (lpc : BitVec 32) : Addr :=
  BitVec.ofNat 64 (w.lbase.toNat * 2 ^ 34 + lpc.toNat * 4)

/-- The head lane block (R106). -/
def Wave.head (w : Wave) : LaneBlock := w.lq.headD { pc := 0, k := [], fmt := 0, started := false }

/-- A lane-block constant, all 64 bits (R108). -/
def Wave.rk (w : Wave) (n : Nat) : Word64 := (w.head.k)[n]?.getD 0

/-- Address of the instruction that moves. -/
def State.pcNow (s : State) : Addr := if s.lane then s.w.laneAddr s.entry.lpc else s.w.spc

/-- Bit `i` of a 32-bit mask. -/
def lanesOf (m : Word32) : List Nat := (List.range 32).filter (fun L => m.getLsbD L)

/-- A mask from a predicate on lanes. -/
def maskOf (f : Nat → Bool) : Word32 :=
  (List.range 32).foldl (fun a L => if f L then a ||| (1#32 <<< L) else a) 0

/-! ### Launch records -/

/-- The launch of an identifier. -/
def State.launch (s : State) (lid : BitVec 32) : Option Launch :=
  s.launches.find? (fun l => l.lid == lid && l.phase != .completed)

/-- `n` bytes of a launch record at an offset, little-endian (R363). -/
def recField (r : BitVec 2048) (off n : Nat) : Nat := r.toNat / 2 ^ (8 * off) % 2 ^ (8 * n)

/-- A function on the launch of an identifier. -/
def State.onLaunch (s : State) (lid : BitVec 32) (f : Launch → Launch) : State :=
  { s with launches := s.launches.map (fun l => if l.lid == lid then f l else l) }

/-- The block of a wave. -/
def State.block (s : State) (lid : BitVec 32) (blk : Nat) : Option Block :=
  s.blocks.find? (fun b => b.lid == lid && b.blk == blk)

/-- A function on the block of an identifier. -/
def State.onBlock (s : State) (lid : BitVec 32) (blk : Nat) (f : Block → Block) : State :=
  { s with blocks := s.blocks.map (fun b => if b.lid == lid && b.blk == blk then f b else b) }

/-- A core's record. -/
def State.core (s : State) (g : Nat) : Core := Table.getD s.cores g Core.empty

/-- A launch of one of a core's activation banks (R84, R125). -/
def Core.banked (c : Core) (lid : BitVec 32) : Bool := c.active == some lid || c.shadow == some lid

/-- A core's record replaced. -/
def State.setCore (s : State) (g : Nat) (c : Core) : State := { s with cores := Table.put s.cores g c }

/-- A base die's record. -/
def State.die (s : State) (b : Nat) : Die := Table.getD s.dies b Die.empty

/-- A base die's record replaced. -/
def State.setDie (s : State) (b : Nat) (d : Die) : State := { s with dies := Table.put s.dies b d }

/-- A core's register cache and operand file (R79, R80). -/
def State.cache (s : State) (g : Nat) : RegCache := Table.getD s.caches g RegCache.empty

/-- A core's register cache and operand file replaced. -/
def State.setCache (s : State) (g : Nat) (c : RegCache) : State := { s with caches := Table.put s.caches g c }

/-- A control processor's record. -/
def State.ccp (s : State) (c : Nat) : Ccp := Table.getD s.ccps c Ccp.empty

/-- A control processor's record replaced. -/
def State.setCcp (s : State) (c : Nat) (p : Ccp) : State := { s with ccps := Table.put s.ccps c p }

/-- A pair's record. -/
def State.pair (s : State) (q : Nat) : Pair := Table.getD s.pairs q Pair.empty

/-- A pair's record replaced. -/
def State.setPair (s : State) (q : Nat) (p : Pair) : State := { s with pairs := Table.put s.pairs q p }

/-- Cores of a launch: its stash partition's base and size, and its tiles (R218). -/
def Launch.stashBase (l : Launch) : Nat :=
  16384 * (recField l.record 0x4D 1 + recField l.record 0x4E 1 + recField l.record 0x4F 1)

/-- Bytes of the stash partition (R219). -/
def Launch.stashSize (l : Launch) : Nat := 524288 - l.stashBase

/-- Accumulator granules of a launch. -/
def Launch.accGran (l : Launch) : Nat := recField l.record 0x4E 1

/-- Cores per block of a launch, and the stride of its places (R369). -/
def Launch.cpb (l : Launch) : Nat := recField l.record 0x4A 1

/-- CPB rounded up to an even number (R369). -/
def Launch.stride (l : Launch) : Nat := (l.cpb + 1) / 2 * 2

/-- Waves per block. -/
def Launch.wpb (l : Launch) : Nat := recField l.record 0x48 2

/-- Address space of a launch. -/
def Launch.asid (l : Launch) : BitVec 16 := BitVec.ofNat 16 (recField l.record 0x58 2)

/-- The package core numbers of a block's place (R369, R20). -/
def coreSet (l : Launch) (b : Block) : List Nat :=
  (List.range l.cpb).map (fun i => b.cluster * 192 + b.place * l.stride + i)

/-- The place of a wave's block: the first core and the number of cores; none for a wave without a block. -/
def State.coresOf (s : State) (w : Wave) : List Nat :=
  match s.launch w.lid, s.block w.lid w.blk with
  | some l, some b => coreSet l b
  | _, _ => []

/-- A fresh count for a free value (log entry 7). -/
def State.spend (s : State) : State := { s with free := s.free + 1 }

end Sys2Proof.Machine
end

