-- ==== Sys2Proof/Machine/Pages.lean ====
section
/-! DEFINITION. Homes, base dies and links (R12, R18, R20, R286, R384 to R393), and address translation
(R287 to R291). -/

namespace Sys2Proof.Machine

/-! ### Dies -/

/-- FIRSTDb of DIEMAP (R18). -/
def firstD (map : BitVec 64) (b : Nat) : Nat := bits map.toNat (11 + 4 * b) (8 + 4 * b)

/-- NBb of DIEMAP (R18). -/
def countD (map : BitVec 64) (b : Nat) : Nat := bits map.toNat (1 + 2 * b) (2 * b)

/-- The base die under a compute die (R18); a die of no base die counts as B0's. -/
def dieOfCompute (map : BitVec 64) (d : Nat) : Nat :=
  ((List.range 4).find? (fun b => decide (firstD map b ≤ d) && decide (d < firstD map b + countD map b))).getD 0

/-- The base die under a core (R19, R20). -/
def State.dieOf (s : State) (g : Nat) : Nat := dieOfCompute s.fw.diemap (g / 384)

/-- The copy of the package time counter a core reads (R395). -/
def State.ptcOf (s : State) (g : Nat) : BitVec 64 := (s.die (s.dieOf g)).ptc

/-- The home base die of a global virtual address (R286). -/
def homeDie (a : Nat) : Nat :=
  if bits a 55 55 = 1 then bits a 42 41
  else (List.range 19).foldl (fun h k => h ^^^ bits a (18 + 2 * k) (17 + 2 * k)) 0

/-- The links on the path from one base die to another: X, then Y (R12). -/
def linkPath (a b : Nat) : List (BitVec 2) :=
  if a = b then []
  else if a / 2 = b / 2 then (if a / 2 = 0 then [0] else [1])
  else if a % 2 = b % 2 then (if a % 2 = 0 then [2] else [3])
  else (if a / 2 = 0 then [0] else [1]) ++ (if b % 2 = 0 then [2] else [3])

/-- Every link of a request's way from one base die to another and of its reply's way back is up (R12, R389). -/
def State.pathUp (s : State) (a b : Nat) : Bool :=
  (linkPath a b ++ linkPath b a).all (fun k => !s.fw.down.contains (.base k))

/-- Memory homed on one base die can be reached from another: every link there and back is up (R389), and the die has not
lost its HBM (R444; log entry 21). -/
def State.reaches (s : State) (a b : Nat) : Bool := s.pathUp a b && !(s.die b).hbmLost

/-! ### Failures of an access -/

/-- The kinds of fault that a walk or a leaf gives (R289). -/
inductive FaultClass where
  | notPresent
  | protection
  | walk (level : Nat)
  deriving DecidableEq, Repr

/-- How an access fails: a page fault at a virtual address (R292), MEMFAULT at a generic address (R284, R223), a
failing sector (R303), a request lost with its link (R390), found before its access settled or `late` (R477), or not yet: it waits for a move lock, an earlier read of
the same bytes, or an outstanding fill. -/
inductive AccFail where
  | page (f : FaultClass) (va : BitVec 64) (pa : BitVec 64)
  | mem (a : BitVec 64)
  | integrity (va : BitVec 64) (pa : BitVec 64)
  | link (va : BitVec 64) (late : Bool)
  | wait
  deriving DecidableEq, Repr

/-- Read, write or fetch. -/
inductive Acc where
  | read | write | fetch
  deriving DecidableEq, Repr

/-! ### Cells at the home -/

/-- A byte of memory: of a byte that a last-use drop left with two values, either (R299). -/
def State.memByte (s : State) (pa : Nat) : Byte :=
  let y := Sparse.get s.limbo pa
  if y.getLsbD 8 && Config.dropBit pa s.now then y.setWidth 8 else Sparse.get s.mem pa

/-- The local-store address of a byte that a registered owner supplies: in the chord's part of the block, and PUB (R236). -/
def State.pubAt (s : State) (pa : Nat) (o : Owner) : Option Nat :=
  let i := pa % 512
  let a := o.addr + i
  if o.cover.getLsbD i && (Sparse.get (s.core o.core.toNat).pub (a / 128)).getLsbD (a % 128)
  then some a else none

/-- A byte as a home supplies it: an owner's PUB bytes at their current values, memory for the rest (R236). -/
def State.cell (s : State) (pa : Nat) : Byte :=
  match Table.find s.directory (pa / 512) with
  | none => s.memByte pa
  | some o =>
    match s.pubAt pa o with
    | some a => Sparse.get (s.core o.core.toNat).store a
    | none => s.memByte pa

/-- A little-endian doubleword as a walk reads it (R287). -/
def State.cell64 (s : State) (pa : Nat) : BitVec 64 :=
  BitVec.ofNat 64 ((List.range 8).foldr (fun i a => (s.cell (pa + i)).toNat + 256 * a) 0)

/-! ### Walks -/

/-- ADDR of an entry: physical address bits 47:16. -/
def pteAddr (e : BitVec 64) : Nat := bits e.toNat 47 16 * 65536
/-- KEY of an entry. -/
def pteKey (e : BitVec 64) : Nat := bits e.toNat 61 56
/-- The reserved bits of an entry are zero. -/
def pteClean (e : BitVec 64) : Bool := (e &&& 0x40FF00000000FFD8#64) == 0
/-- V. -/
def pteV (e : BitVec 64) : Bool := e.getLsbD 0
/-- LEAF. -/
def pteLeaf (e : BitVec 64) : Bool := e.getLsbD 1
/-- W. -/
def pteW (e : BitVec 64) : Bool := e.getLsbD 2
/-- SZ4M. -/
def pteBig (e : BitVec 64) : Bool := e.getLsbD 5
/-- XD. -/
def pteXD (e : BitVec 64) : Bool := e.getLsbD 63

/-- A physical address in local HBM (R285). -/
def isLocal (pa : Nat) : Bool := decide (pa < 0x8000000000)
/-- A physical address that reaches nothing (R285). -/
def isUnused (pa : Nat) : Bool := decide (0x8000000000 ≤ pa) && decide (pa < 0x400000000000)
/-- A physical address of another package's memory (R285). -/
def isPackage (pa : Nat) : Bool := decide (0x400000000000 ≤ pa) && decide (pa < 0x800000000000)

/-- A key slot holds a key; slot 0 is firmware's (R301). -/
def State.keyLoaded (s : State) (k : Nat) : Bool := k == 0 || (Table.find s.fw.keys k).isSome

/-- The key material of a slot; slot 0 is firmware's, written as zero. -/
def State.keyOf (s : State) (k : Nat) : BitVec 768 := if k = 0 then 0 else Table.getD s.fw.keys k 0

/-- A sector of local HBM passes its check under a key slot: it was written under the slot's material, and its code corrects
its byte errors, two at most (R302). -/
def State.sectorOk (s : State) (sec k : Nat) : Bool :=
  decide ((Sparse.get s.poison sec).toNat ≤ 2) && Sparse.get s.keyed sec == s.keyOf k

/-! ### Home L2 and memory-side cache (R13, R297, R298) -/

/-- Lines of a memory-side cache of 192 MiB, and of a home L2 of 64 MiB (R13). -/
def mscLines : Nat := 1572864
def l2Lines : Nat := 524288

/-- The line to replace: of the lowest priority the least recently used (R298). -/
def victim : List CacheLine → Option CacheLine
  | [] => none
  | x :: l =>
    match victim l with
    | none => some x
    | some y => if x.ep.toNat < y.ep.toNat then some x else some y

/-- A replaced line goes to HBM (R297). -/
def lineToHbm (s : State) (line : Nat) : State :=
  { s with hbm := (List.range 128).foldl (fun m i =>
      let a := line * 128 + i
      if (Sparse.get s.limbo a).getLsbD 8 then m else Sparse.set m a (Sparse.get s.mem a)) s.hbm }

/-- Lines replaced in a memory-side cache one after another. -/
def evictLines (s : State) (b : Nat) : Nat → State
  | 0 => s
  | n + 1 =>
    match victim (s.die b).msc with
    | none => s
    | some v =>
      let d := s.die b
      evictLines ((lineToHbm s v.line).setDie b { d with msc := d.msc.filter (fun x => x.line != v.line) }) b n

/-- Lines of the home L2 of a base die are the latest used; a line of another package's memory that leaves loses its data
(R290, R297). -/
def State.touchL2 (s : State) (b : Nat) (lines : List Nat) : State :=
  let d := s.die b
  let l := lines ++ d.l2.filter (fun x => !lines.contains x)
  if l.length ≤ l2Lines then s.setDie b { d with l2 := l }
  else s.setDie b { d with l2 := l.take l2Lines, remote := d.remote.filter (fun x => !(l.drop l2Lines).contains x.line) }

/-- An access to a range of local HBM passes the home L2 and the memory-side cache, whose lines take its eviction priority
(R297, R298). -/
def State.touch (s : State) (pa n : Nat) (ep : BitVec 2) : State :=
  let b := bits pa 38 37
  let first := pa / 128
  let count := if n = 0 then 0 else (pa + n - 1) / 128 + 1 - first
  let lines := (List.range count).map (fun i => first + i)
  let d := s.die b
  let rest := d.msc.filter (fun x => decide (x.line < first) || decide (first + count ≤ x.line))
  let s := s.setDie b { d with msc := rest }
  let s := evictLines s b (rest.length + count - mscLines)
  let d := s.die b
  (s.setDie b { d with msc := lines.map (fun x => { line := x, ep := ep }) ++ d.msc }).touchL2 b lines

/-- Corrected sectors of a range are written back corrected, and counted (R302). -/
def State.mend (s : State) (pa n : Nat) : State :=
  if s.poison.isEmpty then s
  else
    ((List.range (if n = 0 then 0 else (pa + n - 1) / 64 + 1 - pa / 64)).map (fun i => pa / 64 + i)).foldl (fun s sec =>
      let e := (Sparse.get s.poison sec).toNat
      if e = 0 ∨ 2 < e then s
      else
        let b := bits (sec * 64) 38 37
        let d := s.die b
        { s with poison := Sparse.set s.poison sec 0 }.setDie b { d with corrected := d.corrected + 1 }) s

/-- A leaf for the page at `base` of `size` bytes, checked (R289). -/
def leafOk (s : State) (e : BitVec 64) (base size : Nat) : Bool :=
  pteClean e && decide (pteAddr e % size = 0) && !isUnused (pteAddr e)
    && (!isLocal (pteAddr e) || bits (pteAddr e) 38 37 == homeDie base) && s.keyLoaded (pteKey e)

/-- A table pointer, checked (R289). -/
def pointerOk (e : BitVec 64) : Bool := pteClean e && !pteLeaf e && !pteBig e && isLocal (pteAddr e)

/-- The three-level walk (R287 to R289). -/
def walk (s : State) (asid : BitVec 16) (va : Nat) : Except FaultClass TlbEntry :=
  match Table.find s.fw.asids asid.toNat with
  | none => .error (.walk 2)
  | some t =>
    let e2 := s.cell64 (t.top.toNat + 8 * bits va 55 43)
    if !pteV e2 then .error .notPresent
    else if !pointerOk e2 then .error (.walk 2)
    else
      let e1 := s.cell64 (pteAddr e2 + 8 * bits va 42 30)
      if !pteV e1 then .error .notPresent
      else if pteLeaf e1 then
        let base := va / 2 ^ 30 * 2 ^ 30
        if bits va 55 55 = 1 && !pteBig e1 && leafOk s e1 base (2 ^ 30)
        then .ok { asid := asid, base := base, size := 2 ^ 30, leaf := e1 }
        else .error (.walk 1)
      else if !pointerOk e1 then .error (.walk 1)
      else
        let e0 := s.cell64 (pteAddr e1 + 8 * bits va 29 17)
        if !pteV e0 then .error .notPresent
        else if !pteLeaf e0 then .error (.walk 0)
        else if pteBig e0 then
          let base := va / 2 ^ 22 * 2 ^ 22
          let row := pteAddr e1 + 8 * bits base 29 17
          if bits va 55 55 = 1 && leafOk s e0 base (2 ^ 22)
            && (List.range 32).all (fun i => s.cell64 (row + 8 * i) == e0)
          then .ok { asid := asid, base := base, size := 2 ^ 22, leaf := e0 }
          else .error (.walk 0)
        else
          let base := va / 131072 * 131072
          if leafOk s e0 base 131072 then .ok { asid := asid, base := base, size := 131072, leaf := e0 }
          else .error (.walk 0)

/-- The sectors of the table entries that a walk reads (R287, R289). -/
def walkSectors (s : State) (asid : BitVec 16) (va : Nat) : List Nat :=
  match Table.find s.fw.asids asid.toNat with
  | none => []
  | some t =>
    let a2 := t.top.toNat + 8 * bits va 55 43
    let e2 := s.cell64 a2
    if !pteV e2 || !pointerOk e2 then [a2 / 64]
    else
      let a1 := pteAddr e2 + 8 * bits va 42 30
      let e1 := s.cell64 a1
      if !pteV e1 || !pointerOk e1 then [a2 / 64, a1 / 64]
      else
        let row := pteAddr e1 + 8 * bits (va / 2 ^ 22 * 2 ^ 22) 29 17
        let a0 := pteAddr e1 + 8 * bits va 29 17
        let e0 := s.cell64 a0
        [a2 / 64, a1 / 64] ++ (if pteV e0 && pteBig e0 then (List.range 4).map (fun i => row / 64 + i) else [a0 / 64])

/-- A sector of a walk's table entries that fails its check under key slot 0, which every table read uses (R287, R302). -/
def badTable (s : State) (asid : BitVec 16) (va : Nat) : Option Nat :=
  (walkSectors s asid va).find? (fun sec => !s.sectorOk sec 0)

/-- ACCESS of the record of a sector that failed its check: 6 where a walk read it (R295). -/
def integrityAccess (s : State) (asid : BitVec 16) (va pa : BitVec 64) (own : BitVec 4) : BitVec 4 :=
  if badTable s asid va.toNat = some (pa.toNat / 64) then 6 else own

/-- A leaf permits an access (R289). -/
def permits (e : BitVec 64) : Acc → Bool
  | .read => true
  | .write => pteW e
  | .fetch => !pteXD e

/-- The cached translation of a page (R290). -/
def tlbFind (l : List TlbEntry) (asid : BitVec 16) (va : Nat) : Option TlbEntry :=
  l.find? (fun t => t.asid == asid && decide (t.base ≤ va) && decide (va < t.base + t.size))

/-- Translation at the ingress of the home: the cached translation, which becomes the latest used, or a walk whose result is
cached (R290).  The answer is the physical address and the key slot.  A table sector that fails its check fails the access
(R303; log entry 78). -/
def translate (s : State) (asid : BitVec 16) (va : Nat) (acc : Acc) : Except AccFail ((Nat × Nat) × State) :=
  let b := homeDie va
  let d := s.die b
  match tlbFind d.tlb asid va with
  | some t =>
    let pa := pteAddr t.leaf + (va - t.base)
    if permits t.leaf acc then
      .ok ((pa, pteKey t.leaf), s.setDie b { d with tlb := t :: d.tlb.filter (fun x => x != t) })
    else .error (.page .protection (BitVec.ofNat 64 va) (BitVec.ofNat 64 pa))
  | none =>
    match badTable s asid va with
    | some sec => .error (.integrity (BitVec.ofNat 64 va) (BitVec.ofNat 64 (sec * 64)))
    | none =>
      match walk s asid va with
      | .error f => .error (.page f (BitVec.ofNat 64 va) 0)
      | .ok t =>
        let pa := pteAddr t.leaf + (va - t.base)
        if permits t.leaf acc then
          let s := (walkSectors s asid va).foldl (fun s sec => (s.mend (sec * 64) 64).touch (sec * 64) 64 1) s
          let d := s.die b
          .ok ((pa, pteKey t.leaf), s.setDie b { d with tlb := (t :: d.tlb).take 16384 })
        else .error (.page .protection (BitVec.ofNat 64 va) (BitVec.ofNat 64 pa))

/-- The physical byte that a virtual address names now (R312); none where it has no translation. -/
def physOf (s : State) (asid : BitVec 16) (va : Nat) : Option Nat :=
  match translate s asid va .read with
  | .ok ((pa, _), _) => some pa
  | .error _ => none

/-! ### Generic addresses (R283) -/

/-- The window an address decodes to. -/
inductive Window where
  | global (va : Nat)
  | cluster (word : Nat)
  | local (off : Nat)
  | self (off : Nat)
  | void
  deriving DecidableEq, Repr

/-- R283: the window of a generic address, the pool-frame window read as the global address it names. -/
def decodeAddr (pbase : BitVec 64) (a : Addr) : Window :=
  let n := a.toNat
  if n < 0x0100000000000000 then .global n
  else if 0xFFFFFF8000000000 ≤ n && n ≤ 0xFFFFFF80FFFFFFFF then .global ((pbase.toNat + n % 0x100000000) % 2 ^ 56)
  else if 0xFFFFFFFFF0000000 ≤ n && n ≤ 0xFFFFFFFFF5FFFFFF then .cluster (n % 0x10000000)
  else if 0xFFFFFFFFFFF00000 ≤ n && n ≤ 0xFFFFFFFFFFF7FFFF then .local (n % 0x80000)
  else if 0xFFFFFFFFFFFF0000 ≤ n then .self (n % 0x10000)
  else .void

/-- A frame list of POOLRES: `n` physical addresses of eight bytes (R441; log entry 96). -/
def frameList (s : State) (a n : Nat) : List Nat := (List.range n).map (fun i => (s.cell64 (a + 8 * i)).toNat)

/-- The pool of a wave (R85). -/
def State.pool (s : State) (asid : BitVec 16) (desc : BitVec 64) : Option Pool :=
  s.pools.find? (fun p => p.asid == asid && p.desc == desc)

/-- The pool of a live launch whose range holds an address (R85). -/
def State.poolAt (s : State) (asid : BitVec 16) (va : Nat) : Option Pool :=
  s.pools.find? (fun p => p.asid == asid && p.launch.isSome && decide (p.pbase.toNat ≤ va)
    && decide (va < p.pbase.toNat + p.npages * 131072))

/-- The frames of a pool's reservation that are not in use, on one base die (R85, R441; log entry 96). -/
def State.freeFrames (s : State) (p : Pool) (b : Nat) : List Nat :=
  (p.reserve.flatMap (fun x => if x.1.toNat = b then (frameList s x.2.1.toNat x.2.2.toNat) else [])).filter
    (fun f => p.taken.all (fun t => t.1 != f))

/-- A frame of the reservation is in use, for a page or for what the CCP saves of a launch on a core. -/
def State.takeFrame (s : State) (p : Pool) (f : Nat) (who : Option (BitVec 32 × Nat)) : State :=
  { s with pools := s.pools.map (fun q => if q.asid == p.asid && q.desc == p.desc then { q with taken := q.taken ++ [(f, who)] } else q) }

/-- PBASE of a wave's pool. -/
def State.pbase (s : State) (w : Wave) : BitVec 64 := ((s.pool w.asid w.poolptr).map (·.pbase)).getD 0

end Sys2Proof.Machine
end

