-- ==== Sys2Proof/Machine/Memory.lean ====
section
/-! DEFINITION. Memory at the homes (R285, R292 to R303, R392), recalls (R237), the L1 and the remote-data caches (R297,
R300, R321 to R324), trace records (R422, R423) and first-touch capture (R425). -/

namespace Sys2Proof.Machine

/-! ### The canonical form -/

/-- Memory, what HBM holds behind its cache, the second values of dropped bytes, and the keys and errors of sectors stand in
canonical form: addresses
strictly rising, and nothing listed that equals what an unlisted place reads as. -/
def Memory.wf (s : State) : Bool :=
  Sparse.wf s.mem && Sparse.wf s.hbm && Sparse.wf s.limbo && Sparse.wf s.keyed && Sparse.wf s.poison

/-! ### Bytes and numbers -/

/-- Little-endian bytes of a number (R3). -/
def toBytes (n x : Nat) : List Byte := (List.range n).map (fun i => BitVec.ofNat 8 (x / 2 ^ (8 * i)))

/-- The number of little-endian bytes (R3). -/
def ofBytes (l : List Byte) : Nat := l.foldr (fun b a => b.toNat + 256 * a) 0

/-- Bytes as a 64-bit word. -/
def word64 (l : List Byte) : Word64 := BitVec.ofNat 64 (ofBytes l)

/-- The sectors that a range of bytes meets. -/
def sectorsOf (pa n : Nat) : List Nat :=
  (List.range (if n = 0 then 0 else (pa + n - 1) / 64 + 1 - pa / 64)).map (fun i => pa / 64 + i)

/-! ### Sectors (R301, R302) -/

/-- The first sector of a range that fails its check. -/
def State.badSector (s : State) (pa n k : Nat) : Option Nat :=
  if isLocal pa then (sectorsOf pa n).find? (fun sec => !s.sectorOk sec k) else none

/-- The failing sectors of a range. -/
def State.failing (s : State) (pa n k : Nat) : List Nat :=
  if isLocal pa then (sectorsOf pa n).filter (fun sec => !s.sectorOk sec k) else []

/-- Sectors take a slot's key material and pass their check (R303). -/
def State.rekeyed (s : State) (l : List Nat) (k : Nat) : State :=
  { s with keyed := l.foldl (fun m sec => Sparse.set m sec (s.keyOf k)) s.keyed
           poison := l.foldl (fun m sec => Sparse.set m sec 0) s.poison }

/-! ### Fault records (R295) -/

/-- A record goes to a control processor's queue, or its issuer keeps it while the queue is full. -/
def deliver (s : State) (c : Nat) (r : FaultRecord) : State :=
  let p := s.ccp c
  if p.faults.length < 128 then s.setCcp c { p with faults := p.faults ++ [r] }
  else s.setCcp c { p with held := p.held ++ [r] }

/-- A record about an access that no stream of a wave makes (R295). -/
def agentRecord (code : BitVec 8) (access agent : BitVec 4) (core : BitVec 13) (asid : BitVec 16) (time vaddr frame pc
    wave : BitVec 64) (gen : BitVec 16) (who : Claimant) : FaultRecord :=
  { code := code, access := access, agent := agent, second := false, prot := false, core := core, asid := asid,
    time := time, vaddr := vaddr, frame := frame, pc := pc, lmask := 0, gen := gen, detail := 0, paddr := 0, wave := wave,
    frag := none, who := who }

/-! ### Recall (R237) -/

/-- The record of a sector that a recall would write in part and that fails its check (R303); its address is physical, and the
record's VADDR zero (DESIGN CHOICE, log entry 93). -/
def recallRecord (s : State) (o : Owner) (sec : Nat) : State :=
  deliver s (o.core.toNat / 192)
    { agentRecord 0x04 5 0 o.core 0 (s.ptcOf o.core.toNat) 0 0 0 0 0 .nobody with
      detail := BitVec.ofNat 16 (sec % 2), paddr := BitVec.ofNat 64 (sec * 64) }

/-- The PUB bytes that a registered owner holds of its block go to memory at their current values, PUB clears for them, the
block is deregistered.  A sector written whole takes the key, one written in part is corrected or, where it fails its check, left
as it stands and recorded (R302, R303). -/
def recallBlock (s : State) (blk : Nat) : State :=
  match Table.find s.directory blk with
  | none => s
  | some o =>
    let c := s.core o.core.toNat
    let own := (List.range 512).filter (fun i => (s.pubAt (blk * 512 + i) o).isSome)
    let held (sec : Nat) : List Nat := own.filter (fun i => blk * 8 + i / 64 == sec)
    let secs := ((List.range 8).map (fun i => blk * 8 + i)).filter (fun sec => !(held sec).isEmpty)
    let whole := secs.filter (fun sec => (held sec).length == 64)
    let bad := secs.filter (fun sec => !s.sectorOk sec o.key && !whole.contains sec)
    let put := own.filter (fun i => !bad.contains (blk * 8 + i / 64))
    let s := (secs.filter (fun sec => !bad.contains sec && !whole.contains sec)).foldl (fun s sec => s.mend (sec * 64) 64) s
    let mem := put.foldl (fun m i => Sparse.set m (blk * 512 + i) (Sparse.get c.store (o.addr + i))) s.mem
    let limbo := if s.limbo.isEmpty then s.limbo
      else put.foldl (fun m i => Sparse.set m (blk * 512 + i) 0) s.limbo
    let pub := own.foldl (fun p i =>
      let a := o.addr + i
      Sparse.set p (a / 128) (Sparse.get p (a / 128) &&& ~~~(1#128 <<< (a % 128)))) c.pub
    let s : State := { s with mem := mem, limbo := limbo, directory := Table.erase s.directory blk }
    let s := ((s.rekeyed whole o.key).setCore o.core.toNat { c with pub := pub }).touch (blk * 512) 512 1
    bad.foldl (fun s sec => recallRecord s o sec) s

/-! ### Physical access -/

/-- What another package's address names (R392). -/
inductive Remote where
  | here (pa key : Nat) (w : Bool)
  | away (w : Bool)
  | silent
  | lost
  | error
  deriving DecidableEq, Repr

/-- A domain address, reached from a home die (R390, R392, R393): through this package's own export table; another package's
segment, and whether it takes writes; no package that answers; a link or port that is down; or an error of the target. -/
def State.remote (s : State) (h pa : Nat) : Remote :=
  let pkg := bits pa 45 36
  if pkg = s.fw.pkg.toNat then
    let e := (Sparse.get s.fw.exports (bits pa 35 32)).toNat
    let lpa := bits e 47 32 * 2 ^ 32 + bits pa 31 0
    if bits e 63 63 = 1 && s.keyLoaded (bits e 61 56)
    then (if s.pathUp h (bits lpa 38 37) then .here lpa (bits e 61 56) (bits e 62 62 == 1) else .lost)
    else .error
  else if s.fw.down.contains (.port (BitVec.ofNat 4 (4 * h + pkg % 4))) then .lost
  else match Table.find s.peers pkg with
    | none => .silent
    | some t =>
      let e := (Sparse.get t (bits pa 35 32)).toNat
      if bits e 63 63 = 1 then .away (bits e 62 62 == 1) else .error

/-- Bytes of local HBM under a key slot, with forwarding (R236); sectors with few errors are corrected (R302). -/
def readLocal (s : State) (va : BitVec 64) (pa n k : Nat) (ep : BitVec 2 := 1) : Except AccFail (List Byte × State) :=
  match s.badSector pa n k with
  | some sec => .error (.integrity va (BitVec.ofNat 64 (sec * 64)))
  | none => .ok ((List.range n).map (fun i => s.cell (pa + i)), (s.mend pa n).touch pa n ep)

/-- The sectors that lie wholly in a range. -/
def wholeSectors (pa n : Nat) : List Nat :=
  (sectorsOf pa n).filter (fun sec => decide (pa ≤ sec * 64) && decide (sec * 64 + 64 ≤ pa + n))

/-- Bytes written to a place in memory, its block recalled first (R237); a sector written whole takes the slot's key
material and passes its check from then on (R303). -/
def putLocal (s : State) (pa k : Nat) (bytes : List Byte) (ep : BitVec 2 := 1) : State :=
  let n := bytes.length
  let s := (List.range ((pa + n + 511) / 512 - pa / 512)).foldl (fun s i => recallBlock s (pa / 512 + i)) s
  let s : State := { s with
    mem := Sparse.setList s.mem pa bytes
    limbo := if s.limbo.isEmpty then s.limbo else Sparse.clear s.limbo pa n }
  (s.rekeyed (wholeSectors pa n) k).touch pa n ep

/-- A recall of a registered block of a range must wait: it meets a started fill of a line of its owner, after which it is served
(R237).  Blocks that core `own` owns are no recall. -/
def State.recallHeld (s : State) (pa n : Nat) (own : Nat := 4224) : Bool :=
  !s.directory.isEmpty && s.directory.any (fun p => decide (pa < p.1 * 512 + 512) && decide (p.1 * 512 < pa + n)
    && p.2.core.toNat != own
    && (s.core p.2.core.toNat).filling.any (fun x => decide (p.2.addr / 128 ≤ x.2) && decide (x.2 < p.2.addr / 128 + 4)))

/-- Every registered block of a range recalled (R237). -/
def recallRange (s : State) (pa n : Nat) : State :=
  (((s.directory.map (·.1)).filter (fun b => decide (pa < b * 512 + 512) && decide (b * 512 < pa + n))).foldl recallBlock s)

/-- The sectors of a whole range take a slot's key material and pass their check. -/
def Sparse.rekey (m : Sparse 768) (sec n : Nat) (key : BitVec 768) : Sparse 768 :=
  let m := Sparse.clear m sec n
  if key = 0 then m else Sparse.setList m sec (List.replicate n key)

/-- A range of local HBM accessed through the memory-side cache, 64 KiB after 64 KiB (R297). -/
def State.touchRange (s : State) (pa n : Nat) : State :=
  (List.range ((n + 65535) / 65536)).foldl (fun s i => s.touch (pa + 65536 * i) (min 65536 (n - 65536 * i)) 1) s

/-- Zeros written to a range of whole sectors under a key slot (R297, R301, R443). -/
def zeroRange (s : State) (pa n k : Nat) : State :=
  let s := recallRange s pa n
  let s : State := { s with
    mem := Sparse.clear s.mem pa n
    limbo := Sparse.clear s.limbo pa n
    keyed := Sparse.rekey s.keyed (pa / 64) (n / 64) (s.keyOf k)
    poison := Sparse.clear s.poison (pa / 64) (n / 64) }
  s.touchRange pa n

/-- A range of local HBM meets a page under a move lock (R296). -/
def State.locked (s : State) (pa n : Nat) : Bool :=
  (s.die (bits pa 38 37)).locks.any (fun p => decide (p.1 < pa + n) && decide (pa < p.1 + p.2))

/-- The sectors of a range that a write covers in part are corrected, and counted (R302). -/
def State.mendParts (s : State) (pa n : Nat) : State :=
  if s.poison.isEmpty then s
  else ((sectorsOf pa n).filter (fun sec => !(wholeSectors pa n).contains sec)).foldl (fun s sec => s.mend (sec * 64) 64) s

/-- A write to local HBM: held under a move lock (R296); a write covering part of a failing sector is not performed
(R303). -/
def writeLocal (s : State) (va : BitVec 64) (pa k : Nat) (bytes : List Byte) (ep : BitVec 2 := 1) :
    Except AccFail State :=
  let n := bytes.length
  if s.locked pa n || s.recallHeld pa n then .error .wait
  else
    match (sectorsOf pa n).find? (fun sec => !s.sectorOk sec k && !(wholeSectors pa n).contains sec) with
    | some sec => .error (.integrity va (BitVec.ofNat 64 (sec * 64)))
    | none => .ok (putLocal (s.mendParts pa n) pa k bytes ep)

/-- The last-use drop of a line (R299): it leaves the home L2 and the memory-side cache without write-back, and a byte that
HBM holds otherwise keeps two values; a line that is registered, locked or outside local HBM is not dropped. -/
def dropHome (s : State) (line : Nat) : State :=
  let pa := line * 128
  if !isLocal pa || (Table.find s.directory (line / 4)).isSome || s.locked pa 128 then s
  else
    let b := bits pa 38 37
    let d := s.die b
    let limbo := (List.range 128).foldl (fun m i =>
      let a := pa + i
      if Sparse.get s.hbm a = Sparse.get s.mem a || (Sparse.get m a).getLsbD 8 then m
      else Sparse.set m a (0x100#9 ||| (Sparse.get s.hbm a).setWidth 9)) s.limbo
    { s with limbo := limbo }.setDie b
      { d with l2 := d.l2.filter (fun x => x != line), msc := d.msc.filter (fun x => x.line != line) }

/-- The last-use drop of the lines of a read (R299). -/
def dropLines (s : State) (pa n : Nat) : State :=
  ((List.range ((pa + n + 127) / 128 - pa / 128)).map (fun i => pa / 128 + i)).foldl dropHome s

/-! ### Access at the home of a global virtual address -/

/-- Bytes of another package's memory that a home L2 holds, accepted by their line's stamp against TD (R324). -/
def State.heldAway (s : State) (h pa n : Nat) (td : BitVec 64) : Option (List Byte) :=
  ((s.die h).remote.find? (fun l => l.line == pa / 128 && decide (td.toNat ≤ l.domStamp.toNat))).map
    (fun l => (List.range n).map (fun i => l.data.extractLsb' (8 * (pa % 128 + i)) 8))

/-- The clock of the package that serves a line (R324): free, within SKEWDOM of every copy of this one where the bound stands
(R397). -/
def State.peerStamp (s : State) (pkg : Nat) : BitVec 64 :=
  let x := Config.peerClock pkg s.now
  if s.fw.skewDom = BitVec.allOnes 64 then x
  else
    let own := (List.range 4).map (fun b => (s.die b).ptc.toNat)
    let k := s.fw.skewDom.toNat
    BitVec.ofNat 64 (min (max x.toNat (own.foldl max 0 - k)) (own.foldl min (2 ^ 64 - 1) + k))

/-- A line of another package's memory refilled in a home L2, with the clock of the package that served it (R324). -/
def refillAway (s : State) (h pa n : Nat) : List Byte × State :=
  let d := s.die h
  let line := pa / 128
  let data := BitVec.ofNat 1024 (ofBytes ((List.range 128).map (fun i => Sparse.get s.mem (line * 128 + i))))
  let l : StampedLine := { asid := 0, line := line, stamp := d.ptc, domStamp := s.peerStamp (bits pa 45 36),
                           data := data }
  ((List.range n).map (fun i => Sparse.get s.mem (pa + i)),
   (s.setDie h { d with remote := l :: d.remote.filter (fun x => x.line != line) }).touchL2 h [line])

/-- A read served at its home die `h` at its physical address (R297, R303, R392): forwarding, the check field, the caches at
the home; host memory is reached through B0 (R14).  The range lies in one line. -/
def serveRead (s : State) (h : Nat) (v : BitVec 64) (pa k n : Nat) (td : BitVec 64) (hint : Hint) :
    Except AccFail (List Byte × State) :=
  if isLocal pa then
    match readLocal s v pa n k hint.ep with
    | .error e => .error e
    | .ok (bytes, s) => .ok (bytes, if hint.lu then dropLines s pa n else s)
  else if isPackage pa then
    match s.remote h pa with
    | .here lpa lk _ => readLocal s v lpa n lk hint.ep
    | r =>
      match s.heldAway h pa n td with
      | some bytes => .ok (bytes, s.touchL2 h [pa / 128])
      | none =>
        match r with
        | .away _ => .ok (refillAway s h pa n)
        | .error => .error (.page (.walk 0) v (BitVec.ofNat 64 pa))
        | .silent => .error (.link v true)
        | _ => .error (.link v false)
  else if !s.pathUp h 0 then .error (.link v false)
  else .ok ((List.range n).map (fun i => Sparse.get s.mem (pa + i)), s.touchL2 h [pa / 128])

/-- A read at the home of a global virtual address, for an agent on base die `from_` (R297).  The range lies in one
line. -/
def homeRead (s : State) (from_ : Nat) (asid : BitVec 16) (va n : Nat) (td : BitVec 64) (hint : Hint) (acc : Acc) :
    Except AccFail (List Byte × State) :=
  let h := homeDie va
  let v := BitVec.ofNat 64 va
  if !s.reaches from_ h then .error (.link v false)
  else
    match translate s asid va acc with
    | .error e => .error e
    | .ok ((pa, k), s) => serveRead s h v pa k n td hint

/-- A write of `n` bytes at `va`, physical `pa`, meets the bytes `off` to `off + len` − 1 of an address space, under this or
another address of the same memory (R312). -/
def meets (s : State) (asid : BitVec 16) (va pa n : Nat) (a2 : BitVec 16) (off len : Nat) : Bool :=
  (asid == a2 && decide (va < off + len) && decide (off < va + n))
    || (match physOf s a2 off with
      | some q => decide (pa < q + len) && decide (q < pa + n)
      | none => false)

/-- Waves that wait for a store to a line they loaded (R101), and waves recorded at a grid barrier whose phase has
changed (R379), become ready after a write by another agent. -/
def wakeWrite (s : State) (asid : BitVec 16) (va pa n : Nat) : State :=
  s.mapWaves (fun w =>
    match w.wait with
    | some (.spin _) => if w.spinLines.any (fun l => meets s asid va pa n w.asid (128 * l) 128) then w.wake else w
    | some (.grid a p) =>
      match physOf s w.asid (a.toNat + 8) with
      | some q =>
        if decide (pa < q + 4) && decide (q < pa + n)
          && BitVec.ofNat 32 (ofBytes ((List.range 4).map (fun i => s.cell (q + i)))) != p then w.wake else w
      | none => w
    | _ => w)

/-- A write applied at its home die `h` at its physical address (R297, R317, R321, R392).  The range lies in one
line. -/
def serveWrite (s : State) (h : Nat) (asid : BitVec 16) (va pa k : Nat) (bytes : List Byte) (ep : BitVec 2 := 1) :
    Except AccFail State :=
  let v := BitVec.ofNat 64 va
  let n := bytes.length
  if isLocal pa then
    match writeLocal s v pa k bytes ep with
    | .error e => .error e
    | .ok s => .ok (wakeWrite s asid va pa n)
  else if isPackage pa then
    match s.remote h pa with
    | .error => .error (.page (.walk 0) v (BitVec.ofNat 64 pa))
    | .away w =>
      if !w then .error (.page (.walk 0) v (BitVec.ofNat 64 pa))
      else
        let d := s.die h
        .ok (wakeWrite ({ s with mem := Sparse.setList s.mem pa bytes }.setDie h
          { d with remote := d.remote.filter (fun x => x.line != pa / 128) }) asid va pa n)
    | .silent => .error (.link v true)
    | .lost => .error (.link v false)
    | .here lpa lk w =>
      if !w then .error (.page (.walk 0) v (BitVec.ofNat 64 pa))
      else match writeLocal s v lpa lk bytes ep with
        | .error e => .error e
        | .ok s => .ok (wakeWrite (wakeWrite s asid va pa n) asid va lpa n)
  else if !s.pathUp h 0 then .error (.link v false)
  else .ok (wakeWrite { s with mem := Sparse.setList s.mem pa bytes } asid va pa n)

/-- A write at the home of a global virtual address.  The range lies in one line. -/
def homeWrite (s : State) (from_ : Nat) (asid : BitVec 16) (va : Nat) (bytes : List Byte) (ep : BitVec 2 := 1) :
    Except AccFail State :=
  let h := homeDie va
  if !s.reaches from_ h then .error (.link (BitVec.ofNat 64 va) false)
  else
    match translate s asid va .write with
    | .error e => .error e
    | .ok ((pa, k), s) => serveWrite s h asid va pa k bytes ep

/-- A range split at line boundaries: pieces (address, length). -/
def pieces (fuel va n : Nat) : List (Nat × Nat) :=
  match fuel with
  | 0 => []
  | f + 1 =>
    if n = 0 then []
    else
      let m := min n (128 - va % 128)
      (va, m) :: pieces f (va + m) (n - m)

/-- Bytes of any range at their homes. -/
def homeReadAll (s : State) (from_ : Nat) (asid : BitVec 16) (td : BitVec 64) (hint : Hint) :
    List (Nat × Nat) → Except AccFail (List Byte × State)
  | [] => .ok ([], s)
  | (va, n) :: l =>
    match homeRead s from_ asid va n td hint .read with
    | .error e => .error e
    | .ok (b, s) =>
      match homeReadAll s from_ asid td hint l with
      | .error e => .error e
      | .ok (bs, s) => .ok (b ++ bs, s)

/-- Bytes of a range, read fresh at the homes. -/
def readRange (s : State) (from_ : Nat) (asid : BitVec 16) (va n : Nat) : Except AccFail (List Byte × State) :=
  homeReadAll s from_ asid (BitVec.allOnes 64) .normal (pieces (n / 128 + 2) va n)

/-- Bytes of any range written at their homes, in address order. -/
def homeWriteAll (s : State) (from_ : Nat) (asid : BitVec 16) (ep : BitVec 2) (bytes : List Byte) :
    List (Nat × Nat) → Except AccFail State
  | [] => .ok s
  | (va, n) :: l =>
    match homeWrite s from_ asid va (bytes.take n) ep with
    | .error e => .error e
    | .ok s => homeWriteAll s from_ asid ep (bytes.drop n) l

/-- Bytes of a range written at their homes. -/
def writeRange (s : State) (from_ : Nat) (asid : BitVec 16) (va : Nat) (bytes : List Byte) : Except AccFail State :=
  homeWriteAll s from_ asid 1 bytes (pieces (bytes.length / 128 + 2) va bytes.length)

/-- Writes to a trace ring or a capture buffer are dropped where they fail: the buffers are the driver's. -/
def writeOr (s : State) (asid : BitVec 16) (va : Nat) (bytes : List Byte) : State :=
  match writeRange s 0 asid va bytes with
  | .ok s => s
  | .error _ => s

/-! ### Trace records (R422, R423) -/

/-- Barrier progress of a wave's block (R423). -/
def barrierProgress (s : State) (w : Wave) : BitVec 32 :=
  match s.block w.lid w.blk with
  | some b => (b.phases.map (·.2)).foldl (· + ·) 0
  | none => 0

/-- A trace record written to the ring of the wave's address space, or counted as lost (R422). -/
def traceRecord (s : State) (w : Wave) (type code : BitVec 8) (pc cause : BitVec 64) (lmask : BitVec 32) : State :=
  match Table.find s.fw.traces w.asid.toNat with
  | none => s
  | some (ring, k) =>
    match readRange s 0 w.asid ring.toNat 24 with
    | .error _ => s
    | .ok (h, s) =>
      let wr := ofBytes (h.take 8)
      let rd := ofBytes ((h.drop 8).take 8)
      if (wr + 2 ^ 64 - rd) % 2 ^ 64 = 2 ^ k then
        writeOr s w.asid (ring.toNat + 16) (toBytes 8 (ofBytes (h.drop 16) + 1))
      else
        let r := [type, code] ++ toBytes 2 w.widx ++ toBytes 4 w.lid.toNat
          ++ toBytes 8 (s.ptcOf w.core.toNat).toNat ++ toBytes 4 w.bx.toNat ++ toBytes 2 w.by_.toNat
          ++ toBytes 2 w.bz.toNat ++ toBytes 4 (barrierProgress s w).toNat ++ toBytes 2 w.core.toNat ++ toBytes 2 0
          ++ toBytes 8 pc.toNat ++ toBytes 8 cause.toNat ++ toBytes 4 lmask.toNat ++ toBytes 4 0
          ++ toBytes 8 w.wclk.toNat
        let s := writeOr s w.asid (ring.toNat + 64 + 64 * (wr % 2 ^ k)) r
        writeOr s w.asid ring.toNat (toBytes 8 (wr + 1))

/-! ### Capture (R424, R425) -/

/-- The granules that a launch's capture leaves out: the pool's range and the capture buffer (R425). -/
def captureExempt (s : State) (l : Launch) (granule : Nat) : Bool :=
  let buf := recField l.record 0x70 8
  let inPool := match s.pool l.asid (BitVec.ofNat 64 (recField l.record 0x30 8)) with
    | some p => decide (p.pbase.toNat ≤ granule * 131072)
        && decide (granule * 131072 < p.pbase.toNat + p.npages * 131072)
    | none => false
  let size := match readRange s 0 l.asid buf 8 with
    | .ok (b, _) => ofBytes b
    | .error _ => 0
  let inTrace := match Table.find s.fw.traces l.asid.toNat with
    | some (ring, k) => decide (ring.toNat / 131072 ≤ granule)
        && decide (granule ≤ (ring.toNat + 63 + 64 * 2 ^ k) / 131072)
    | none => false
  let inLog := s.waves.any (fun w => w.lid == l.lid && w.dbgctl.getLsbD 1
    && decide (bits w.dbgctl.toNat 55 20 = granule / 8))
  inPool || inTrace || inLog
    || (decide (buf / 131072 ≤ granule) && decide (granule ≤ (buf + size - 1) / 131072))

/-- A launch runs under capture (R424). -/
def State.capturing (s : State) (lid : BitVec 32) : Bool :=
  match s.launch lid with
  | some l => recField l.record 0x5B 1 % 2 == 1
  | none => false

/-- What a trace record names where no wave acts, but a copy engine or another agent of a launch (R423, R425). -/
def agentWave (s : State) (lid : BitVec 32) : Wave :=
  { Wave.blank with lid := lid, asid := ((s.launch lid).map (·.asid)).getD 0, core := 0x1FFF }

/-- The first touch of a granule: the home copies it into the capture buffer (R425); `who` touches it. -/
def captureTouch (s : State) (lid : BitVec 32) (va : Nat) (who : Wave := s.w) : State :=
  match s.launch lid with
  | none => s
  | some l =>
    let granule := va / 131072
    if recField l.record 0x5B 1 % 2 = 0 || l.capOver || l.captured.contains granule then s
    else if captureExempt s l granule then s
    else
      let buf := recField l.record 0x70 8
      let at_ := 0x1200 + 131136 * l.captured.length
      let size := match readRange s 0 l.asid buf 8 with
        | .ok (b, _) => ofBytes b
        | .error _ => 0
      if size < at_ + 131136 then
        let s := (writeOr s l.asid (buf + 0x10) (toBytes 4 2)).onLaunch lid (fun l => { l with capOver := true })
        traceRecord s who 5 0 who.spc 0 0
      else
        match readRange s 0 l.asid (granule * 131072) 131072 with
        | .error _ => s
        | .ok (img, s) =>
          let head := toBytes 8 (granule * 131072) ++ toBytes 8 (s.die (homeDie va)).ptc.toNat
            ++ toBytes 2 l.asid.toNat ++ toBytes 46 0
          let s := writeOr s l.asid (buf + at_) (head ++ img)
          let s := writeOr s l.asid (buf + 8) (toBytes 8 (at_ + 131136))
          let s := writeOr s l.asid (buf + 0x14) (toBytes 4 (l.captured.length + 1))
          s.onLaunch lid (fun l => { l with captured := l.captured ++ [granule],
                                            capUsed := BitVec.ofNat 64 (at_ + 131136) })

/-! ### Access from a core -/

/-- Lines of the L1 partition of a launch (R218). -/
def l1Lines (s : State) (lid : BitVec 32) : Nat :=
  match s.launch lid with
  | some l => recField l.record 0x4F 1 * 128
  | none => 0

/-- The bytes of a line kept as one word. -/
def lineWord (l : List Byte) : BitVec 1024 := BitVec.ofNat 1024 (ofBytes l)

/-- `n` bytes of a line from an offset. -/
def lineBytes (d : BitVec 1024) (off n : Nat) : List Byte :=
  (List.range n).map (fun i => d.extractLsb' (8 * (off + i)) 8)

/-- The clock of the package that served a line of another package's memory, held at the home of its address; all ones for
any other line (R324). -/
def awayStamp (s : State) (asid : BitVec 16) (va : Nat) : BitVec 64 :=
  match physOf s asid va with
  | some pa =>
    if isPackage pa then
      (((s.die (homeDie va)).remote.find? (fun l => l.line == pa / 128)).map (·.domStamp)).getD (BitVec.allOnes 64)
    else BitVec.allOnes 64
  | none => BitVec.allOnes 64

/-- A line of the remote-data cache that a read under the thresholds TP and TD may take (R323, R324). -/
def StampedLine.fits (l : StampedLine) (asid : BitVec 16) (line : Nat) (tp td : BitVec 64) : Bool :=
  l.asid == asid && l.line == line && decide (tp.toNat ≤ l.stamp.toNat) && decide (td.toNat ≤ l.domStamp.toNat)

/-- A line of an L1 partition that a read under the thresholds may take: served at or after them (R318, R320; log entry
82). -/
def L1Line.fits (l : L1Line) (lid : BitVec 32) (asid : BitVec 16) (line : Nat) (tp td : BitVec 64) : Bool :=
  l.lid == lid && l.asid == asid && l.line == line && decide (tp.toNat ≤ l.stamp.toNat)
    && decide (td.toNat ≤ l.domStamp.toNat)

/-- A base die's remote-data cache takes a line, served now, as the latest used; the least recently used leaves (R300,
R323). -/
def fillRdc (s : State) (b : Nat) (asid : BitVec 16) (line : Nat) (bytes : List Byte) : State :=
  let l : StampedLine := { asid := asid, line := line, stamp := (s.die (homeDie (line * 128))).ptc,
                           domStamp := awayStamp s asid (line * 128), data := lineWord bytes }
  let d := s.die b
  s.setDie b { d with rdc := (l :: d.rdc.filter (fun x => !(x.asid == asid && x.line == line))).take 262144 }

/-- A read below the L1: the remote-data cache of the core's base die, by its stamp against TP, or the home (R300,
R323).  The range lies in one line. -/
def dieRead (s : State) (b : Nat) (asid : BitVec 16) (va n : Nat) (tp td : BitVec 64) (hint : Hint) :
    Except AccFail (List Byte × State) :=
  if homeDie va = b then homeRead s b asid va n td hint .read
  else
    let d := s.die b
    match d.rdc.find? (fun l => l.fits asid (va / 128) tp td) with
    | some l => .ok (lineBytes l.data (va % 128) n, s.setDie b { d with rdc := l :: d.rdc.filter (fun x => x != l) })
    | none =>
      match homeRead s b asid (va / 128 * 128) 128 td hint .read with
      | .ok (bytes, s) => .ok ((bytes.drop (va % 128)).take n, fillRdc s b asid (va / 128) bytes)
      | .error _ => homeRead s b asid va n td hint .read

/-- A launch's L1 partition on a core takes a line that has just been read below it, as the latest used; the least recently
used leaves (R218, R221).  Its stamps are those of the copy it was read from. -/
def fillL1 (s : State) (g : Nat) (lid : BitVec 32) (asid : BitVec 16) (line : Nat) (bytes : List Byte) : State :=
  let b := s.dieOf g
  let stamps : BitVec 64 × BitVec 64 :=
    match (if homeDie (line * 128) = b then none
      else (s.die b).rdc.find? (fun l => l.asid == asid && l.line == line)) with
    | some l => (l.stamp, l.domStamp)
    | none => ((s.die (homeDie (line * 128))).ptc, awayStamp s asid (line * 128))
  let l : L1Line := { lid := lid, asid := asid, line := line, stamp := stamps.1, domStamp := stamps.2, data := lineWord bytes }
  let c := s.core g
  let mine := c.l1.filter (fun x => x.lid == lid && !(x.asid == asid && x.line == line))
  s.setCore g { c with l1 := (l :: mine).take (l1Lines s lid) ++ c.l1.filter (fun x => x.lid != lid) }

/-- A global load of a core (R297): the L1 partition of the launch, then below.  A line that a launch's L1 has room for
is filled whole. -/
def coreRead (s : State) (g : Nat) (lid : BitVec 32) (asid : BitVec 16) (va n : Nat) (tp td : BitVec 64) (hint : Hint) :
    Except AccFail (List Byte × State) :=
  let c := s.core g
  match c.l1.find? (fun l => l.fits lid asid (va / 128) tp td) with
  | some l => .ok (lineBytes l.data (va % 128) n, s.setCore g { c with l1 := l :: c.l1.filter (fun x => x != l) })
  | none =>
    let s := captureTouch s lid va
    let b := s.dieOf g
    if l1Lines s lid = 0 then dieRead s b asid va n tp td hint
    else
      match dieRead s b asid (va / 128 * 128) 128 tp td hint with
      | .ok (bytes, s) => .ok ((bytes.drop (va % 128)).take n, fillL1 s g lid asid (va / 128) bytes)
      | .error _ => dieRead s b asid va n tp td hint

/-- The remote-data cache of a base die drops a line; a fill of the line that is on its way does not allocate there (R321,
R331). -/
def dropRdc (s : State) (b : Nat) (asid : BitVec 16) (line : Nat) : State :=
  let d := s.die b
  let s := if d.rdc.isEmpty then s
    else s.setDie b { d with rdc := d.rdc.filter (fun x => !(x.asid == asid && x.line == line)) }
  if s.requests.isEmpty then s
  else { s with requests := s.requests.map (fun r =>
    if r.asid == asid && r.addr.toNat / 128 == line && s.dieOf r.core.toNat == b then { r with noFill := true } else r) }

/-- A line gone from the L1 of a core. -/
def dropL1 (s : State) (g : Nat) (asid : BitVec 16) (line : Nat) : State :=
  let c := s.core g
  if c.l1.isEmpty then s
  else s.setCore g { c with l1 := c.l1.filter (fun x => !(x.asid == asid && x.line == line)) }

/-- What a store does in the issuing core and its base die (R321): the L1 copies take the bytes, the remote-data cache
drops the line. -/
def coreStored (s : State) (g : Nat) (asid : BitVec 16) (va : Nat) (bytes : List Byte) : State :=
  let c := s.core g
  let upd (l : L1Line) : L1Line :=
    if l.asid == asid && l.line == va / 128 then
      { l with data := lineWord (Sparse.getList (Sparse.setList
          ((List.range 128).map (fun i => (i, l.data.extractLsb' (8 * i) 8))) (va % 128) bytes) 0 128) }
    else l
  dropRdc (if c.l1.isEmpty then s else s.setCore g { c with l1 := c.l1.map upd }) (s.dieOf g) asid (va / 128)

/-- A global store of a core (R321), applied at the home. -/
def coreWrite (s : State) (g : Nat) (lid : BitVec 32) (asid : BitVec 16) (va : Nat) (bytes : List Byte)
    (ep : BitVec 2 := 1) : Except AccFail State :=
  let s := captureTouch s lid va
  match homeWrite s (s.dieOf g) asid va bytes ep with
  | .error e => .error e
  | .ok s => .ok (coreStored s g asid va bytes)

/-! ### Requests on their way (R313, R321, R386) -/

/-- A request asks for data. -/
def ReqKind.isLoad : ReqKind → Bool
  | .load _ => true
  | _ => false

/-- A request has not been performed at its home. -/
def Request.unserved (r : Request) : Bool := r.stage == .sent || r.stage == .timedOut

/-- A request that has reached its home and stays there: held under a move lock (R296), or forwarded to a package that does not
answer (R392). -/
def State.heldHome (s : State) (r : Request) : Bool :=
  (!r.kind.isLoad && isLocal r.pa && s.locked r.pa r.size)
    || (isPackage r.pa && s.remote (homeDie r.addr.toNat) r.pa == .silent)

/-- A request is on its way to a home from a core, where later ones of the core cannot pass it (R321, R386, R388); one that has
timed out is still on its way while the links are up (R390). -/
def State.inFront (s : State) (r : Request) (core : BitVec 13) (home : Nat) : Bool :=
  r.unserved && r.core == core && homeDie r.addr.toNat == home && !s.heldHome r
    && (r.stage == .sent || s.pathUp (s.dieOf core.toNat) home)

/-- An earlier request of a core is on its way to a home, where what the core sends now cannot pass it (R321, R386). -/
def State.behind (s : State) (g home : Nat) : Bool :=
  !s.requests.isEmpty && s.requests.any (fun r => s.inFront r (BitVec.ofNat 13 g) home)

/-- The bytes of a request of a wave meet a range, under this or another address of the same memory (R312, R313). -/
def State.onBytes (s : State) (r : Request) (wave : Nat) (asid : BitVec 16) (va n : Nat) : Bool :=
  r.wave == wave && r.unserved
    && (if r.asid == asid && decide (r.addr.toNat < va + n) && decide (va < r.addr.toNat + r.size) then true
      else match physOf s asid va with
        | some pa => decide (r.pa < pa + n) && decide (pa < r.pa + r.size)
        | none => false)

/-- An access of the wave to some bytes would be made before an earlier one of them that is still on its way (R313, R318). -/
def State.early (s : State) (va n : Nat) : Bool :=
  !s.requests.isEmpty && s.requests.any (fun r => s.onBytes r s.w.id s.w.asid va n)

/-- An access at its home would overtake an earlier request of the core to that home, or one of the wave on some of these bytes
(R313, R321; log entry 5). -/
def State.overtakes (s : State) (va n : Nat) : Bool :=
  !s.requests.isEmpty && (s.early va n || s.requests.any (fun r => s.inFront r s.w.core (homeDie va)))

/-- A copy of bytes in the core's L1, or in the remote-data cache of its base die, at or above TP and TD (R322 to R324). -/
def State.cachedBytes (s : State) (va n : Nat) : Option (List Byte) :=
  let g := s.w.core.toNat
  match (s.core g).l1.find? (fun l => l.fits s.w.lid s.w.asid (va / 128) s.w.tp s.w.td) with
  | some l => some (lineBytes l.data (va % 128) n)
  | none =>
    if homeDie va = s.dieOf g then none
    else match (s.die (s.dieOf g)).rdc.find? (fun l => l.fits s.w.asid (va / 128) s.w.tp s.w.td) with
      | some l => some (lineBytes l.data (va % 128) n)
      | none => none

/-- An atomic drops the line from the issuing core's L1 and its base die's remote-data cache (R331). -/
def dropLine (s : State) (g : Nat) (asid : BitVec 16) (va : Nat) : State :=
  dropRdc (dropL1 s g asid (va / 128)) (s.dieOf g) asid (va / 128)

end Sys2Proof.Machine
end

