-- ==== Sys2Proof/Machine/Stash.lean ====
section
/-! DEFINITION. The local store: chords, fills, stash reads and writes, publication, write-back and recall
(07_local_store.md R218 to R243). -/

namespace Sys2Proof.Machine

/-! ### Chord parameter blocks (R226) -/

/-- `n` bytes of a parameter block, unsigned. -/
def Chord.u (c : Chord) (off n : Nat) : Nat := c.image.toNat / 2 ^ (8 * off) % 2 ^ (8 * n)

/-- `n` bytes of a parameter block, signed. -/
def Chord.i (c : Chord) (off n : Nat) : Int :=
  let x := c.u off n
  if x < 2 ^ (8 * n - 1) then x else (x : Int) - 2 ^ (8 * n)

/-- GBASE. -/
def Chord.gbase (c : Chord) : Nat := c.u 0 8
/-- SOFF. -/
def Chord.soff (c : Chord) : Nat := c.u 8 4
/-- FOFF. -/
def Chord.foff (c : Chord) : Nat := c.u 0xC 2
/-- FLEN. -/
def Chord.flen (c : Chord) : Nat := c.u 0xE 2
/-- STRIDEi. -/
def Chord.stride (c : Chord) (k : Nat) : Int := c.i (0x10 + 12 * k) 4
/-- Ni. -/
def Chord.cnt (c : Chord) (k : Nat) : Nat := c.u (0x14 + 12 * k) 2
/-- ORGi. -/
def Chord.org (c : Chord) (k : Nat) : Int := c.i (0x16 + 12 * k) 2
/-- BNDi. -/
def Chord.bnd (c : Chord) (k : Nat) : Nat := c.u (0x18 + 12 * k) 2
/-- STEPi. -/
def Chord.stp (c : Chord) (k : Nat) : Int := c.i (0x1A + 12 * k) 1
/-- CTL. -/
def Chord.ctl (c : Chord) : Nat := c.u 0x34 4
/-- PKEY. -/
def Chord.pkey (c : Chord) : Nat := c.u 0x38 4
/-- FMT of CTL. -/
def Chord.fmt (c : Chord) : Nat := c.ctl % 32
/-- KEEP of CTL. -/
def Chord.keep (c : Chord) : Bool := c.ctl / 512 % 2 == 1
/-- SCH of CTL. -/
def Chord.sch (c : Chord) : Nat := c.ctl / 1024 % 32
/-- SCV of CTL. -/
def Chord.scv (c : Chord) : Bool := c.ctl / 32768 % 2 == 1
/-- TAG of CTL. -/
def Chord.tag (c : Chord) : BitVec 16 := BitVec.ofNat 16 (c.ctl / 65536)
/-- Formats of six bits (R44). -/
def Chord.six (c : Chord) : Bool := c.fmt == 0x0D || c.fmt == 0x0E || c.fmt == 0x14 || c.fmt == 0x15
/-- EB: bytes of an element's image (R227). -/
def Chord.eb (c : Chord) : Nat := if c.six then c.flen * 4 / 3 else c.flen
/-- N: elements. -/
def Chord.n (c : Chord) : Nat := c.cnt 0 * c.cnt 1 * c.cnt 2
/-- Bytes of the chord's range (R227). -/
def Chord.len (c : Chord) : Nat := (c.n * c.eb + 127) / 128 * 128

/-- The record address of element `e`, none when it is out of bounds (R227). -/
def Chord.record (c : Chord) (e : Nat) : Option Int :=
  let j := [e % c.cnt 0, e / c.cnt 0 % c.cnt 1, e / (c.cnt 0 * c.cnt 1)]
  let co (k : Nat) : Int := c.org k + (j[k]?.getD 0 : Nat) * c.stp k
  if (List.range 3).all (fun k => c.bnd k == 0 || (decide (0 ≤ co k) && decide (co k < c.bnd k)))
  then some (c.gbase + c.foff + co 0 * c.stride 0 + co 1 * c.stride 1 + co 2 * c.stride 2)
  else none

/-- R228. -/
def Chord.direct (c : Chord) : Bool :=
  c.foff == 0 && c.stride 0 == c.flen && (c.cnt 1 == 1 || c.stride 1 == c.cnt 0 * c.flen)
    && (c.cnt 2 == 1 || c.stride 2 == c.cnt 0 * c.cnt 1 * c.flen)
    && (List.range 3).all (fun k => c.stp k == 1 && c.org k == 0 && c.bnd k == 0)
    && !c.six && c.gbase % 512 == c.soff % 512

/-- Where a byte of the chord's image comes from: its record address, the first of the packed bytes it needs, and its
place in a six-bit group; none for zero bytes (R227, R145). -/
def Chord.source (c : Chord) (o : Nat) : Option (Int × Nat) :=
  if c.eb = 0 ∨ c.n * c.eb ≤ o then none
  else match c.record (o / c.eb) with
    | none => none
    | some a =>
      let k := o % c.eb
      if c.six then
        -- container k of the element: bits 6·(k mod 32) of its packed group of 24 bytes
        let bit := k % 32 * 6
        some (a + (k / 32 * 24 + bit / 8 : Nat), bit % 8)
      else some (a + (k : Nat), 0)

/-! ### The chord table of a core (R225) -/

/-- A live chord of a launch's block on a core. -/
def Core.chord (c : Core) (lid : BitVec 32) (k : Nat) : Option Chord :=
  (c.chords.find? (fun x => x.1.1 == lid && x.1.2 == k)).map (·.2)

/-- The live chord of a launch that covers a stash offset. -/
def Core.covers (c : Core) (lid : BitVec 32) (off : Nat) : Option Chord :=
  (c.chords.find? (fun x => x.1.1 == lid && decide (x.2.soff ≤ off) && decide (off < x.2.soff + x.2.len))).map (·.2)

/-- The bits of one byte in a line's mask. -/
def maskBit (m : Sparse 128) (a : Nat) : Bool := (Sparse.get m (a / 128)).getLsbD (a % 128)

/-- A mask with one byte's bit set or cleared. -/
def setBit (m : Sparse 128) (a : Nat) (b : Bool) : Sparse 128 :=
  let x := Sparse.get m (a / 128)
  Sparse.set m (a / 128) (if b then x ||| (1#128 <<< (a % 128)) else x &&& ~~~(1#128 <<< (a % 128)))

/-! ### Fills (R231, R232) -/

/-- The record field of the element at an offset of a chord's image is translated whole: an element succeeds or faults as
one (R232). -/
def elemSettled (s : State) (asid : BitVec 16) (c : Chord) (o : Nat) : Except AccFail State :=
  match (if c.eb = 0 then none else c.record (o / c.eb)) with
  | none => .ok s
  | some r =>
    match translate s asid r.toNat .read with
    | .error e => .error e
    | .ok (_, s) =>
      match translate s asid (r.toNat + c.flen - 1) .read with
      | .error e => .error e
      | .ok (_, s) => .ok s

/-- A page fault of a fill names the record address of the element at an offset of the chord's image (R232). -/
def AccFail.ofElem (c : Chord) (o : Nat) : AccFail → AccFail
  | .page f va pa => .page f (if c.eb = 0 then va else ((c.record (o / c.eb)).map (fun r => BitVec.ofInt 64 r)).getD va) pa
  | e => e

/-- One byte of a chord's image read at the homes for a core, in order with the core's earlier requests (R386). -/
def fillByte (s : State) (core : Nat) (asid : BitVec 16) (c : Chord) (o : Nat) : Except AccFail (Byte × State) :=
  let b := s.dieOf core
  match c.source o with
  | none => .ok (0, s)
  | some (a, sh) =>
    if s.behind core (homeDie a.toNat) then .error .wait
    else match elemSettled s asid c o with
    | .error e => .error (e.ofElem c o)
    | .ok s =>
      if c.six then
        let n := if 2 < sh then 2 else 1
        match readRange s b asid a.toNat n with
        | .error e => .error (e.ofElem c o)
        | .ok (bs, s) => .ok (BitVec.ofNat 8 (ofBytes bs / 2 ^ sh % 64), s)
      else
        match homeRead s b asid a.toNat 1 (BitVec.allOnes 64) .normal .read with
        | .error e => .error (e.ofElem c o)
        | .ok (bs, s) => .ok (bs.headD 0, s)

/-- The first touches of the granules that bytes of a chord's image reach, by a fill or a write-back (R425). -/
def captureChord (s : State) (lid : BitVec 32) (c : Chord) (os : List Nat) : State :=
  if s.capturing lid then
    ((os.filterMap (fun o => (c.source o).map (fun x => x.1.toNat / 131072))).eraseDups).foldl
      (fun s g => captureTouch s lid (g * 131072) (if s.w.lid == lid then s.w else agentWave s lid)) s
  else s

/-- The invalid bytes of a list of local-store addresses filled one after another; a byte whose element faults stays
invalid, and the first failure is kept. -/
def fillBytes (g : Nat) (lid : BitVec 32) (asid : BitVec 16) (base : Nat) :
    List Nat → State → State
  | [], s => s
  | a :: l, s =>
    let c := s.core g
    if maskBit c.valid a then fillBytes g lid asid base l s
    else match c.covers lid (a - base) with
      | none => fillBytes g lid asid base l s
      | some ch =>
        let s := captureChord s lid ch [a - base - ch.soff]
        match fillByte s g asid ch (a - base - ch.soff) with
        | .error _ => fillBytes g lid asid base l s
        | .ok (x, s) =>
          let c := s.core g
          fillBytes g lid asid base l
            (s.setCore g { c with store := Sparse.set c.store a x, valid := setBit c.valid a true })

/-- The fill of one line: R231. -/
def fillLine (s : State) (g : Nat) (lid : BitVec 32) (asid : BitVec 16) (base line : Nat) : State :=
  fillBytes g lid asid base ((List.range 128).map (fun i => line * 128 + i)) s

/-- Why a byte is still not VALID after a fill; LINKDOWN is a trap of the lanes that read it (R390). -/
def fillFault (s : State) (g : Nat) (lid : BitVec 32) (asid : BitVec 16) (base a : Nat) : AccFail :=
  match (s.core g).covers lid (a - base) with
  | none => .wait
  | some ch =>
    match fillByte s g asid ch (a - base - ch.soff) with
    | .error (.link va _) => .link va false
    | .error e => e
    | .ok _ => .wait

/-! ### Stash access -/

/-- The stash of a core that a launch's partition gives: its local-store base and size (R219). -/
def State.stash (s : State) (lid : BitVec 32) : Nat × Nat :=
  match s.launch lid with
  | some l => (l.stashBase, l.stashSize)
  | none => (0, 0)

/-- The lines of a range of local-store addresses. -/
def linesOf (a n : Nat) : List Nat :=
  (List.range (if n = 0 then 0 else (a + n - 1) / 128 + 1 - a / 128)).map (fun i => a / 128 + i)

/-- The local store of a core is a launch's alone: its bank is the active one, and no line of another launch is departing. -/
def Core.holds (c : Core) (lid : BitVec 32) : Bool := c.active == some lid && c.spill.isNone

/-- A line of a core's local store is a launch's: all are, or its bank is the active one, its stash has been zeroed, and the line
is not departing; or its lines depart, and the line is one of them or none of its chords' (R90, R91, R219, R220, R222).  An access
of another launch waits for its bank (log entry 20). -/
def State.holdsLine (s : State) (g : Nat) (lid : BitVec 32) (line : Nat) : Bool :=
  let c := s.core g
  if c.active == some lid then c.spill.isNone || (c.zeroed.contains lid && !c.leaving.contains line)
  else c.spill == some lid && (c.leaving.contains line
    || !c.chords.any (fun x => x.1.1 == lid && decide ((s.stash lid).1 + x.2.soff ≤ line * 128)
      && decide (line * 128 < (s.stash lid).1 + x.2.soff + x.2.len)))

/-- The local store of a core holds a range of a launch's stash. -/
def State.holdsAt (s : State) (g : Nat) (lid : BitVec 32) (off n : Nat) : Bool :=
  (s.core g).holds lid || (linesOf ((s.stash lid).1 + off) n).all (s.holdsLine g lid)

/-- The first of `n` stash bytes at an offset of a core that a chord covers and that is not VALID. -/
def State.invalidAt (s : State) (g : Nat) (lid : BitVec 32) (off n : Nat) : Option Nat :=
  (List.range n).find? (fun i =>
    ((s.core g).covers lid (off + i)).isSome && !maskBit (s.core g).valid ((s.stash lid).1 + off + i))

/-- A started fill of a line of a range has not ended: a touch of bytes that are not VALID waits for it (R231). -/
def State.fillGoing (s : State) (g : Nat) (lid : BitVec 32) (off n : Nat) : Bool :=
  (linesOf ((s.stash lid).1 + off) n).any (fun line => (s.core g).filling.contains (lid, line))

/-- The first touch of `n` stash bytes at an offset of a core: the lines of bytes that are not VALID are filled, as far as their
elements can be read (R231, R232). -/
def stashTouch (s : State) (g : Nat) (lid : BitVec 32) (asid : BitVec 16) (off n : Nat) : State :=
  if !s.holdsAt g lid off n || (s.invalidAt g lid off n).isNone || s.fillGoing g lid off n then s
  else
    let base := (s.stash lid).1
    (linesOf (base + off) n).foldl (fun s line => fillLine s g lid asid base line) s

/-- `n` stash bytes at an offset of a core, filled where a chord's bytes are not VALID (R231); scratch is read as it
stands (R222). -/
def stashRead (s : State) (g : Nat) (lid : BitVec 32) (asid : BitVec 16) (off n : Nat) :
    Except AccFail (List Byte × State) :=
  let base := (s.stash lid).1
  let a := base + off
  if !s.holdsAt g lid off n then .error .wait
  else
    let s := stashTouch s g lid asid off n
    match s.invalidAt g lid off n with
    | none => .ok (Sparse.getList (s.core g).store a n, s)
    | some i => if s.fillGoing g lid off n then .error .wait else .error (fillFault s g lid asid base (a + i))

/-- A write of a published byte is a write of that core beyond it (R317): the copies of the byte's memory line in the core's L1
and in its base die's remote-data cache are dropped (R300, R318), and waves that wait for a write there wake (R101, R379). -/
def dropCopies (s : State) (g : Nat) (lid : BitVec 32) (off : Nat) : State :=
  match (s.core g).covers lid off, s.launch lid with
  | some ch, some l =>
    match ch.source (off - ch.soff) with
    | some (va, _) =>
      let s := dropLine s g l.asid va.toNat
      match physOf s l.asid va.toNat with
      | some pa => wakeWrite s l.asid va.toNat pa 1
      | none => s
    | none => s
  | _, _ => s

/-- Stash bytes written: a chord's bytes become VALID and DIRTY; a scratch write that reaches a retained set discards
it (R222, R231, R241). -/
def stashWrite (s : State) (g : Nat) (lid : BitVec 32) (off : Nat) (bytes : List Byte) : State :=
  let a := (s.stash lid).1 + off
  let c := s.core g
  let c := { c with store := Sparse.setList c.store a bytes }
  let c := (List.range bytes.length).foldl (fun (c : Core) i =>
    if (c.covers lid (off + i)).isSome then
      { c with valid := setBit c.valid (a + i) true, dirty := setBit c.dirty (a + i) true }
    else c) c
  let hit (r : Retained) : Bool :=
    let ch : Chord := { image := r.image }
    decide (r.base + ch.soff < a + bytes.length) && decide (a < r.base + ch.soff + ch.len)
  let s := s.setCore g { c with retained := c.retained.filter (fun r => !hit r) }
  ((List.range bytes.length).filter (fun i => maskBit c.pub (a + i))).foldl (fun s i => dropCopies s g lid (off + i)) s

/-- The bytes of a queued matrix operation's B range and parameter range on its leader that it has yet to read, as stash
offsets (R260, R262, R274). -/
def MatOp.reads (o : MatOp) : List (Nat × Nat) :=
  if o.done || o.cancelled then []
  else match o.kind with
    | .mma | .mmaz =>
      let bfmt := bits o.fmtc.toNat 26 22
      let col := if bfmt = 0x09 || bfmt = 0x0A then 128
        else if bfmt = 0x0F || bfmt = 0x16 || bfmt = 0x06 || bfmt = 0x07 || bfmt = 0x17 then 32 else 64
      let n := bits o.word.toNat 5 0 * 16
      let g := if bits o.fmtc.toNat 21 20 = 0 then 2 else 1
      let left := n - o.col
      let b := (bits o.word.toNat 34 16 + o.col * col, left * col)
      if bfmt = 0x17 || bfmt = 0x18 then [b, (bits o.word.toNat 53 35 + 4 * o.col * g, 4 * left * g)] else [b]
    | _ => []

/-- A queued operation led by a core has still to read bytes of a range of the stash (R274). -/
def queuedRead (s : State) (g off n : Nat) : Bool :=
  (s.pair (g / 2)).queue.any (fun o => o.leader.toNat == g
    && o.reads.any (fun r => decide (r.1 < off + n) && decide (off < r.1 + r.2)))

/-- A stash write of a launch on a core must wait for the launch's bank, or, unless it travels the cluster path, for a queued
operation's B read (R274). -/
def stashBusy (s : State) (g : Nat) (lid : BitVec 32) (off n : Nat) (path : Bool) : Bool :=
  !s.holdsAt g lid off n || (!path && queuedRead s g off n)

/-! ### Write-back, publication -/

/-- Bytes by address joined into runs that each lie in one line: a sector that they cover whole is written whole (R303). -/
def joined : List (Nat × Byte) → List (Nat × List Byte)
  | [] => []
  | (a, x) :: l =>
    match joined l with
    | (b, xs) :: r => if a + 1 = b ∧ a / 128 = b / 128 then (a, x :: xs) :: r else (a, [x]) :: (b, xs) :: r
    | [] => [(a, [x])]

/-- Runs of bytes written at their homes one after another; the copies of each line in the core's L1 and its base die's
remote-data cache are dropped (R300, R318). -/
def backRuns (g : Nat) (asid : BitVec 16) : List (Nat × List Byte) → State → Except AccFail State
  | [], s => .ok s
  | (a, xs) :: l, s =>
    if s.behind g (homeDie a) then .error .wait
    else match homeWrite s (s.dieOf g) asid a xs with
    | .error e => .error e
    | .ok s => backRuns g asid l (dropLine s g asid a)

/-- A six-bit group repacked and written whole, 24 bytes (R234). -/
def backGroup (s : State) (g : Nat) (asid : BitVec 16) (c : Chord) (o : Nat) (cont : List Byte) :
    Except AccFail State :=
  match c.source o with
  | none => .ok s
  | some (a, _) =>
    let packed := (cont.zipIdx).foldl (fun n p => n + (p.1.toNat % 64) * 2 ^ (6 * p.2)) 0
    if s.behind g (homeDie a.toNat) then .error .wait else writeRange s (s.dieOf g) asid a.toNat (toBytes 24 packed)

/-- The copies of the lines of some record bytes in the core's L1 and its base die's remote-data cache are dropped (R300,
R318). -/
def dropBack (s : State) (g : Nat) (asid : BitVec 16) (c : Chord) (os : List Nat) : State :=
  os.foldl (fun s o =>
    match c.source o with
    | some (va, _) => dropLine s g asid va.toNat
    | none => s) s

/-- Offsets in the chord whose bytes a mask of one line selects. -/
def selected (m : BitVec 128) : List Nat := (List.range 128).filter (fun i => m.getLsbD i)

/-- The groups of a six-bit chord that begin at offsets of its image, written one after another. -/
def backGroups (asid : BitVec 16) (c : Chord) (g a0 : Nat) : List Nat → State → Except AccFail State
  | [], s => .ok s
  | o :: l, s =>
    match backGroup s g asid c o (Sparse.getList (s.core g).store (a0 + o) 32) with
    | .error e => .error e
    | .ok s => backGroups asid c g a0 l (dropBack s g asid c [o, o + 31])

/-- Bytes of one line of a chord written by record address, given as offsets of its image: bytes without a record are written
nowhere (R227, R234). -/
def backBytes (asid : BitVec 16) (c : Chord) (g a0 : Nat) (os : List Nat) (s : State) : Except AccFail State :=
  if c.six then backGroups asid c g a0 os s
  else
    backRuns g asid (joined (os.filterMap (fun o =>
      (c.source o).map (fun p => (p.1.toNat, Sparse.get (s.core g).store (a0 + o)))))) s

/-- The line's selected bytes in write-back order; for a six-bit chord, the first container of each touched group. -/
def backOrder (c : Chord) (lineOff : Nat) (m : BitVec 128) : List Nat :=
  if c.six then
    ((List.range 4).filter (fun k => (selected m).any (fun i => decide (i / 32 = k)))).map (fun k => lineOff + 32 * k)
  else (selected m).map (fun i => lineOff + i)

/-- A line of a core's local store gives up its part of the registrations that name it; one whose owner holds no PUB byte of
its block any more is removed (R238). -/
def deregister (s : State) (g line : Nat) : State :=
  let c := s.core g
  { s with directory := s.directory.filterMap (fun p =>
      if p.2.core.toNat == g && p.2.addr / 512 == line / 4 then
        let o := { p.2 with cover := p.2.cover &&& ~~~((BitVec.ofNat 512 (2 ^ 128 - 1)) <<< (128 * (line % 4))) }
        if (List.range 512).any (fun i => o.cover.getLsbD i && maskBit c.pub (o.addr + i)) then some (p.1, o) else none
      else some p) }

/-- The masks of a line cleared and its registration removed (R238). -/
def releaseLine (s : State) (g line : Nat) : State :=
  let s := deregister s g line
  let c := s.core g
  s.setCore g { c with dirty := Sparse.set c.dirty line 0, pub := Sparse.set c.pub line 0 }

/-- One line of a chord written back with its DIRTY and PUB bytes, the masks cleared and its registration removed
(R238).  `base` is the local-store base of the stash. -/
def backLine (s : State) (g : Nat) (lid : BitVec 32) (asid : BitVec 16) (base : Nat) (c : Chord) (line : Nat) :
    Except AccFail State :=
  let co := s.core g
  let m := Sparse.get co.dirty line ||| Sparse.get co.pub line
  if m = 0 then .ok s
  else
    let a0 := base + c.soff
    -- the line no longer supplies its block while its bytes go to memory
    let os := backOrder c (line * 128 - a0) m
    match backBytes asid c g a0 os (deregister (captureChord s lid c os) g line) with
    | .error e => .error e
    | .ok s => .ok (releaseLine s g line)

/-- The lines of a chord written back in order, up to the first that fails (R238). -/
def backLines (g : Nat) (lid : BitVec 32) (asid : BitVec 16) (base : Nat) (c : Chord) : List Nat → State → State × Option AccFail
  | [], s => (s, none)
  | line :: l, s =>
    match backLine s g lid asid base c line with
    | .error e => (s, some e)
    | .ok s => backLines g lid asid base c l s

/-- The lines of a chord, as local-store line numbers. -/
def Chord.lines (c : Chord) (base : Nat) : List Nat :=
  (List.range (c.len / 128)).map (fun i => (base + c.soff) / 128 + i)

/-- The lines of a launch's chord that are the launch's in a core's local store (R90, R91). -/
def State.ownLines (s : State) (g : Nat) (lid : BitVec 32) (base : Nat) (c : Chord) : List Nat :=
  (c.lines base).filter (s.holdsLine g lid)

/-- Every line of a chord that is its launch's written back where it can be; what fails is lost (R238), and what is held by earlier
requests or a move lock stays. -/
def backLossy (s : State) (g : Nat) (lid : BitVec 32) (asid : BitVec 16) (base : Nat) (c : Chord) : State × Option AccFail :=
  (s.ownLines g lid base c).foldl (fun (r : State × Option AccFail) line =>
    match backLine r.1 g lid asid base c line with
    | .ok s => (s, r.2)
    | .error .wait => (r.1, some .wait)
    | .error e => (releaseLine r.1 g line, some (r.2.getD e))) (s, none)

/-- The bytes of the 512-byte region at a local-store address that a chord maps (R227, R228). -/
def Chord.cover (c : Chord) (base addr : Nat) : BitVec 512 :=
  BitVec.ofNat 512 ((List.range 512).foldl (fun m i =>
    if base + c.soff ≤ addr + i ∧ addr + i < base + c.soff + c.n * c.eb then m + 2 ^ i else m) 0)

/-- The home registers a block's owner, recalling another owner first (R235); further chords of the owner add their part. -/
def registerBlock (s : State) (blk g addr key : Nat) (cover : BitVec 512) : State :=
  let fresh : Owner := { core := BitVec.ofNat 13 g, addr := addr, cover := cover, key := key }
  match Table.find s.directory blk with
  | some o =>
    if o.core.toNat = g && o.addr = addr then
      { s with directory := Table.put s.directory blk { o with cover := o.cover ||| cover } }
    else
      let s := recallBlock s blk
      { s with directory := Table.put s.directory blk fresh }
  | none => { s with directory := Table.put s.directory blk fresh }

/-- The bytes of a chord's line that hold data, the line at an offset of its image: all but the tail (R227). -/
def Chord.dataMask (c : Chord) (o : Nat) : BitVec 128 :=
  BitVec.ofNat 128 (2 ^ min 128 (c.n * c.eb - o) - 1)

/-- Publication of one line (R234); a tail byte is published nowhere (R227; log entry 76).  Waves that wait for a write to the
bytes wake (R101, R379). -/
def publishLine (s : State) (g : Nat) (lid : BitVec 32) (asid : BitVec 16) (base : Nat) (c : Chord) (line : Nat) :
    Except AccFail State :=
  let co := s.core g
  let m := Sparse.get co.dirty line
  if m = 0 then .ok s
  else
    let a0 := base + c.soff
    let s := captureChord s lid c (backOrder c (line * 128 - a0) m)
    let clear (s : State) : State :=
      let co := s.core g
      s.setCore g { co with dirty := Sparse.set co.dirty line 0 }
    if c.direct then
      let va := c.gbase + (line * 128 - a0)
      let va0 := va / 512 * 512
      if s.behind g (homeDie va) then .error .wait
      else if !s.reaches (s.dieOf g) (homeDie va) then .error (.link (BitVec.ofNat 64 va) false)
      else
        match translate s asid va .write with
        | .error e => .error e
        | .ok ((pa, k), s) =>
          if isLocal pa then
            let data := m &&& c.dataMask (line * 128 - a0)
            if data = 0 then .ok (clear s)
            else
              let addr := line * 128 - (va - va0)
              if s.recallHeld (pa / 512 * 512) 512 g then .error .wait
              else
              let s := registerBlock s (pa / 512) g addr k (c.cover base addr)
              let co := s.core g
              let s := s.setCore g { co with pub := Sparse.set co.pub line (Sparse.get co.pub line ||| data),
                                             dirty := Sparse.set co.dirty line 0 }
              .ok (wakeWrite (dropLine s g asid va) asid va pa 128)
          else
            match backBytes asid c g a0 (backOrder c (line * 128 - a0) m) s with
            | .error e => .error e
            | .ok s => .ok (clear s)
    else
      match backBytes asid c g a0 (backOrder c (line * 128 - a0) m) s with
      | .error e => .error e
      | .ok s => .ok (clear s)

/-- Publication of a list of lines, each with its core and chord, up to the first that fails. -/
def publishLines (lid : BitVec 32) (asid : BitVec 16) (base : Nat) : List (Nat × Chord × Nat) → State → State × Option AccFail
  | [], s => (s, none)
  | (g, c, line) :: l, s =>
    match publishLine s g lid asid base c line with
    | .error e => (s, some e)
    | .ok s => publishLines lid asid base l s

/-- The cores whose chords a release of a wave covers: its ORIGIN core, and those it has written over the cluster path
(R234). -/
def releaseCores (w : Wave) : List Nat :=
  let o := w.origin.toNat
  o :: ((List.range 192).filter (fun i => w.clusterWrites.getLsbD i && o / 192 * 192 + i != o)).map
    (fun i => o / 192 * 192 + i)

/-- Publication by a release at blk scope or wider (R234); publications made before a failure stand (R338). -/
def publish (s : State) (w : Wave) : State × Option AccFail :=
  let base := (s.stash w.lid).1
  let work := (releaseCores w).flatMap (fun g =>
    ((s.core g).chords.filter (fun x => x.1.1 == w.lid)).flatMap (fun x =>
      (s.ownLines g w.lid base x.2).map (fun line => (g, x.2, line))))
  publishLines w.lid w.asid base work s

/-- VALID cleared for the bytes of a launch's non-KEEP chords on a core that are neither DIRTY nor PUB (R236). -/
def clearValid (s : State) (g : Nat) (lid : BitVec 32) : State :=
  let base := (s.stash lid).1
  let c := s.core g
  let lines := (c.chords.filter (fun x => x.1.1 == lid && !x.2.keep)).flatMap (fun x => s.ownLines g lid base x.2)
  if lines.isEmpty then s
  else s.setCore g { c with valid := lines.foldl (fun v line =>
    Sparse.set v line (Sparse.get v line &&& (Sparse.get c.dirty line ||| Sparse.get c.pub line))) c.valid }

end Sys2Proof.Machine
end

