-- ==== Sys2Proof/Machine/Frame.lean ====
section
/-! DEFINITION. The context frame: its layout, what the device writes back and reads afresh, and a wave's own accesses
to it (03_contexts.md R62 to R74). -/

namespace Sys2Proof.Machine

/-! ### Layout -/

/-- Number of a park cause (R64). -/
def ParkCause.code : ParkCause → Nat
  | .none => 0 | .ctxFault => 1 | .page => 2 | .emu => 3 | .debugHalt => 4 | .fwcall => 5

/-- Number of a place (R64). -/
def Place.code : Place → Nat
  | .origin => 0 | .landing false => 1 | .landing true => 2 | .transit => 3

/-- STATE of an entry (R65). -/
def FragState.code : FragState → Nat
  | .live => 1 | .waiting => 2 | .handler => 3

/-- WSTAT (R64). -/
def Wave.wstat (w : Wave) : Nat :=
  w.parkc.code * 2 ^ 28 + w.swapped.toNat * 2 ^ 27 + w.inhandler.toNat * 2 ^ 26 + w.haltlatch.toNat * 2 ^ 25
    + w.spinf.toNat * 2 ^ 24 + (w.lqhead % 8) * 2 ^ 20 + w.lq.length * 2 ^ 16 + w.split.length * 2 ^ 10
    + w.place.code * 2 ^ 8 + w.stage.toNat * 2 ^ 4

/-- A split-table entry as it stands in the frame (R65). -/
def SplitEntry.image (e : SplitEntry) : Nat :=
  e.lpc.toNat * 2 ^ 224 + e.rga.toNat * 2 ^ 192 + e.clink.toNat * 2 ^ 160 + e.tlink.toNat * 2 ^ 128
    + e.lmask.toNat * 2 ^ 96 + e.fmtc.toNat * 2 ^ 64 + e.parent.toNat * 2 ^ 59 + e.state.code * 2 ^ 56
    + e.latv.toNat * 2 ^ 52 + e.chain.toNat * 2 ^ 49 + e.clv.toNat * 2 ^ 48 + e.tlv.toNat * 2 ^ 47
    + e.npart.toNat * 2 ^ 41 + e.fmask.toNat

/-- A seed register as it stands in the frame, with its derived tag (R68). -/
def seedImage (z : BitVec 65) : Nat := (seedTag (z.setWidth 64) (z.getLsbD 64)).toNat * 2 ^ 80 + z.toNat

/-- PENDS: a bit for each scalar register with an outstanding write (R67). -/
def Wave.pends (w : Wave) : Nat := w.pendS.foldl (fun a p => a + 2 ^ p.1) 0

/-- PENDV: a bit for each main-file register with an outstanding write in some lane (R67). -/
def Wave.pendv (w : Wave) : Nat :=
  (List.range 256).foldl (fun a n => if w.pendV.any (fun p => p.1 / 32 == n) then a + 2 ^ n else a) 0

/-- The words of the device-owned and register regions below 0xA5E0 but the main file and sidecars: offset, bytes,
value (R62 to R68).  A completed queue entry and a freed split entry leave zeros (DESIGN CHOICE, log entry 91). -/
def Wave.statusWords (w : Wave) : List (Nat × Nat × Nat) :=
  [(0x92C0, 4, w.fmtw.toNat), (0x92C4, 2, w.regcnt), (0x92C6, 2, w.gen.toNat), (0x92C8, 8, w.spc.toNat),
   (0x92D0, 8, w.lbase.toNat), (0x92D8, 4, w.wstat), (0x92E0, 8, w.waveid.toNat), (0x92E8, 8, w.poolptr.toNat),
   (0x92F0, 8, w.origin.toNat)]
  ++ w.split.map (fun p => (0x9D00 + 32 * p.1, 32, p.2.image))
  ++ [(0xA100, 8, w.pendcnt), (0xA108, 8, w.pends), (0xA110, 8, w.pendT.toNat), (0xA120, 32, w.pendv)]
  ++ w.slots.map (fun p => (0xA180 + 16 * p.1, 16, p.2.toNat))
  ++ (w.lq.zipIdx).flatMap (fun p =>
      let e := 0xA280 + 80 * ((w.lqhead + p.2) % 8)
      [(e, 8, p.1.pc.toNat)] ++ ((p.1.k.take 8).zipIdx).map (fun q => (e + 8 + 8 * q.2, 8, q.1.toNat))
        ++ [(e + 0x48, 4, p.1.fmt.toNat), (e + 0x4C, 4, 1 + 2 * p.1.started.toNat)])
  ++ w.gens.map (fun p => (0xA500 + 4 * p.1, 4, p.2.toNat))
  ++ [(0xA580, 8, w.trampbase.toNat), (0xA588, 8, w.trapbase.toNat), (0xA590, 8, w.trapcause.toNat),
      (0xA598, 8, w.trappc.toNat), (0xA5A0, 8, w.trapaddr.toNat), (0xA5A8, 8, w.trapmask.toNat),
      (0xA5B0, 8, w.deadline.toNat), (0xA5B8, 8, w.stagemargin.toNat), (0xA5C0, 8, w.stagecnt.toNat),
      (0xA5C8, 8, w.dbgctl.toNat), (0xA5D0, 8, w.sflags.toNat), (0xA5D8, 8, w.wclk.toNat)]

/-- The words of the register regions (R63). -/
def Wave.registerWords (w : Wave) : List (Nat × Nat × Nat) :=
  (w.v.filter (fun p => decide (p.1 / 32 < w.regcnt))).map (fun p => (p.1 * 4, 4, p.2.toNat))
  ++ (w.x.filter (fun p => decide (p.1 < w.regcnt))).map (fun p => (0x8000 + 16 * p.1, 16, p.2.toNat))
  ++ w.sreg.map (fun p => (0x9000 + 8 * p.1, 8, p.2.toNat))
  ++ w.m.map (fun p => (0x9200 + 4 * p.1, 4, p.2.toNat))
  ++ (List.range 8).map (fun n => (0x9240 + 16 * n, 16, seedImage (Sparse.get w.z n)))
  ++ w.o.map (fun p => (0x9300 + 4 * p.1, 4, p.2.toNat))
  ++ w.l.map (fun p => (0x9B00 + 4 * p.1, 4, p.2.toNat))

/-- An offset of the frame in the registers below REGCNT, their sidecars or what the device owns; the rest is plain memory
(R71). -/
def Wave.frameOwned (w : Wave) (off : Nat) : Bool :=
  decide (off < 128 * w.regcnt) && decide (off < 0x8000)
    || decide (0x8000 ≤ off) && decide (off < 0x8000 + 16 * w.regcnt) && decide (off < 0x9000)
    || decide (0x9000 ≤ off) && decide (off < 0xA5E0)

/-- The parts of a range of the frame that are all owned or all plain memory: offset, length, owned (R71). -/
def Wave.frameParts (w : Wave) : Nat → Nat → Nat → List (Nat × Nat × Bool)
  | 0, _, _ => []
  | f + 1, off, n =>
    if n = 0 then []
    else
      let m := min n (16 - off % 16)
      let own := w.frameOwned off
      match w.frameParts f (off + m) (n - m) with
      | (o, k, r) :: l => if r == own then (off, m + k, own) :: l else (off, m, own) :: (o, k, r) :: l
      | [] => [(off, m, own)]

/-- The byte the device would write back at an offset of the frame (R71); none where the frame is plain memory. -/
def Wave.frameByte (w : Wave) (off : Nat) : Option Byte :=
  if w.frameOwned off then
    match (w.registerWords ++ w.statusWords).find? (fun p => decide (p.1 ≤ off) && decide (off < p.1 + p.2.1)) with
    | some (a, _, x) => some (BitVec.ofNat 8 (x / 2 ^ (8 * (off - a))))
    | none => some 0
  else none

/-- A sidecar as a store or a reload leaves it (R6, R7, R68): reserved bits read zero, and a reserved format code leaves the
field as it was. -/
def sideKept (old x : BitVec 128) : BitVec 128 :=
  let y := x &&& 0x0000000000F8FFFFFFFFFFFFFFFFFFFF#128
  if sideCode y < 0x1B then y else mkSide (sideCode old) (sideTag y) (sideScales y)

/-- The wave with a special register written, field by field (R7, R54); a read-only register ignores the write. -/
def Wave.writeSr (w : Wave) (n : Nat) (x : Word64) : Wave :=
  match n with
  | 0x020 => { w with trampbase := x &&& 0x00FFFFFFFFFFFFF8#64 }
  | 0x021 => { w with trapbase := x &&& 0x00FFFFFFFFFFFE00#64 }
  | 0x040 => { w with deadline := x }
  | 0x041 => { w with stagemargin := x &&& 0x00000000FFFFFFFF#64 }
  | 0x050 =>
    let y := x &&& 0x00FFFFFFFFFFFFFF#64
    -- UNDO keeps its value where LOGBASE would be zero (R418)
    let y := if y.getLsbD 1 && y.extractLsb' 20 36 == 0 then (y &&& ~~~2#64) ||| (w.dbgctl &&& 2#64) else y
    { w with dbgctl := y, sampled := w.wclk }
  | 0x060 => { w with sflags := x &&& 0x3F#64 }
  | _ => w

/-! ### Register stores through the frame (R71) -/

/-- A 32-bit word with one byte replaced. -/
def patch (w : Nat) (x : BitVec w) (i : Nat) (b : Byte) : BitVec w :=
  (x &&& ~~~(0xFF#w <<< (8 * i))) ||| (b.setWidth w <<< (8 * i))

/-- One byte of a store to the wave's own frame, as a register write; a store to a device-owned region is discarded
(R71).  None where the frame is plain memory. -/
def Wave.frameStore (w : Wave) (off : Nat) (b : Byte) : Option Wave :=
  if off < 0x8000 then
    if off < 128 * w.regcnt then some { w with v := Sparse.set w.v (off / 4) (patch 32 (Sparse.get w.v (off / 4)) (off % 4) b),
                                               pendV := Sparse.set w.pendV (off / 4) 0 }
    else none
  else if off < 0x9000 then
    let n := (off - 0x8000) / 16
    if n < w.regcnt then
      let old := Sparse.get w.x n
      some { w with x := Sparse.set w.x n (sideKept old (patch 128 old (off % 16) b)) }
    else none
  else if off < 0x9200 then
    let n := (off - 0x9000) / 8
    if n = 0 then some w
    else some { w with sreg := Sparse.set w.sreg n (patch 64 (Sparse.get w.sreg n) (off % 8) b),
                       pendS := Sparse.set w.pendS n 0 }
  else if off < 0x9240 then
    let n := (off - 0x9200) / 4
    some { w with m := Sparse.set w.m n (patch 32 (Sparse.get w.m n) (off % 4) b) }
  else if off < 0x92C0 then
    let n := (off - 0x9240) / 16
    let i := (off - 0x9240) % 16
    if i < 8 then some { w with z := Sparse.set w.z n (patch 65 (Sparse.get w.z n) i b) }
    else if i = 8 then
      some { w with z := Sparse.set w.z n ((Sparse.get w.z n &&& 0xFFFFFFFFFFFFFFFF#65) ||| (if b.getLsbD 0 then 1#65 <<< 64 else 0)) }
    else some w
  else if off < 0x9300 then some w
  else if off < 0x9B00 then
    let k := (off - 0x9300) / 4
    some { w with o := Sparse.set w.o k (patch 32 (Sparse.get w.o k) (off % 4) b) }
  else if off < 0x9D00 then
    let k := (off - 0x9B00) / 4
    some { w with l := Sparse.set w.l k (patch 32 (Sparse.get w.l k) (off % 4) b) }
  else if off < 0xA5E0 then some w
  else none

/-! ### Fault records (R295) -/

/-- The cluster control processor of the cluster that holds a wave (R295). -/
def ccpOf (w : Wave) : Nat := w.core.toNat / 192

/-- A record about a wave, with everything zero that its cause does not give. -/
def waveRecord (s : State) (w : Wave) (code : BitVec 8) (access agent : BitVec 4) (vaddr pc : BitVec 64) (who : Claimant) :
    FaultRecord :=
  { code := code, access := access, agent := agent, second := false, prot := false, core := w.core, asid := w.asid,
    time := s.ptcOf w.core.toNat, vaddr := vaddr, frame := w.frame, pc := pc, lmask := 0, gen := w.gen, detail := 0,
    paddr := 0, wave := w.waveid, frag := if s.lane then some s.frag else none, who := who }

/-- A wave-stop trap of the scalar stream that a wave takes at its next boundary (R303, R390, R401). -/
def Wave.owes (w : Wave) (code : BitVec 8) (addr : BitVec 64) (nr : Bool) : Wave :=
  let t : TrapInfo := { code := code, detail := 0, addr := addr, lanes := 0, pc := w.spc, frag := none, sw := false, nr := nr,
                        stop := true }
  { w with heldTraps := w.heldTraps ++ [t] }

/-- The record of a sector that fails its check for a wave (R303): code 0x04, naming the consumer. -/
def sectorRecord (s : State) (w : Wave) (access agent : BitVec 4) (va pc pa : BitVec 64) : FaultRecord :=
  { waveRecord s w 0x04 (integrityAccess s w.asid va pa access) agent va pc .nobody with
    detail := BitVec.ofNat 16 (pa.toNat / 64 % 2), paddr := pa }

/-- Sectors of a frame that fail their check, by frame offset and address: a record for each, and one wave-stop trap at the wave's
next boundary (R303). -/
def State.frameBad (s : State) (w : Wave) (agent : BitVec 4) (nr : Bool) : List (BitVec 64 × BitVec 64) → State
  | [] => s
  | (va, pa) :: l =>
    let s := ((va, pa) :: l).foldl (fun s p => deliver s (ccpOf w) (sectorRecord s w 5 agent p.1 w.spc p.2)) s
    s.mapWaves (fun x => if x.id == w.id then x.owes 0x11 va nr else x)

/-- The frame of a wave cannot be written: the wave takes a wave-stop trap at its next boundary, INTEGRITY with its record where
a page table of the frame fails its check (R303), LINKDOWN where the frame cannot be reached (R390). -/
def State.frameLost (s : State) (w : Wave) (agent : BitVec 4) (va : BitVec 64) (nr : Bool) (e : AccFail) : State :=
  let set (s : State) (f : Wave → Wave) : State := s.mapWaves (fun x => if x.id == w.id then f x else x)
  match e with
  | .integrity v pa => s.frameBad w agent nr [(v, pa)]
  | _ => set s (fun x => x.owes 0x12 va nr)

/-! ### Write-back and reload (R72, R74) -/

/-- The frame's physical address and key slot; none while an earlier request of the core to the frame's home is on its way
(R386), when it cannot be reached (R390), or its page is not mapped for writing (R83). -/
def framePlace (s : State) (w : Wave) : Except AccFail ((Nat × Nat) × State) :=
  if s.behind w.core.toNat (homeDie w.frame.toNat) then .error .wait
  else if !s.reaches (s.dieOf w.core.toNat) (homeDie w.frame.toNat) then .error (.link w.frame false)
  else translate s w.asid w.frame.toNat .write

/-- What is written to a wave's frame is held: its page is under a move lock (R296), or an earlier request of its core is on its
way there (R386). -/
def State.frameHeld (s : State) (w : Wave) : Bool :=
  match framePlace s w with
  | .ok ((pa, _), s) => isLocal pa && s.locked pa 65536
  | .error .wait => true
  | .error _ => false

/-- Bytes written at an offset of a wave's frame: held under a move lock, not performed on a part of a failing sector (R296,
R302, R303). -/
def State.frameWrite (s : State) (w : Wave) (off : Nat) (bytes : List Byte) : Except AccFail State :=
  match framePlace s w with
  | .error e => .error e
  | .ok ((pa, k), s) =>
    if isLocal pa then writeLocal s (w.frame + BitVec.ofNat 64 off) (pa + off) k bytes
    else .ok (putLocal s (pa + off) k bytes)

/-- The ranges of a frame that a write-back writes: the registers below REGCNT, their sidecars, and what the device owns from
0x9000 to 0xA5DF (R62). -/
def frameRanges (n : Nat) : List (Nat × Nat) := [(0, 128 * n), (0x8000, 16 * n), (0x9000, 0x15E0)]

/-- The words that a write-back writes put over the frame's ranges, which they fill (R62). -/
def putFrameWords (pa : Nat) (w : Wave) (m : Sparse 8) : Sparse 8 :=
  (w.registerWords ++ w.statusWords).foldl (fun m p => Sparse.setList m (pa + p.1) (toBytes p.2.1 p.2.2))
    ((frameRanges (min w.regcnt 256)).foldl (fun m r => Sparse.clear m (pa + r.1) r.2) m)

/-- The wave's state written into its frame (R74): the registers below REGCNT, and all below 0xA5E0 from 0x9000.  A move lock holds
it (R296).  Sectors written whole take the key; one written in part is corrected or, where it fails its check, not written, and
the wave takes INTEGRITY at its next boundary (R302, R303). -/
def writeBack (s : State) (w : Wave) : Except AccFail State :=
  match framePlace s w with
  | .error e => .error e
  | .ok ((pa, k), s) =>
    let s := if s.directory.isEmpty then s else (List.range 128).foldl (fun s i => recallBlock s (pa / 512 + i)) s
    if !isLocal pa then .ok { s with mem := putFrameWords pa w s.mem }
    else if s.locked pa 65536 then .error .wait
    else
      let ranges := (frameRanges (min w.regcnt 256)).map (fun r => (pa + r.1, r.2))
      let whole := ranges.flatMap (fun r => wholeSectors r.1 r.2)
      let bad := (ranges.flatMap (fun r => sectorsOf r.1 r.2)).filter (fun sec => !whole.contains sec && !s.sectorOk sec k)
      let mem := bad.foldl (fun m sec => Sparse.setList m (sec * 64) (Sparse.getList s.mem (sec * 64) 64))
        (putFrameWords pa w s.mem)
      let s := ranges.foldl (fun s r => s.mendParts r.1 r.2) s
      let s : State := { s with
        mem := mem
        limbo := if s.limbo.isEmpty then s.limbo else ranges.foldl (fun m r => Sparse.clear m r.1 r.2) s.limbo }
      let s := ranges.foldl (fun s r => s.touch r.1 r.2 1) (s.rekeyed whole k)
      .ok (s.frameBad w 1 true (bad.map (fun sec => (w.frame + BitVec.ofNat 64 (sec * 64 - pa), BitVec.ofNat 64 (sec * 64)))))

/-- Words written into the frame of a wave whose frame is authoritative (R74, R88), but for those in part of a failing sector
(R303); where the frame cannot be written the device's copy of the wave stands until it can, and a page that is not mapped is
reported (R83). -/
def State.putFrame (s : State) (w : Wave) (words : List (Nat × Nat × Nat)) : State :=
  let set (s : State) (f : Wave → Wave) : State := s.mapWaves (fun x => if x.id == w.id then f x else x)
  match framePlace s w with
  | .ok ((pa, k), s) =>
    if isLocal pa && s.locked pa 65536 then set s (fun x => { x with swapped := false })
    else
      let bad (p : Nat × Nat × Nat) : List Nat :=
        (s.failing (pa + p.1) p.2.1 k).filter (fun sec => !(wholeSectors (pa + p.1) p.2.1).contains sec)
      let l := ((words.flatMap bad).eraseDups).map
        (fun sec => (w.frame + BitVec.ofNat 64 (sec * 64 - pa), BitVec.ofNat 64 (sec * 64)))
      let s := (words.filter (fun p => (bad p).isEmpty)).foldl (fun s p =>
        match s.frameWrite w p.1 (toBytes p.2.1 p.2.2) with
        | .ok s => s
        | .error _ => s) s
      s.frameBad w 0 true l
  | .error (.page _ _ _) =>
    deliver (set s (fun x => { x with swapped := false })) (ccpOf w)
      (waveRecord s w 0x01 5 0 (w.frame + BitVec.ofNat 64 ((words.headD (0, 0, 0)).1)) w.spc .nobody)
  | .error .wait => set s (fun x => { x with swapped := false })
  | .error e => (set s (fun x => { x with swapped := false })).frameLost w 0 w.frame true e

/-- The line of a wave's frame that holds an offset, among all lines (R80). -/
def frameLine (w : Wave) (off : Nat) : Nat := w.asid.toNat * 2 ^ 49 + (w.frame.toNat + off) / 128

/-- A core's register cache and operand file without the lines of a wave's frame (R72). -/
def State.forgetLines (s : State) (g : Nat) (w : Wave) : State :=
  let c := s.cache g
  let other (p : Nat × Bool) : Bool := decide (p.1 < frameLine w 0) || decide (frameLine w 0 + 512 ≤ p.1)
  if c.rc.isEmpty && c.operand.isEmpty then s
  else s.setCache g { rc := c.rc.filter other, operand := c.operand.filter other }

/-- A word of the frame in memory. -/
def frameWord (s : State) (pa off n : Nat) : Nat := ofBytes ((List.range n).map (fun i => s.cell (pa + off + i)))

/-- The map of the non-zero words of a region, `n` bytes each. -/
def frameMap (s : State) (pa off n count : Nat) (w : Nat) : Sparse w :=
  let at_ (i : Nat) : BitVec w := BitVec.ofNat w (frameWord s pa (off + i * n) n)
  if s.directory.isEmpty && s.limbo.isEmpty then
    (Sparse.range s.mem (pa + off) (n * count)).foldl
      (fun m c => Sparse.set m ((c.1 - (pa + off)) / n) (at_ ((c.1 - (pa + off)) / n))) []
  else (List.range count).foldl (fun m i => Sparse.set m i (at_ i)) []

/-- STATE of a split entry by its number; the unlisted numbers leave it as it was (R7, R65). -/
def FragState.ofCode (old : FragState) : Nat → FragState
  | 1 => .live | 2 => .waiting | 3 => .handler | _ => old

/-- A split-table entry read from its 32 bytes (R65), with the selector's record of the entry that stood there. -/
def SplitEntry.ofImage (old : SplitEntry) (x : Nat) : SplitEntry :=
  { old with
    lpc := BitVec.ofNat 32 (bits x 255 224), rga := BitVec.ofNat 32 (bits x 223 192), clink := BitVec.ofNat 32 (bits x 191 160),
    tlink := BitVec.ofNat 32 (bits x 159 128), lmask := BitVec.ofNat 32 (bits x 127 96), fmtc := writeFmt old.fmtc (BitVec.ofNat 32 (bits x 95 64)),
    parent := BitVec.ofNat 5 (bits x 63 59), state := old.state.ofCode (bits x 58 56), latv := BitVec.ofNat 4 (bits x 55 52),
    chain := BitVec.ofNat 3 (bits x 51 49), clv := bits x 48 48 == 1, tlv := bits x 47 47 == 1,
    npart := BitVec.ofNat 6 (bits x 46 41), fmask := BitVec.ofNat 32 (bits x 31 0) }

/-- The split table of the frame: the entries that are not free (R65). -/
def frameSplit (s : State) (w : Wave) (pa : Nat) : Table SplitEntry :=
  (List.range 32).filterMap (fun i =>
    let x := frameWord s pa (0x9D00 + 32 * i) 32
    if bits x 58 56 = 0 then none else some (i, (Table.getD w.split i SplitEntry.free).ofImage x))

/-- The lane queue of the frame: the valid entries from its head on (R67). -/
def frameQueue (s : State) (w : Wave) (pa head : Nat) : List LaneBlock :=
  let entry (i : Nat) : Nat := 0xA280 + 80 * ((head + i) % 8)
  let valid (i : Nat) : Bool := frameWord s pa (entry i + 0x4C) 1 % 2 == 1
  ((List.range 8).takeWhile valid).map (fun i =>
    let e := entry i
    let old := w.lq[i]?.getD { pc := 0, k := [], fmt := 0, started := false }
    { pc := BitVec.ofNat 64 (frameWord s pa e 8),
      k := (List.range 8).map (fun j => BitVec.ofNat 64 (frameWord s pa (e + 8 + 8 * j) 8)),
      fmt := writeFmt old.fmt (BitVec.ofNat 32 (frameWord s pa (e + 0x48) 4)),
      started := frameWord s pa (e + 0x4C) 1 / 2 % 2 == 1 })

/-- Pending marks as the frame's bits say: a cleared bit ends the waits on its register, a set one without a request waits for
a return that never comes (R67, R88).  `lanes`: marks per register. -/
def frameMarks (m : Sparse 64) (lanes n x : Nat) : Sparse 64 :=
  (List.range n).foldl (fun a r =>
    let mine := m.filter (fun p => p.1 / lanes == r)
    if x / 2 ^ r % 2 = 0 then a
    else if mine.isEmpty then Sparse.set a (lanes * r) (BitVec.allOnes 64)
    else mine.foldl (fun a p => Sparse.set a p.1 p.2) a) []

/-- The bits of a completion slot that are no reserved ones (R354). -/
def slotFields : BitVec 128 := 0xFFFFFFFFFFFFFFFFFFFFFF00C00000FF#128

/-- The wave's state read afresh from its frame (R72): the registers, FMTW, REGCNT, SPC, LBASE, SPINF, STAGE and the handler's
marks of WSTAT, the split table, the pending-return block, the completion slots, the lane queue, the generators and the saved
special registers, reserved bits as R6 and R7 say.  GEN, WAVEIDW, POOLPTR, ORIGIN and the rest of WSTAT are copies of what the
device keeps elsewhere (log entry 38). -/
def reloadFrom (s : State) (w : Wave) (pa : Nat) : Wave :=
  let count := frameWord s pa 0x92C4 2
  let n := if 1 ≤ count ∧ count ≤ 256 then count else w.regcnt
  let stat := frameWord s pa 0x92D8 4
  let head := bits stat 23 20 % 8
  let sr (i : Nat) : BitVec 64 := BitVec.ofNat 64 (frameWord s pa (0xA580 + 8 * i) 8)
  let inh := bits stat 26 26 == 1
  let w1 : Wave := { w with
    progress := if BitVec.ofNat 64 (frameWord s pa 0x92C8 8) = w.spc then w.progress else none,
    v := frameMap s pa 0 4 (32 * n) 32,
    x := (frameMap s pa 0x8000 16 n 128).foldl (fun m p => Sparse.set m p.1 (sideKept (Sparse.get w.x p.1) p.2)) [],
    sreg := (frameMap s pa 0x9000 8 64 64).filter (fun p => p.1 != 0),
    m := frameMap s pa 0x9200 4 16 32,
    z := (List.range 8).foldl (fun z i => Sparse.set z i (BitVec.ofNat 65 (frameWord s pa (0x9240 + 16 * i) 9))) [],
    o := frameMap s pa 0x9300 4 512 32,
    l := frameMap s pa 0x9B00 4 128 32,
    gens := frameMap s pa 0xA500 4 32 32,
    fmtw := writeFmt w.fmtw (BitVec.ofNat 32 (frameWord s pa 0x92C0 4)),
    regcnt := n,
    spc := BitVec.ofNat 64 (frameWord s pa 0x92C8 8),
    lbase := BitVec.ofNat 22 (frameWord s pa 0x92D0 8),
    spinf := bits stat 24 24 == 1,
    stage := BitVec.ofNat 4 (bits stat 7 4),
    haltlatch := bits stat 25 25 == 1,
    inhandler := inh,
    handler := if inh then some (w.handler.getD { frag := none, stop := true, nr := false, since := s.seq }) else none,
    lqhead := head,
    lq := frameQueue s w pa head,
    split := frameSplit s w pa,
    splitCache := [],
    pendcnt := frameWord s pa 0xA100 8,
    pendS := frameMarks w.pendS 1 64 (frameWord s pa 0xA108 8),
    pendT := BitVec.ofNat 64 (frameWord s pa 0xA110 8),
    pendV := frameMarks w.pendV 32 256 (frameWord s pa 0xA120 32),
    slots := (frameMap s pa 0xA180 16 16 128).foldl (fun m p => Sparse.set m p.1 (p.2 &&& slotFields)) [],
    trapcause := sr 2 &&& 0x0000FFFFFFFFFFFF#64, trappc := sr 3, trapaddr := sr 4,
    trapmask := sr 5 &&& 0x00000000FFFFFFFF#64, stagecnt := sr 8, wclk := sr 11 }
  let w2 := ((((w1.writeSr 0x020 (sr 0)).writeSr 0x021 (sr 1)).writeSr 0x040 (sr 6)).writeSr 0x041 (sr 7)).writeSr 0x060 (sr 10)
  { (w2.writeSr 0x050 (sr 9)) with sampled := w.sampled }

/-- A wave's state read afresh from its frame (R72); the first sector that fails its check fails the whole (R303). -/
def reload (s : State) (w : Wave) : Except AccFail (Wave × State) :=
  match framePlace s w with
  | .error e => .error e
  | .ok ((pa, k), s) =>
    match (frameRanges (min w.regcnt 256)).findSome? (fun r => s.badSector (pa + r.1) r.2 k) with
    | some sec => .error (.integrity (w.frame + BitVec.ofNat 64 (sec * 64 - pa)) (BitVec.ofNat 64 (sec * 64)))
    | none =>
      let s := if isLocal pa then (frameRanges (min w.regcnt 256)).foldl (fun s r => (s.mend (pa + r.1) r.2).touch (pa + r.1) r.2 1) s
        else s
      .ok (reloadFrom s w pa, s)

end Sys2Proof.Machine
end

