-- ==== Sys2Proof/Machine/Ops.lean ====
section
/-! DEFINITION. The shared operations: fault records and parking (R74, R83, R292, R295), taking a trap (R400 to R409),
halting a block (R410 to R413), trace records (R422, R423), and ending a launch (R368, R412). -/

namespace Sys2Proof.Machine

/-! ### Waves and cores -/

/-- A wave that gives up a landing slot goes in transit (R96). -/
def Wave.unland (w : Wave) : Wave :=
  match w.place with
  | .landing _ => { w with place := .transit, target := some w.core }
  | _ => w

/-- A wave leaves its core: a copy instruction that stalls begins anew when the wave is active again (R361). -/
def Wave.restart (w : Wave) : Wave :=
  match w.progress with
  | some (.copy _) => { w with progress := none }
  | _ => w

/-- A wave leaves its activation entry and its landing slot; a wave in a landing slot goes in transit (R84, R96), and the
collector's image of the wave's registers is invalid (R269). -/
def State.leaveCore (s : State) : State :=
  let g := s.w.core.toNat
  let c := s.core g
  let held (x : Collector) : Bool := x.frame == s.w.frame && x.gen == s.w.gen
  let s := if c.activeWaves.contains s.w.id || c.landing.contains s.w.id then
      s.setCore g { c with activeWaves := c.activeWaves.filter (fun i => i != s.w.id),
                           landing := c.landing.filter (fun i => i != s.w.id),
                           collector := c.collector.filter (fun x => !held x) }
    else s
  s.onW (fun w => w.unland.restart)

/-- A fragment of the wave is inside a latch chain (R77). -/
def Wave.inChain (w : Wave) : Bool := w.split.any (fun p => p.2.chain != 0)

/-- The state of a wave that has left every core goes to its frame, which is authoritative from then on (R73, R74, R96); where
the frame's page is not mapped the wave parks, its state staying with the core (R83), and where the frame cannot be reached it
takes LINKDOWN (R390). -/
def State.sendHome (s : State) : State :=
  match writeBack s { s.w with swapped := true } with
  | .ok s => s.onW (fun w => { w with residency := .swapped, swapped := true, fresh := true })
  | .error (.page _ _ _) =>
    deliver (s.onW (fun w => { w with residency := .parked, parkc := .ctxFault })) (ccpOf s.w)
      (waveRecord s s.w 0x01 5 1 (s.w.frame + 0x9000) s.w.spc (.wave s.w.id))
  | .error .wait => s.onW (fun w => { w with residency := .ready, fresh := true })
  | .error e => (s.frameLost s.w 1 s.w.frame false e).onW (fun w => { w with fresh := true })

/-- A voluntary switch (R84): the wave that moves leaves its entry or slot, and its latches are invalid (R78).  A wave that
leaves a landing slot is swapped, in transit, whatever it waits for (R73, R96); it leaves once its frame can be written (R296,
R386). -/
def State.switchOut (s : State) : State :=
  let landing := match s.w.place with
    | .landing _ => true
    | _ => false
  if landing && s.frameHeld s.w then s.onW (fun w => { w with switching := true })
  else
    let s := s.leaveCore.onW (fun w =>
      { w with
        residency := if w.wait.isSome then .waiting else .ready
        switching := false
        split := w.split.map (fun p => (p.1, { p.2 with latv := 0 })) })
    if landing then s.sendHome else s

/-- The controller decides to take the wave that moves off its core: at once, or once no fragment is inside a latch chain
(R84). -/
def State.orderSwitch (s : State) : State := if s.w.inChain then s.onW (fun w => { w with switching := true }) else s.switchOut

/-- The wave that moves blocks in a wait of R73. -/
def State.block_ (s : State) (wt : Wait) : State := (s.onW (fun w => { w with wait := some wt })).orderSwitch

/-! ### Fault records (R295) -/

/-- The code, protection bit, detail and physical address of a page fault's record (R289, R295). -/
def FaultRecord.ofClass (r : FaultRecord) (f : FaultClass) (pa : BitVec 64) : FaultRecord :=
  match f with
  | .notPresent => { r with code := 0x02, paddr := pa }
  | .protection => { r with code := 0x02, prot := true, paddr := pa }
  | .walk l => { r with code := 0x07, detail := BitVec.ofNat 16 l, paddr := pa }

/-! ### Parking (R74, R83) -/

/-- The wave that moves leaves its core, its state is written back, and it parks; then `k`, which tells firmware.  If its
frame's page is not mapped it parks for that, with a CTXFAULT record, and its state stays with the core (R83).  It waits while a
write to its frame is held (R296, R386).  If its frame cannot be reached, or a page table of it fails its check, it stays where it is and takes a wave-stop trap (R303, R390). -/
def State.parkThen (s : State) (cause : ParkCause) (k : State → State) : State :=
  let t := s.leaveCore
  match writeBack t { t.w with parkc := cause, swapped := true } with
  | .ok u => k (u.onW (fun w => { w with residency := .parked, parkc := cause, swapped := true }))
  | .error (.link va late) => s.frameLost s.w 1 va false (.link va late)
  | .error (.integrity va pa) => s.frameLost s.w 1 va false (.integrity va pa)
  | .error .wait => s.stall
  | .error _ =>
    deliver (t.onW (fun w => { w with residency := .parked, parkc := .ctxFault })) (ccpOf s.w)
      { waveRecord s s.w 0x01 5 (if s.lane then 0 else 1) (s.w.frame + 0x9000) s.pcNow (.wave s.w.id) with
        lmask := if s.lane then s.entry.fmask else 0 }

/-- The wave that moves parks with a record (R74, R83). -/
def State.park (s : State) (cause : ParkCause) (r : FaultRecord) : State := s.parkThen cause (fun u => deliver u (ccpOf s.w) r)

/-- The wave that moves parks for a page fault of the instruction at its stream's place (R292). -/
def State.parkPage (s : State) (f : FaultClass) (va pa : BitVec 64) (access : BitVec 4) (lmask : BitVec 32)
    (second : Bool) : State :=
  s.park .page { (waveRecord s s.w 0x02 access (if s.lane then 0 else 1) va s.pcNow (.wave s.w.id)).ofClass f pa with
    lmask := lmask, second := second }

/-! ### Ending a launch (R368, R412) -/

/-- A core without the waves that a predicate selects among its entries and slots. -/
def Core.without (c : Core) (f : Nat → Bool) : Core :=
  { c with activeWaves := c.activeWaves.filter (fun i => !f i), landing := c.landing.filter (fun i => !f i) }

/-- A launch ends with a status: its waves stop at once but those that a halt has recorded; what it has outstanding
still completes, and GRID_COMPLETION writes its record. -/
def endLaunch (s : State) (lid : BitVec 32) (status : BitVec 8) : State :=
  match s.launch lid with
  | none => s
  | some l =>
    if l.ending then s
    else
      let stop (w : Wave) : Wave :=
        if w.lid == lid && !w.trapcause.getLsbD 41 then { w with residency := .retired, wait := none } else w
      let s := s.onLaunch lid (fun l => { l with ending := true, status := status })
      let s := s.mapWaves stop
      let gone := (s.waves.filter (fun w => w.lid == lid)).map (·.id)
      { s with cores := s.cores.map (fun p => (p.1, p.2.without (fun i => gone.contains i))) }

/-- A trap for a wave that has retired: with no live wave of its block, the launch ends with status 8 (R408); otherwise no
wave is left to take it. -/
def State.trapOfRetired (s : State) (lid : BitVec 32) (blk : Nat) : State :=
  if s.waves.any (fun w => w.lid == lid && w.blk == blk && w.residency != .retired) then s else endLaunch s lid 8

/-! ### Halting a block (R410 to R413) -/

/-- TRAPCAUSE of a trap (R404); the skid fields and HALTED zero. -/
def causeWord (t : TrapInfo) (nest : Bool) : BitVec 64 :=
  BitVec.ofNat 64 (t.code.toNat + t.detail.toNat * 2 ^ 8 + nest.toNat * 2 ^ 32 + t.nr.toNat * 2 ^ 33
    + t.sw.toNat * 2 ^ 34 + (t.frag.getD 0) * 2 ^ 35 + (t.frag.isSome).toNat * 2 ^ 40)

/-- HALTED of TRAPCAUSE. -/
def haltedBit : BitVec 64 := 0x0000020000000000#64

/-- A wave of a halting block other than the origin: it records HALTREQ, or latches the halt in its handler (R412,
R413).  Kind 4 is never latched. -/
def haltWave (kind origin : Nat) (ptc : BitVec 64) (w : Wave) : Wave :=
  let detail := kind * 65536 + origin
  if w.trapcause.getLsbD 41 then w
  else if w.inhandler && kind != 4 then
    if w.haltlatch then w
    else { w with haltlatch := true, haltAt := ptc.toNat, haltInfo := BitVec.ofNat 24 detail }
  else
    let w := { w with trapcause := BitVec.ofNat 64 (0x0E + detail * 256) ||| haltedBit, trappc := w.spc, trapaddr := 0,
                      trapmask := 0, haltlatch := false, spinf := false }
    if w.residency == .parked || w.residency == .swapped then w
    else { w with residency := .parked, parkc := .debugHalt, wait := none }

/-- With no debugger attached a halted block ends its launch with status 8, once no latched halt of the block is still to
be taken (R412, R413). -/
def settleHalt (s : State) (lid : BitVec 32) (blk : Nat) : State :=
  match s.launch lid with
  | some l =>
    if l.debugger || s.waves.any (fun w => w.lid == lid && w.blk == blk && w.haltlatch) then s else endLaunch s lid 8
  | none => s

/-- The state of a wave that a halt has parked goes to its frame (R74): all of it, or, where the frame holds the wave already,
what the halt has written (R412).  A frame whose page is not mapped is a context fault (R83), one that cannot be reached
LINKDOWN (R390). -/
def State.storeHalted (s : State) (w : Wave) : State :=
  let set (s : State) (f : Wave → Wave) : State := s.mapWaves (fun x => if x.id == w.id then f x else x)
  if w.swapped then
    s.putFrame w [(0x92D8, 4, w.wstat), (0xA590, 8, w.trapcause.toNat), (0xA598, 8, w.trappc.toNat),
      (0xA5A0, 8, w.trapaddr.toNat), (0xA5A8, 8, w.trapmask.toNat)]
  else match writeBack s { w with swapped := true } with
    | .ok s => set s (fun x => { x with swapped := true })
    | .error (.page _ _ _) =>
      deliver (set s (fun x => { x with parkc := .ctxFault })) (ccpOf w)
        (waveRecord s w 0x01 5 1 (w.frame + 0x9000) w.spc (.wave w.id))
    | .error .wait => s
    | .error e => s.frameLost w 1 w.frame false e

/-- A halt latched in a wave whose frame holds it is marked there (R72, R413). -/
def State.storeLatched (s : State) (w : Wave) : State := if w.swapped then s.putFrame w [(0x92D8, 4, w.wstat)] else s

/-- The waves that carry HALTED. -/
def State.haltedIds (s : State) : List Nat := (s.waves.filter (fun w => w.trapcause.getLsbD 41)).map (·.id)

/-- A halt reaches a block (R411, R412): every wave of it that has not retired records the halt, the newly halted waves'
state goes to their frames, the trace ring gets one record for each, and the control processor of the block's cluster is
told.  `before` are the waves that carried HALTED before this halt. -/
def spreadHalt (s : State) (lid : BitVec 32) (blk cluster kind origin : Nat) (ptc : BitVec 64) (before : List Nat) :
    State :=
  let s := s.mapWaves (fun w =>
    if w.lid == lid && w.blk == blk && w.residency != .retired then haltWave kind origin ptc w else w)
  let parked (i : Nat) : Bool := s.waves.any (fun w => w.id == i && w.residency == .parked)
  let frames := (s.waves.filter (fun w => w.lid == lid && w.blk == blk && w.residency == .parked)).map (·.frame)
  let s : State := { s with cores := s.cores.map (fun p => (p.1, { p.2.without parked with
    collector := p.2.collector.filter (fun x => !frames.contains x.frame) })) }
  let s := s.mapWaves (fun w => if w.lid == lid && w.blk == blk && w.residency == .parked then w.unland else w)
  -- the newly halted waves' state goes to their frames (R74)
  let halted := s.waves.filter (fun w => w.lid == lid && w.blk == blk && w.trapcause.getLsbD 41 && !before.contains w.id)
  let s := halted.foldl State.storeHalted s
  let s := (s.waves.filter (fun w => w.lid == lid && w.blk == blk && w.haltlatch)).foldl State.storeLatched s
  let s := halted.foldl (fun s w =>
    traceRecord s w 1 (w.trapcause.setWidth 8) w.trappc w.trapcause (w.trapmask.setWidth 32)) s
  let s := s.onBlock lid blk (fun b => { b with halted := true })
  let p := s.ccp cluster
  settleHalt (s.setCcp cluster { p with halts := p.halts ++ [(lid, blk)] }) lid blk

/-- The origin's own record: HALTED, and it stops; parked or swapped it stays as it is (R411, R412). -/
def Wave.haltOrigin (w : Wave) : Wave :=
  let w := { w with trapcause := w.trapcause ||| haltedBit, haltlatch := false, spinf := false }
  if w.residency == .parked || w.residency == .swapped then w
  else { w with residency := .parked, parkc := .debugHalt, wait := none }

/-- The block of the wave that moves halts, the wave its origin, with its own TRAPCAUSE and TRAPPC already given
(R411, R412). -/
def haltBlock (s : State) (kind : Nat) : State :=
  let o := s.w
  let before := s.haltedIds
  let s := s.onW Wave.haltOrigin
  spreadHalt s o.lid o.blk (o.origin.toNat / 192) kind o.widx (s.ptcOf o.core.toNat) before

/-- A latched halt is taken, with skid 0, at a program counter (R413). -/
def State.takeLatchAt (s : State) (pc : Addr) : State :=
  let s := s.leaveCore.onW (fun w =>
    { w with
      trapcause := BitVec.ofNat 64 (0x0E + w.haltInfo.toNat * 256) ||| haltedBit
      trappc := pc
      trapaddr := 0
      trapmask := 0
      haltlatch := false
      residency := .parked
      parkc := .debugHalt
      wait := none })
  let s := s.storeHalted s.w
  settleHalt (traceRecord s s.w 1 0x0E s.w.trappc s.w.trapcause 0) s.w.lid s.w.blk

/-- A latched halt is taken at the resume point (R413). -/
def State.takeLatch (s : State) : State := s.takeLatchAt s.w.spc

/-- The origin records its own trap, then its block halts. -/
def haltWith (s : State) (kind : Nat) (t : TrapInfo) (nest : Bool) : State :=
  haltBlock (s.onW (fun w => { w with trapcause := causeWord t nest, trappc := t.pc, trapaddr := t.addr,
                                      trapmask := t.lanes.setWidth 64 })) kind

/-! ### Taking a trap (R403) -/

/-- A trap of a lane instruction that runs the lane handler (R401, R403); a trap that is not resumable is taken by the
scalar handler, whatever its origin (R408). -/
def TrapInfo.lane (t : TrapInfo) : Bool := t.frag.isSome && !t.nr

/-- The lowest free entry of the split table (R117). -/
def freeEntry (w : Wave) : Option Nat := (List.range 32).find? (fun i => (Table.find w.split i).isNone)

/-- The handler fragment of a lane trap (R124, R409): of class L, the struck lanes in an entry of their own or the whole
entry; of class W, the raising fragment's own entry, with FMASK the struck lanes. -/
def setHandler (w : Wave) (f : Nat) (t : TrapInfo) (lpc : BitVec 32) : Wave × Nat × Bool :=
  let e := Table.getD w.split f SplitEntry.free
  let whole (stop : Bool) : Wave × Nat × Bool :=
    let h := { e with state := .handler, lpc := lpc, chain := 0, held := false,
                      fmask := if stop then t.lanes &&& e.lmask else 0, keeps := stop }
    ({ w with split := Table.put w.split f h }, f, stop)
  if t.stop then whole true
  else if t.lanes &&& e.lmask = e.lmask then whole false
  else match freeEntry w with
    | none => whole true
    | some k =>
      let root := e.parent.toNat == f
      let h := { e with state := .handler, lpc := lpc, lmask := t.lanes &&& e.lmask, chain := 0, fmask := 0, keeps := false,
                        npart := 0, held := false, parent := if root then BitVec.ofNat 5 k else e.parent }
      -- lanes that await a replay go on awaiting it; with none left, the rest has completed the instruction
      let again := if e.keeps then 0 else e.fmask &&& ~~~t.lanes
      let past := !e.keeps && e.fmask != 0 && again = 0
      let rest := { e with lmask := e.lmask &&& ~~~t.lanes, fmask := again, keeps := false, held := false,
                           lpc := if past then e.lpc + 3 else e.lpc, chain := if past then e.counted else e.chain }
      let split := Table.put (Table.put w.split f rest) k h
      let split := if root then split
        else match Table.find split e.parent.toNat with
          | some p => Table.put split e.parent.toNat { p with npart := p.npart + 1 }
          | none => split
      ({ w with split := split }, k, false)

/-- The handler is entered: TRAPCAUSE, TRAPPC, TRAPADDR and TRAPMASK are written, INHANDLER is set, and the handler's
stream goes to the vector's address (R403 to R405). -/
def enterTrap (s : State) (t : TrapInfo) (e : Nat) : State :=
  let lpc := BitVec.ofNat 32 ((e - s.w.lbase.toNat * 2 ^ 34) / 4)
  let wr (w : Wave) : Wave :=
    { w with trapcause := causeWord t false, trappc := t.pc, trapaddr := t.addr, trapmask := t.lanes.setWidth 64,
             inhandler := true, spinf := false }
  let s' := match t.lane, t.frag with
    | true, some f =>
      let (w, k, stop) := setHandler s.w f t lpc
      s.onW (fun _ => wr { w with handler := some { frag := some k, stop := stop, nr := t.nr, since := s.seq, part := t.part } })
    | _, _ =>
      s.onW (fun w => wr { w with spc := BitVec.ofNat 64 e, scalarHeld := false, wait := none, progress := none,
                                  handler := some { frag := none, stop := t.stop, nr := t.nr, since := s.seq } })
  if s.w.dbgctl.getLsbD 4 then
    traceRecord s' s'.w 2 t.code t.pc s'.w.trapcause t.lanes
  else s'

/-- A trap that cannot be taken yet is held before the others, and with it the stream that raised it (R406). -/
def State.keepTrap (s : State) (t : TrapInfo) : State :=
  let s := s.onW (fun w => { w with heldTraps := t :: w.heldTraps })
  let s := match t.frag with
    | some f => s.onW (fun w => match Table.find w.split f with
      | some e => { w with split := Table.put w.split f { e with held := true } }
      | none => w)
    | none => s.onW (fun w => { w with scalarHeld := true })
  s.stall

/-- A trap is taken: the vector entry is loaded, in order with the wave's and the core's earlier accesses (R313, R321), and the
handler is entered or the block halts with kind 0.  A page fault on the entry parks the wave (R403). -/
def takeTrap (s : State) (t : TrapInfo) : State :=
  let c := t.code.toNat % 32
  let a := s.w.trapbase.toNat + 8 * (if t.lane then 32 + c else c)
  if s.early (a % 2 ^ 56) 8 || ((s.cachedBytes (a % 2 ^ 56) 8).isNone && s.overtakes (a % 2 ^ 56) 8) then s.keepTrap t
  else match coreRead s s.w.core.toNat s.w.lid s.w.asid (a % 2 ^ 56) 8 s.w.tp s.w.td .normal with
  | .error (.page f va pa) =>
    if s.frameHeld s.w then s.keepTrap t
    else s.park .page ((waveRecord s s.w 0x02 0 (if t.lane then 0 else 1) va t.pc (.vector s.w.id t)).ofClass f pa)
  | .error (.integrity va pa) =>
    haltWith (deliver s (ccpOf s.w) (sectorRecord s s.w 0 (if t.lane then 0 else 1) va t.pc pa)) 0 t false
  | .error _ => haltWith s 0 t false
  | .ok (b, s) =>
    let e := ofBytes b
    if e = 0 ∨ bits e 63 56 ≠ 0 ∨ bits e 1 0 ≠ 0 ∨ (t.lane = true ∧ bits e 55 34 ≠ s.w.lbase.toNat) then
      haltWith s 0 t false
    else enterTrap s t e

/-- The stream that raises is the running handler's (R406, R407). -/
def State.inOwnHandler (s : State) : Bool :=
  s.w.inhandler && (match s.w.handler with
    | some h => h.frag == (if s.lane then some s.frag else none)
    | none => true)

/-- A trap is raised by the stream that moves: taken at once; a nested fault inside the handler (R407); held while
another stream's handler runs (R406). -/
def State.raise (s : State) (t : TrapInfo) : State :=
  if s.inOwnHandler then haltWith s 1 t true
  else if s.w.inhandler then
    let s := s.onW (fun w => { w with heldTraps := w.heldTraps ++ [t] })
    if s.lane then s.setEntry { s.entry with held := true } else s.onW (fun w => { w with scalarHeld := true })
  else takeTrap s t

/-- A trap of the scalar stream: class S, or class W where `stop` (R401). -/
def State.trapS (s : State) (code : BitVec 8) (detail : BitVec 24) (addr : BitVec 64) (stop : Bool) : State :=
  s.raise { code := code, detail := detail, addr := addr, lanes := 0, pc := s.w.spc, frag := none, sw := false,
            nr := false, stop := stop }

/-- A trap of the fragment that moves on some of its lanes: class L, or class W where `stop` (R401). -/
def State.trapL (s : State) (code : BitVec 8) (detail : BitVec 24) (addr : BitVec 64) (lanes : Word32) (stop : Bool) :
    State :=
  s.raise { code := code, detail := detail, addr := addr, lanes := lanes, pc := s.pcNow, frag := some s.frag,
            sw := false, nr := false, stop := stop, part := !s.entry.first }

/-- A decode trap (R48): class L on a fragment, over its lanes, class S on the scalar stream. -/
def State.trapDecode (s : State) (code : BitVec 8) : State :=
  if s.lane then s.trapL code 0 0 s.entry.lmask false else s.trapS code 0 0 false

/-- A wave-stop trap that the wave takes at its next instruction boundary (R401, R477): taken now outside a handler,
held inside one. -/
def State.raiseStop (s : State) (t : TrapInfo) : State :=
  if s.w.inhandler then s.onW (fun w => { w with heldTraps := w.heldTraps ++ [t] }) else takeTrap s t

/-- The record of a sector that fails its check (R303): code 0x04, naming the consumer. -/
def integrityRecord (s : State) (access : BitVec 4) (va pa : BitVec 64) : State :=
  deliver s (ccpOf s.w)
    { sectorRecord s s.w access (if s.lane then 0 else 1) va s.pcNow pa with
      lmask := if s.lane then s.entry.fmask else 0 }

/-- The failed access of a scalar instruction (R292, R304, R284, R303, R390): `access` is the record's ACCESS. -/
def State.failS (s : State) (access : BitVec 4) : AccFail → State
  | .page f va pa => s.parkPage f va pa access 0 false
  | .mem a => s.trapS 0x06 0 a false
  | .integrity va pa =>
    (integrityRecord s access va pa).raise { code := 0x11, detail := 0, addr := va, lanes := 0, pc := s.w.spc, frag := none,
                                             sw := false, nr := access == 1, stop := true }
  | .link va _ => s.trapS 0x12 0 va true
  | .wait => s.stall

end Sys2Proof.Machine
end

