-- ==== Sys2Proof/Machine/Lines.lean ====
section
/-! DEFINITION. Lines of the context frames in a core: the register cache and the operand file (03_contexts.md R79 to R83, R88,
R95) and the cached split entries (04_issue.md R117).  The values stand with the wave; the lists say which lines are present,
which are written, and in which order they were used. -/

namespace Sys2Proof.Machine

/-! ### Lines -/

/-- A line of a wave's main file: a register, or eight sidecars from 256 on; or a slot of its operand file (R62, R79, R80). -/
inductive FrameLine where
  | main (n : Nat)
  | operand (n : Nat)
  deriving DecidableEq, Repr

/-- Offset of a line in the frame (R62). -/
def FrameLine.offset : FrameLine → Nat
  | .main n => if n < 256 then 128 * n else 0x8000 + 128 * (n - 256)
  | .operand n => 0x9300 + 128 * n

/-- The list of a core that holds lines of a kind. -/
def RegCache.list (c : RegCache) : FrameLine → List (Nat × Bool)
  | .main _ => c.rc
  | .operand _ => c.operand

/-- The list of a kind replaced. -/
def RegCache.withList (c : RegCache) (x : FrameLine) (l : List (Nat × Bool)) : RegCache :=
  match x with
  | .main _ => { c with rc := l }
  | .operand _ => { c with operand := l }

/-- Lines that a core holds of a kind: the register-cache partition of its active launch, or of the wave's launch; 512 slots
(R79, R80, R95, R218). -/
def State.lineRoom (s : State) (w : Wave) : FrameLine → Nat
  | .main _ =>
    let g := w.core.toNat
    let l := (((s.core g).active.bind s.launch).map some).getD (s.launch w.lid)
    ((l.map (fun l => recField l.record 0x4D 1)).getD 4) * 128
  | .operand _ => 512

/-- A line of a wave's frame is present in its core. -/
def State.present (s : State) (w : Wave) (x : FrameLine) : Bool :=
  ((s.cache w.core.toNat).list x).any (fun p => p.1 == frameLine w x.offset)

/-! ### Replacement (R79, R80) -/

/-- The bytes of a line of a frame as the wave holds them. -/
def Wave.lineBytes (w : Wave) (off : Nat) : List Byte := (List.range 128).map (fun i => (w.frameByte (off + i)).getD 0)

/-- The frame of a wave cannot be reached for a line at an offset, while no stream of the wave waits for it: the wave parks for a
context fault, its state staying with the core (R83), or takes LINKDOWN at its next boundary (R390). -/
def State.lineFault (s : State) (w : Wave) (off : Nat) (e : AccFail) : State :=
  let set (s : State) (f : Wave → Wave) : State := s.mapWaves (fun x => if x.id == w.id then f x else x)
  match e with
  | .wait => s
  | .page _ _ _ =>
    let g := w.core.toNat
    let s := s.setCore g ((s.core g).without (fun i => i == w.id))
    deliver (set s (fun x => { x with residency := .parked, parkc := .ctxFault }.unland)) (ccpOf w)
      (waveRecord s w 0x01 5 1 (w.frame + BitVec.ofNat 64 off) w.spc (.wave w.id))
  | e => s.frameLost w 1 (w.frame + BitVec.ofNat 64 off) false e

/-- The wave of whose frame a line is, whose state the device holds. -/
def State.lineOwner (s : State) (key : Nat) : Option Wave :=
  s.waves.find? (fun w => w.id != 0 && w.residency != .retired && !w.swapped && decide (frameLine w 0 ≤ key)
      && decide (key < frameLine w 0 + 512))

/-- A written line that is replaced goes to its frame (R80), unless the frame is authoritative already. -/
def State.lineHome (s : State) (key : Nat) : State :=
  match s.lineOwner key with
  | none => s
  | some w =>
    let off := (key - frameLine w 0) * 128
    match s.frameWrite w off (w.lineBytes off) with
    | .ok s => s
    | .error .wait => s
    | .error e => s.lineFault w off e

/-- A line of a wave's frame is the latest used of its kind in the wave's core, allocated where it was absent; the least
recently used line leaves (R79, R80). -/
def State.useLine (s : State) (w : Wave) (x : FrameLine) (written : Bool) : State :=
  let g := w.core.toNat
  let key := frameLine w x.offset
  let l := (s.cache g).list x
  let rest := l.filter (fun p => p.1 != key)
  let dirty := written || l.any (fun p => p.1 == key && p.2)
  if rest.length < s.lineRoom w x then s.setCache g ((s.cache g).withList x ((key, dirty) :: rest))
  else
    let s := match rest.getLast? with
      | some (k, true) => s.lineHome k
      | _ => s
    s.setCache g ((s.cache g).withList x ((key, dirty) :: rest.dropLast))

/-- The line that would be replaced for an absent one is written, and its frame's page under a move lock (R80, R296). -/
def State.victimHeld (s : State) (w : Wave) (x : FrameLine) : Bool :=
  let l := (s.cache w.core.toNat).list x
  decide (s.lineRoom w x ≤ l.length) && (match l.getLast? with
    | some (k, true) => ((s.lineOwner k).map s.frameHeld).getD false
    | _ => false)

/-- The lines that a core holds beyond its register-cache partition are replaced, least recently used first (R80, R218). -/
def State.trimLines (s : State) (g room : Nat) : State :=
  let l := (s.cache g).rc
  let s := (l.drop room).foldr (fun p s => if p.2 then s.lineHome p.1 else s) s
  if l.length ≤ room then s else s.setCache g { s.cache g with rc := l.take room }

/-- The line that a return lands in is the latest used, and written: allocated, fetched and merged on a miss (R88). -/
def State.landLine (s : State) (w : Wave) (x : FrameLine) : State :=
  if s.present w x then s.useLine w x true
  else match framePlace s w with
    | .ok (_, s) => s.useLine w x true
    | .error .wait => s.useLine w x true
    | .error e => s.lineFault w x.offset e

/-! ### Misses (R81, R83, R303, R390) -/

/-- The lanes whose data a line brings from its failing sectors (R303): 16 lanes a sector of a register or an operand slot, all
lanes of a line of sidecars. -/
def State.badLanes (s : State) (x : FrameLine) : Word32 :=
  match framePlace s s.w with
  | .error _ => 0
  | .ok ((pa, key), s) =>
    let bad (i : Nat) : Bool := !(s.failing (pa + x.offset + 64 * i) 64 key).isEmpty
    match x with
    | .main n => if n < 256 then (if bad 0 then 0x0000FFFF else 0) ||| (if bad 1 then 0xFFFF0000 else 0)
      else if bad 0 || bad 1 then 0xFFFFFFFF else 0
    | .operand _ => (if bad 0 then 0x0000FFFF else 0) ||| (if bad 1 then 0xFFFF0000 else 0)

/-- A miss on a line at an offset of the frame of the wave that moves, while its instruction waits for it with the lanes `act`:
the line is there to be fetched, or the frame's page is not mapped and the wave parks, its state staying with the core; with
sectors that fail their check, or a frame that cannot be reached, a wave-stop trap on the lanes. -/
def State.frameMiss (s : State) (off n : Nat) (act : Word32) (k : State → State) : State :=
  let va := s.w.frame + BitVec.ofNat 64 (off / 128 * 128)
  let stop (s : State) (code : BitVec 8) (va : BitVec 64) : State :=
    if s.lane then s.trapL code 0 va act true else s.trapS code 0 va true
  match framePlace s s.w with
  | .ok ((pa, key), s) =>
    match s.failing (pa + off) n key with
    | [] => k (if isLocal pa then (s.mend (pa + off) n).touch (pa + off) n 1 else s)
    | sec :: l =>
      let at_ (sec : Nat) : BitVec 64 := s.w.frame + BitVec.ofNat 64 (sec * 64 - pa)
      stop ((sec :: l).foldl (fun s x => integrityRecord s 0 (at_ x) (BitVec.ofNat 64 (x * 64))) s) 0x11 (at_ sec)
  | .error (.page _ _ _) =>
    let t := s.leaveCore.onW (fun w => { w with residency := .parked, parkc := .ctxFault })
    let r := waveRecord s s.w 0x01 0 (if s.lane then 0 else 1) va s.pcNow (.wave s.w.id)
    deliver t (ccpOf s.w) { r with lmask := if s.lane then act else 0 }
  | .error (.integrity v pa) => stop (integrityRecord s 6 v pa) 0x11 v
  | .error .wait => s.stall
  | .error _ => stop s 0x12 va

/-- An absent line fetched from the frame: the fragment stays at its instruction and goes on from there (R81). -/
def State.fetchLine (s : State) (x : FrameLine) (act : Word32) : State :=
  if s.victimHeld s.w x then s.stall else s.frameMiss x.offset 128 act (fun s => (s.useLine s.w x false).stall)

/-! ### Split entries (R117) -/

/-- An entry of the wave's split table is the latest used of those cached; a 17th leaves, and is written to the frame, which may
be a context fault (R83).  Under a move lock it stays (R296). -/
def State.useEntry (s : State) (e : Nat) : State :=
  let rest := s.w.splitCache.filter (fun y => y != e)
  if rest.length < 16 then s.onW (fun w => { w with splitCache := e :: rest })
  else
    let off := 0x9D00 + 32 * rest.getLastD 0
    match s.frameWrite s.w off ((List.range 32).map (fun i => (s.w.frameByte (off + i)).getD 0)) with
    | .ok s => s.onW (fun w => { w with splitCache := e :: rest.dropLast })
    | .error .wait => s.onW (fun w => { w with splitCache := e :: rest })
    | .error f => (s.onW (fun w => { w with splitCache := e :: rest.dropLast })).lineFault s.w off f

/-- The entries of the split table in which two waves differ. -/
def Wave.entriesChanged (w t : Wave) : List Nat := (List.range 32).filter (fun i => Table.find w.split i != Table.find t.split i)

/-- An instruction of a fragment that refers to other entries than its own, `t` the state after it: one that the core does not
hold is fetched first, and all are the latest used (R81, R83, R117). -/
def State.withEntries (s t : State) : State :=
  let l := (s.w.entriesChanged t.w).filter (fun i => i != s.frag)
  match l.find? (fun i => (Table.find s.w.split i).isSome && !s.w.splitCache.contains i) with
  | some i => s.frameMiss (0x9D00 + 32 * i) 32 s.entry.lmask (fun s => (s.useEntry i).stall)
  | none => l.foldl State.useEntry t

end Sys2Proof.Machine
end

