-- ==== Sys2Proof/Machine/Operands.lean ====
section
/-! DEFINITION. Operand forms: the start of a scalar and of a lane instruction (decode faults, hazards, the scalar window,
predicates: R42, R48, R78, R108, R115), the values of lane sources (R41), and the writing of lane results, latches and
sidecars (R76, R77, R162, R167, R186). -/

namespace Sys2Proof.Machine

/-! ### Scalar operands -/

/-- A register of the lane-writable scalar window, s48 to s55 (R108). -/
def inWindow (r : BitVec 6) : Bool := decide (48 ≤ r.toNat) && decide (r.toNat ≤ 55)

/-- A scalar instruction that names registers `srcs` and `dsts` may issue: the window waits for every lane block
enqueued before (R108), and a source waits for its outstanding write (R115). -/
def State.scalarReady (s : State) (srcs dsts : List (BitVec 6)) : Bool :=
  ((srcs ++ dsts).all (fun r => !inWindow r) || s.w.lq.isEmpty)
    && srcs.all (fun r => Sparse.get s.w.pendS r.toNat == 0)

/-- A scalar instruction's effect, or a stall while it may not issue. -/
def State.scalar (s : State) (srcs dsts : List (BitVec 6)) (k : State → State) : State :=
  if s.scalarReady srcs dsts then k s else s.stall

/-- A scalar result written and the program counter moved on. -/
def State.retS (s : State) (d : BitVec 6) (x : Word64) (len : Nat) : State := (s.setS d x).advance len

/-! ### Lane sources (R41) -/

/-- An element of a small immediate in a format. -/
def smallElement (code : Nat) (v : BitVec 6) : Nat :=
  if isFloatCode code then (toFloat code .rne false (ofInt v.toInt)).1 else intBits code v.toInt

/-- A small immediate placed in every element of a lane word. -/
def smallWord (code : Nat) (v : BitVec 6) : Word32 :=
  packElements (containerBits code) (List.replicate (epl code) (smallElement code v))

/-- The value a source supplies to a lane: `Source(src, L)`; a small immediate converts to format `code`. -/
def State.src (s : State) (code : Nat) (imm : Word32) (x : Src) (L : Nat) : Word32 :=
  match x with
  | .reg n => s.w.rv n.toNat L
  | .slot n => s.w.ro n.toNat L
  | .latch n => s.w.rl n.toNat L
  | .konst n => (s.w.rk n.toNat).setWidth 32
  | .imm => imm
  | .small v => smallWord code v
  | .reserved _ => 0

/-- What a lane instruction reads and writes besides its predicate: per-lane sources, registers read in all 32 lanes,
main-file destinations, sources whose latches are read in all 32 lanes (R209), and operand slots written (R102). -/
structure LaneUse where
  srcs : List Src
  runs : List Nat
  dsts : List Nat
  wide : List Src := []
  slots : List Nat := []
  deriving DecidableEq, Repr

/-- The main-file register of a source. -/
def mainRegOf : Src → Option Nat
  | .reg n => some n.toNat
  | _ => none

/-- The registers a use names at or above REGCNT: ILLREG (R48). -/
def LaneUse.illegal (u : LaneUse) (regcnt : Nat) : Bool :=
  (u.srcs.filterMap mainRegOf ++ u.runs ++ u.dsts).any (fun n => decide (regcnt ≤ n) || decide (256 ≤ n))

/-- The lanes the instruction acts on (R42): the fragment's mask under its predicate; a replay acts on the lanes that
await it (R292). -/
def State.active (s : State) (mask : BitVec 4) : Word32 :=
  let e := s.entry
  let m := if e.redo = 0 then e.lmask else e.redo &&& e.lmask
  if mask = 0 then m else m &&& s.w.rm mask.toNat

/-- A source has an outstanding write that covers an active lane (R115). -/
def State.pendingV (s : State) (u : LaneUse) (act : Word32) : Bool :=
  !s.w.pendV.isEmpty &&
    ((u.srcs.filterMap mainRegOf).any (fun n => (lanesOf act).any (fun L => Sparse.get s.w.pendV (n * 32 + L) != 0))
      || u.runs.any (fun n => (List.range 32).any (fun L => Sparse.get s.w.pendV (n * 32 + L) != 0)))

/-- A source is a latch whose LATV bit is clear (R78). -/
def State.latchLost (s : State) (u : LaneUse) : Bool :=
  u.srcs.any (fun x => match x with
    | .latch n => !s.entry.latv.getLsbD n.toNat
    | _ => false)

/-- A latch is among some sources, and a value has still to land in it in one of some lanes (R71, R115). -/
def State.latchAwaited (s : State) (xs : List Src) (act : Word32) : Bool :=
  !s.requests.isEmpty && xs.any (fun x => match x with
    | .latch n => s.requests.any (fun r => r.wave == s.w.id && r.latch == n.toNat &&
        (match r.dest with
          | .lane _ L _ _ => act.getLsbD L
          | _ => false))
    | _ => false)

/-- A source is a latch into which a value has still to land, in an active lane, or in any lane of a source read in all
(R71, R115, R209). -/
def State.latchPending (s : State) (u : LaneUse) (act : Word32) : Bool :=
  s.latchAwaited u.srcs act || s.latchAwaited u.wide 0xFFFFFFFF

/-- A register of the operation's A run or parameter run. -/
def MatOp.inRuns (o : MatOp) (n : Nat) : Bool :=
  (decide (o.run ≤ n) && decide (n < o.run + o.aWords.length / 32))
    || (decide (o.prun ≤ n) && decide (n < o.prun + o.pWords.length / 32))

/-- A queued matrix operation of the wave has still to collect one of some registers: a write to them waits (R273). -/
def State.collecting (s : State) (dsts : List Nat) : Bool :=
  !dsts.isEmpty && s.pairs.any (fun p => p.2.queue.any (fun o => o.frame == s.w.frame && o.gen == s.w.gen && o.asid == s.w.asid
    && !o.collected && !o.done && !o.cancelled && (o.kind == .mma || o.kind == .mmaz) && dsts.any o.inRuns))

/-! ### Lines of the frame (R79 to R81) -/

/-- The operand slot of a source. -/
def slotOf : Src → Option Nat
  | .slot n => some n.toNat
  | _ => none

/-- The lines that an instruction references: its registers, their sidecars, and its operand slots; with `alloc` those that it
need not fetch, as it writes all 32 lanes, are left out (R79 to R81). -/
def LaneUse.lines (u : LaneUse) (alloc : Bool) : List FrameLine :=
  let reads := u.srcs.filterMap mainRegOf ++ u.runs
  let mains := if alloc then reads else reads ++ u.dsts
  let slots := if alloc then u.srcs.filterMap slotOf else u.srcs.filterMap slotOf ++ u.slots
  mains.map .main ++ ((reads ++ u.dsts).map (fun n => .main (256 + n / 8))) ++ slots.map .operand

/-- The lines that the instruction must have fetched and its core does not hold. -/
def State.absent (s : State) (u : LaneUse) (act : Word32) : List FrameLine :=
  if act = 0 then [] else (u.lines (act == 0xFFFFFFFF)).filter (fun x => !s.present s.w x)

/-- The instruction that `t` leaves behind has gone on: it acted on some lane, and neither waited, parked nor trapped. -/
def State.wentOn (t s : State) (act : Word32) : Bool :=
  act != 0 && !t.stalled && t.w.id == s.w.id && t.w.residency == .active && t.w.inhandler == s.w.inhandler
    && t.w.heldTraps.length == s.w.heldTraps.length

/-- The lines of an instruction that has gone on are the latest used, its destinations' written (R79, R80). -/
def State.useLines (t s : State) (u : LaneUse) (act : Word32) : State :=
  if !t.wentOn s act then t
  else
    let dst (x : FrameLine) : Bool := match x with
      | .main n => u.dsts.any (fun d => decide (d = n) || decide (256 + d / 8 = n))
      | .operand n => u.slots.contains n
    (u.lines false).foldl (fun t x => t.useLine s.w x (dst x)) t

/-- An instruction whose lanes work each on its own words, some of them from failing sectors of its lines `xs`: `t` is the state
after it in the other lanes.  Where it has gone on, the lanes struck take INTEGRITY, every sector is recorded, and the lines are
not kept (R303, R409). -/
def State.strikeLanes (s t : State) (u : LaneUse) (xs : List FrameLine) (struck act : Word32) : State :=
  if !t.wentOn s act then t
  else
    let t := t.useLines s u act
    let t := t.setCache s.w.core.toNat (xs.foldl (fun c x =>
      c.withList x ((c.list x).filter (fun p => p.1 != frameLine s.w x.offset))) (t.cache s.w.core.toNat))
    let t := t.setEntry { t.entry with lpc := s.entry.lpc, chain := s.entry.chain }
    match framePlace s s.w with
    | .error _ => t
    | .ok ((pa, key), _) =>
      let secs := (xs.flatMap (fun x => s.failing (pa + x.offset) 128 key)).eraseDups
      let at_ (sec : Nat) : BitVec 64 := s.w.frame + BitVec.ofNat 64 (sec * 64 - pa)
      let t := secs.foldl (fun t sec => integrityRecord t 0 (at_ sec) (BitVec.ofNat 64 (sec * 64))) t
      t.raise { code := 0x11, detail := 0, addr := at_ (secs.headD 0), lanes := struck, pc := s.pcNow, frag := some s.frag,
                sw := false, nr := false, stop := true, part := true }

/-- The lines of an instruction that its core does not hold, each fetched in turn; those that fail their check for an active lane
come last, and strike the lanes whose words they bring (`parts`: each lane works on its own), or all (R81, R303). -/
def State.fetchLines (s : State) (u : LaneUse) (act : Word32) (parts : Bool) (k : Word32 → State) : State :=
  let xs := s.absent u act
  match xs.find? (fun x => s.badLanes x &&& act == 0) with
  | some x => s.fetchLine x act
  | none =>
    match xs with
    | [] => (k act).useLines s u act
    | x :: _ =>
      let struck := xs.foldl (fun m x => m ||| s.badLanes x) 0 &&& act
      if parts && struck != act then s.strikeLanes (k (act &&& ~~~struck)) u xs struck (act &&& ~~~struck) else s.fetchLine x act

/-- The start of a lane instruction: ILLREG, the wait for its sources and for the collection of its destinations, LATCHLOST,
the lines it references, then its effect on the active lanes (R48, R78 to R81, R115, R273). -/
def State.laneBegin (s : State) (a : LaneArgs) (u : LaneUse) (k : Word32 → State) (parts : Bool := false) : State :=
  let act := s.active a.mask
  if u.illegal s.w.regcnt then s.trapDecode 0x03
  else if s.pendingV u act || s.latchPending u act || s.collecting u.dsts then s.stall
  else if s.latchLost u then s.trapL 0x04 0 0 s.entry.lmask false
  else s.fetchLines u act parts k

/-! ### Tags (R167) -/

/-- The tag of a source: a main-file register's, through its sidecar; zero for every other level (R168). -/
def State.tagOf (s : State) (x : Src) : BitVec 16 :=
  match x with
  | .reg n => sideTag (s.w.rx n.toNat)
  | _ => 0

/-- Some main-file source carries a tag. -/
def State.tagged (s : State) (xs : List Src) : Bool := xs.any (fun x => s.tagOf x != 0)

/-- The common tag of the operands that enter linearly: none when two differ (R167).  An operand of another level than
the main file reads as tag 0 (R168). -/
def State.linearTag (s : State) (xs : List Src) : Option (BitVec 16) :=
  match xs with
  | [] => some 0
  | x :: rest => if rest.all (fun y => s.tagOf y == s.tagOf x) then some (s.tagOf x) else none

/-! ### Completion of a lane instruction -/

/-- The next instruction of the fragment: LPC past this one, FMASK clear, the latch chain counted (R77). -/
def State.laneNext (s : State) (latch : Bool) : State :=
  let e := s.entry
  let chain : BitVec 3 := if e.chain = 0 then (if latch then 7 else 0) else e.counted
  s.setEntry { e with lpc := e.lpc + 3, fmask := if e.keeps then e.fmask else 0, unrun := false, chain := chain,
                      entryWait := none, itemWait := false }

/-- Words of some lanes of a map keyed by register and lane. -/
def setLanes (m : Sparse 32) (n : Nat) (act : Word32) (f : Nat → Word32) : Sparse 32 :=
  (lanesOf act).foldl (fun m L => Sparse.set m (n * 32 + L) (f L)) m

/-- The latches' move on a result: l2 to l3, l1 to l2, l0 to l1 and the result into l0, in the active lanes (R76). -/
def shiftLatches (l : Sparse 32) (act : Word32) (f : Nat → Word32) : Sparse 32 :=
  let l3 := setLanes l 3 act (fun L => Sparse.get l (64 + L))
  let l2 := setLanes l3 2 act (fun L => Sparse.get l (32 + L))
  let l1 := setLanes l2 1 act (fun L => Sparse.get l L)
  setLanes l1 0 act f

/-- The latch words of some lanes move on and take a result (R76).  Values of requests up to number `since` that are still
to land in these lanes move with their latch. -/
def State.latchWords (s : State) (since : Nat) (act : Word32) (f : Nat → Word32) : State :=
  let s := s.onW (fun w => { w with l := shiftLatches w.l act f })
  let mv (r : Request) : Request :=
    match r.dest with
    | .lane _ L _ _ => if r.wave == s.w.id && act.getLsbD L && decide (r.latch < 4)
        && decide (r.seq ≤ since) then { r with latch := r.latch + 1 } else r
    | _ => r
  if s.requests.isEmpty then s else { s with requests := s.requests.map mv }

/-- A result enters the latches of the fragment (R76).  A replay of lanes moves their words only: the valid bits moved
when the instruction first executed. -/
def State.latchSince (s : State) (since : Nat) (act : Word32) (f : Nat → Word32) : State :=
  let s := s.latchWords since act f
  if s.entry.first then s.setEntry { s.entry with latv := (s.entry.latv <<< 1) ||| 1 } else s

/-- A result enters the latches of the fragment. -/
def State.latchWrite (s : State) (act : Word32) (f : Nat → Word32) : State := s.latchSince s.seq act f

/-- Lane words of a main-file register written; the write is the youngest of its lanes (R116). -/
def State.setV (s : State) (n : Nat) (act : Word32) (f : Nat → Word32) : State :=
  s.onW (fun w => { w with v := setLanes w.v n act f,
                           pendV := if w.pendV.isEmpty then w.pendV
                             else (lanesOf act).foldl (fun m L => Sparse.set m (n * 32 + L) 0) w.pendV })

/-- A sidecar write. -/
def State.setX (s : State) (n : Nat) (x : BitVec 128) : State := s.onW (fun w => { w with x := Sparse.set w.x n x })

/-- Flags ORed into SFLAGS (R186). -/
def State.orFlags (s : State) (f : Sticky) : State :=
  if f = 0 then s else s.onW (fun w => { w with sflags := w.sflags ||| f.setWidth 64 })

/-- R162 lets a result of this tag be written over these lanes: all of them, or the destination's tag equal. -/
def State.sideOk (s : State) (n : Nat) (act : Word32) (tag : BitVec 16) : Bool :=
  act == 0xFFFFFFFF || sideTag (s.w.rx n) == tag

/-- The sidecar after a result: `scales` gives the block scales of a microscaled result, with the bytes it covers, none
otherwise (R162). -/
def State.sideWrite (s : State) (n : Nat) (act : Word32) (code : Nat) (tag : BitVec 16)
    (scales : Option (BitVec 64 × BitVec 64)) : State :=
  let old := s.w.rx n
  if act = 0xFFFFFFFF then
    s.setX n (mkSide code tag ((scales.map (fun p => p.1 &&& p.2)).getD 0))
  else
    match scales with
    | some (v, m) => s.setX n (mkSide code (sideTag old) ((sideScales old &&& ~~~m) ||| (v &&& m)))
    | none => s.setX n (mkSide code (sideTag old) (sideScales old))

/-- A lane-register result of one register: ROTTAG where R162 forbids it, else the words, the sidecar, the latches and
the flags, and the next instruction.  A replay changes no sidecar (R162). -/
def State.laneResult (s : State) (a : LaneArgs) (act : Word32) (code : Nat) (tag : BitVec 16) (f : Nat → Word32)
    (flags : Sticky) : State :=
  let replay := !s.entry.first
  if !a.w && act != 0 && !replay && !s.sideOk a.vd.toNat act tag then s.trapL 0x08 0 0 act false
  else
    let s := if a.w || act = 0 then s
      else
        let s := s.setV a.vd.toNat act f
        if replay then s else s.sideWrite a.vd.toNat act code tag none
    ((s.latchWrite act f).orFlags flags).laneNext true

/-- An element-wise instruction on up to three sources (R193, R194): `rule` gives the result's tag, none for ROTTAG;
`f` the word of a lane and its flags. -/
def State.laneAlu (s : State) (a : LaneArgs) (srcs : List Src) (code : Nat) (rule : State → Option (BitVec 16))
    (f : State → Nat → Word32 × Sticky) : State :=
  s.laneBegin a { srcs := srcs, runs := [], dsts := if a.w then [] else [a.vd.toNat] } (fun act =>
    match (if act = 0 then some 0 else rule s) with
    | none => s.trapL 0x08 0 0 act false
    | some tag =>
      let rs := (List.range 32).map (fun L => if act.getLsbD L then f s L else (0, 0))
      s.laneResult a act code tag (fun L => (rs[L]?.getD (0, 0)).1) (flagsOr (rs.map (·.2)))) true

/-- The rule of an instruction that carries no tag: a tagged main-file source is ROTTAG (R167). -/
def noTag (srcs : List Src) (s : State) : Option (BitVec 16) := if s.tagged srcs then none else some 0

/-- The rule of a linear instruction (R167). -/
def linear (srcs : List Src) (s : State) : Option (BitVec 16) := s.linearTag srcs

/-- A source at level 0b11. -/
def uniformSrc : Src → Bool
  | .konst _ | .imm | .small _ => true
  | _ => false

/-- The rule of VFMUL and VFMA: linear when one multiplicand is at level 0b11, and tag-free otherwise (R167).  `c` is
the addend of VFMA. -/
def product (x y : Src) (c : List Src) (s : State) : Option (BitVec 16) :=
  if uniformSrc x then s.linearTag (y :: c) else if uniformSrc y then s.linearTag (x :: c) else noTag (x :: y :: c) s

end Sys2Proof.Machine
end

