-- ==== Sys2Proof/Machine/Access.lean ====
section
/-! DEFINITION. One access of the wave that moves: the windows of R283 with the checks of R223, the wave's own frame
(R71), the stash, global memory at once or as a request (R88, R297, R477), and how a failed access ends an instruction
(R284, R292, R303, R307, R390, R408, R477). -/

namespace Sys2Proof.Machine

/-! ### Where an access goes -/

/-- What an address reaches for the wave that moves.  `path`: a write travels the cluster path (R234). -/
inductive Target where
  | global (va : Nat)
  | stash (core off : Nat) (path : Bool)
  | self (off : Nat)
  | bad
  deriving DecidableEq, Repr

/-- A stash word (R223), with or without CL. -/
def State.stashTarget (s : State) (word : Nat) (cl : Bool) : Target :=
  let size := (s.stash s.w.lid).2
  let o := s.w.origin.toNat
  let off := bits word 18 0
  if cl then
    let g := o / 192 * 192 + bits word 26 19
    if bits word 31 27 = 0 ∧ off < size ∧ (s.coresOf s.w).contains g = true then .stash g off true else .bad
  else if bits word 31 19 = 0 ∧ off < size then .stash o off (s.w.core.toNat != o)
  else .bad

/-- A generic address (R283, R284, R71). -/
def State.target (s : State) (a : Addr) : Target :=
  let n := a.toNat
  if n < 2 ^ 56 ∧ !s.w.ccp ∧ s.w.frame.toNat ≤ n ∧ n < s.w.frame.toNat + 65536 then .self (n - s.w.frame.toNat)
  else match decodeAddr (s.pbase s.w) a with
    | .global va => .global va
    | .cluster word => s.stashTarget word true
    | .local off => s.stashTarget off false
    | .self off => .self off
    | .void => .bad

/-- The generic address of an access in a failure that names memory. -/
def AccFail.at (a : Addr) : AccFail → AccFail
  | .page f _ pa => .page f a pa
  | .integrity _ pa => .integrity a pa
  | .link _ late => .link a late
  | e => e

/-! ### Requests (R87, R88) -/

/-- A function on the pool slot of a wave. -/
def State.onSlot (s : State) (w : Wave) (f : PoolSlot → PoolSlot) : State :=
  { s with pools := s.pools.map (fun p =>
      if p.asid == w.asid && p.desc == w.poolptr then
        match Table.find p.slots w.slot with
        | some x => { p with slots := Table.put p.slots w.slot (f x) }
        | none => p
      else p) }

/-- One more return is outstanding for the wave that moves (R87). -/
def State.expect (s : State) : State :=
  (s.onW (fun w => { w with pendcnt := w.pendcnt + 1 })).onSlot s.w (fun p => { p with pend := p.pend + 1 })

/-- A request of the wave that moves, with nothing of its own. -/
def State.blankRequest (s : State) : Request :=
  { seq := s.seq + 1, kind := .store 1, dest := .none, wave := s.w.id, frame := s.w.frame, gen := s.w.gen, lid := s.w.lid, blk := s.w.blk, asid := s.w.asid,
    core := s.w.core, addr := 0, pa := 0, key := 0, size := 0, data := 0, cmp := 0, type := 0, scope := 0, td := s.w.td,
    pc := s.pcNow, lanes := 0, frag := if s.lane then some s.frag else none, latch := 4,
    issued := s.ptcOf s.w.core.toNat, at_ := s.now, noFill := false, stage := .sent }

/-- The main-file registers of a lane destination: a pair for eight bytes (R339). -/
def destRegs (n size : Nat) : List Nat := if size = 8 then [n, n + 1] else [n]

/-- A request leaves the core; its destination is pending on it (R88, R115, R116). -/
def State.send (s : State) (r : Request) : State :=
  let s := { s with seq := s.seq + 1, requests := s.requests ++ [r] }.expect
  match r.dest with
  | .none => s
  | .scalar d _ _ =>
    if d = 0 then s
    else s.onW (fun w => { w with pendS := Sparse.set w.pendS d.toNat (BitVec.ofNat 64 r.seq) })
  | .lane n L _ _ =>
    let mark (m : Sparse 64) (d : Nat) : Sparse 64 := Sparse.set m (d * 32 + L) (BitVec.ofNat 64 r.seq)
    if 256 ≤ n then s else s.onW (fun w => { w with pendV := (destRegs n r.size).foldl mark w.pendV })

/-- The path and the translation of an access that leaves the core as a request (R290, R390). -/
def State.settle (s : State) (va : Nat) (acc : Acc) : Except AccFail ((Nat × Nat) × State) :=
  if !s.reaches (s.dieOf s.w.core.toNat) (homeDie va) then .error (.link (BitVec.ofNat 64 va) false)
  else
    match translate s s.w.asid va acc with
    | .error e => .error e
    | .ok ((pa, k), s') =>
      if isPackage pa then
        let allowed (w : Bool) : Except AccFail ((Nat × Nat) × State) :=
          if w || acc != .write then .ok ((pa, k), s')
          else .error (.page (.walk 0) (BitVec.ofNat 64 va) (BitVec.ofNat 64 pa))
        match s.remote (homeDie va) pa with
        | .here _ _ w => allowed w
        | .away w => allowed w
        | .silent => .ok ((pa, k), s')
        | .lost => if acc != .write && (s.heldAway (homeDie va) pa 1 s.w.td).isSome then .ok ((pa, k), s')
          else .error (.link (BitVec.ofNat 64 va) false)
        | .error => .error (.page (.walk 0) (BitVec.ofNat 64 va) (BitVec.ofNat 64 pa))
      else if !isLocal pa && !s.pathUp (homeDie va) 0 then .error (.link (BitVec.ofNat 64 va) false)
      else .ok ((pa, k), s')

/-! ### Loads -/

/-- While its waiting loop lasts, the wave keeps the lines it has loaded (R101). -/
def State.markLine (s : State) (va : Nat) : State :=
  if s.w.spinf then s.onW (fun w => { w with spinLines := w.spinLines ++ [va / 128] }) else s

/-- A load from global memory: its bytes, or none when they are to land later.  A copy in the L1 or the remote-data cache
serves it at once; what is read at the home waits for what is in front of it. -/
def State.loadGlobal (s : State) (a : Addr) (va n : Nat) (hint : Hint) (dest : Dest) (lanes : Word32) :
    Except AccFail (Option (List Byte) × State) :=
  let s := s.markLine va
  if !s.defer || (s.cachedBytes va n).isSome then
    if s.early va n || ((s.cachedBytes va n).isNone && s.overtakes va n) then .error .wait
    else match coreRead s s.w.core.toNat s.w.lid s.w.asid va n s.w.tp s.w.td hint with
    | .error e => .error (e.at a)
    | .ok (b, s) => .ok (some b, s)
  else
    match (captureTouch s s.w.lid va).settle va .read with
    | .error e => .error (e.at a)
    | .ok ((pa, k), s) =>
      .ok (none, s.send { s.blankRequest with
        kind := .load hint, dest := dest, addr := BitVec.ofNat 64 va, pa := pa, key := k, size := n, lanes := lanes,
        latch := if s.lane then 0 else 4 })

/-- A register of the wave's own frame has an outstanding write (R71). -/
def Wave.framePending (w : Wave) (off n : Nat) : Bool :=
  (List.range n).any (fun i =>
    let o := off + i
    if o < 0x8000 then decide (o < 128 * w.regcnt) && Sparse.get w.pendV (o / 4) != 0
    else if o < 0x9000 then false
    else if o < 0x9200 then Sparse.get w.pendS ((o - 0x9000) / 8) != 0
    else false)

/-- The latch words of the wave's own frame in a range of offsets: latch and lane. -/
def frameLatches (off n : Nat) : List (Nat × Nat) :=
  ((List.range n).filter (fun i => decide (0x9B00 ≤ off + i) && decide (off + i < 0x9D00))).map
    (fun i => ((off + i - 0x9B00) / 128, (off + i - 0x9B00) % 128 / 4))

/-- A value that a request is to bring into a latch word of the wave that moves (R71). -/
def State.bringsLatch (s : State) (r : Request) (l : List (Nat × Nat)) : Bool :=
  r.wave == s.w.id && (match r.dest with
    | .lane _ L _ _ => l.contains (r.latch, L)
    | _ => false)

/-- A line of the wave's own frame that a store reaches as a register is the latest used, and written (R71, R80). -/
def State.useOwn (s : State) (off : Nat) : State :=
  if off < 0x8000 then s.useLine s.w (.main (off / 128)) true
  else if off < 0x9000 then s.useLine s.w (.main (256 + (off - 0x8000) / 128)) true
  else if 0x9300 ≤ off ∧ off < 0x9B00 then s.useLine s.w (.operand ((off - 0x9300) / 128)) true
  else s

/-- The global lines that a read of stash bytes loads through their chord (R101, R227). -/
def State.markStash (s : State) (g off : Nat) : State :=
  if !s.w.spinf then s
  else match (s.core g).covers s.w.lid off with
    | none => s
    | some ch => match ch.source (off - ch.soff) with
      | some (va, _) => s.markLine va.toNat
      | none => s

/-- An access of the wave to stash bytes would pass an earlier one of the memory that their chord maps, which is still on its way
(R313, R318). -/
def State.earlyStash (s : State) (g off n : Nat) : Bool :=
  !s.requests.isEmpty && (List.range n).any (fun i => match (s.core g).covers s.w.lid (off + i) with
    | none => false
    | some ch => match ch.source (off + i - ch.soff) with
      | some (va, _) => s.early va.toNat (if ch.six then 2 else 1)
      | none => false)

/-- The first touch of the bytes of a target (R231); nothing but a stash target is touched. -/
def State.firstTouch (s : State) (t : Target) (n : Nat) : State :=
  match t with
  | .stash g off _ => if s.earlyStash g off n then s else stashTouch s g s.w.lid s.w.asid off n
  | _ => s

/-- The bytes of the wave's own frame in a range of offsets as the wave holds them. -/
def Wave.frameBytes (w : Wave) (off n : Nat) : List Byte := (List.range n).map (fun i => (w.frameByte (off + i)).getD 0)

/-- A value of the wave's own frame in a range is still to come, into a register or a latch (R71). -/
def State.frameAwaits (s : State) (off n : Nat) : Bool :=
  s.w.framePending off n || s.requests.any (fun r => s.bringsLatch r (frameLatches off n))

/-- The bytes of a range of the wave's own frame, part by part, where some are registers and some plain memory (R71). -/
def State.loadParts (s : State) (a : Addr) (off0 : Nat) : List (Nat × Nat × Bool) → Except AccFail (List Byte × State)
  | [] => .ok ([], s)
  | (off, n, own) :: l =>
    if own then
      match s.loadParts a off0 l with
      | .error e => .error e
      | .ok (b, s) => .ok (s.w.frameBytes off n ++ b, s)
    else match s.loadGlobal (a + BitVec.ofNat 64 (off - off0)) (s.w.frame.toNat + off) n .normal .none 0 with
      | .error e => .error e
      | .ok (b, s) => match s.loadParts a off0 l with
        | .error e => .error e
        | .ok (c, s) => .ok (b.getD [] ++ c, s)

/-- A load of `n` bytes: its bytes, or none when they are to land later. -/
def State.loadT (s : State) (t : Target) (a : Addr) (n : Nat) (hint : Hint) (dest : Dest) (lanes : Word32) :
    Except AccFail (Option (List Byte) × State) :=
  match t with
  | .bad => .error (.mem a)
  | .global va => s.loadGlobal a va n hint dest lanes
  | .stash g off _ =>
    let s := s.markStash g off
    if s.earlyStash g off n then .error .wait
    else match stashRead s g s.w.lid s.w.asid off n with
    | .error e => .error e
    | .ok (b, s) => .ok (some b, s)
  | .self off =>
    let parts := s.w.frameParts n off n
    if parts.all (fun p => !p.2.2) then s.loadGlobal a (s.w.frame.toNat + off) n hint dest lanes
    else if s.frameAwaits off n then .error .wait
    else if parts.all (fun p => p.2.2) then .ok (some (s.w.frameBytes off n), s)
    else
      let d := s.defer
      match ({ s with defer := false }).loadParts a off parts with
      | .error e => .error e
      | .ok (b, s) => .ok (some b, { s with defer := d })

/-! ### Stores -/

/-- The value of loaded bytes: sign- or zero-extended (R304). -/
def extended (signed : Bool) (n : Nat) (b : List Byte) : Word64 :=
  if signed then signExtendFrom (8 * n) (word64 b) else word64 b

/-- A store to global memory, applied or sent. -/
def State.storeGlobal (s : State) (a : Addr) (va : Nat) (bytes : List Byte) (lanes : Word32) (ep : BitVec 2 := 1) :
    Except AccFail State :=
  if !s.defer then
    if s.overtakes va bytes.length then .error .wait
    else match coreWrite s s.w.core.toNat s.w.lid s.w.asid va bytes ep with
    | .error e => .error (e.at a)
    | .ok s => .ok s
  else
    match (captureTouch s s.w.lid va).settle va .write with
    | .error e => .error (e.at a)
    | .ok ((pa, k), s) =>
      let s := coreStored s s.w.core.toNat s.w.asid va bytes
      .ok (s.send { s.blankRequest with
        kind := .store ep, addr := BitVec.ofNat 64 va, pa := pa, key := k, size := bytes.length,
        data := BitVec.ofNat 1024 (ofBytes bytes), lanes := lanes })

/-- The wave has written the stash of a core over the cluster path (R234). -/
def State.viaCluster (s : State) (g : Nat) (path : Bool) : State :=
  if path then s.onW (fun w => { w with clusterWrites := w.clusterWrites ||| (1#192 <<< (g % 192)) }) else s

/-- A store to the wave's own frame writes a part of a register or a latch word whose value is still to come: it waits for that
write, over which it is the younger one (R71, R116). -/
def State.partAwaited (s : State) (off n : Nat) : Bool :=
  [off, off + n - 1].any (fun o =>
    let u := if 0x9000 ≤ o ∧ o < 0x9200 then 8 else 4
    let b := o / u * u
    !(decide (off ≤ b) && decide (b + u ≤ off + n)) && s.frameAwaits b u)

/-- Bytes stored to registers of the wave's own frame (R71).  A value still to land in a latch word that the store writes is older
than it (R116). -/
def State.storeRegs (s : State) (off : Nat) (bytes : List Byte) : State :=
  let ls := frameLatches off bytes.length
  let s := s.onW (fun w => bytes.zipIdx.foldl (fun w p => (w.frameStore (off + p.2) p.1).getD w) w)
  let s := if s.requests.isEmpty || ls.isEmpty then s
    else { s with requests := s.requests.map (fun r => if s.bringsLatch r ls then { r with latch := 4 } else r) }
  (linesOf off bytes.length).foldl (fun s i => s.useOwn (i * 128)) s

/-- Bytes stored to the parts of the wave's own frame that are plain memory (R71). -/
def State.storePlain (s : State) (a : Addr) (off0 : Nat) (bytes : List Byte) (lanes : Word32) (ep : BitVec 2) :
    List (Nat × Nat × Bool) → Except AccFail State
  | [] => .ok s
  | (off, n, own) :: l =>
    if own then s.storePlain a off0 bytes lanes ep l
    else match s.storeGlobal (a + BitVec.ofNat 64 (off - off0)) (s.w.frame.toNat + off) ((bytes.drop (off - off0)).take n) lanes ep with
      | .error e => .error e
      | .ok s => s.storePlain a off0 bytes lanes ep l

/-- A store of bytes. -/
def State.storeT (s : State) (t : Target) (a : Addr) (bytes : List Byte) (lanes : Word32) (ep : BitVec 2 := 1) :
    Except AccFail State :=
  match t with
  | .bad => .error (.mem a)
  | .global va => s.storeGlobal a va bytes lanes ep
  | .stash g off path =>
    if stashBusy s g s.w.lid off bytes.length path || s.earlyStash g off bytes.length then .error .wait
    else .ok ((stashWrite s g s.w.lid off bytes).viaCluster g path)
  | .self off =>
    let n := bytes.length
    let parts := s.w.frameParts n off n
    let reg (o : Nat) : Nat := if o < 0x8000 then o / 128 else (o - 0x8000) / 16
    if parts.all (fun p => !p.2.2) then s.storeGlobal a (s.w.frame.toNat + off) bytes lanes ep
    else if s.partAwaited off n then .error .wait
    else if off < 0x9000 && s.collecting ((List.range n).map (fun i => reg (off + i))).eraseDups then .error .wait
    else
      match s.storePlain a off bytes lanes ep parts with
      | .error e => .error e
      | .ok s => .ok (parts.foldl (fun s p => if p.2.2 then s.storeRegs p.1 ((bytes.drop (p.1 - off)).take p.2.1) else s) s)

/-- What a store does to the wave's spin marks (R101, R113). -/
def Wave.stored (w : Wave) : Wave := { w with spinf := false, spinLines := [], spinCount := 0, backward := false }

/-! ### How a failed access ends an instruction -/

/-- A failure found after its access settled (R477), or of a partial-sector write (R303): a wave-stop trap at the next
boundary that is not resumable (R408).  The stream has passed the instruction at `pc`. -/
def State.raiseLate (s : State) (code : BitVec 8) (addr pc : BitVec 64) (lanes : Word32) : State :=
  let t : TrapInfo := { code := code, detail := 0, addr := addr, lanes := lanes, pc := pc,
                        frag := if s.lane then some s.frag else none, sw := false, nr := true, stop := true }
  if s.inOwnHandler then haltWith s 1 t true else s.raiseStop t

/-- The target is global memory. -/
def Target.isGlobal : Target → Bool
  | .global _ => true
  | _ => false

/-- An access whose data comes from global memory fails its check after it settled (R477). -/
def Target.late : Target → Bool
  | .stash _ _ _ => false
  | _ => true

/-- ACCESS of a record about a failed access: a stash fill where the stash was to be read (R295). -/
def Target.access (t : Target) (own : BitVec 4) : BitVec 4 :=
  match t with
  | .stash _ _ _ => 4
  | _ => own

/-- The failed access of a scalar load or store, `len` bytes long (R304). -/
def State.failScalar (s : State) (access : BitVec 4) (t : Target) (len : Nat) (e : AccFail) : State :=
  match e with
  | .integrity va pa =>
    let r := integrityRecord s (t.access access) va pa
    if t.late then (r.advance len).raiseLate 0x11 va s.w.spc 0 else r.trapS 0x11 0 va true
  | .link va true => (s.advance len).raiseLate 0x12 va s.w.spc 0
  | e => s.failS (t.access access) e

/-! ### The lanes of one instruction (R292, R307) -/

/-- What one lane's access gave. -/
inductive LaneGot where
  | done (x : Word64)
  | sent
  | failed (e : AccFail) (late : Bool)
  deriving DecidableEq, Repr

/-- Some lane waits. -/
def anyWait (l : List (Nat × LaneGot)) : Bool :=
  l.any (fun p => match p.2 with
    | .failed .wait _ => true
    | _ => false)

/-- The lanes of a class of outcome. -/
def gotMask (l : List (Nat × LaneGot)) (f : LaneGot → Bool) : Word32 :=
  maskOf (fun L => l.any (fun p => p.1 == L && f p.2))

/-- The access completed, with its value here. -/
def LaneGot.isDone : LaneGot → Bool
  | .done _ => true
  | _ => false
/-- The access completed, or its value is to land. -/
def LaneGot.isOk : LaneGot → Bool
  | .failed _ _ => false
  | _ => true
/-- A page fault. -/
def LaneGot.isPage : LaneGot → Bool
  | .failed (.page _ _ _) _ => true
  | _ => false
/-- A failing sector. -/
def LaneGot.isIntegrity : LaneGot → Bool
  | .failed (.integrity _ _) _ => true
  | _ => false
/-- A lost link. -/
def LaneGot.isLink : LaneGot → Bool
  | .failed (.link _ _) _ => true
  | _ => false

/-- The value of a lane. -/
def gotValue (l : List (Nat × LaneGot)) (L : Nat) : Word64 :=
  match l.find? (fun p => p.1 == L) with
  | some (_, .done x) => x
  | _ => 0

/-- The first failure of a class, lowest lane first. -/
def firstFail (l : List (Nat × LaneGot)) (f : LaneGot → Bool) : Option (Nat × AccFail × Bool) :=
  l.findSome? (fun p => match p.2 with
    | .failed e late => if f p.2 then some (p.1, e, late) else none
    | _ => none)

/-- A lane instruction's accesses performed one lane after another, lowest first; `prep` is what a lane does whether it fails or
not (R232). -/
def eachLane (prep : State → Nat → State) (f : State → Nat → Except AccFail (Option Word64 × State)) (late : Nat → Bool) :
    List Nat → State → List (Nat × LaneGot) × State
  | [], s => ([], s)
  | L :: rest, s =>
    let s := prep s L
    match f s L with
    | .error e =>
      let r := eachLane prep f late rest s
      ((L, .failed e (late L)) :: r.1, r.2)
    | .ok (x, s) =>
      let r := eachLane prep f late rest s
      ((L, match x with | some v => .done v | none => .sent) :: r.1, r.2)

/-- The sectors that failed their check under some lanes, each once: address and physical address, and whether it was found
after the access settled. -/
def badSectors (l : List (Nat × LaneGot)) : List (BitVec 64 × BitVec 64 × Bool) :=
  l.foldl (fun r p => match p.2 with
    | .failed (.integrity va pa) late => if r.any (fun q => q.2.1 == pa) then r else r ++ [(va, pa, late)]
    | _ => r) []

/-- The traps of the lanes that INTEGRITY or LINKDOWN strikes, each for its own lanes (R292, R303, R390, R477), given the
instruction's address: the first raised now, a second held behind it; all held while the wave parks for other lanes' page
faults. -/
def State.laneFailTrap (s : State) (l : List (Nat × LaneGot)) (pc : BitVec 64) (access : BitVec 4) (parks : Bool) : State :=
  let base (code : BitVec 8) (va : BitVec 64) (lanes : Word32) (late stop : Bool) : TrapInfo :=
    { code := code, detail := 0, addr := va, lanes := lanes, pc := pc, frag := some s.frag, sw := false, nr := late,
      stop := stop, part := true }
  let s := (badSectors l).foldl (fun s p => integrityRecord s (if p.2.2 then access else 4) p.1 p.2.1) s
  let sectors : List TrapInfo := match firstFail l LaneGot.isIntegrity with
    | some (_, .integrity va _, late) => [base 0x11 va (gotMask l LaneGot.isIntegrity) late true]
    | _ => []
  let links : List TrapInfo := match firstFail l LaneGot.isLink with
    | some (_, .link va late, _) => [base 0x12 va (gotMask l LaneGot.isLink) late late]
    | _ => []
  let hold (s : State) (ts : List TrapInfo) : State :=
    if ts.isEmpty then s else s.onW (fun w => { w with heldTraps := w.heldTraps ++ ts })
  match sectors ++ links with
  | [] => s
  | t :: rest =>
    if parks then hold s (t :: rest)
    else
      let s := hold s rest
      if t.stop && t.nr then (if s.inOwnHandler then haltWith s 1 t true else s.raiseStop t) else s.raise t

/-- The end of a lane memory instruction.  `s0` is the state before it, `s` after its lanes' accesses with what completed
already written; lanes that page-faulted go to FMASK and the wave parks (R292), other failures trap, and with none the
fragment goes on. -/
def State.laneMemEnd (s : State) (l : List (Nat × LaneGot)) (access : BitVec 4) (latch : Bool)
    (second : Nat → Bool) : State :=
  let pc := s.pcNow
  let pages := gotMask l LaneGot.isPage
  if pages = 0 then
    if l.all (fun p => p.2.isOk) then s.laneNext latch
    else
      -- a fill that fails its check strikes the fragment at the instruction, whose other lanes are complete (R409)
      match firstFail l LaneGot.isIntegrity with
      | some (_, _, false) => s.laneFailTrap l pc access false
      | _ => (s.laneNext latch).laneFailTrap l pc access false
  else
    let s := s.setEntry { s.entry with fmask := pages, keeps := false, unrun := false }
    let s := s.laneFailTrap l pc access true
    match firstFail l LaneGot.isPage with
    | some (L, .page f va pa, late) => s.parkPage f va pa (if late then access else 4) pages (second L)
    | _ => s

end Sys2Proof.Machine
end

