-- ==== Sys2Proof/Machine/LaneInt.lean ====
section
/-! DEFINITION. Lane integer and packed 16-bit instructions (06_lane_arith.md R192 to R201). -/

namespace Sys2Proof.Machine

/-- The first source in a lane, in the type's format. -/
def srcA (s : State) (a : LaneArgs) (L : Nat) : Word32 := s.src a.ty.toNat a.imm a.sa L
/-- The second source in a lane. -/
def srcB (s : State) (a : LaneArgs) (L : Nat) : Word32 := s.src a.ty.toNat a.imm a.sb L
/-- The third source in a lane. -/
def srcC (s : State) (a : LaneArgs) (L : Nat) : Word32 := s.src a.ty.toNat a.imm a.sc L

/-- The type is unsigned: an odd integer code (R44). -/
def unsType (a : LaneArgs) : Bool := a.ty.getLsbD 0

/-- An element-wise instruction of one source, whose result takes the type (R193). -/
def lane1 (a : LaneArgs) (rule : List Src → State → Option (BitVec 16)) (f : State → Word32 → Word32 × Sticky) (s : State) :
    Out :=
  .next (s.laneAlu a [a.sa] a.ty.toNat (rule [a.sa]) (fun s L => f s (srcA s a L)))

/-- An element-wise instruction of two sources. -/
def lane2 (a : LaneArgs) (rule : List Src → State → Option (BitVec 16)) (f : State → Word32 → Word32 → Word32 × Sticky)
    (s : State) : Out :=
  .next (s.laneAlu a [a.sa, a.sb] a.ty.toNat (rule [a.sa, a.sb]) (fun s L => f s (srcA s a L) (srcB s a L)))

/-- An element-wise instruction of three sources. -/
def lane3 (a : LaneArgs) (rule : List Src → State → Option (BitVec 16))
    (f : State → Word32 → Word32 → Word32 → Word32 × Sticky) (s : State) : Out :=
  .next (s.laneAlu a [a.sa, a.sb, a.sc] a.ty.toNat (rule [a.sa, a.sb, a.sc])
    (fun s L => f s (srcA s a L) (srcB s a L) (srcC s a L)))

/-- An exact result wrapped to a lane word. -/
def wrap32 (t : Int) : Word32 × Sticky := (BitVec.ofInt 32 t, 0)

/-- R195: a + b. -/
def execVadd (a : LaneArgs) (s : State) : Out :=
  lane2 a linear (fun _ x y => (x + y, 0)) s

/-- R195: a − b. -/
def execVsub (a : LaneArgs) (s : State) : Out :=
  lane2 a linear (fun _ x y => (x - y, 0)) s

/-- R195: the low half of a × b. -/
def execVmul (a : LaneArgs) (s : State) : Out :=
  lane2 a noTag (fun _ x y => (x * y, 0)) s

/-- R195: the high half of a × b, by type. -/
def execVmulh (a : LaneArgs) (s : State) : Out :=
  lane2 a noTag (fun _ x y => wrap32 (wordValue (unsType a) x * wordValue (unsType a) y / 2 ^ 32)) s

/-- R195: a × b + c. -/
def execVmad (a : LaneArgs) (s : State) : Out :=
  lane3 a noTag (fun _ x y z => (x * y + z, 0)) s

/-- R195: a AND b. -/
def execVand (a : LaneArgs) (s : State) : Out :=
  lane2 a noTag (fun _ x y => (x &&& y, 0)) s

/-- R195: a OR b. -/
def execVor (a : LaneArgs) (s : State) : Out :=
  lane2 a noTag (fun _ x y => (x ||| y, 0)) s

/-- R195: a XOR b. -/
def execVxor (a : LaneArgs) (s : State) : Out :=
  lane2 a noTag (fun _ x y => (x ^^^ y, 0)) s

/-- R195: a AND NOT b. -/
def execVandn (a : LaneArgs) (s : State) : Out :=
  lane2 a noTag (fun _ x y => (x &&& ~~~y, 0)) s

/-- R196. -/
def execVshl (a : LaneArgs) (s : State) : Out :=
  lane2 a noTag (fun _ x y => (shl32 x y, 0)) s

/-- R196. -/
def execVshr (a : LaneArgs) (s : State) : Out :=
  lane2 a noTag (fun _ x y => (shr32 (unsType a) x y, 0)) s

/-- R195: the smaller, by type. -/
def execVmin (a : LaneArgs) (s : State) : Out :=
  lane2 a noTag (fun _ x y => (if wordValue (unsType a) y < wordValue (unsType a) x then y else x, 0)) s

/-- R195: the larger, by type. -/
def execVmax (a : LaneArgs) (s : State) : Out :=
  lane2 a noTag (fun _ x y => (if wordValue (unsType a) x < wordValue (unsType a) y then y else x, 0)) s

/-- R198: the absolute value, clamped where modifier bit 0 is set. -/
def execVabs (a : LaneArgs) (s : State) : Out :=
  lane1 a noTag (fun _ x =>
    if a.mods.getLsbD 0 then satWord false x.toInt.natAbs else wrap32 x.toInt.natAbs) s

/-- R198: the negation, clamped where modifier bit 0 is set. -/
def execVneg (a : LaneArgs) (s : State) : Out :=
  lane1 a linear (fun _ x =>
    if a.mods.getLsbD 0 then satWord false (-x.toInt) else wrap32 (-x.toInt)) s

/-- R195: leading zeros. -/
def execVclz (a : LaneArgs) (s : State) : Out :=
  lane1 a noTag (fun _ x => (clz32 x, 0)) s

/-- R195: set bits. -/
def execVpopc (a : LaneArgs) (s : State) : Out :=
  lane1 a noTag (fun _ x => (BitVec.ofNat 32 (popcount 32 x.toNat), 0)) s

/-- R199: all ones where the condition holds. -/
def execVcmp (a : LaneArgs) (s : State) : Out :=
  lane2 a noTag (fun _ x y => (truth (condition (a.mods.toNat % 8) (wordValue (unsType a) x) (wordValue (unsType a) y)), 0)) s

/-- R199: a where the word c is non-zero, b elsewhere. -/
def execVsel (a : LaneArgs) (s : State) : Out :=
  lane3 a noTag (fun _ x y z => (if z = 0 then y else x, 0)) s

/-- R197: the rounding right shift. -/
def execVshrr (a : LaneArgs) (s : State) : Out :=
  lane2 a noTag (fun _ x y => wrap32 (roundShift (wordValue (unsType a) x) y.toNat)) s

/-- R198: the clamped sum. -/
def execVadds (a : LaneArgs) (s : State) : Out :=
  lane2 a noTag (fun _ x y => satWord (unsType a) (wordValue (unsType a) x + wordValue (unsType a) y)) s

/-- R198: the clamped difference. -/
def execVsubs (a : LaneArgs) (s : State) : Out :=
  lane2 a noTag (fun _ x y => satWord (unsType a) (wordValue (unsType a) x - wordValue (unsType a) y)) s

/-- R198: the clamped left shift. -/
def execVshls (a : LaneArgs) (s : State) : Out :=
  lane2 a noTag (fun _ x y => satWord (unsType a) (satShift (wordValue (unsType a) x) y.toNat)) s

/-! ### Packed 16-bit instructions (R200) -/

/-- An operation on the two elements of each lane, wrapped. -/
def packedWrap (a : LaneArgs) (rule : List Src → State → Option (BitVec 16)) (f : Int → Int → Int) (s : State) : Out :=
  lane2 a rule (fun _ x y => packed16 (fun p q => (wrap16 (f (halfValue (unsType a) p) (halfValue (unsType a) q)), 0)) x y) s

/-- An operation on the two elements of each lane, clamped. -/
def packedSat (a : LaneArgs) (f : Int → Int → Int) (s : State) : Out :=
  lane2 a noTag (fun _ x y => packed16 (fun p q =>
    let r := saturate (unsType a) 16 (f (halfValue (unsType a) p) (halfValue (unsType a) q))
    (wrap16 r.1, r.2)) x y) s

/-- R200: a + b, wrapped. -/
def execVpadd (a : LaneArgs) (s : State) : Out :=
  packedWrap a linear (fun x y => x + y) s

/-- R200: a − b, wrapped. -/
def execVpsub (a : LaneArgs) (s : State) : Out :=
  packedWrap a linear (fun x y => x - y) s

/-- R200: the low half of a × b. -/
def execVpmul (a : LaneArgs) (s : State) : Out :=
  packedWrap a noTag (fun x y => x * y) s

/-- R201: the pairwise dot product; the accumulator and the result are i32 or n32. -/
def execVpmad2 (a : LaneArgs) (s : State) : Out :=
  .next (s.laneAlu a [a.sa, a.sb, a.sc] (if unsType a then 1 else 0) (noTag [a.sa, a.sb, a.sc]) (fun s L =>
    pmad2 (unsType a) (a.mods.getLsbD 0) (srcA s a L) (srcB s a L)
      (s.src (if unsType a then 1 else 0) a.imm a.sc L)))

/-- R200: a + b, clamped. -/
def execVpadds (a : LaneArgs) (s : State) : Out :=
  packedSat a (fun x y => x + y) s

/-- R200: a − b, clamped. -/
def execVpsubs (a : LaneArgs) (s : State) : Out :=
  packedSat a (fun x y => x - y) s

/-- R200: the smaller. -/
def execVpmin (a : LaneArgs) (s : State) : Out :=
  packedWrap a noTag (fun x y => if y < x then y else x) s

/-- R200: the larger. -/
def execVpmax (a : LaneArgs) (s : State) : Out :=
  packedWrap a noTag (fun x y => if x < y then y else x) s

/-- R200: the rounding right shift; the count is the unsigned element of b. -/
def execVpshrr (a : LaneArgs) (s : State) : Out :=
  lane2 a noTag (fun _ x y => packed16 (fun p q => (wrap16 (roundShift (halfValue (unsType a) p) q), 0)) x y) s

/-- R200: all ones in the elements whose condition holds. -/
def execVpcmp (a : LaneArgs) (s : State) : Out :=
  lane2 a noTag (fun _ x y => packed16 (fun p q =>
    (if condition (a.mods.toNat % 8) (halfValue (unsType a) p) (halfValue (unsType a) q) then 0xFFFF else 0, 0)) x y) s

end Sys2Proof.Machine
end

