-- ==== Sys2Proof/Machine/LaneFlow.lean ====
section
/-! DEFINITION. Lane control: branches, splits and regangs (04_issue.md R118 to R123), calls, returns, the item queue's
refill (R125, R140), trampolines and handler returns (R141, R142, R409), and mask logic (R143). -/

namespace Sys2Proof.Machine

/-! ### Splits (R118, R119) -/

/-- A lane word address some instructions away: TGT and RG of R136. -/
def laneOffset (p : BitVec 32) (o : BitVec 16) : Int := (p.toNat : Int) + 3 * o.toInt

/-- A lane word address lies in the block's 16 GiB region (R66). -/
def inRegion (x : Int) : Bool := decide (0 ≤ x) && decide (x < 2 ^ 32)

/-- The two lowest free split entries. -/
def freePair (t : Table SplitEntry) : Option (Nat × Nat) :=
  match (List.range 32).filter (fun i => (Table.find t i).isNone) with
  | a :: b :: _ => some (a, b)
  | _ => none

/-- The regang address of a lane branch, none when its field is zero (R136). -/
def regangOf (p : BitVec 32) (imm : BitVec 32) : Option Int :=
  let o := imm.extractLsb' 16 16
  if o = 0 then none else some (laneOffset p o)

/-- The fragment's branch for the lanes `t` (R118, R119): the parts of a divergent one, `call` marking VCALL. -/
def State.splitTo (s : State) (t : Word32) (tgt : Int) (rg : Option Int) (call back : Bool) (k l : Nat) : State :=
  let p := s.entry.lpc
  let s := s.laneNext call
  let e := s.entry
  let r : BitVec 32 := match rg with
    | some x => BitVec.ofInt 32 x
    | none => 0xFFFFFFFF
  let parent : SplitEntry := { e with
    state := .waiting, lpc := if rg.isSome then r + 3 else 0xFFFFFFFF, lmask := 0, npart := 2, latv := 0xF, chain := 0,
    fmask := 0 }
  let part : SplitEntry := { e with
    state := .live, rga := r, parent := BitVec.ofNat 5 s.frag, npart := 0, fmask := 0, age := s.now, boost := false }
  let taken : SplitEntry := { part with
    lpc := BitVec.ofInt 32 tgt, lmask := t, backward := e.backward || back,
    clink := if call then p + 3 else e.clink, clv := call || e.clv }
  let other : SplitEntry := { part with lpc := p + 3, lmask := e.lmask &&& ~~~t }
  s.onW (fun w => { w with split := Table.put (Table.put (Table.put w.split s.frag parent) k taken) l other })

/-- A lane branch (R118, R119): `t` the lanes that take it, `wr` what it writes before it moves.  A branch that needs two
entries and finds fewer waits for them. -/
def State.laneBranch (s : State) (imm : BitVec 32) (t : Word32) (call : Bool) (wr : State → State) : State :=
  let e := s.entry
  let p := e.lpc
  let tgt := laneOffset p (imm.extractLsb' 0 16)
  let rg := regangOf p imm
  let back := !call && (imm.extractLsb' 0 16).msb
  if t = 0 then (wr s).laneNext call
  else if e.lmask &&& ~~~t = 0 then
    if !inRegion tgt then s.trapL 0x07 1 0 e.lmask false
    else
      let s := (wr s).laneNext call
      let e := s.entry
      s.setEntry { e with lpc := BitVec.ofInt 32 tgt, backward := e.backward || back,
                          clink := if call then p + 3 else e.clink, clv := call || e.clv }
  else if e.state = .handler then s.trapDecode 0x01
  else if !inRegion tgt || !(rg.map inRegion).getD true then s.trapL 0x07 1 0 e.lmask false
  else match freePair s.w.split with
    | none => (s.setEntry { e with entryWait := some (e.entryWait.getD s.now) }).stall
    | some (k, l) => s.withEntries ((wr s).splitTo t tgt rg call back k l)

/-- R137. -/
def execVbr (a : LaneArgs) (s : State) : Out := .next (s.laneBranch a.imm (s.active a.mask) false id)

/-- R137: lanes whose condition word is non-zero, or zero under Z. -/
def execVbrc (a : LaneArgs) (s : State) : Out :=
  .next (s.laneBegin a { srcs := [a.sa], runs := [], dsts := [] } (fun act =>
    let t := maskOf (fun L => act.getLsbD L && ((s.src a.ty.toNat a.imm a.sa L == 0) == a.mods.getLsbD 0))
    s.laneBranch a.imm t false id))

/-- R138: p + 3 enters vd and the latch of the lanes that take the call. -/
def execVcall (a : LaneArgs) (s : State) : Out :=
  .next (s.laneBegin a { srcs := [], runs := [], dsts := if a.w then [] else [a.vd.toNat] } (fun act =>
    let link := s.entry.lpc + 3
    if s.entry.state = .handler then s.trapDecode 0x01
    else if !a.w && act != 0 && !s.sideOk a.vd.toNat act 0 then s.trapL 0x08 0 0 act false
    else s.laneBranch a.imm act true (fun s =>
      let s := if a.w || act = 0 then s
        else (s.setV a.vd.toNat act (fun _ => link)).sideWrite a.vd.toNat act a.ty.toNat 0 none
      s.latchWrite act (fun _ => link))))

/-- R139. -/
def execVret (a : LaneArgs) (s : State) : Out :=
  .next (s.laneBegin a { srcs := if a.sa = .reg 0 then [] else [a.sa], runs := [], dsts := [] } (fun _ =>
    let e := s.entry
    let go (lpc : BitVec 32) : State :=
      let s := s.laneNext false
      s.setEntry { s.entry with lpc := lpc, clv := false }
    if e.state = .handler then s.trapDecode 0x01
    else if a.sa = .reg 0 then
      if !e.clv then s.trapL 0x07 2 0 e.lmask false else go e.clink
    else go (s.src a.ty.toNat a.imm a.sa ((lanesOf e.lmask).headD 0))))

/-! ### Regang and end (R121 to R123) -/

/-- A waiting parent without parts fuses, or ends and may end or fuse its own parent (R123). -/
def fuseOrEnd (now : Nat) : Nat → Table SplitEntry → Nat → Table SplitEntry
  | 0, t, _ => t
  | n + 1, t, k =>
    match Table.find t k with
    | none => t
    | some p =>
      if p.state ≠ .waiting ∨ p.npart ≠ 0 then t
      else if p.lmask ≠ 0 then Table.put t k { p with state := .live, chain := 0, age := now, boost := false }
      else
        let t := Table.erase t k
        if p.parent.toNat = k then t
        else match Table.find t p.parent.toNat with
          | none => t
          | some q => fuseOrEnd now n (Table.put t p.parent.toNat { q with npart := q.npart - 1 }) p.parent.toNat

/-- The head block completes when every split entry is free (R107). -/
def State.endBlock (s : State) : State :=
  if s.w.split.isEmpty then s.onW (fun w => { w with lq := w.lq.tail, lqhead := (w.lqhead + 1) % 8 }) else s

/-- The fragment's entry is freed; its parent gains the lanes where it arrives (R121, R122).  R117 frees an
entry by its STATE; the model drops it whole, so that its other fields read zero too (DESIGN CHOICE, log entry 91). -/
def State.leaveTable (s : State) (arrives : Bool) : State :=
  let e := s.entry
  let t := Table.erase s.w.split s.frag
  let q := e.parent.toNat
  let t := if q = s.frag then t
    else match Table.find t q with
      | none => t
      | some p =>
        let p := if arrives then { p with lmask := p.lmask ||| e.lmask, latv := p.latv &&& e.latv } else p
        fuseOrEnd s.now 32 (Table.put t q { p with npart := p.npart - 1 }) q
  (s.onW (fun w => { w with split := t })).endBlock

/-- R121. -/
def execRegang (_ : LaneArgs) (s : State) : Out :=
  .next (
    let e := s.entry
    if e.rga = e.lpc ∧ e.rga ≠ 0xFFFFFFFF ∧ e.parent.toNat ≠ s.frag then
      if e.state = .handler then s.trapDecode 0x01 else s.withEntries (s.leaveTable true)
    else s.laneNext false)

/-- R122. -/
def execLend (_ : LaneArgs) (s : State) : Out :=
  .next (if s.entry.state = .handler then s.trapDecode 0x01 else s.withEntries (s.leaveTable false))

/-! ### The item queue (R125, R140) -/

/-- Nothing is on its way that would end a stall of the wave's scalar stream: no request, fill or matrix operation of its core or
wave, no engine command and no page move. -/
def State.nothingComes (s : State) : Bool :=
  s.requests.all (fun r => r.wave != s.w.id) && (s.core s.w.core.toNat).filling.isEmpty
    && s.pairs.all (fun p => p.2.queue.all (fun o => o.wave != s.w.id)) && s.engines.all (fun p => p.2.isEmpty)
    && s.dies.all (fun d => d.2.locks.isEmpty)

/-- The wave waits when all its live fragments wait in ITEMNEXT (R140) and its scalar stream, which may push the items that they
wait for (R464), cannot go on: it has ended, is held, or is stalled with nothing on its way that would end the stall (log entry
41). -/
def State.allItems (s : State) : Bool :=
  s.w.split.all (fun p => p.2.state == .waiting || p.2.itemWait)
    && (s.w.spc == 0 || s.w.scalarHeld || (s.w.sstall && s.nothingComes))

/-- The mask register that an ITEMNEXT requests by. -/
def itemMask (a : LaneArgs) : Nat := (a.imm.extractLsb' 0 4).toNat

/-- The requesting lanes take the launch's items in order, lowest first, while there are any (R140); those that remain keep their
order. -/
def State.takeItems (s : State) (a : LaneArgs) (act : Word32) : State :=
  let d := itemMask a
  let g := s.w.origin.toNat
  let c := s.core g
  let mine := (c.items.filter (fun x => x.1 == s.w.lid)).map (·.2)
  let got := (lanesOf (act &&& s.w.rm d)).zip mine
  let lanes := maskOf (fun L => got.any (fun x => x.1 == L))
  let word (L : Nat) : Word32 := ((got.find? (fun x => x.1 == L)).map (·.2)).getD 0
  if got.isEmpty then s
  else
    let left := (mine.drop got.length).map (fun x => (s.w.lid, x))
    let s := s.setCore g { c with items := c.items.filter (fun x => x.1 != s.w.lid) ++ left }
    let s := s.setV a.vd.toNat lanes word
    (s.latchWords s.seq lanes word).onW (fun w => { w with m := Sparse.set w.m d (w.rm d &&& ~~~lanes) })

/-- The fragment that moves, waiting in ITEMNEXT, takes items as they are pushed (R140). -/
def State.handed (s : State) : State :=
  match s.entry.itemArgs with
  | some a => if s.entry.itemWait then s.takeItems a (s.active a.mask) else s
  | none => s

/-- The items of a push go to the lanes of the launch that wait for them at that core, the waves in the order of their creation
(R140, R464; log entry 41). -/
def handItems (s : State) (g : BitVec 13) (lid : BitVec 32) : State :=
  let waits := (sortBy (fun a b => decide (a.born ≤ b.born)) s.waves).filter (fun w =>
    w.lid == lid && w.origin == g && w.id != 0 && !w.swapped && w.residency != .parked && w.residency != .retired)
  let l := waits.flatMap (fun w => (w.split.filter (fun p => p.2.itemWait)).map (fun p => (w.id, p.1)))
  let t := l.foldl (fun t x => match t.focus x.1 with
    | some u => ({ u with lane := true, frag := x.2 } : State).handed
    | none => t) s
  let t := (t.focus s.w.id).getD t
  { t with lane := s.lane, frag := s.frag }

/-- ITEMNEXT on its active lanes (R140): the requesting lanes take items.  Tag and sidecar are judged on the active lanes
when it first executes (R162). -/
def State.itemNext (s : State) (a : LaneArgs) (act : Word32) : State :=
  let first := !s.entry.itemWait && act != 0
  if first && !s.sideOk a.vd.toNat act 0 then s.trapL 0x08 0 0 act false
  else
    let s := (if first then s.sideWrite a.vd.toNat act a.ty.toNat 0 none else s).takeItems a act
    let c := s.core s.w.origin.toNat
    let done := act &&& s.w.rm (itemMask a) == 0 || !a.mods.getLsbD 0
      || (c.items.all (fun x => x.1 != s.w.lid) && c.sealed.contains s.w.lid)
    if done then
      (s.setEntry { s.entry with latv := (s.entry.latv <<< 1) ||| 1 }).laneNext true
    else
      let s := (s.setEntry { s.entry with itemWait := true, itemArgs := some a }).stall
      if s.allItems then s.block_ .item else s

/-- R140. -/
def execItemnext (a : LaneArgs) (s : State) : Out :=
  .next (s.laneBegin a { srcs := [], runs := [], dsts := [a.vd.toNat] } (fun act => s.itemNext a act))

/-! ### Trampolines and handler returns (R141, R142, R409, R413) -/

/-- A load whose data is there before the instruction goes on. -/
def State.loadNow (s : State) (a : Addr) (n : Nat) : Except AccFail (List Byte × State) :=
  let d := s.defer
  match ({ s with defer := false }).loadT (s.target a) a n .normal .none 0 with
  | .error e => .error e
  | .ok (b, s) => .ok (b.getD [], { s with defer := d })

/-- A store that has landed before the instruction goes on. -/
def State.storeNow (s : State) (a : Addr) (bytes : List Byte) : Except AccFail State :=
  let d := s.defer
  match ({ s with defer := false }).storeT (s.target a) a bytes 0 with
  | .error e => .error e
  | .ok s => .ok { s with defer := d }

/-- An access of the whole fragment fails: the wave parks (R33), or the fragment's lanes trap. -/
def State.failLane (s : State) (access : BitVec 4) : AccFail → State
  | .page f va pa => s.parkPage f va pa access s.entry.redo false
  | .mem a => s.trapL 0x06 0 a s.entry.lmask false
  | .integrity va pa => (integrityRecord s access va pa).trapL 0x11 0 va s.entry.lmask true
  | .link va _ => s.trapL 0x12 0 va s.entry.lmask false
  | .wait => s.stall

/-- R141. -/
def execVtramp (a : LaneArgs) (s : State) : Out :=
  .next (
    let e := s.entry
    if e.state = .handler then s.trapDecode 0x01
    else if e.tlv then s.trapL 0x15 6 0 e.lmask false
    else match s.loadNow (s.w.trampbase + BitVec.ofNat 64 (8 * (a.imm.extractLsb' 0 20).toNat)) 8 with
      | .error f => s.failLane 0 f
      | .ok (b, s) =>
        let ent := ofBytes b
        if bits ent 63 56 ≠ 0 ∨ bits ent 1 0 ≠ 0 then s.trapL 0x07 3 0 e.lmask false
        else if bits ent 55 34 ≠ s.w.lbase.toNat then s.trapL 0x07 1 0 e.lmask false
        else
          let s := s.laneNext false
          s.setEntry { s.entry with lpc := BitVec.ofNat 32 (ent % 2 ^ 34 / 4), tlink := e.lpc, tlv := true })

/-- The handler of the wave ends: what it stopped goes on (R406, R409, R429). -/
def State.handlerOver (s : State) : State := s.onW (fun w => { w with inhandler := false, handler := none })

/-- A latched halt stops the wave at its resume point (R413). -/
def State.resumed (s : State) : State := if s.w.haltlatch then s.takeLatch else s

/-- A lane handler's return to a lane word address (R142, R409): retry keeps a wave-stop trap's FMASK lanes for the replay, skip
clears them.  The replay is the first execution where the trap came before one. -/
def State.handlerReturn (s : State) (skip : Bool) (lpc : BitVec 32) : State :=
  let e := s.entry
  let h := s.w.handler
  let fmask := if skip || !h.any (·.stop) then 0 else s.w.trapmask.setWidth 32 &&& e.lmask
  ((s.setEntry { e with
      state := .live, lpc := lpc, fmask := fmask, keeps := false, unrun := fmask != 0 && !h.any (·.part), chain := e.counted,
      age := s.now, boost := false }).handlerOver).resumed

/-- A return to a lane word address, or past it with `skip`: ALIGN, detail 1, where that leaves the region (R66, R142). -/
def State.returnTo (s : State) (at_ : Int) (skip : Bool) (k : BitVec 32 → State) : State :=
  let tgt := if skip then at_ + 3 else at_
  if inRegion tgt then k (BitVec.ofInt 32 tgt) else s.trapL 0x07 1 0 s.entry.lmask false

/-- R142. -/
def execVtret (a : LaneArgs) (s : State) : Out :=
  let skip := a.mods.getLsbD 0
  .next (
    let e := s.entry
    if e.state = .handler then
      if s.w.trapcause.getLsbD 33 then haltBlock s 5
      else if s.w.trappc.extractLsb' 0 2 ≠ 0 then s.trapL 0x07 0 0 e.lmask false
      else s.returnTo (((s.w.trappc.toNat : Int) - s.w.lbase.toNat * 2 ^ 34) / 4) skip (s.handlerReturn skip)
    else if e.tlv then
      s.returnTo e.tlink.toNat skip (fun lpc =>
        let s := s.laneNext false
        s.setEntry { s.entry with lpc := lpc, tlv := false })
    else s.trapL 0x07 2 0 e.lmask false)

/-! ### Mask logic (R143) -/

/-- The number of a mask operand. -/
def maskNo : Src → Nat
  | .reg n => n.toNat % 16
  | _ => 0

/-- The bits of the active lanes of a mask register replaced. -/
def State.setM (s : State) (n : Nat) (act x : Word32) : State :=
  s.onW (fun w => { w with m := Sparse.set w.m n ((w.rm n &&& ~~~act) ||| (x &&& act)) })

/-- A mask instruction of two mask sources. -/
def maskOp (a : LaneArgs) (f : Word32 → Word32 → Word32) (s : State) : Out :=
  .next (s.laneBegin a { srcs := [], runs := [], dsts := [] } (fun act =>
    (s.setM (a.vd.toNat % 16) act (f (s.w.rm (maskNo a.sa)) (s.w.rm (maskNo a.sb)))).laneNext false))

/-- R143: a AND b. -/
def execMand (a : LaneArgs) (s : State) : Out := maskOp a (fun x y => x &&& y) s
/-- R143: a OR b. -/
def execMor (a : LaneArgs) (s : State) : Out := maskOp a (fun x y => x ||| y) s
/-- R143: a XOR b. -/
def execMxor (a : LaneArgs) (s : State) : Out := maskOp a (fun x y => x ^^^ y) s
/-- R143: a AND NOT b. -/
def execMandn (a : LaneArgs) (s : State) : Out := maskOp a (fun x y => x &&& ~~~y) s
/-- R143: NOT a. -/
def execMnot (a : LaneArgs) (s : State) : Out := maskOp a (fun x _ => ~~~x) s
/-- R143: a. -/
def execMmov (a : LaneArgs) (s : State) : Out := maskOp a (fun x _ => x) s

/-- R143: the set bits of a mask among the active lanes, to s48 + n. -/
def execMcnt (a : LaneArgs) (s : State) : Out :=
  .next (s.laneBegin a { srcs := [], runs := [], dsts := [] } (fun act =>
    let n := (lanesOf (s.w.rm (maskNo a.sa) &&& act)).length
    (if act = 0 then s else s.setS (BitVec.ofNat 6 (48 + a.vd.toNat % 8)) (BitVec.ofNat 64 n)).laneNext false))

/-- R143: source word not zero. -/
def execMset (a : LaneArgs) (s : State) : Out :=
  .next (s.laneBegin a { srcs := [a.sa], runs := [], dsts := [] } (fun act =>
    let x := maskOf (fun L => s.src a.ty.toNat a.imm a.sa L != 0)
    (s.setM (a.vd.toNat % 16) act x).laneNext false))

/-! ### Moves and no operation (R53, R102, R103) -/

/-- A VMOV to an operand slot: no sidecar (R102). -/
def moveSlot (a : LaneArgs) (s : State) : State :=
  s.laneBegin a { srcs := [a.sa], runs := [], dsts := [], slots := [a.vd.toNat % 16] } (fun act =>
    if act ≠ 0 && s.tagged [a.sa] then s.trapL 0x08 0 0 act false
    else
      let f (L : Nat) : Word32 := srcA s a L
      let t := s.onW (fun w => { w with o := setLanes w.o (a.vd.toNat % 16) act f })
      (t.latchWrite act f).laneNext true)

/-- A VMOV with the whole sidecar (R102). -/
def moveWhole (a : LaneArgs) (s : State) : State :=
  s.laneBegin a { srcs := [a.sa], runs := [], dsts := [a.vd.toNat] } (fun act =>
    let f (L : Nat) : Word32 := srcA s a L
    let side := match a.sa with
      | .reg n => s.w.rx n.toNat
      | _ => 0
    let t := if act = 0 then s else (s.setV a.vd.toNat act f).setX a.vd.toNat side
    (t.latchWrite act f).laneNext true)

/-- R102. -/
def execVmov (a : LaneArgs) (s : State) : Out :=
  if a.mods.getLsbD 1 then .next (moveSlot a s)
  else if a.mods.getLsbD 0 then .next (moveWhole a s)
  else lane1 a noTag (fun _ x => (x, 0)) s

/-- The identity value of a lane (R103). -/
def laneIdentity (w : Wave) (sel L : Nat) : Nat :=
  match sel with
  | 0 => L
  | 1 => L / 4
  | 2 => L % 4
  | 3 => w.widx
  | 4 => w.widx * 32 + L
  | _ => w.core.toNat

/-- R103. -/
def execVlid (a : LaneArgs) (s : State) : Out :=
  .next (s.laneAlu a [] a.ty.toNat (noTag []) (fun s L =>
    (BitVec.ofNat 32 (laneIdentity s.w (a.mods.toNat % 8) L) + a.imm, 0)))

/-- R53. -/
def execVnop (_ : LaneArgs) (s : State) : Out := .next (s.laneNext false)

/-! ### Lane traps (R52, R435, R436) -/

/-- A class L trap that a lane instruction names, on its active lanes; with none it does nothing. -/
def State.namedTrap (s : State) (code : BitVec 8) (detail : BitVec 24) (act : Word32) (sw : Bool) : State :=
  if act = 0 then s.laneNext false
  else s.raise { code := code, detail := detail, addr := 0, lanes := act, pc := s.pcNow, frag := some s.frag, sw := sw,
                 nr := false, stop := false }

/-- R435. -/
def execVtrap (a : LaneArgs) (s : State) : Out :=
  .next (s.namedTrap (a.imm.extractLsb' 0 8) (a.imm.extractLsb' 8 24) (s.active a.mask) true)

/-- R436. -/
def execVbrk (a : LaneArgs) (s : State) : Out :=
  let act := s.active a.mask
  let tag : BitVec 24 := (a.imm.extractLsb' 0 16).setWidth 24
  .next (if act ≠ 0 && s.w.dbgctl.getLsbD 3 then
    haltWith s 3 { code := 0x0C, detail := tag, addr := 0, lanes := act, pc := s.pcNow, frag := some s.frag, sw := false,
                   nr := false, stop := false } false
  else s.namedTrap 0x0C tag act false)

/-- R52. -/
def execVtool (n : BitVec 3) (a : LaneArgs) (s : State) : Out :=
  .next (s.namedTrap 0x15 (n.setWidth 24) (s.active a.mask) false)

end Sys2Proof.Machine
end

