-- ==== Sys2Proof/Machine/Issue.lean ====
section
/-! DEFINITION. Issue: time, instruction fetch, which stream may issue, and the traps taken at an instruction boundary
(R32, R33, R112, R284, R401, R406, R413, R416, R417). -/

namespace Sys2Proof.Machine

/-! ### Time -/

/-- WCLK and the stage count of an active wave advance (R415, R417). -/
def Wave.clock (w : Wave) : Wave :=
  if w.residency == .active then
    { w with wclk := w.wclk + 1,
             stagecnt := (w.stagecnt &&& 0x8000000000000000#64) ||| ((w.stagecnt + 1) &&& 0x7FFFFFFFFFFFFFFF#64) }
  else w

/-- A copy counts one tick.  While it slews, at most one tick in 10,000 is left out or doubled, which is the 100 ppm of
R395. -/
def Die.count (d : Die) (now : Nat) : Die :=
  if d.slew = 0 ∨ now % 10000 ≠ 0 then { d with ptc := d.ptc + 1 }
  else if 0 < d.slew then { d with slew := d.slew - 1 }
  else { d with ptc := d.ptc + 2, slew := d.slew + 1 }

/-- One tick of package time (R395): every copy counts once bring-up has started it, and active waves count (log entry
4). -/
def tick (s : State) : State :=
  let dies := if s.fw.step = 0 then s.dies
    else (List.range 4).foldl (fun d b => Table.put d b ((Table.getD d b Die.empty).count s.now)) s.dies
  { s with now := s.now + 1, dies := dies }.mapWaves Wave.clock

/-! ### Fetch (R32, R33) -/

/-- The pieces of an instruction's bytes, fetched at the home under fetch permission; the answer marks which piece
failed. -/
def fetchPieces (s : State) : Bool → List (Nat × Nat) → Except (AccFail × Bool) (List Byte × State)
  | _, [] => .ok ([], s)
  | second, (va, n) :: l =>
    match homeRead (captureTouch s s.w.lid va) (s.dieOf s.w.core.toNat) s.w.asid va n (BitVec.allOnes 64) .normal .fetch with
    | .error e => .error (e, second)
    | .ok (b, s) =>
      match fetchPieces s true l with
      | .error e => .error e
      | .ok (bs, s) => .ok (b ++ bs, s)

/-- `n` bytes of code at an address; an address outside the global window is MEMFAULT (R284). -/
def fetch (s : State) (pc : Addr) (n : Nat) : Except (AccFail × Bool) (List Byte × State) :=
  if pc.toNat < 2 ^ 56 then fetchPieces s false (pieces 3 pc.toNat n) else .error (.mem pc, false)

/-- A fetch that fails: the wave parks, or takes a wave-stop trap (R33, R284, R303, R390). -/
def fetchFailed (s : State) (f : AccFail × Bool) : State :=
  let trap (s : State) (code : BitVec 8) (addr : BitVec 64) : State :=
    if s.lane then s.trapL code 0 addr s.entry.lmask true else s.trapS code 0 addr true
  match f.1 with
  | .page c va pa => s.parkPage c va pa 3 (if s.lane then s.entry.fmask else 0) f.2
  | .mem a => trap s 0x06 a
  | .integrity va pa => trap (integrityRecord s 3 va pa) 0x11 va
  | .link va _ => trap s 0x12 va
  | .wait => s.stall

/-- The scalar instruction at the program counter: its word, with the next word where it is a long-immediate prefix
(R37). -/
def fetchScalar (s : State) : Except (AccFail × Bool) (Instr × State) :=
  match fetch s s.w.spc 4 with
  | .error e => .error e
  | .ok (b, s) =>
    let w := ofBytes b
    if w / 2 ^ 26 = 1 then
      match fetch s (s.w.spc + 4) 4 with
      | .error e => .error e
      | .ok (b2, s) => .ok (decodeScalar (BitVec.ofNat 32 w) (BitVec.ofNat 32 (ofBytes b2)), s)
    else .ok (decodeScalar (BitVec.ofNat 32 w) 0, s)

/-- The lane instruction at the fragment's program counter (R40). -/
def fetchLane (s : State) : Except (AccFail × Bool) (Instr × State) :=
  match fetch s (s.w.laneAddr s.entry.lpc) 12 with
  | .error e => .error e
  | .ok (b, s) => .ok (decodeLane (BitVec.ofNat 96 (ofBytes b)), s)

/-- The instruction of the stream that moves. -/
def fetchInstr (s : State) : Except (AccFail × Bool) (Instr × State) := if s.lane then fetchLane s else fetchScalar s

/-! ### Which stream may issue (R112, R401, R406, R413) -/

/-- The stream is the running handler's, or no handler or latched halt stops it. -/
def streamFree (w : Wave) (lane : Bool) (frag : Nat) : Bool :=
  match w.handler with
  | none => true
  | some h =>
    let own := w.inhandler && h.frag == (if lane then some frag else none)
    own || !(w.inhandler && (h.stop || w.haltlatch || (h.frag.isNone && !lane)))

/-- A stream of a wave may issue: the wave is active, the stream is live and nothing holds it.  A scalar stream that
has ended fetches nothing (R456), and a wave ordered off its core issues only while a latch chain runs (R84). -/
def mayIssue (w : Wave) (lane : Bool) (frag : Nat) : Bool :=
  w.residency == .active && streamFree w lane frag && !(w.switching && !w.inChain) &&
    (if lane then
      (match Table.find w.split frag with
        | some e => e.state != .waiting && !e.held
        | none => false) && w.head.started
    else w.spc != 0 && !w.scalarHeld && w.wait.isNone)

/-- A fragment that waits in ITEMNEXT has a lane that still requests an item. -/
def SplitEntry.requests (e : SplitEntry) (w : Wave) : Bool :=
  e.itemArgs.all (fun a =>
    let m := if e.redo = 0 then e.lmask else e.redo &&& e.lmask
    (if a.mask = 0 then m else m &&& w.rm a.mask.toNat) &&& w.rm (itemMask a) != 0)

/-- A fragment of a wave waits in ITEMNEXT, while there is neither an item nor a seal and another stream of the wave goes on, or for
split entries, while fewer than two are free (R112, R118, R140). -/
def State.fragWaits (s : State) (w : Wave) (e : SplitEntry) : Bool :=
  let c := s.core w.origin.toNat
  (e.itemWait && e.requests w && c.items.all (fun x => x.1 != w.lid) && !c.sealed.contains w.lid && !({ s with w := w } : State).allItems)
    || (e.entryWait.isSome && (freePair w.split).isNone)

/-- A wave's streams that nothing holds, with their age and boost (R112); whether their next instruction can issue is
`State.canIssue`. -/
def State.streamsOf (s : State) (w : Wave) : List (Nat × Bool × Pick) :=
  (if mayIssue w false 0 then [(w.age, w.boost, Pick.issue w.id false 0 false)] else [])
    ++ (w.split.filter (fun p => mayIssue w true p.1 && !s.fragWaits w p.2)).map
      (fun p => (p.2.age, p.2.boost, Pick.issue w.id true p.1 false))

/-- A stream is demoted (R113). -/
def demoted (w : Wave) (p : Pick) : Bool :=
  w.spinf && (match p with
    | .issue _ lane f _ => if lane then (Table.getD w.split f SplitEntry.free).backward else w.backward
    | .event _ _ => false)

/-- The oldest of a list of candidates, the first of equals. -/
def oldest : List (Nat × Pick) → Option (Nat × Pick)
  | [] => none
  | x :: l =>
    match oldest l with
    | none => some x
    | some y => if x.1 ≤ y.1 then some x else some y

/-- After an issue: the stream's age is the time it last became ready, and its boost ends; a stall leaves it to the
others first (log entry 3). -/
def markIssued (s : State) : State :=
  if s.lane then
    match Table.find s.w.split s.frag with
    | some e => s.setEntry { e with age := s.now, boost := false }
    | none => s
  else s.onW (fun w => { w with age := s.now, boost := false })

/-! ### Traps at an instruction boundary -/

/-- TIMER is due (R416). -/
def timerDue (s : State) : Bool :=
  s.w.deadline != 0 && decide (s.w.deadline.toNat ≤ (s.ptcOf s.w.core.toNat).toNat)

/-- STAGEOVER is due (R417). -/
def stageDue (w : Wave) : Bool :=
  w.budget != 0 && !w.stagecnt.getLsbD 63
    && decide (w.budget.toNat + (w.stagemargin.setWidth 32).toNat < (w.stagecnt &&& 0x7FFFFFFFFFFFFFFF#64).toNat)

/-- A SAMPLE record is due (R418). -/
def sampleDue (w : Wave) : Bool :=
  let n := bits w.dbgctl.toNat 7 5
  n != 0 && decide (w.sampled.toNat / 2 ^ (12 + n) < w.wclk.toNat / 2 ^ (12 + n))

end Sys2Proof.Machine
end

