-- ==== Sys2Proof/Machine/ScalarFlow.lean ====
section
/-! DEFINITION. Scalar control: branches, indirect transfers, lane blocks, the format register and seeds (04_issue.md R129
to R133, 05_formats.md R172 to R174, R155). -/

namespace Sys2Proof.Machine

/-- A scalar control transfer (R129 to R131): a transfer to address 0 ends the stream, and inside a handler it is a
nested fault recorded as ALIGN with detail 2 (R456). -/
def State.goto (s : State) (tgt : Word64) : State :=
  if tgt = 0 && s.inOwnHandler then s.trapS 0x07 2 0 false
  else s.onW (fun w => { w with spc := tgt })

/-- A taken backward branch: it demotes the stream while SPINF is set (R113), and the 256th since SPIN makes the wave
wait (R101). -/
def State.backward (s : State) : State :=
  let s := s.onW (fun w => { w with backward := true })
  if s.w.spinf then
    if s.w.spinCount + 1 < 256 then s.onW (fun w => { w with spinCount := w.spinCount + 1 })
    else (s.onW (fun w => { w with spinCount := 0 })).block_ (.spin (s.now + 4096))
  else s

/-- A taken relative branch by a signed count of words (R129, R130). -/
def State.branch (s : State) (words : Int) : State :=
  let tgt := s.w.spc + BitVec.ofInt 64 (4 * words)
  if words < 0 && !(tgt == 0 && s.inOwnHandler) then (s.goto tgt).backward else s.goto tgt

/-- R129. -/
def execB (o : BitVec 22) (s : State) : Out := .next (s.branch o.toInt)

/-- R129: the link is written first. -/
def execCall (o : BitVec 22) (s : State) : Out := .next ((s.setS 63 (s.w.spc + 4)).branch o.toInt)

/-- A conditional branch (R130). -/
def cond2 (a b : BitVec 6) (o : BitVec 14) (f : Word64 → Word64 → Bool) (s : State) : Out :=
  .next (s.scalar [a, b] [] (fun s => if f (s.rs a) (s.rs b) then s.branch o.toInt else s.advance 4))

/-- R130. -/
def execBeq (a b : BitVec 6) (o : BitVec 14) (s : State) : Out := cond2 a b o (fun x y => x == y) s
/-- R130. -/
def execBne (a b : BitVec 6) (o : BitVec 14) (s : State) : Out := cond2 a b o (fun x y => x != y) s
/-- R130: signed. -/
def execBlt (a b : BitVec 6) (o : BitVec 14) (s : State) : Out := cond2 a b o (fun x y => x.slt y) s
/-- R130: signed. -/
def execBge (a b : BitVec 6) (o : BitVec 14) (s : State) : Out := cond2 a b o (fun x y => !x.slt y) s
/-- R130: unsigned. -/
def execBltu (a b : BitVec 6) (o : BitVec 14) (s : State) : Out := cond2 a b o (fun x y => x.ult y) s
/-- R130: unsigned. -/
def execBgeu (a b : BitVec 6) (o : BitVec 14) (s : State) : Out := cond2 a b o (fun x y => !x.ult y) s

/-- An indirect transfer: the target is read before the link is written; a misaligned target is ALIGN (R131). -/
def indirect (a : BitVec 6) (link : Option (BitVec 6)) (s : State) : Out :=
  .next (s.scalar [a] link.toList (fun s =>
    let t := s.rs a
    if t.extractLsb' 0 2 ≠ 0 then s.trapS 0x07 0 0 false
    else match link with
      | none => s.goto t
      | some d => (s.setS d (s.w.spc + 4)).goto t))

/-- R131. -/
def execJr (a : BitVec 6) (s : State) : Out := indirect a none s
/-- R131. -/
def execCallr (d a : BitVec 6) (s : State) : Out := indirect a (some d) s
/-- R131: as JR. -/
def execRet (a : BitVec 6) (s : State) : Out := indirect a none s

/-! ### Lane blocks -/

/-- The scalar registers of a snapshot run (R132). -/
def runRegs (d : BitVec 6) : List (BitVec 6) :=
  if d = 0 then [] else (List.range 8).map (fun j => d + BitVec.ofNat 6 j)

/-- LRUN with its offset sign-extended, `len` bytes long (R132).  On a CCP it is ILLOP (R23). -/
def runLrun (d a : BitVec 6) (i : Word64) (len : Nat) (s : State) : Out :=
  .next (if s.w.ccp then s.trapS 0x01 0 0 false
    else s.scalar (a :: runRegs d) [] (fun s =>
      let t := s.rs a + i
      if t.extractLsb' 0 2 ≠ 0 then s.trapS 0x07 0 0 false
      else if 8 ≤ s.w.lq.length then s.stall
      else
        let k := (List.range 8).map (fun j => if d = 0 then 0 else s.rs (d + BitVec.ofNat 6 j))
        let b : LaneBlock := { pc := t, k := k, fmt := s.w.fmtw, started := false }
        (s.onW (fun w => { w with lq := w.lq ++ [b], spinf := false })).advance len))

/-- R132. -/
def execLrun (d a : BitVec 6) (i : BitVec 14) (s : State) : Out := runLrun d a (i.signExtend 64) 4 s

/-- R133. -/
def execLwait (n : BitVec 6) (s : State) : Out :=
  .next (if s.w.lq.length ≤ n.toNat then s.advance 4 else s.stall)

/-! ### Formats and seeds -/

/-- The generators of a wave seeded from a software seed or a wave's identity (R155). -/
def seedAll (seed : Word32) (gen : BitVec 16) (m : Sparse 32) : Sparse 32 :=
  (List.range 32).foldl (fun m L => Sparse.set m L (seedGenerator seed gen L)) m

/-- R172. -/
def execFmt (d a b : BitVec 6) (s : State) : Out :=
  .next (s.scalar (if b = 0 then [a] else [a, b]) [d] (fun s =>
    if b ≠ 0 && !s.w.lq.isEmpty then s.stall
    else
      let old := s.w.fmtw
      let new := writeFmt old ((s.rs a).setWidth 32)
      let gens := if b = 0 then s.w.gens else seedAll ((s.rs b).setWidth 32) s.w.gen s.w.gens
      (s.onW (fun w => { w with fmtw := new, gens := gens })).retS d (old.setWidth 64) 4))

/-- R173. -/
def execSeedld (z : BitVec 3) (a b : BitVec 6) (s : State) : Out :=
  .next (s.scalar [a, b] [] (fun s =>
    if !s.w.lq.isEmpty then s.stall
    else
      let v : BitVec 65 := (s.rs a).setWidth 65 ||| (if (s.rs b).getLsbD 0 then 1#65 <<< 64 else 0)
      (s.onW (fun w => { w with z := Sparse.set w.z z.toNat v })).advance 4))

/-- R174. -/
def execSeedtag (d a b : BitVec 6) (s : State) : Out :=
  .next (s.scalar [a, b] [d] (fun s => s.retS d ((seedTag (s.rs a) ((s.rs b).getLsbD 0)).setWidth 64) 4))

end Sys2Proof.Machine
end

