-- ==== Sys2Proof/Machine/ScalarInt.lean ====
section
/-! DEFINITION. Scalar integer instructions (06_lane_arith.md R188 to R191). -/

namespace Sys2Proof.Machine

/-- A two-operand instruction: both sources are read before the result is written (R188). -/
def alu2 (d a b : BitVec 6) (f : Word64 → Word64 → Word64) (s : State) : Out :=
  .next (s.scalar [a, b] [d] (fun s => s.retS d (f (s.rs a) (s.rs b)) 4))

/-- A one-operand instruction. -/
def alu1 (d a : BitVec 6) (f : Word64 → Word64) (s : State) : Out :=
  .next (s.scalar [a] [d] (fun s => s.retS d (f (s.rs a)) 4))

/-- An S-I instruction with its immediate already sign-extended (R36, R37), `len` bytes long. -/
def aluI (d a : BitVec 6) (i : Word64) (len : Nat) (f : Word64 → Word64 → Word64) (s : State) : Out :=
  .next (s.scalar [a] [d] (fun s => s.retS d (f (s.rs a) i) len))

/-- R188: the sum. -/
def execAdd (d a b : BitVec 6) (s : State) : Out :=
  alu2 d a b (fun x y => x + y) s

/-- R188: the difference. -/
def execSub (d a b : BitVec 6) (s : State) : Out :=
  alu2 d a b (fun x y => x - y) s

/-- R188: bitwise AND. -/
def execAnd (d a b : BitVec 6) (s : State) : Out :=
  alu2 d a b (fun x y => x &&& y) s

/-- R188: bitwise OR. -/
def execOr (d a b : BitVec 6) (s : State) : Out :=
  alu2 d a b (fun x y => x ||| y) s

/-- R188: bitwise XOR. -/
def execXor (d a b : BitVec 6) (s : State) : Out :=
  alu2 d a b (fun x y => x ^^^ y) s

/-- R188: a AND NOT b. -/
def execAndn (d a b : BitVec 6) (s : State) : Out :=
  alu2 d a b (fun x y => x &&& ~~~y) s

/-- R189: left shift by bits 5:0 of b. -/
def execShl (d a b : BitVec 6) (s : State) : Out :=
  alu2 d a b (fun x y => x <<< (y.toNat % 64)) s

/-- R189: logical right shift by bits 5:0 of b. -/
def execShr (d a b : BitVec 6) (s : State) : Out :=
  alu2 d a b (fun x y => x >>> (y.toNat % 64)) s

/-- R189: arithmetic right shift by bits 5:0 of b. -/
def execSra (d a b : BitVec 6) (s : State) : Out :=
  alu2 d a b (fun x y => x.sshiftRight (y.toNat % 64)) s

/-- R188: 1 if a < b, signed. -/
def execSlt (d a b : BitVec 6) (s : State) : Out :=
  alu2 d a b (fun x y => if x.slt y then 1 else 0) s

/-- R188: 1 if a < b, unsigned. -/
def execSltu (d a b : BitVec 6) (s : State) : Out :=
  alu2 d a b (fun x y => if x.ult y then 1 else 0) s

/-- R188: the signed minimum. -/
def execMin (d a b : BitVec 6) (s : State) : Out :=
  alu2 d a b (fun x y => if x.slt y then x else y) s

/-- R188: the signed maximum. -/
def execMax (d a b : BitVec 6) (s : State) : Out :=
  alu2 d a b (fun x y => if x.slt y then y else x) s

/-- R188: the unsigned minimum. -/
def execMinu (d a b : BitVec 6) (s : State) : Out :=
  alu2 d a b (fun x y => if x.ult y then x else y) s

/-- R188: the unsigned maximum. -/
def execMaxu (d a b : BitVec 6) (s : State) : Out :=
  alu2 d a b (fun x y => if x.ult y then y else x) s

/-- R188: the low half of the product. -/
def execMul (d a b : BitVec 6) (s : State) : Out :=
  alu2 d a b (fun x y => x * y) s

/-- R188: the high half of the signed product. -/
def execMulh (d a b : BitVec 6) (s : State) : Out :=
  alu2 d a b (mulHigh) s

/-- R188: the high half of the unsigned product. -/
def execMulhu (d a b : BitVec 6) (s : State) : Out :=
  alu2 d a b (mulHighUnsigned) s

/-- R190: the signed quotient. -/
def execDiv (d a b : BitVec 6) (s : State) : Out :=
  alu2 d a b (divSigned) s

/-- R190: the unsigned quotient. -/
def execDivu (d a b : BitVec 6) (s : State) : Out :=
  alu2 d a b (divUnsigned) s

/-- R190: the signed remainder. -/
def execRem (d a b : BitVec 6) (s : State) : Out :=
  alu2 d a b (remSigned) s

/-- R190: the unsigned remainder. -/
def execRemu (d a b : BitVec 6) (s : State) : Out :=
  alu2 d a b (remUnsigned) s

/-- R188: left shift by the sb field. -/
def execShli (d a n : BitVec 6) (s : State) : Out :=
  alu1 d a (fun x => x <<< n.toNat) s

/-- R188: logical right shift by the sb field. -/
def execShri (d a n : BitVec 6) (s : State) : Out :=
  alu1 d a (fun x => x >>> n.toNat) s

/-- R188: arithmetic right shift by the sb field. -/
def execSrai (d a n : BitVec 6) (s : State) : Out :=
  alu1 d a (fun x => x.sshiftRight n.toNat) s

/-- R188: leading zeros. -/
def execClz (d a : BitVec 6) (s : State) : Out :=
  alu1 d a (clz64) s

/-- R188: trailing zeros. -/
def execCtz (d a : BitVec 6) (s : State) : Out :=
  alu1 d a (ctz64) s

/-- R188: set bits. -/
def execPopc (d a : BitVec 6) (s : State) : Out :=
  alu1 d a (fun x => BitVec.ofNat 64 (popcount 64 x.toNat)) s

/-- R188: bits 7:0 sign-extended. -/
def execSextb (d a : BitVec 6) (s : State) : Out :=
  alu1 d a (signExtendFrom 8) s

/-- R188: bits 15:0 sign-extended. -/
def execSexth (d a : BitVec 6) (s : State) : Out :=
  alu1 d a (signExtendFrom 16) s

/-- R188: bits 31:0 sign-extended. -/
def execSextw (d a : BitVec 6) (s : State) : Out :=
  alu1 d a (signExtendFrom 32) s

/-- R191: a plus the immediate. -/
def runAddi (d a : BitVec 6) (i : Word64) (len : Nat) (s : State) : Out :=
  aluI d a i len (fun x i => x + i) s

/-- R191: a plus the immediate. -/
def execAddi (d a : BitVec 6) (i : BitVec 14) (s : State) : Out :=
  runAddi d a (i.signExtend 64) 4 s

/-- R191: a AND the immediate. -/
def runAndi (d a : BitVec 6) (i : Word64) (len : Nat) (s : State) : Out :=
  aluI d a i len (fun x i => x &&& i) s

/-- R191: a AND the immediate. -/
def execAndi (d a : BitVec 6) (i : BitVec 14) (s : State) : Out :=
  runAndi d a (i.signExtend 64) 4 s

/-- R191: a OR the immediate. -/
def runOri (d a : BitVec 6) (i : Word64) (len : Nat) (s : State) : Out :=
  aluI d a i len (fun x i => x ||| i) s

/-- R191: a OR the immediate. -/
def execOri (d a : BitVec 6) (i : BitVec 14) (s : State) : Out :=
  runOri d a (i.signExtend 64) 4 s

/-- R191: a XOR the immediate. -/
def runXori (d a : BitVec 6) (i : Word64) (len : Nat) (s : State) : Out :=
  aluI d a i len (fun x i => x ^^^ i) s

/-- R191: a XOR the immediate. -/
def execXori (d a : BitVec 6) (i : BitVec 14) (s : State) : Out :=
  runXori d a (i.signExtend 64) 4 s

/-- R191: 1 if a < immediate, signed. -/
def runSlti (d a : BitVec 6) (i : Word64) (len : Nat) (s : State) : Out :=
  aluI d a i len (fun x i => if x.slt i then 1 else 0) s

/-- R191: 1 if a < immediate, signed. -/
def execSlti (d a : BitVec 6) (i : BitVec 14) (s : State) : Out :=
  runSlti d a (i.signExtend 64) 4 s

/-- R191: 1 if a < immediate, unsigned. -/
def runSltiu (d a : BitVec 6) (i : Word64) (len : Nat) (s : State) : Out :=
  aluI d a i len (fun x i => if x.ult i then 1 else 0) s

/-- R191: 1 if a < immediate, unsigned. -/
def execSltiu (d a : BitVec 6) (i : BitVec 14) (s : State) : Out :=
  runSltiu d a (i.signExtend 64) 4 s

/-- R191: the low half of the product. -/
def runMuli (d a : BitVec 6) (i : Word64) (len : Nat) (s : State) : Out :=
  aluI d a i len (fun x i => x * i) s

/-- R191: the low half of the product. -/
def execMuli (d a : BitVec 6) (i : BitVec 14) (s : State) : Out :=
  runMuli d a (i.signExtend 64) 4 s

end Sys2Proof.Machine
end

