-- ==== Sys2Proof/Machine/ScalarMem.lean ====
section
/-! DEFINITION. Scalar loads and stores (09_memory.md R304) and the long-immediate prefix (02_encoding.md R37). -/

namespace Sys2Proof.Machine

/-- SLD with its offset already sign-extended, `len` bytes long (R304): `n` bytes, sign-extended or not. -/
def scalarLoad (n : Nat) (signed : Bool) (d a : BitVec 6) (i : Word64) (len : Nat) (s : State) : Out :=
  .next (s.scalar [a] [d] (fun s =>
    let addr := s.rs a + i
    if addr.toNat % n ≠ 0 then s.trapS 0x07 0 0 false
    else
      let t := s.target addr
      match s.loadT t addr n .normal (.scalar d n signed) 0 with
      | .error e => (s.firstTouch t n).failScalar 0 t len e
      | .ok (none, s) => s.advance len
      | .ok (some b, s) => s.retS d (extended signed n b) len))

/-- SST with its offset already sign-extended, `len` bytes long (R304). -/
def scalarStore (n : Nat) (d a : BitVec 6) (i : Word64) (len : Nat) (s : State) : Out :=
  .next (s.scalar [a, d] [] (fun s =>
    let addr := s.rs a + i
    if addr.toNat % n ≠ 0 then s.trapS 0x07 0 0 false
    else
      let t := s.target addr
      match s.storeT t addr (toBytes n (s.rs d).toNat) 0 with
      | .error e => s.failScalar 1 t len e
      | .ok s => (s.onW Wave.stored).advance len))

/-- R304: 1 byte, sign-extended, with the offset given. -/
def runSldB (d a : BitVec 6) (i : Word64) (len : Nat) (s : State) : Out :=
  scalarLoad 1 true d a i len s

/-- R304. -/
def execSldB (d a : BitVec 6) (i : BitVec 14) (s : State) : Out := runSldB d a (i.signExtend 64) 4 s

/-- R304: 1 byte, zero-extended, with the offset given. -/
def runSldBu (d a : BitVec 6) (i : Word64) (len : Nat) (s : State) : Out :=
  scalarLoad 1 false d a i len s

/-- R304. -/
def execSldBu (d a : BitVec 6) (i : BitVec 14) (s : State) : Out := runSldBu d a (i.signExtend 64) 4 s

/-- R304: 2 bytes, sign-extended, with the offset given. -/
def runSldH (d a : BitVec 6) (i : Word64) (len : Nat) (s : State) : Out :=
  scalarLoad 2 true d a i len s

/-- R304. -/
def execSldH (d a : BitVec 6) (i : BitVec 14) (s : State) : Out := runSldH d a (i.signExtend 64) 4 s

/-- R304: 2 bytes, zero-extended, with the offset given. -/
def runSldHu (d a : BitVec 6) (i : Word64) (len : Nat) (s : State) : Out :=
  scalarLoad 2 false d a i len s

/-- R304. -/
def execSldHu (d a : BitVec 6) (i : BitVec 14) (s : State) : Out := runSldHu d a (i.signExtend 64) 4 s

/-- R304: 4 bytes, sign-extended, with the offset given. -/
def runSldW (d a : BitVec 6) (i : Word64) (len : Nat) (s : State) : Out :=
  scalarLoad 4 true d a i len s

/-- R304. -/
def execSldW (d a : BitVec 6) (i : BitVec 14) (s : State) : Out := runSldW d a (i.signExtend 64) 4 s

/-- R304: 4 bytes, zero-extended, with the offset given. -/
def runSldWu (d a : BitVec 6) (i : Word64) (len : Nat) (s : State) : Out :=
  scalarLoad 4 false d a i len s

/-- R304. -/
def execSldWu (d a : BitVec 6) (i : BitVec 14) (s : State) : Out := runSldWu d a (i.signExtend 64) 4 s

/-- R304: 8 bytes, sign-extended, with the offset given. -/
def runSldD (d a : BitVec 6) (i : Word64) (len : Nat) (s : State) : Out :=
  scalarLoad 8 true d a i len s

/-- R304. -/
def execSldD (d a : BitVec 6) (i : BitVec 14) (s : State) : Out := runSldD d a (i.signExtend 64) 4 s

/-- R304: 1 byte, with the offset given. -/
def runSstB (d a : BitVec 6) (i : Word64) (len : Nat) (s : State) : Out := scalarStore 1 d a i len s

/-- R304. -/
def execSstB (d a : BitVec 6) (i : BitVec 14) (s : State) : Out := runSstB d a (i.signExtend 64) 4 s

/-- R304: 2 bytes, with the offset given. -/
def runSstH (d a : BitVec 6) (i : Word64) (len : Nat) (s : State) : Out := scalarStore 2 d a i len s

/-- R304. -/
def execSstH (d a : BitVec 6) (i : BitVec 14) (s : State) : Out := runSstH d a (i.signExtend 64) 4 s

/-- R304: 4 bytes, with the offset given. -/
def runSstW (d a : BitVec 6) (i : Word64) (len : Nat) (s : State) : Out := scalarStore 4 d a i len s

/-- R304. -/
def execSstW (d a : BitVec 6) (i : BitVec 14) (s : State) : Out := runSstW d a (i.signExtend 64) 4 s

/-- R304: 8 bytes, with the offset given. -/
def runSstD (d a : BitVec 6) (i : Word64) (len : Nat) (s : State) : Out := scalarStore 8 d a i len s

/-- R304. -/
def execSstD (d a : BitVec 6) (i : BitVec 14) (s : State) : Out := runSstD d a (i.signExtend 64) 4 s

/-! ### The prefix -/

/-- The immediate of a pair: the prefix supplies bits 39:14 (R37). -/
def longImm (hi : BitVec 26) (lo : BitVec 14) : Word64 := (hi ++ lo).signExtend 64

/-- R37: the S-I instruction of the second word with its 40-bit immediate, as one instruction of 8 bytes at the
prefix's address; any other second word is ILLOP, an extension-space word among them (DEDUCED: R37 names only S-I words; log entry
83). -/
def execLongImmediatePrefix (hi : BitVec 26) (word : BitVec 32) (s : State) : Out :=
  match decodeScalar word 0 with
  | .addi d a i => runAddi d a (longImm hi i) 8 s
  | .andi d a i => runAndi d a (longImm hi i) 8 s
  | .ori d a i => runOri d a (longImm hi i) 8 s
  | .xori d a i => runXori d a (longImm hi i) 8 s
  | .slti d a i => runSlti d a (longImm hi i) 8 s
  | .sltiu d a i => runSltiu d a (longImm hi i) 8 s
  | .muli d a i => runMuli d a (longImm hi i) 8 s
  | .sldB d a i => runSldB d a (longImm hi i) 8 s
  | .sldBu d a i => runSldBu d a (longImm hi i) 8 s
  | .sldH d a i => runSldH d a (longImm hi i) 8 s
  | .sldHu d a i => runSldHu d a (longImm hi i) 8 s
  | .sldW d a i => runSldW d a (longImm hi i) 8 s
  | .sldWu d a i => runSldWu d a (longImm hi i) 8 s
  | .sldD d a i => runSldD d a (longImm hi i) 8 s
  | .sstB d a i => runSstB d a (longImm hi i) 8 s
  | .sstH d a i => runSstH d a (longImm hi i) 8 s
  | .sstW d a i => runSstW d a (longImm hi i) 8 s
  | .sstD d a i => runSstD d a (longImm hi i) 8 s
  | .lrun d a i => runLrun d a (longImm hi i) 8 s
  | _ => .next (s.trapDecode 0x01)

end Sys2Proof.Machine
end

