-- ==== Sys2Proof/Machine/System.lean ====
section
/-! DEFINITION. The system group: traps, returns, halts, stages, special registers (14_traps.md R428 to R437,
02_encoding.md R49, R53, R54), scalar trampolines (04_issue.md R135), FWCALL (15_firmware.md R454) and illegal encodings
(R47, R48). -/

namespace Sys2Proof.Machine

/-- R53. -/
def execNop (s : State) : Out := .next (s.advance 4)

/-! ### Traps, returns, halts -/

/-- R428. -/
def execTrap (a c : BitVec 6) (s : State) : Out :=
  .next (s.scalar [a] [] (fun s =>
    s.raise { code := c.setWidth 8, detail := (s.rs a).setWidth 24, addr := 0, lanes := 0, pc := s.w.spc, frag := none,
              sw := true, nr := false, stop := false }))

/-- The scalar handler's return to an address (R429): a latched halt stops the wave there (R413). -/
def State.scalarReturn (s : State) (pc : Addr) : State := ((s.onW (fun w => { w with spc := pc })).handlerOver).resumed

/-- R429. -/
def execTret (k : BitVec 1) (s : State) : Out :=
  .next (
    let lane := match s.w.handler with
      | some h => h.frag.isSome
      | none => false
    if !s.w.inhandler || lane then s.trapS 0x07 2 0 false
    else if s.w.trapcause.getLsbD 33 then haltBlock s 5
    else if s.w.trappc.extractLsb' 0 2 ≠ 0 then s.trapS 0x07 0 0 false
    else if k = 0 then s.scalarReturn s.w.trappc
    else match fetch s s.w.trappc 4 with
      | .error e => fetchFailed s e
      | .ok (b, s) => s.scalarReturn (s.w.trappc + (if ofBytes b / 2 ^ 26 = 1 then 8 else 4)))

/-- R430. -/
def execHalt (a : BitVec 6) (s : State) : Out :=
  .next (s.scalar [a] [] (fun s =>
    haltWith s 2 { code := 0x0E, detail := ((s.rs a).setWidth 16 : BitVec 16).setWidth 24, addr := 0, lanes := 0,
                   pc := s.w.spc, frag := none, sw := false, nr := false, stop := false } false))

/-- R431. -/
def execBrk (t : BitVec 6) (s : State) : Out :=
  let trap : TrapInfo := { code := 0x0C, detail := t.setWidth 24, addr := 0, lanes := 0, pc := s.w.spc, frag := none,
                           sw := false, nr := false, stop := false }
  .next (if s.w.dbgctl.getLsbD 3 then haltWith s 3 trap false else s.raise trap)

/-! ### Stages (R417, R432) -/

/-- A trap that waits for the next scalar instruction boundary (R417). -/
def State.holdTrap (s : State) (t : TrapInfo) : State := s.onW (fun w => { w with heldTraps := w.heldTraps ++ [t] })

/-- The address of the budget of a wave's stage (R417). -/
def Wave.budgetAddr (w : Wave) : Addr := w.stagetab + BitVec.ofNat 64 (4 * w.stage.toNat)

/-- The read of the budget, a scalar load of the wave, has to wait for what is before it (R313, R386). -/
def State.budgetWaits (s : State) : Bool :=
  s.w.stagetab != 0 && (match ({ s with lane := false } : State).loadNow s.w.budgetAddr 4 with
    | .error .wait => true
    | _ => false)

/-- A read of the budget has failed: no budget until the next STAGE, and a trap at the next scalar boundary; the handler's own
STAGE has raised a nested fault (R407, R417).  `here`: the read was made at creation or activation. -/
def State.budgetFailed (s : State) (here : Bool) (pc : Addr) (code : BitVec 8) (stop : Bool) : State :=
  let t : TrapInfo :=
    { code := code, detail := 0, addr := s.w.budgetAddr, lanes := 0, pc := pc, frag := none, sw := false, nr := false, stop := stop,
      here := here }
  let s := { s with lane := false }.onW (fun w => { w with budgetLost := true })
  if !here && s.inOwnHandler then haltWith s 1 t true else s.holdTrap t

/-- The budget of the wave's stage is read (R417).  `pc` is the instruction that a failure names.  A page fault parks the
wave, and the read is made again; another failure leaves the budget zero and traps at the next boundary. -/
def readBudget (s : State) (here : Bool) (pc : Addr) : State :=
  let s := { s with lane := false }.onW (fun w => { w with budget := 0 })
  if s.w.stagetab = 0 then s
  else
    match s.loadNow s.w.budgetAddr 4 with
    | .ok (b, s) => s.onW (fun w => { w with budget := BitVec.ofNat 32 (ofBytes b) })
    | .error (.page f va pa) =>
      s.park .page ((waveRecord s s.w 0x02 0 1 va pc (.budget s.w.id)).ofClass f pa)
    | .error (.mem _) => s.budgetFailed here pc 0x06 false
    | .error (.integrity va pa) => (integrityRecord s 0 va pa).budgetFailed here pc 0x11 true
    | .error (.link _ _) => s.budgetFailed here pc 0x12 true
    | .error .wait => s.onW (fun w => { w with budgetDue := true })

/-- R432. -/
def execStage (d n : BitVec 6) (s : State) : Out :=
  .next (s.scalar [] [d] (fun s =>
    let pc := s.w.spc
    let old := s.w.stagecnt
    let t := (s.setS d (old &&& 0x7FFFFFFFFFFFFFFF#64)).advance 4
    let t := t.onW (fun w => { w with stage := n.setWidth 4, stagecnt := 0, budgetLost := false })
    if t.budgetWaits then s.stall
    else
      let t := readBudget t false pc
      traceRecord t t.w 4 (n.setWidth 8) pc old 0))

/-! ### Special registers (R54, R433) -/

/-- PTC as the wave reads it: never smaller than before (R398). -/
def State.ptcRead (s : State) : Word64 :=
  let x := s.ptcOf s.w.core.toNat
  if x.toNat < s.w.lastPtc.toNat then s.w.lastPtc else x

/-- The value of a special register; none where the number is unassigned (R54). -/
def State.readSr (s : State) (n : Nat) : Option Word64 :=
  let w := s.w
  match n with
  | 0x000 => some s.ptcRead
  | 0x001 => some w.wclk
  | 0x002 => some (((s.launch w.lid).map (·.drops)).getD 0)
  | 0x003 => some s.fw.diemap
  | 0x004 => some (w.core.setWidth 64)
  | 0x005 => some w.waveid
  | 0x006 => some (w.depth.setWidth 64)
  | 0x008 => some s.fw.skewPkg
  | 0x009 => some s.fw.skewDom
  | 0x010 => some s.fw.feat0
  | 0x011 => some s.fw.feat1
  | 0x012 => some s.fw.feat2
  | 0x013 => some s.fw.feat3
  | 0x020 => some w.trampbase
  | 0x021 => some w.trapbase
  | 0x030 => some w.trapcause
  | 0x031 => some w.trappc
  | 0x032 => some w.trapaddr
  | 0x033 => some w.trapmask
  | 0x040 => some w.deadline
  | 0x041 => some w.stagemargin
  | 0x042 => some w.stagecnt
  | 0x050 => some w.dbgctl
  | 0x060 => some w.sflags
  | _ => none

/-- A read of PTC is remembered (R398). -/
def State.markPtc (s : State) (n : Nat) : State := if n = 0 then s.onW (fun w => { w with lastPtc := s.ptcRead }) else s

/-- The number of a special register (R433). -/
def srNo (h l : BitVec 6) : Nat := 64 * h.toNat + l.toNat

/-- R433. -/
def execSrdsr (d h l : BitVec 6) (s : State) : Out :=
  .next (match s.readSr (srNo h l) with
    | none => s.trapDecode 0x03
    | some x => s.scalar [] [d] (fun s => (s.markPtc (srNo h l)).retS d x 4))

/-- R187: after every lane block enqueued before. -/
def execSrdsrSflags (d : BitVec 6) (s : State) : Out :=
  .next (s.scalar [] [d] (fun s => if s.w.lq.isEmpty then s.retS d s.w.sflags 4 else s.stall))

/-- R398. -/
def execSrdsrPtc (d : BitVec 6) (s : State) : Out :=
  .next (s.scalar [] [d] (fun s => (s.markPtc 0).retS d s.ptcRead 4))

/-- R433. -/
def execSwrsr (d h l : BitVec 6) (s : State) : Out :=
  .next (match s.readSr (srNo h l) with
    | none => s.trapDecode 0x03
    | some _ => s.scalar [d] [] (fun s => (s.onW (fun w => w.writeSr (srNo h l) (s.rs d))).advance 4))

/-- R187: after every lane block enqueued before. -/
def execSwrsrSflags (d : BitVec 6) (s : State) : Out :=
  .next (s.scalar [d] [] (fun s =>
    if s.w.lq.isEmpty then (s.onW (fun w => w.writeSr 0x060 (s.rs d))).advance 4 else s.stall))

/-- R418, R433: after every earlier lane block. -/
def execSwrsrDbgctl (d : BitVec 6) (s : State) : Out :=
  .next (s.scalar [d] [] (fun s =>
    if s.w.lq.isEmpty then (s.onW (fun w => w.writeSr 0x050 (s.rs d))).advance 4 else s.stall))

/-- R416: at once. -/
def execSwrsrDeadline (d : BitVec 6) (s : State) : Out :=
  .next (s.scalar [d] [] (fun s => (s.onW (fun w => w.writeSr 0x040 (s.rs d))).advance 4))

/-- R54. -/
def execSwrsrTrampbase (d : BitVec 6) (s : State) : Out :=
  .next (s.scalar [d] [] (fun s => (s.onW (fun w => w.writeSr 0x020 (s.rs d))).advance 4))

/-- R437: the register is read once, and its half enters every active lane with format n32; a number that R54 does not
assign is ILLREG before anything else (R48). -/
def execVrdsr (a : LaneArgs) (s : State) : Out :=
  let n := (a.imm.extractLsb' 0 12).toNat
  .next (match s.readSr n with
    | none => s.trapDecode 0x03
    | some x => s.laneBegin a { srcs := [], runs := [], dsts := if a.w then [] else [a.vd.toNat] } (fun act =>
      let y : Word32 := if a.mods.getLsbD 0 then x.extractLsb' 32 32 else x.extractLsb' 0 32
      (s.markPtc n).laneResult a act 0x1 0 (fun _ => y) 0))

/-! ### Firmware, emulation, illegal encodings -/

/-- R454: the wave parks until the control processor has run the service.  On a CCP it is ILLOP (R23). -/
def execFwcall (d a b : BitVec 6) (s : State) : Out :=
  .next (if s.w.ccp then s.trapS 0x01 0 0 false
    else s.scalar [a, b] [d] (fun s =>
      if !s.w.lq.isEmpty then s.stall
      else
        s.parkThen .fwcall (fun t =>
          let p := t.ccp (ccpOf s.w)
          t.setCcp (ccpOf s.w) { p with calls := p.calls ++ [{ wave := s.w.id, dest := d, service := s.rs a, arg := s.rs b }] })))

/-- R49: no opcode of these ranges is implemented in hardware; the wave parks and firmware gets an EMU record. -/
def execExtensionInstruction (_ : ExtensionKind) (s : State) : Out :=
  .next (s.park .emu { waveRecord s s.w 0x03 0 (if s.lane then 0 else 1) s.pcNow s.pcNow (.wave s.w.id) with
    lmask := if s.lane then s.entry.redo else 0 })

/-- R47, R48: ILLOP. -/
def execIllegalInstruction (_ : IllegalKind) (s : State) : Out := .next (s.trapDecode 0x01)

/-! ### Scalar trampolines (R135) -/

/-- The scalar link of the tool area. -/
def State.linkAddr (s : State) : Addr := s.w.frame + 0xCFF8

/-- R135: the faults of both loads come before TOOL, as its sentence on faults has it; its pseudocode tests for TOOL between the two
loads (DESIGN CHOICE, log entry 97). -/
def execTramps (i : BitVec 20) (s : State) : Out :=
  .next (match s.loadNow s.linkAddr 8 with
    | .error e => s.failS 0 e
    | .ok (l, s) =>
      match s.loadNow (s.w.trampbase + BitVec.ofNat 64 (8 * i.toNat)) 8 with
        | .error e => s.failS 0 e
        | .ok (b, s) =>
          let ent := ofBytes b
          if ofBytes l % 2 = 1 then s.trapS 0x15 6 0 false
          else if bits ent 63 56 ≠ 0 ∨ bits ent 1 0 ≠ 0 then s.trapS 0x07 3 0 false
          else match s.storeNow s.linkAddr (toBytes 8 (s.w.spc + 1).toNat) with
            | .error e => s.failS 1 e
            | .ok s => (s.onW Wave.stored).goto (BitVec.ofNat 64 ent))

/-- R135. -/
def execTrampsRet (s : State) : Out :=
  .next (match s.loadNow s.linkAddr 8 with
    | .error e => s.failS 0 e
    | .ok (b, s) =>
      let w := word64 b
      if !w.getLsbD 0 then s.trapS 0x07 2 0 false
      else match s.storeNow s.linkAddr (toBytes 8 0) with
        | .error e => s.failS 1 e
        | .ok s => (s.onW Wave.stored).goto ((w &&& ~~~3#64) + 4))

end Sys2Proof.Machine
end

