-- ==== Sys2Proof/Machine/Phase.lean ====
section
/-! DEFINITION. Releases and acquires (10_visibility.md R311 to R325, R338) and barriers (12_launch.md R376 to R380). -/

namespace Sys2Proof.Machine

/-! ### Release and acquire (R338) -/

/-- The wave's own queued matrix operations have read their B bytes (R274). -/
def State.readsDone (s : State) : Bool :=
  s.pairs.all (fun p => p.2.queue.all (fun o => o.wave != s.w.id || o.reads.isEmpty))

/-- Every earlier access of the wave has returned or been acknowledged (R338, R390), the stores of its stamp records and the
reads of B by its matrix operations among them (R272, R311). -/
def State.quiet (s : State) : Bool :=
  s.requests.all (fun r => r.wave != s.w.id || r.stage == .timedOut)
    && s.pairs.all (fun p => p.2.queue.all (fun o => !(o.wave == s.w.id && o.kind == .stamp))) && s.readsDone

/-- A threshold: a time plus a skew bound, at all ones while the bound is all ones (R397). -/
def plusSkew (t skew : BitVec 64) : BitVec 64 :=
  if skew = BitVec.allOnes 64 ∨ 2 ^ 64 ≤ t.toNat + skew.toNat then BitVec.allOnes 64 else t + skew

/-- Scopes in order (R311): 0 wave, 1 blk, 2 clu, 3 pkg, 4 dom, 5 sys. -/
abbrev Scope := Nat

/-- A wave's marks of waiting loops end with a release (R101, R113). -/
def Wave.released (w : Wave) : Wave :=
  { w with spinf := false, spinLines := [], spinCount := 0, backward := false,
           split := w.split.map (fun p => (p.1, { p.2 with backward := false })) }

/-- The release half at a scope: publication at blk or wider (R234), up to the first failure. -/
def State.release (s : State) (scope : Scope) : State × Option AccFail :=
  if scope = 0 then (s.onW Wave.released, none)
  else match publish s s.w with
    | (s, some e) => (s, some e)
    | (s, none) => ((s.onW (fun w => { w with clusterWrites := 0 })).onW Wave.released, none)

/-- The acquire half at a scope (R322 to R324, R236). -/
def State.acquire (s : State) (scope : Scope) : State :=
  let g := s.w.core.toNat
  let t := s.ptcOf g
  let s := if scope = 0 then s
    else
      let c := s.core g
      let s := s.setCore g { c with l1 := c.l1.filter (fun l => l.lid != s.w.lid) }
      clearValid s s.w.origin.toNat s.w.lid
  let s := if 3 ≤ scope then s.onW (fun w => { w with tp := plusSkew t s.fw.skewPkg }) else s
  if 4 ≤ scope then s.onW (fun w => { w with td := plusSkew t s.fw.skewDom }) else s

/-- A publication or chord write-back of the wave's own instruction fails (R83, R238, R338, R390, R408): a page fault parks
the wave, and another failure is a wave-stop trap that is not resumable. -/
def State.failBack (s : State) : AccFail → State
  | .page f va pa =>
    let r := (waveRecord s s.w 0x05 5 1 va s.w.spc (.wave s.w.id)).ofClass f pa
    s.park .ctxFault { r with code := if r.code = 0x07 then 0x07 else 0x05 }
  | .mem a => s.raise (stop 0x06 a)
  | .integrity va pa => (integrityRecord s 5 va pa).raise (stop 0x11 va)
  | .link va _ => s.raise (stop 0x12 va)
  | .wait => s.stall
where
  stop (code : BitVec 8) (a : BitVec 64) : TrapInfo :=
    { code := code, detail := 0, addr := a, lanes := 0, pc := s.w.spc, frag := none, sw := false, nr := true,
      stop := true }

/-- A release of the wave's own instruction, then what follows it (R338). -/
def State.afterRelease (s : State) (scope : Scope) (k : State → State) : State :=
  if !s.w.lq.isEmpty || !s.quiet then s.stall
  else match s.release scope with
    | (s, some e) => s.failBack e
    | (s, none) => k s

/-- R338. -/
def execPhase (h : BitVec 2) (sc : BitVec 3) (s : State) : Out :=
  .next (
    let fin (s : State) : State := (if h.getLsbD 1 then s.acquire sc.toNat else s).advance 4
    if !s.w.lq.isEmpty || !s.quiet then s.stall
    else if h.getLsbD 0 then s.afterRelease sc.toNat fin
    else fin s)

/-! ### Block barriers (R376 to R378) -/

/-- Waves of the block that have not retired: the expected count (R376). -/
def State.expected (s : State) (lid : BitVec 32) (b : Block) : Nat :=
  (((s.launch lid).map Launch.wpb).getD 0) - b.retired

/-- Bits set in a word. -/
def bitCount {w : Nat} (x : BitVec w) : Nat := ((List.range w).filter (fun i => x.getLsbD i)).length

/-- A phase of barrier `n` completes when enough waves have arrived: the count rises, the arrival bits clear, and its
waiters become ready (R376). -/
def State.checkBarrier (s : State) (lid : BitVec 32) (blk n : Nat) : State :=
  match s.block lid blk with
  | none => s
  | some b =>
    let a := Sparse.get b.arrived n
    if a ≠ 0 ∧ s.expected lid b ≤ bitCount a then
      let p := Sparse.get b.phases n
      let s := s.onBlock lid blk (fun b =>
        { b with phases := Sparse.set b.phases n (p + 1), arrived := Sparse.set b.arrived n 0 })
      s.mapWaves (fun w => if w.lid == lid && w.blk == blk && w.wait == some (.barrier n p) then w.wake else w)
    else s

/-- The phase count of a barrier of the wave's block. -/
def State.phaseOf (s : State) (n : Nat) : BitVec 32 :=
  match s.block s.w.lid s.w.blk with
  | some b => Sparse.get b.phases n
  | none => 0

/-- The wave has arrived at a barrier's current phase. -/
def State.hasArrived (s : State) (n : Nat) : Bool :=
  match s.block s.w.lid s.w.blk with
  | some b => (Sparse.get b.arrived n).getLsbD s.w.widx
  | none => false

/-- The wave leaves a completed phase: an acquire at blk scope, and the phase count as the result (R377, R378). -/
def State.leaveBarrier (s : State) (d : BitVec 6) (n : Nat) : State :=
  if !s.readsDone then s.stall
  else
    let s := (s.onW (fun w => { w with progress := none })).acquire 1
    s.retS d ((s.phaseOf n).setWidth 64) 4

/-- The wave arrives: its release, its arrival bit, and the check of the phase; then `k` with the phase arrived at.  A second
arrival is BARFAULT, which comes before the faults of the release (R378). -/
def State.arrive (s : State) (n : Nat) (k : State → BitVec 32 → State) : State :=
  if s.hasArrived n then
    (if !s.w.lq.isEmpty || !s.quiet then s.stall else (s.release 1).1.trapS 0x13 1 0 true)
  else s.afterRelease 1 (fun s =>
    let p := s.phaseOf n
    let s := s.onBlock s.w.lid s.w.blk (fun b =>
      { b with arrived := Sparse.set b.arrived n (Sparse.get b.arrived n ||| (1#256 <<< s.w.widx)) })
    k (s.checkBarrier s.w.lid s.w.blk n) p)

/-- A barrier instruction: ILLOP on a CCP, BARFAULT for a number of 16 or more (R377, R378). -/
def State.barrierOp (s : State) (a : BitVec 6) (regs : List (BitVec 6)) (d : BitVec 6) (k : State → Nat → State) : State :=
  if s.w.ccp then s.trapS 0x01 0 0 false
  else s.scalar (a :: regs) [d] (fun s =>
    if 16 ≤ (s.rs a).toNat then s.trapS 0x13 0 0 true else k s (s.rs a).toNat)

/-- The phase count differs from the one waited for: the wave leaves the phase; otherwise it waits (R378). -/
def State.awaitBarrier (s : State) (d : BitVec 6) (n : Nat) (p : BitVec 32) : State :=
  if s.phaseOf n = p then s.block_ (.barrier n p)
  else (s.onW (fun w => { w with progress := some (.barrier n p) })).leaveBarrier d n

/-- R378. -/
def execBarb (d a : BitVec 6) (s : State) : Out :=
  .next (s.barrierOp a [] d (fun s n =>
    match s.w.progress with
    | some (.barrier _ _) => s.leaveBarrier d n
    | _ => s.arrive n (fun s p => s.awaitBarrier d n p)))

/-- R378. -/
def execBara (d a : BitVec 6) (s : State) : Out :=
  .next (s.barrierOp a [] d (fun s n => s.arrive n (fun s p => s.retS d (p.setWidth 64) 4)))

/-- R378. -/
def execBarw (d a b : BitVec 6) (s : State) : Out :=
  .next (s.barrierOp a [b] d (fun s n =>
    match s.w.progress with
    | some (.barrier _ _) => s.leaveBarrier d n
    | _ => s.awaitBarrier d n ((s.rs b).setWidth 32)))

/-! ### Grid barriers (R379, R380) -/

/-- What the barrier unit finds of an object: its physical address and key slot, its bytes, and the sector that fails its
check. -/
structure GridObject where
  pa : Nat
  key : Nat
  bytes : List Byte
  bad : Option Nat
  deriving DecidableEq, Repr

/-- The barrier unit at the home of an object reaches it (R379, R380): its translation, no earlier request of the
core on its way there (R386), its place in local HBM, no move lock, its block recalled; none outside local HBM. -/
def gridObject (s : State) (va : Nat) : Except AccFail (Option GridObject × State) :=
  let h := homeDie va
  if !s.reaches (s.dieOf s.w.core.toNat) h then .error (.link (BitVec.ofNat 64 va) false)
  else if s.behind s.w.core.toNat h then .error .wait
  else match translate s s.w.asid va .write with
    | .error e => .error e
    | .ok ((pa, k), s) =>
      if !isLocal pa then .ok (none, s)
      else if s.locked pa 16 then .error .wait
      else
        let bad := s.badSector pa 16 k
        let s := ((recallBlock s (pa / 512)).mend pa 16).touch pa 16 1
        .ok (some { pa := pa, key := k, bytes := (List.range 16).map (fun i => s.cell (pa + i)), bad := bad },
          dropLine s s.w.core.toNat s.w.asid va)

/-- The failure of a sector of the object. -/
def gridBad (x : Addr) (sec : Nat) : AccFail := .integrity x (BitVec.ofNat 64 (sec * 64))

/-- A 32-bit field of the object. -/
def gridField (b : List Byte) (off : Nat) : BitVec 32 := BitVec.ofNat 32 (ofBytes ((b.drop off).take 4))

/-- A grid barrier's instruction on its object's address: alignment and window (R380). -/
def State.gridOp (s : State) (a : BitVec 6) (regs : List (BitVec 6)) (d : BitVec 6) (k : State → Addr → Nat → State) :
    State :=
  s.scalar (a :: regs) [d] (fun s =>
    let x := s.rs a
    if x.extractLsb' 0 4 ≠ 0 then s.trapS 0x07 0 0 false
    else match decodeAddr (s.pbase s.w) x with
      | .global va => k s x va
      | _ => s.trapS 0x06 0 x false)

/-- R380: the arrival is performed once, at the home. -/
def execGarrive (d a : BitVec 6) (s : State) : Out :=
  .next (s.gridOp a [] d (fun s x va =>
    s.afterRelease 3 (fun s =>
      match gridObject (captureTouch s s.w.lid va) va with
      | .error e => s.failScalar 2 (.global va) 4 (e.at x)
      | .ok (none, s) => s.trapS 0x13 3 0 true
      | .ok (some o, s) =>
        let count := gridField o.bytes 0
        let arrived := gridField o.bytes 4
        let p := gridField o.bytes 8
        if count = 0 ∨ count.toNat ≤ arrived.toNat then s.trapS 0x13 3 0 true
        else match o.bad with
          | some sec => s.failScalar 2 (.global va) 4 (gridBad x sec)
          | none =>
            let last := decide (arrived + 1 = count)
            let img := if last then toBytes 4 0 ++ toBytes 4 (p + 1).toNat else toBytes 4 (arrived + 1).toNat
            let s := putLocal s (o.pa + 4) o.key img
            let s := wakeWrite s s.w.asid (va + 4) (o.pa + 4) img.length
            s.retS d (p.setWidth 64) 4)))

/-- A waiting wave's record at a barrier unit is taken back. -/
def State.unrecord (s : State) (x : Addr) : State :=
  { s with waiters := s.waiters.filter (fun r => !(r.2.1 == s.w.frame && r.2.2.1 == s.w.gen && r.2.2.2 == x)) }

/-- The wave waits for a grid barrier's phase: recorded at the barrier unit, if its table of 65,536 has room (R379). -/
def State.waitGrid (s : State) (x : Addr) (va : Nat) (p : BitVec 32) : State :=
  let h := homeDie va
  let s : State := if (s.waiters.filter (fun r => r.1 == h)).length < 65536
    then { s with waiters := s.waiters ++ [(h, s.w.frame, s.w.gen, x)] } else s
  s.block_ (.grid (BitVec.ofNat 64 va) p)

/-- R380. -/
def execGwait (d a b : BitVec 6) (s : State) : Out :=
  .next (s.gridOp a [b] d (fun s x va =>
    match gridObject (captureTouch s s.w.lid va) va with
    | .error e => s.failScalar 2 (.global va) 4 (e.at x)
    | .ok (none, s) => s.trapS 0x13 3 0 true
    | .ok (some o, s) =>
      let ph := gridField o.bytes 8
      let done := match s.w.progress with
        | some (.grid _ _) => true
        | _ => ph != (s.rs b).setWidth 32
      match o.bad with
      | some sec => s.failScalar 2 (.global va) 4 (gridBad x sec)
      | none =>
      if !done then s.waitGrid x va ((s.rs b).setWidth 32)
      else if !s.readsDone then s.stall
      else
        let s := (s.unrecord x).onW (fun w => { w with progress := none })
        (s.acquire 3).retS d (ph.setWidth 64) 4))

end Sys2Proof.Machine
end

