-- ==== Sys2Proof/Machine/Context.lean ====
section
/-! DEFINITION. The context instructions (03_contexts.md R98 to R101) and frame pools (R85 to R87, R93, R94). -/

namespace Sys2Proof.Machine

/-! ### Pools -/

/-- A pool replaced, its RUSED and RBUD words written to the descriptor (R85). -/
def State.setPool (s : State) (p : Pool) : State :=
  let s := { s with pools := s.pools.map (fun q => if q.asid == p.asid && q.desc == p.desc then p else q) }
  let s := writeOr s p.asid (p.desc.toNat + 0x10) (toBytes 8 p.rbud.toNat)
  writeOr s p.asid (p.desc.toNat + 0x20) (toBytes 8 p.rused.toNat)

/-- Lines charged to a pool, or credited where negative. -/
def State.charge (s : State) (p : Pool) (n : Int) : State :=
  s.setPool { p with rused := p.rused + BitVec.ofInt 64 n }

/-- The registers of a wave at or above a count lose their values (R93). -/
def Wave.dropAbove (w : Wave) (n : Nat) : Wave :=
  { w with v := w.v.filter (fun p => decide (p.1 < 32 * n)), x := w.x.filter (fun p => decide (p.1 < n)) }

/-- A grant raises REGCNT; the registers granted read zero (R93, R98). -/
def Wave.granted (w : Wave) (need : Nat) : Wave := { w.dropAbove w.regcnt with regcnt := w.regcnt + need }

/-- A wave that waits in CTXGROW and has not been failed: its request. -/
def Wave.growing (w : Wave) : Option Nat :=
  match w.wait with
  | some (.grow need false) => some need
  | _ => none

/-- The waiting requests of a pool, oldest first: the wave and its request (R94, R98). -/
def growers (s : State) (p : Pool) : List (Nat × Nat × Nat) :=
  let l := s.waves.filterMap (fun w =>
    if w.asid == p.asid && w.poolptr == p.desc then (w.growing).map (fun n => (w.age, w.id, n)) else none)
  sortBy (fun a b => decide (a.1 < b.1) || (decide (a.1 = b.1) && decide (a.2.1 ≤ b.2.1))) l

/-- The words of a frame that a grant writes where the frame is authoritative: the registers granted, and REGCNT (R93, R98). -/
def Wave.grantWords (w : Wave) (need : Nat) : List (Nat × Nat × Nat) :=
  [(128 * w.regcnt, 128 * need, 0), (0x8000 + 16 * w.regcnt, 16 * need, 0), (0x92C4, 2, w.regcnt + need)]

/-- The waiting requests retried one after another: each that fits is granted, and its wave becomes ready (R98). -/
def retryAll (asid : BitVec 16) (desc : BitVec 64) : List (Nat × Nat × Nat) → State → State
  | [], s => s
  | (_, id, need) :: l, s =>
    match s.pool asid desc, s.wave id with
    | some p, some w =>
      if p.rused.toNat + need ≤ p.rbud.toNat then
        let s := (s.charge p need).mapWaves (fun w => if w.id == id then (w.granted need).wake else w)
        let s := if w.swapped then s.putFrame ((w.granted need).wake) (w.grantWords need) else s
        retryAll asid desc l s
      else retryAll asid desc l s
    | _, _ => s

/-- The waiting requests of a pool retried, oldest first. -/
def State.retryGrow (s : State) (asid : BitVec 16) (desc : BitVec 64) : State :=
  match s.pool asid desc with
  | none => s
  | some p => retryAll asid desc (growers s p) s

/-- The result of CTXGROW and CTXSHRINK (R98). -/
def State.growResult (s : State) (d : BitVec 6) (st : Nat) : State :=
  (s.onW (fun w => { w with progress := none })).retS d (BitVec.ofNat 64 (st + s.w.regcnt * 256)) 4

/-- The wave's pool. -/
def State.myPool (s : State) : Option Pool := s.pool s.w.asid s.w.poolptr

/-- R98. -/
def execCtxgrow (d a : BitVec 6) (s : State) : Out :=
  .next (s.scalar [a] [d] (fun s =>
    if !s.w.lq.isEmpty then s.stall
    else match s.w.progress with
      | some (.grow _ failed) => s.growResult d (if failed then 1 else 0)
      | _ =>
        let n := (s.rs a).toNat
        if n < 1 ∨ 256 < n then s.growResult d 2
        else if n ≤ s.w.regcnt then s.growResult d 0
        else
          let need := n - s.w.regcnt
          match s.myPool with
          | none => (s.onW (fun w => w.granted need)).growResult d 0
          | some p =>
            if p.rused.toNat + need ≤ p.rbud.toNat then ((s.charge p need).onW (fun w => w.granted need)).growResult d 0
            else s.block_ (.grow need false)))

/-- The lines of registers and sidecars from a number up leave the core unwritten (R93). -/
def State.dropLinesFrom (s : State) (n : Nat) : State :=
  let g := s.w.core.toNat
  let c := s.cache g
  if c.rc.isEmpty then s
  else
    let gone (k : Nat) : Bool := (decide (frameLine s.w 0 + n ≤ k) && decide (k < frameLine s.w 0 + 256))
      || (decide (frameLine s.w 0 + 256 + (n + 7) / 8 ≤ k) && decide (k < frameLine s.w 0 + 288))
    s.setCache g { c with rc := c.rc.filter (fun p => !gone p.1) }

/-- R98; registers that a matrix operation has yet to collect are given up after it (R269, R273). -/
def execCtxshrink (d a : BitVec 6) (s : State) : Out :=
  .next (s.scalar [a] [d] (fun s =>
    if !s.w.lq.isEmpty then s.stall
    else
      let n := (s.rs a).toNat
      if n < 1 ∨ 256 < n then s.growResult d 2
      else if s.w.regcnt ≤ n then s.growResult d 0
      else if s.w.pendV.any (fun p => decide (32 * n ≤ p.1)) || s.collecting ((List.range s.w.regcnt).drop n) then s.stall
      else
        let less := s.w.regcnt - n
        let s := (s.onW (fun w => { w.dropAbove n with regcnt := n })).dropLinesFrom n
        let s := match s.myPool with
          | some p => (s.charge p (-(less : Int))).retryGrow p.asid p.desc
          | none => s
        s.growResult d 0))

/-! ### Migration (R99) -/

/-- The frame of a slot (R85). -/
def Pool.frame (p : Pool) (slot : Nat) : BitVec 64 := p.pbase + BitVec.ofNat 64 (65536 * slot)

/-- The free slots of a pool that may be allotted: no return outstanding (R87), least recently freed first (R86). -/
def Pool.freeSlots (p : Pool) : List (Nat × PoolSlot) :=
  let l := p.slots.filter (fun x => !x.2.live && x.2.pend == 0)
  sortBy (fun a b => decide (a.2.freed ≤ b.2.freed)) l

/-- A slot freed: its generation moves on (R87). -/
def PoolSlot.free (x : PoolSlot) (now : Nat) : PoolSlot := { x with gen := x.gen + 1, live := false, freed := now }

/-- A slot allotted: its generation moves on (R87). -/
def PoolSlot.allot (x : PoolSlot) : PoolSlot := { x with gen := x.gen + 1, live := true }

/-- The whole of a frame copied to another, the wave's slot exchanged for it (R99). -/
def moveFrame (s : State) (p : Pool) (dst : Nat) (x : PoolSlot) : Except AccFail State :=
  let b := s.dieOf s.w.core.toNat
  match readRange s b s.w.asid s.w.frame.toNat 65536 with
  | .error e => .error e
  | .ok (img, s) =>
    match writeRange s b s.w.asid (p.frame dst).toNat img with
    | .error e => .error e
    | .ok s =>
      let old := (Table.getD p.slots s.w.slot { gen := 0, pend := 0, live := false, freed := 0 }).free s.now
      let slots := Table.put (Table.put p.slots s.w.slot old) dst x.allot
      let s : State := { s with pools := s.pools.map (fun q =>
        if q.asid == p.asid && q.desc == p.desc then { q with slots := slots } else q) }
      .ok (s.onW (fun w => { w with frame := p.frame dst, slot := dst, gen := x.allot.gen }))

/-- The wave leaves for a target: `target` the first core of a die for a landing slot, none for the return home (R99).
Its result is written as it leaves. -/
def State.depart (s : State) (d : BitVec 6) (die : Nat) (target : Option (BitVec 13)) (copy : Bool) : State :=
  if !s.w.lq.isEmpty || s.w.pendcnt != 0 then s.stall
  else match writeBack s s.w with
    | .error _ => s.park .ctxFault (waveRecord s s.w 0x01 5 1 (s.w.frame + 0x9000) s.w.spc (.wave s.w.id))
    | .ok s =>
      let slot := if !copy then none
        else match s.myPool with
          | none => none
          | some p => (p.freeSlots.find? (fun x => homeDie (p.frame x.1).toNat == die)).map (fun x => (p, x))
      let leave (s : State) (st : Nat) : State :=
        let s := s.retS d (BitVec.ofNat 64 st) 4
        let s := (s.onW (fun w => { w with place := .origin })).leaveCore
        (s.onW (fun w => { w with place := .transit, target := target, switching := false })).sendHome
      match slot with
      | none => leave s (if copy then 2 else 0)
      | some (p, x) =>
        match moveFrame s p x.1 x.2 with
        | .error (.page _ va _) =>
          s.park .ctxFault (waveRecord s s.w 0x01 5 1 va s.w.spc (.wave s.w.id))
        | .error e => s.failBack e
        | .ok s => leave s 0

/-- R99. -/
def execMigrate (d a b : BitVec 6) (s : State) : Out :=
  .next (s.scalar [a, b] [d] (fun s =>
    let x := s.rs a
    let copy := (s.rs b).getLsbD 0
    let here := s.dieOf s.w.core.toNat
    if (s.rs b).toNat / 2 ≠ 0 then s.retS d 4 4
    else if x = 0 then s.depart d (s.dieOf s.w.origin.toNat) none copy
    else match decodeAddr 0 x with
      | .global va =>
        if 2 ^ 56 ≤ x.toNat then s.retS d 3 4
        else
          let die := homeDie va
          if die = here then s.retS d 1 4
          else s.depart d die (some (BitVec.ofNat 13 (384 * firstD s.fw.diemap die))) copy
      | _ => s.retS d 3 4))

/-! ### Giving up the entry, spinning -/

/-- R100: a voluntary switch that leaves the wave ready. -/
def execYield (s : State) : Out := .next (s.advance 4).orderSwitch

/-- R101: the lines loaded are those since the SPIN that set the flag. -/
def execSpin (s : State) : Out :=
  .next ((s.onW (fun w => if w.spinf then w else { w with spinf := true, spinLines := [], spinCount := 0 })).advance 4)

end Sys2Proof.Machine
end

