-- ==== Sys2Proof/Machine/Chords.lean ====
section
/-! DEFINITION. The chord instructions (07_local_store.md R244 to R248). -/

namespace Sys2Proof.Machine

/-- Ceiling of a quotient by a positive number. -/
def ceilDiv (a b : Int) : Int := -((-a) / b)

/-- The in-bounds indices of a dimension (R227), an interval; none when there is none. -/
def Chord.inBounds (c : Chord) (k : Nat) : Option (Int × Int) :=
  let n : Int := c.cnt k
  let bnd : Int := c.bnd k
  let stp := c.stp k
  let org := c.org k
  let r : Int × Int :=
    if bnd = 0 then (0, n - 1)
    else if stp = 0 then (if 0 ≤ org ∧ org < bnd then (0, n - 1) else (0, -1))
    else if 0 < stp then (max 0 (ceilDiv (-org) stp), min (n - 1) ((bnd - 1 - org) / stp))
    else (max 0 (ceilDiv (org - (bnd - 1)) (-stp)), min (n - 1) (org / (-stp)))
  if r.1 ≤ r.2 then some r else none

/-- Every in-bounds element's record field lies in the global window (R244): from the extents of the coordinates. -/
def Chord.inWindow (c : Chord) : Bool :=
  let ext (k : Nat) : Option (Int × Int) := (c.inBounds k).map (fun r =>
    let x := (c.org k + r.1 * c.stp k) * c.stride k
    let y := (c.org k + r.2 * c.stp k) * c.stride k
    (min x y, max x y))
  match ext 0, ext 1, ext 2 with
  | some a, some b, some d =>
    let base : Int := c.gbase + c.foff
    decide (0 ≤ base + a.1 + b.1 + d.1) && decide (base + a.2 + b.2 + d.2 + c.flen ≤ 2 ^ 56)
  | _, _, _ => true

/-- An MX format (R44). -/
def Chord.mx (c : Chord) : Bool := decide (0x11 ≤ c.fmt) && decide (c.fmt ≤ 0x16)

/-- A parameter block that CHSET accepts for chord `k` (R226, R229, R244). -/
def Chord.ok (c : Chord) (k : Nat) : Bool :=
  decide (c.gbase < 2 ^ 56) && c.u 0x1B 1 == 0 && c.u 0x27 1 == 0 && c.u 0x33 1 == 0 && c.u 0x3C 4 == 0
    && c.ctl / 32 % 16 == 0
    && decide (0 < c.flen) && decide (c.flen ≤ 4096) && (List.range 3).all (fun i => decide (0 < c.cnt i))
    && decide (c.soff % 128 = 0) && decide (c.fmt < 0x1B) && (!c.six || decide (c.flen % 24 = 0)) && c.inWindow
    && (!c.mx || (c.scv && c.sch != k))

/-- Two ranges of a stash meet. -/
def meet (a n b m : Nat) : Bool := decide (a < b + m) && decide (b < a + n)

/-- A queued operation has yet to read scales of a chord: the rest of its B range lies in a chord whose companion it is
(R261, R274). -/
def scaleBusy (s : State) (g : Nat) (c : Chord) : Bool :=
  (s.pair (g / 2)).queue.any (fun o => o.leader.toNat == g && o.lid == s.w.lid && (match o.reads with
    | [] => false
    | r :: _ => (s.core g).chords.any (fun x => x.1.1 == s.w.lid && x.2.mx && meet r.1 r.2 x.2.soff x.2.len
        && (((s.core g).chord s.w.lid x.2.sch).map Chord.soff) == some c.soff)))

/-- A queued matrix operation has yet to read bytes of a chord's range on a core (R274). -/
def chordBusy (s : State) (g : Nat) (c : Chord) : Bool := stashBusy s g s.w.lid c.soff c.len false || scaleBusy s g c

/-- A chord leaves a core's table; its bytes become scratch (R245): the masks of those of its lines that are its launch's clear. -/
def dropChord (s : State) (g : Nat) (lid : BitVec 32) (k : Nat) (c : Chord) (base : Nat) : State :=
  let co := s.core g
  let lines := s.ownLines g lid base c
  let none_ (m : Sparse 128) : Sparse 128 := lines.foldl (fun v l => Sparse.set v l 0) m
  s.setCore g { co with
    chords := co.chords.filter (fun x => !(x.1.1 == lid && x.1.2 == k))
    valid := none_ co.valid
    dirty := none_ co.dirty
    pub := none_ co.pub
    filling := co.filling.filter (fun p => !(p.1 == lid && (c.lines base).contains p.2)) }

/-- A chord instruction's start: ILLOP on a CCP, ILLREG for a number of 32 or more (R23, R48). -/
def State.chordOp (s : State) (a : BitVec 6) (regs : List (BitVec 6)) (d : BitVec 6) (k : State → Nat → State) : State :=
  if s.w.ccp then s.trapS 0x01 0 0 false
  else s.scalar (a :: regs) [d] (fun s => if 32 ≤ (s.rs a).toNat then s.trapS 0x03 0 0 false else k s (s.rs a).toNat)

/-- A chord is set on a core: with the VALID bytes of the retained set it adopts, or with every mask clear (R240, R244).
The answer is whether a set was adopted. -/
def setChord (s : State) (g : Nat) (lid : BitVec 32) (asid : BitVec 16) (k : Nat) (c : Chord) : Bool × State :=
  let base := (s.stash lid).1
  let co := s.core g
  let hit (r : Retained) : Bool := r.asid == asid && r.image == c.image && r.base == base
  let kept := co.retained.find? hit
  let laps (r : Retained) : Bool :=
    let o : Chord := { image := r.image }
    meet (r.base + o.soff) o.len (base + c.soff) c.len
  let lines := c.lines base
  let valid := lines.foldl (fun v l => Sparse.set v l (match kept with
    | some r => Sparse.get r.valid l
    | none => 0)) co.valid
  (kept.isSome, s.setCore g { co with
    chords := co.chords ++ [((lid, k), c)]
    retained := co.retained.filter (fun r => !hit r && !laps r)
    valid := valid
    dirty := lines.foldl (fun v l => Sparse.set v l 0) co.dirty
    pub := lines.foldl (fun v l => Sparse.set v l 0) co.pub
    filling := co.filling.filter (fun p => !(p.1 == lid && lines.contains p.2)) })

/-- Why CHSET refuses a parameter block: status 2, 3 or 4 (R244). -/
def chsetStatus (s : State) (g : Nat) (lid : BitVec 32) (k : Nat) (c : Chord) : Nat :=
  if !c.ok k then 2
  else if (s.stash lid).2 < c.soff + c.len then 3
  else if (s.core g).chords.any (fun x => x.1.1 == lid && x.1.2 != k && meet x.2.soff x.2.len c.soff c.len) then 4
  else 0

/-- R244; the presented range is waited for, as that of the chord that is live: a queued matrix operation has still to read it (R274),
or a departing line stands in it (R220). -/
def execChset (d a b : BitVec 6) (s : State) : Out :=
  .next (s.chordOp a [b] d (fun s k =>
    let g := s.w.origin.toNat
    let addr := s.rs b
    if !s.w.lq.isEmpty then s.stall
    else if addr.toNat % 64 ≠ 0 then s.retS d 2 4
    else match s.loadNow addr 64 with
      | .error e => s.failS 0 e
      | .ok (img, s) =>
        let c : Chord := { image := BitVec.ofNat 512 (ofBytes img) }
        let st := chsetStatus s g s.w.lid k c
        let finish (s : State) : State :=
          let r := setChord s g s.w.lid s.w.asid k c
          r.2.retS d (if r.1 then 1 else 0) 4
        if st ≠ 0 then s.retS d (BitVec.ofNat 64 st) 4
        else if stashBusy s g s.w.lid c.soff c.len false then s.stall
        else match (s.core g).chord s.w.lid k with
          | none => finish s
          | some old =>
            let base := (s.stash s.w.lid).1
            if chordBusy s g old then s.stall
            else match backLines g s.w.lid s.w.asid base old (old.lines base) s with
              | (s, some e) => s.failBack e
              | (s, none) => finish (dropChord s g s.w.lid k old base)))

/-- R245. -/
def execChrel (d a : BitVec 6) (s : State) : Out :=
  .next (s.chordOp a [] d (fun s k =>
    let g := s.w.origin.toNat
    let base := (s.stash s.w.lid).1
    if !s.w.lq.isEmpty then s.stall
    else match (s.core g).chord s.w.lid k with
      | none => s.retS d 1 4
      | some c =>
        if chordBusy s g c then s.stall
        else match backLines g s.w.lid s.w.asid base c (c.lines base) s with
          | (s, some e) => s.failBack e
          | (s, none) => (dropChord s g s.w.lid k c base).retS d 0 4))

/-- A chord's image with a field of `n` bytes at an offset replaced. -/
def Chord.with (c : Chord) (off n x : Nat) : Chord :=
  { image := (c.image &&& ~~~(BitVec.ofNat 512 ((2 ^ (8 * n) - 1) * 2 ^ (8 * off))))
      ||| BitVec.ofNat 512 (x % 2 ^ (8 * n) * 2 ^ (8 * off)) }

/-- A live chord of the wave's launch on its ORIGIN core replaced. -/
def State.setMyChord (s : State) (k : Nat) (c : Chord) : State :=
  let g := s.w.origin.toNat
  let co := s.core g
  s.setCore g { co with chords := co.chords.map (fun x => if x.1.1 == s.w.lid && x.1.2 == k then (x.1, c) else x) }

/-- All ones: the answer about a chord that is not live. -/
def noChord : Word64 := BitVec.allOnes 64

/-- R246. -/
def execChkey (d a b : BitVec 6) (s : State) : Out :=
  .next (s.chordOp a [b] d (fun s k =>
    match (s.core s.w.origin.toNat).chord s.w.lid k with
    | none => s.retS d noChord 4
    | some c =>
      (s.setMyChord k (c.with 0x38 4 (s.rs b).toNat)).retS d (BitVec.ofNat 64 c.pkey) 4))

/-- R247: the fills are started, and the instruction does not wait for them. -/
def execChfill (d a b : BitVec 6) (s : State) : Out :=
  .next (s.chordOp a [b] d (fun s k =>
    let g := s.w.origin.toNat
    let co := s.core g
    match co.chord s.w.lid k with
    | none => s.retS d noChord 4
    | some c =>
      if !s.holdsAt g s.w.lid c.soff c.len then s.stall
      else
      let base := (s.stash s.w.lid).1
      let lo := (s.rs b).toNat % 2 ^ 32
      let hi := min (lo + (s.rs b).toNat / 2 ^ 32) c.len
      let start := (c.lines base).filter (fun l =>
        let o := l * 128 - (base + c.soff)
        decide (o < hi) && decide (lo < o + 128) && decide (lo < hi)
          && Sparse.get co.valid l != BitVec.allOnes 128 && !co.filling.contains (s.w.lid, l))
      (s.setCore g { co with filling := co.filling ++ start.map (fun l => (s.w.lid, l)) }).retS d (BitVec.ofNat 64 start.length) 4))

/-- R248. -/
def execChtag (d a b : BitVec 6) (s : State) : Out :=
  .next (s.chordOp a [b] d (fun s k =>
    if !s.w.lq.isEmpty then s.stall
    else match (s.core s.w.origin.toNat).chord s.w.lid k with
      | none => s.retS d noChord 4
      | some c =>
        if chordBusy s s.w.origin.toNat c then s.stall
        else (s.setMyChord k (c.with 0x36 2 (s.rs b).toNat)).retS d (c.tag.setWidth 64) 4))

end Sys2Proof.Machine
end

