-- ==== Sys2Proof/Machine/Special.lean ====
section
/-! DEFINITION. The special functions (06_lane_arith.md R206, R207).  The exact cases are forced; every other result is
a free value within R206's bound: the encoding that `Config.sfuResult` names where it meets the bound, and the nearest
encoding otherwise.  The exact value against which the bound is judged is computed in fixed point with 400 fraction
bits, far below any bound of R206. -/

namespace Sys2Proof.Machine

/-! ### Fixed point -/

/-- Fraction bits of the fixed-point values below. -/
def fxBits : Nat := 400
/-- One, in fixed point. -/
def fxOne : Int := 2 ^ fxBits
/-- Product. -/
def fxMul (a b : Int) : Int := a * b / fxOne
/-- Quotient. -/
def fxDiv (a b : Int) : Int := a * fxOne / b
/-- A signed quotient in fixed point. -/
def fxOf (neg : Bool) (num den : Nat) : Int := (if neg then -(num : Int) else num) * fxOne / den

/-- Σ over k of t·x²ᵏ/(2k+1), starting at index k: the series of atanh and, with negated squares, of atan. -/
def fxAtanSeries : Nat → Int → Int → Nat → Int
  | 0, _, _, _ => 0
  | n + 1, t, sq, k => t / (2 * k + 1 : Nat) + fxAtanSeries n (fxMul t sq) sq (k + 1)

/-- atanh x for |x| ≤ 1/3. -/
def fxAtanh (x : Int) : Int := fxAtanSeries 140 x (fxMul x x) 0
/-- ln 2. -/
def fxLn2 : Int := 2 * fxAtanh (fxOne / 3)
/-- π, by Machin's formula. -/
def fxPi : Int :=
  16 * fxAtanSeries 100 (fxOne / 5) (-(fxOne / 25)) 0 - 4 * fxAtanSeries 40 (fxOne / 239) (-(fxOne / 57121)) 0

/-- Σ t·xᵏ/(i+1)(i+2)…: the tail of the exponential series. -/
def fxExpSeries : Nat → Int → Int → Nat → Int
  | 0, _, _, _ => 0
  | n + 1, t, x, i => t + fxExpSeries n (fxMul t x / (i : Int)) x (i + 1)

/-- Repeated squaring. -/
def fxSquares : Nat → Int → Int
  | 0, x => x
  | n + 1, x => fxSquares n (fxMul x x)

/-- e^x for 0 ≤ x < 32. -/
def fxExp (x : Int) : Int := fxSquares 10 (fxExpSeries 70 fxOne (x / 1024) 1)

/-- Alternating series of sine and cosine. -/
def fxTrigSeries : Nat → Int → Int → Nat → Int
  | 0, _, _, _ => 0
  | n + 1, t, sq, i => t - fxTrigSeries n (fxMul t sq / ((i * (i + 1) : Nat) : Int)) sq (i + 2)

/-- sin x for 0 ≤ x ≤ 2. -/
def fxSin (x : Int) : Int := fxTrigSeries 60 x (fxMul x x) 2
/-- cos x for 0 ≤ x ≤ 2. -/
def fxCos (x : Int) : Int := fxTrigSeries 60 fxOne (fxMul x x) 1

/-- Integer square root by bits: `k` bits remain, `r` found. -/
def isqrtBits : Nat → Nat → Nat → Nat
  | 0, _, r => r
  | k + 1, n, r => if (r + 2 ^ k) * (r + 2 ^ k) ≤ n then isqrtBits k n (r + 2 ^ k) else isqrtBits k n r

/-- floor(√n). -/
def isqrt (n : Nat) : Nat := isqrtBits (Nat.log2 n / 2 + 1) n 0

/-- √(num/den) as a quotient that rounds as the exact root does: the root truncated far below any rounding boundary,
with a half unit more where it is not exact. -/
def rootOf (num den : Nat) : Nat × Nat :=
  let n := num * 2 ^ 800 / den
  let r := isqrt n
  if r * r = n ∧ num * 2 ^ 800 % den = 0 then (r, 2 ^ 400) else (2 * r + 1, 2 ^ 401)

/-! ### The functions -/

/-- Is the quotient a whole number? -/
def isWhole (num den : Nat) : Bool := num % den == 0

/-- A fixed-point value as a finite value. -/
def ofFx (x : Int) : Fv := .fin (decide (x < 0)) x.natAbs (2 ^ fxBits)

/-- x modulo 2 of a finite value, in half turns from 0 up to 2, as a numerator over the same divisor. -/
def turns (neg : Bool) (num den : Nat) : Nat :=
  let r := num % (2 * den)
  if neg && r != 0 then 2 * den - r else r

/-- sin(π·t/d) for 0 ≤ t < 2d, in fixed point. -/
def sinTurns (t d : Nat) : Int :=
  let (s, u) : Int × Nat := if d < t then (-1, t - d) else (1, t)
  let v := if d < 2 * u then d - u else u
  s * fxSin (fxPi * (v : Int) / (d : Int))

/-- What a special function gives: a forced encoding with flags, or a value to be approximated. -/
inductive SfuResult where
  | exact (x : Nat) (q : Sticky)
  | about (v : Fv)
  deriving DecidableEq, Repr

/-- The value of a special function by its opcode (R206, R207).  `x` is the value of the source element. -/
def sfuValue (op code : Nat) (x : Fv) : SfuResult :=
  let f := floatFormat code
  let zero (neg : Bool) := SfuResult.exact (signed f neg 0) 0
  let one (neg : Bool) := SfuResult.exact (roundFinite code .rne false true neg 1 1).1 0
  let infin (neg : Bool) (q : Sticky) := SfuResult.exact (signed f neg (f.maxMag + 1)) q
  let bad := SfuResult.exact (canonicalNan code) flagNV
  match x with
  | .nan => .exact (canonicalNan code) 0
  | .inf neg =>
    match op with
    | 0x080 => zero neg
    | 0x081 => if neg then bad else zero false
    | 0x083 => if neg then zero false else infin false 0
    | 0x084 => if neg then bad else infin false 0
    | 0x087 => one neg
    | _ => bad
  | .fin neg num den =>
    if num = 0 then
      match op with
      | 0x080 | 0x081 => infin neg flagDZ
      | 0x083 | 0x086 => one false
      | 0x084 => infin true flagDZ
      | _ => zero neg
    else
      match op with
      | 0x080 => .about (.fin neg den num)
      | 0x081 => if neg then bad else
          let (n, d) := rootOf den num
          .about (.fin false n d)
      | 0x083 =>
        -- 2^x: the whole part as an exponent, the fraction by the series
        let w := num / den
        let r := num % den
        if w > 400 then
          (if neg then .about (.fin false 1 (2 ^ 400)) else .about (.fin false (2 ^ 400) 1))
        else if r = 0 then (if neg then .about (.fin false 1 (2 ^ w)) else .about (.fin false (2 ^ w) 1))
        else
          let m := (fxExp (fxMul fxLn2 (fxOf false r den))).natAbs * 2 ^ w
          if neg then .about (.fin false (2 ^ fxBits) m) else .about (.fin false m (2 ^ fxBits))
      | 0x084 => if neg then bad else
          let e := ilog2 num den
          let m := if 0 ≤ e then fxOf false num (den * 2 ^ e.toNat) else fxOf false (num * 2 ^ (-e).toNat) den
          let v := e * fxOne + fxDiv (2 * fxAtanh (fxDiv (m - fxOne) (m + fxOne))) fxLn2
          if v = 0 then zero false else .about (ofFx v)
      | 0x085 =>
        if isWhole num den then zero neg
        else if isWhole (2 * num) den then one (decide (den < turns neg num den))
        else .about (ofFx (sinTurns (turns neg num den) den))
      | 0x086 =>
        if isWhole num den then one (decide (turns neg num den = den))
        else if isWhole (2 * num) den then zero false
        else .about (ofFx (sinTurns ((turns neg num den * 2 + den) % (4 * den)) (2 * den)))
      | _ =>
        if 20 * den ≤ num then .about (.fin neg (2 ^ 64 - 1) (2 ^ 64))
        else
          let e2 := fxExp (2 * fxOf false num den)
          .about (.fin neg (e2 - fxOne).natAbs (e2 + fxOne).natAbs)

/-- Is a result marked exact in R207's table? -/
def sfuExact (op : Nat) (x v : Fv) : Bool :=
  match x, v with
  | .fin _ num den, .fin _ n d =>
    match op with
    | 0x080 => (num == 2 ^ Nat.log2 num && den == 2 ^ Nat.log2 den)
    | 0x081 => n * n * num == d * d * den && isWhole (2 ^ 500 * n) d
    | 0x083 => isWhole num den
    | 0x084 => isWhole n d && (num == 2 ^ Nat.log2 num && den == 2 ^ Nat.log2 den)
    | _ => false
  | _, _ => false

/-- R206's bound at an exact magnitude: the ulps, and the least absolute bound as a negated power of two. -/
def sfuBound (op code : Nat) : Nat × Option Nat :=
  if code = 8 then
    match op with
    | 0x080 | 0x081 => (1, none)
    | 0x084 => (2, some 22)
    | 0x085 | 0x086 => (2, some 23)
    | _ => (2, none)
  else
    match op with
    | 0x080 | 0x081 => (0, none)
    | 0x084 | 0x085 | 0x086 => (1, some 10)
    | _ => (1, none)

/-- Is the encoding `r` a finite value within the bound of the exact value `v`?  VEXP2 below the smallest normal gives
+0 or a subnormal (R207), so a negative encoding is no result of it. -/
def withinBound (op code : Nat) (v : Fv) (r : Nat) : Bool :=
  let f := floatFormat code
  match decodeFloat code r, v with
  | .fin nr a da, .fin nv b db =>
    let (ulps, abs?) := sfuBound op code
    let q := max (ilog2 b db) (1 - f.bias) - f.manBits
    let diff := ((if nr then -(a : Int) else a) * db - (if nv then -(b : Int) else b) * da).natAbs
    -- diff / (da·db) ≤ ulps·2^q, or ≤ 2^−k
    let byUlp := if 0 ≤ q then decide (diff ≤ ulps * 2 ^ q.toNat * (da * db))
      else decide (diff * 2 ^ (-q).toNat ≤ ulps * (da * db))
    !(op == 0x083 && r.testBit (f.expBits + f.manBits)) && (byUlp || match abs? with
      | some k => decide (diff * 2 ^ k ≤ da * db)
      | none => false)
  | _, _ => false


/-- A special function but VSQRT on one element: the encoding and the flags (R206, R207).  VEXP2 sets UF below the
smallest normal, at an exact subnormal too; at an integer whose power of two has no encoding its result is no exact one (DESIGN
CHOICE, log entry 101). -/
def sfuElement (op code : Nat) (fz : Bool) (x : Nat) : Nat × Sticky :=
  let xv := sourceValue code fz x
  match sfuValue op code xv with
  | .exact r q => (r, q)
  | .about v =>
    match v with
    | .fin neg num den =>
      let f := floatFormat code
      let near := roundFinite code .rne false true neg num den
      let small (r : Nat) := decide (r % 2 ^ (f.expBits + f.manBits) < 2 ^ f.manBits)
      if sfuExact op xv v && near.2 == 0 then
        flushResult fz code (near.1, flagIf (op == 0x083 && small near.1) flagUF)
      else if near.2 &&& flagOF != 0 then near
      else if op = 0x087 ∧ near.1 % 2 ^ (f.expBits + f.manBits) = f.bias * 2 ^ f.manBits then (near.1, flagNX)
      else
        let c := (Config.sfuResult op code (BitVec.ofNat 32 (flushSource fz code x))).toNat
        let r := if (sfuBound op code).1 ≠ 0 ∧ withinBound op code v c then c else near.1
        let tiny := small r || near.2 &&& flagUF != 0
        flushResult fz code (r % 2 ^ (1 + f.expBits + f.manBits), flagNX ||| flagIf tiny flagUF)
    | _ => (canonicalNan code, 0)

/-- VSQRT on one element (R206, R207): correctly rounded. -/
def sqrtElement (code : Nat) (m : Rm) (fz : Bool) (x : Nat) : Nat × Sticky :=
  let f := floatFormat code
  match sourceValue code fz x with
  | .nan => (canonicalNan code, 0)
  | .inf neg => if neg then (canonicalNan code, flagNV) else (signed f false (f.maxMag + 1), 0)
  | .fin neg num den =>
    if num = 0 then (signed f neg 0, 0)
    else if neg then (canonicalNan code, flagNV)
    else
      let (n, d) := rootOf num den
      roundArith code m fz (.fin false n d, 0)

end Sys2Proof.Machine
end

