-- ==== Sys2Proof/Machine/LaneFloat.lean ====
section
/-! DEFINITION. Lane floating-point instructions and special functions (06_lane_arith.md R202 to R207). -/

namespace Sys2Proof.Machine

/-- fmt of the fragment that moves (R65). -/
def State.fmtc (s : State) : Word32 := s.entry.fmtc

/-- The rounding of an arithmetic instruction (R202). -/
def State.rnd (s : State) (a : LaneArgs) : Rm := rmOfRnd s.fmtc (a.mods.toNat % 8)

/-- R203: a + b. -/
def execVfadd (a : LaneArgs) (s : State) : Out :=
  lane2 a linear (fun s x y => floatLanes2 a.ty.toNat (faddElement a.ty.toNat (s.rnd a) (fmtFZ s.fmtc)) x y) s

/-- R203: a − b. -/
def execVfsub (a : LaneArgs) (s : State) : Out :=
  lane2 a linear (fun s x y => floatLanes2 a.ty.toNat (fsubElement a.ty.toNat (s.rnd a) (fmtFZ s.fmtc)) x y) s

/-- R203: a × b; linear where a factor is uniform (R167). -/
def execVfmul (a : LaneArgs) (s : State) : Out :=
  lane2 a (fun _ => product a.sa a.sb []) (fun s x y => floatLanes2 a.ty.toNat (fmulElement a.ty.toNat (s.rnd a) (fmtFZ s.fmtc)) x y) s

/-- R203: a / b. -/
def execVfdiv (a : LaneArgs) (s : State) : Out :=
  lane2 a noTag (fun s x y => floatLanes2 a.ty.toNat (fdivElement a.ty.toNat (s.rnd a) (fmtFZ s.fmtc)) x y) s

/-- R203: a × b + c, rounded once; linear where a factor is uniform (R167). -/
def execVfma (a : LaneArgs) (s : State) : Out :=
  lane3 a (fun _ => product a.sa a.sb [a.sc])
    (fun s x y z => floatLanes3 a.ty.toNat (fmaElement a.ty.toNat (s.rnd a) (fmtFZ s.fmtc)) x y z) s

/-- R204. -/
def execVfmin (a : LaneArgs) (s : State) : Out :=
  lane2 a noTag (fun s x y => floatLanes2 a.ty.toNat (fun p q => (fMinMax false a.ty.toNat (fmtFZ s.fmtc) p q, 0)) x y) s

/-- R204. -/
def execVfmax (a : LaneArgs) (s : State) : Out :=
  lane2 a noTag (fun s x y => floatLanes2 a.ty.toNat (fun p q => (fMinMax true a.ty.toNat (fmtFZ s.fmtc) p q, 0)) x y) s

/-- R203: the sign cleared. -/
def execVfabs (a : LaneArgs) (s : State) : Out :=
  lane1 a noTag (fun s x => floatLanes a.ty.toNat (fsignElement false a.ty.toNat (fmtFZ s.fmtc)) x) s

/-- R203: the sign inverted. -/
def execVfneg (a : LaneArgs) (s : State) : Out :=
  lane1 a linear (fun s x => floatLanes a.ty.toNat (fsignElement true a.ty.toNat (fmtFZ s.fmtc)) x) s

/-- R205: all ones where the condition holds; the result is n32 or n16. -/
def execVfcmp (a : LaneArgs) (s : State) : Out :=
  .next (s.laneAlu a [a.sa, a.sb] (if a.ty = 8 then 1 else 3) (noTag [a.sa, a.sb]) (fun s L =>
    floatLanes2 a.ty.toNat (fcmpElement a.ty.toNat (a.mods.toNat % 8) (fmtFZ s.fmtc)) (srcA s a L) (srcB s a L)))

/-- R206, R207: 1/x. -/
def execVrcp (a : LaneArgs) (s : State) : Out :=
  lane1 a noTag (fun s x => floatLanes a.ty.toNat (sfuElement 0x080 a.ty.toNat (fmtFZ s.fmtc)) x) s

/-- R206, R207: 1/√x. -/
def execVrsq (a : LaneArgs) (s : State) : Out :=
  lane1 a noTag (fun s x => floatLanes a.ty.toNat (sfuElement 0x081 a.ty.toNat (fmtFZ s.fmtc)) x) s

/-- R206, R207: 2^x. -/
def execVexp2 (a : LaneArgs) (s : State) : Out :=
  lane1 a noTag (fun s x => floatLanes a.ty.toNat (sfuElement 0x083 a.ty.toNat (fmtFZ s.fmtc)) x) s

/-- R206, R207: log2 x. -/
def execVlog2 (a : LaneArgs) (s : State) : Out :=
  lane1 a noTag (fun s x => floatLanes a.ty.toNat (sfuElement 0x084 a.ty.toNat (fmtFZ s.fmtc)) x) s

/-- R206, R207: sin(πx). -/
def execVsin (a : LaneArgs) (s : State) : Out :=
  lane1 a noTag (fun s x => floatLanes a.ty.toNat (sfuElement 0x085 a.ty.toNat (fmtFZ s.fmtc)) x) s

/-- R206, R207: cos(πx). -/
def execVcos (a : LaneArgs) (s : State) : Out :=
  lane1 a noTag (fun s x => floatLanes a.ty.toNat (sfuElement 0x086 a.ty.toNat (fmtFZ s.fmtc)) x) s

/-- R206, R207: tanh x. -/
def execVtanh (a : LaneArgs) (s : State) : Out :=
  lane1 a noTag (fun s x => floatLanes a.ty.toNat (sfuElement 0x087 a.ty.toNat (fmtFZ s.fmtc)) x) s

/-- R206, R207: √x, correctly rounded. -/
def execVsqrt (a : LaneArgs) (s : State) : Out :=
  lane1 a noTag (fun s x => floatLanes a.ty.toNat (sqrtElement a.ty.toNat (s.rnd a) (fmtFZ s.fmtc)) x) s

end Sys2Proof.Machine
end

