-- ==== Sys2Proof/Machine/Convert.lean ====
section
/-! DEFINITION. Conversion, quantisation, rotation, tags and microscaled arithmetic of lanes (05_formats.md R164 to R184). -/

namespace Sys2Proof.Machine

/-! ### Fields (R169) -/

/-- CODE. -/
def cvCode (a : LaneArgs) : Nat := a.imm.toNat % 32
/-- R. -/
def cvR (a : LaneArgs) : Bool := a.mods.getLsbD 0
/-- RND. -/
def cvRnd (a : LaneArgs) : Nat := a.mods.toNat / 4 % 8

/-- SAT: the modifier or fmt.SAT (R151). -/
def State.cvSat (s : State) (a : LaneArgs) : Bool := a.mods.getLsbD 1 || fmtSAT s.fmtc

/-- The instruction rounds stochastically (R150, R169): by its modifier, or by fmt where it admits it. -/
def State.cvStoch (s : State) (a : LaneArgs) : Bool := cvRnd a == 5 || (cvRnd a == 0 && fmtSRE s.fmtc)

/-- The deterministic rounding. -/
def State.cvRm (s : State) (a : LaneArgs) : Rm := rmOfRnd s.fmtc (cvRnd a)

/-- The roundings of the `n` destination elements of a lane, in order (R154). -/
def State.roundings (s : State) (a : LaneArgs) (stoch : Bool) (n L : Nat) : List Rm :=
  if stoch then (draws n (Sparse.get s.w.gens L)).map Rm.sr else List.replicate n (s.cvRm a)

/-- The generators of the active lanes advanced by `n` draws (R154). -/
def State.drawn (s : State) (stoch : Bool) (act : Word32) (n : Nat) : State :=
  if stoch then
    s.onW (fun w => { w with gens := (lanesOf act).foldl (fun g L => Sparse.set g L (drawMany n (Sparse.get g L))) w.gens })
  else s

/-- The seed register an instruction names (R169). -/
def State.seedNo (s : State) (a : LaneArgs) : Nat :=
  if a.imm.getLsbD 11 then bits a.imm.toNat 10 8 else fmtSEED s.fmtc

/-- Its contents: S with BS at bit 64 (R163). -/
def State.seed (s : State) (a : LaneArgs) : BitVec 65 := Sparse.get s.w.z (s.seedNo a)
/-- S. -/
def seedS (z : BitVec 65) : BitVec 64 := z.setWidth 64
/-- The rotation block's size. -/
def seedN (z : BitVec 65) : Nat := if z.getLsbD 64 then 64 else 32
/-- The seed's tag. -/
def seedTagOf (z : BitVec 65) : BitVec 16 := seedTag (seedS z) (z.getLsbD 64)

/-! ### Runs and blocks (R170) -/

/-- The number of a main-file source. -/
def regNo : Src → Nat
  | .reg n => n.toNat
  | _ => 0

/-- Registers of a run. -/
def runOf (n k : Nat) : List Nat := (List.range k).map (fun i => n + i)

/-- The elements of a run of registers, in order, read in all lanes. -/
def State.runElements (s : State) (n k code : Nat) : List Nat :=
  (runOf n k).flatMap (fun r => (List.range 32).flatMap (fun L =>
    (List.range (epl code)).map (fun p => elementOf (containerBits code) (s.w.rv r L) p)))

/-- The elements of a source of one register, any level, in all lanes. -/
def State.srcElements (s : State) (a : LaneArgs) (x : Src) (code : Nat) : List Nat :=
  (List.range 32).flatMap (fun L => (List.range (epl code)).map (fun p =>
    elementOf (containerBits code) (s.src code a.imm x L) p))

/-- Word of a lane of a register of a result run, from the run's elements. -/
def runWord (code : Nat) (es : List Nat) (r L : Nat) : Word32 :=
  packElements (containerBits code) ((es.drop ((r * 32 + L) * epl code)).take (epl code))

/-- The lanes that hold elements `n·j` to `n·j + n − 1` of a run of a format. -/
def blockLanes (code n j : Nat) : Word32 :=
  maskOf (fun L => (List.range n).any (fun i => decide ((n * j + i) / epl code % 32 = L)))

/-- The blocks of `n` elements of a run of `k` registers are each all active or all inactive (R170). -/
def blocksOk (code k n : Nat) (act : Word32) : Bool :=
  (List.range (32 * epl code * k / n)).all (fun j =>
    let m := blockLanes code n j
    act &&& m == 0 || act &&& m == m)

/-- A block is active. -/
def blockActive (code n j : Nat) (act : Word32) : Bool := act &&& blockLanes code n j == blockLanes code n j

/-- The flags of the elements in active lanes, `n` to a lane (R186). -/
def activeFlags (n : Nat) (act : Word32) (fs : List Sticky) : Sticky :=
  flagsOr (fs.zipIdx.map (fun p => if act.getLsbD (p.2 / n % 32) then p.1 else 0))

/-! ### Completion -/

/-- A result of a run of `k` registers from vd (R162, R170, R76): ROTTAG where a sidecar forbids it; otherwise the
result, and what else the instruction writes. -/
def State.runResult (s : State) (a : LaneArgs) (act : Word32) (k code : Nat) (tag : BitVec 16) (f : Nat → Nat → Word32)
    (scales : Option (BitVec 64 × BitVec 64)) (flags : Sticky) (fin : State → State) : State :=
  let d := a.vd.toNat
  if !a.w && act != 0 && !(runOf d k).all (fun n => s.sideOk n act tag) then s.trapL 0x08 0 0 act false
  else
    let s := if a.w || act = 0 then s
      else (List.range k).foldl (fun s r => (s.setV (d + r) act (f r)).sideWrite (d + r) act code tag scales) s
    (((fin s).latchWrite act (f 0)).orFlags flags).laneNext true

/-- The start of a conversion: its sources, then its faults in the order of R171, then its effect.  `fmterr` and `tag`
give FMTERR and ROTTAG, which strike the active lanes. -/
def State.convert (s : State) (a : LaneArgs) (latch : Bool) (u : LaneUse) (fmterr : State → Word32 → Bool)
    (tag : State → Option (BitVec 16)) (k : State → Word32 → BitVec 16 → State) : State :=
  s.laneBegin a u (fun act =>
    if act = 0 then (if latch then s.latchWrite 0 (fun _ => 0) else s).laneNext latch
    else if fmterr s act then s.trapL 0x09 0 0 act false
    else match tag s with
      | none => s.trapL 0x08 0 0 act false
      | some t => k s act t)

/-- The registers a result run needs. -/
def dstRun (a : LaneArgs) (k : Nat) : List Nat := if a.w then [] else runOf a.vd.toNat k

/-- A value into a format, with flushing (R150 to R153). -/
def valueInto (tgt : Nat) (m : Rm) (sat fz : Bool) (v : Fv) : Nat × Sticky :=
  if isFloatCode tgt then flushResult fz tgt (toFloat tgt m sat v) else toInt tgt m v

/-- The common tag of a run of registers. -/
def State.runTag (s : State) (n k : Nat) : Option (BitVec 16) :=
  let t := sideTag (s.w.rx n)
  if (runOf n k).all (fun r => sideTag (s.w.rx r) == t) then some t else none

/-! ### Rotation blocks -/

/-- Each block of `n` values rotated forward; a block with a NaN or an infinity becomes NaNs, with invalid (R165). -/
def rotateBlocks (s : BitVec 64) (n : Nat) (xs : List Fv) : List (Fv × Sticky) :=
  (chunks n (xs.length / n) xs).flatMap (fun b =>
    if b.any Fv.special then b.map (fun _ => (Fv.nan, flagNV)) else (rotateForward s b).map (fun y => (y, 0)))

/-- Each block of `n` values rotated back; a block with a NaN or an infinity becomes NaNs (R166). -/
def unrotateBlocks (s : BitVec 64) (n : Nat) (ys : List Fv) : List Fv :=
  (chunks n (ys.length / n) ys).flatMap (fun b =>
    if b.any Fv.special then b.map (fun _ => Fv.nan) else rotateInverse s b)

/-- A rotated value into a target: a NaN block of a target without NaN is +0, and invalid is the block's (R165). -/
def rotatedInto (tgt : Nat) (m : Rm) (sat fz : Bool) (v : Fv × Sticky) : Nat × Sticky :=
  let r := valueInto tgt m sat fz v.1
  (r.1, r.2 ||| v.2)

/-! ### VCVT, VCVTN, VCVTW (R175 to R177) -/

/-- R175. -/
def execVcvt (a : LaneArgs) (s : State) : Out :=
  let ty := a.ty.toNat
  let n := epl ty
  .next (s.convert a true { srcs := [a.sa], runs := [], dsts := dstRun a 1 } (fun _ _ => false)
    (fun s => some (s.tagOf a.sa)) (fun s act tag =>
      let st := s.cvStoch a
      let one (L : Nat) : List (Nat × Sticky) :=
        ((s.roundings a st n L).zipIdx).map (fun p =>
          convertElement ty (cvCode a) p.1 (s.cvSat a) (fmtFZ s.fmtc)
            (elementOf (containerBits ty) (s.src ty a.imm a.sa L) p.2))
      let all := (List.range 32).flatMap one
      s.runResult a act 1 (cvCode a) tag (runWord (cvCode a) (all.map (·.1))) none
        (activeFlags n act (all.map (·.2))) (fun s => s.drawn st act n)))

/-- R176. -/
def execVcvtn (a : LaneArgs) (s : State) : Out :=
  let ty := a.ty.toNat
  let c := cvCode a
  let n := epl c
  let k := n / epl ty
  let r0 := regNo a.sa
  .next (s.convert a true { srcs := [], runs := runOf r0 k, dsts := dstRun a 1 }
    (fun s act => cvR a && !blocksOk c 1 (seedN (s.seed a)) act)
    (fun s => if cvR a then (if s.runTag r0 k = some 0 then some (seedTagOf (s.seed a)) else none) else s.runTag r0 k)
    (fun s act tag =>
      let st := s.cvStoch a
      let rms := (List.range 32).flatMap (s.roundings a st n)
      let xs := s.runElements r0 k ty
      let fz := fmtFZ s.fmtc
      let all := if cvR a then
          (rms.zip (rotateBlocks (seedS (s.seed a)) (seedN (s.seed a)) (xs.map (plainValue ty fz)))).map (fun p =>
            rotatedInto c p.1 (s.cvSat a) fz p.2)
        else (rms.zip xs).map (fun p => convertElement ty c p.1 (s.cvSat a) fz p.2)
      s.runResult a act 1 c tag (runWord c (all.map (·.1))) none (activeFlags n act (all.map (·.2)))
        (fun s => s.drawn st act n)))

/-- The tag rule of a widening: plain from an untagged source, inverting with the source's own seed from a tagged one;
the result has tag 0 (R166, R177, R179). -/
def State.widenTag (s : State) (a : LaneArgs) : Option (BitVec 16) :=
  let t := s.tagOf a.sa
  if t = 0 && !cvR a then some 0
  else if t ≠ 0 && cvR a && t = seedTagOf (s.seed a) then some 0
  else none

/-- R177. -/
def execVcvtw (a : LaneArgs) (s : State) : Out :=
  let ty := a.ty.toNat
  let c := cvCode a
  let k := epl ty / epl c
  .next (s.convert a true { srcs := [], runs := [regNo a.sa], dsts := dstRun a k }
    (fun s act => cvR a && !blocksOk c k (seedN (s.seed a)) act) (fun s => s.widenTag a)
    (fun s act tag =>
      let fz := fmtFZ s.fmtc
      let xs := s.runElements (regNo a.sa) 1 ty
      let m := s.cvRm a
      let all := if cvR a then
          (unrotateBlocks (seedS (s.seed a)) (seedN (s.seed a)) (xs.map (plainValue ty fz))).map
            (valueInto c m (s.cvSat a) fz)
        else xs.map (convertElement ty c m (s.cvSat a) fz)
      s.runResult a act k c tag (runWord c (all.map (·.1))) none (activeFlags (epl c) act (all.map (·.2))) id))

/-! ### VQNT (R178) -/

/-- The scale bytes that active blocks of 32 elements cover. -/
def scaleMask (code : Nat) (act : Word32) : BitVec 64 :=
  (List.range (epl code)).foldl (fun m j => if blockActive code 32 j act then m ||| (0xFF#64 <<< (8 * j)) else m) 0

/-- Scale bytes in order. -/
def scaleWord (l : List Nat) : BitVec 64 :=
  l.zipIdx.foldl (fun m p => m ||| (BitVec.ofNat 64 (p.1 % 256) <<< (8 * p.2))) 0

/-- The MX blocks of a list of values quantised one by one: scales, elements, flags of each element's block. -/
def mxBlocks (code : Nat) (rms : List Rm) (vs : List Fv) : List (Nat × List Nat × Sticky) :=
  ((chunks 32 (vs.length / 32) rms).zip (chunks 32 (vs.length / 32) vs)).map (fun p => mxQuantise code p.1 p.2)

/-- The completion of a microscaled result of one register. -/
def State.mxResult (s : State) (a : LaneArgs) (act : Word32) (c : Nat) (tag : BitVec 16)
    (bs : List (Nat × List Nat × Sticky)) (fin : State → State) : State :=
  let flags := flagsOr (bs.zipIdx.map (fun p => if blockActive c 32 p.2 act then p.1.2.2 else 0))
  s.runResult a act 1 c tag (runWord c (bs.flatMap (fun b => b.2.1)))
    (some (scaleWord (bs.map (·.1)), scaleMask c act)) flags fin

/-- The parameter words of an asymmetric result: lane `g` of vd + 1 for each active group, zero from the number of groups
up when some group is active; its sidecar takes n32 and tag 0, and zero SCALES when all 32 lanes are active (R162, R178). -/
def State.qiParams (s : State) (a : LaneArgs) (act : Word32) (c g : Nat) (ps : List Word32) : State :=
  let n := a.vd.toNat + 1
  let live := (List.range ps.length).filter (fun j => blockActive c g j act)
  if live.isEmpty || a.w then s
  else
    let m := maskOf (fun L => live.contains L || decide (ps.length ≤ L))
    let s := s.setV n m (fun L => ps[L]?.getD 0)
    s.setX n (mkSide 1 0 (if act = 0xFFFFFFFF then 0 else sideScales (s.w.rx n)))

/-- R178. -/
def execVqnt (a : LaneArgs) (s : State) : Out :=
  let ty := a.ty.toNat
  let c := cvCode a
  let n := epl c
  let k := n / epl ty
  let r0 := regNo a.sa
  let qi := decide (0x17 ≤ c)
  .next (s.convert a true { srcs := [], runs := runOf r0 k, dsts := dstRun a (if qi then 2 else 1) }
    (fun s act => if qi then !blocksOk c 1 (fmtGroup s.fmtc) act
      else !blocksOk c 1 32 act || (cvR a && !blocksOk c 1 (seedN (s.seed a)) act))
    (fun s => if cvR a then (if s.runTag r0 k = some 0 then some (seedTagOf (s.seed a)) else none) else s.runTag r0 k)
    (fun s act tag =>
      let st := s.cvStoch a
      let rms := (List.range 32).flatMap (s.roundings a st n)
      let fz := fmtFZ s.fmtc
      let xs := (s.runElements r0 k ty).map (plainValue ty fz)
      let draw (s : State) : State := s.drawn st act n
      if qi then
          let g := fmtGroup s.fmtc
          let qs := ((chunks g (xs.length / g) rms).zip (chunks g (xs.length / g) xs)).map (fun p =>
            qiQuantise (if c = 0x17 then 4 else 8) p.1 p.2)
          let flags := flagsOr (qs.zipIdx.map (fun p => if blockActive c g p.2 act then p.1.2.2 else 0))
          s.runResult a act 1 c tag (runWord c (qs.flatMap (fun q => q.2.1))) none flags
            (fun s => draw (s.qiParams a act c g (qs.map (·.1))))
      else
          let ys := if cvR a then (rotateBlocks (seedS (s.seed a)) (seedN (s.seed a)) xs).map (·.1) else xs
          s.mxResult a act c tag (mxBlocks c rms ys) draw))

/-! ### VDQNT (R179) -/

/-- The values of a microscaled register (R156). -/
def State.mxValues (s : State) (n code : Nat) : List Fv :=
  let sc := sideScales (s.w.rx n)
  ((s.runElements n 1 code).zipIdx).map (fun p => mxValue code (bits sc.toNat (8 * (p.2 / 32) + 7) (8 * (p.2 / 32))) p.1)

/-- R179; a tagged parameter register of a qi source traps ROTTAG (DEDUCED from R167, log entry 85). -/
def execVdqnt (a : LaneArgs) (s : State) : Out :=
  let ty := a.ty.toNat
  let c := cvCode a
  let k := epl c / epl ty
  let n := regNo a.sa
  let qi := decide (0x17 ≤ c)
  let u : LaneUse :=
    { srcs := if qi then [a.sb] else [], runs := n :: (if qi then (mainRegOf a.sb).toList else []), dsts := dstRun a k }
  .next (s.convert a true u
    (fun s act => sideCode (s.w.rx n) != c ||
      !blocksOk ty k (if qi then fmtGroup s.fmtc else if cvR a then seedN (s.seed a) else 32) act)
    (fun s => if qi && (s.tagOf a.sb != 0 || s.tagOf a.sa != 0) then none else s.widenTag a)
    (fun s act tag =>
      let vs := if qi then
          (s.runElements n 1 c).zipIdx.map (fun p => qiValue (s.src 1 a.imm a.sb (p.2 / fmtGroup s.fmtc)) p.1)
        else if cvR a then unrotateBlocks (seedS (s.seed a)) (seedN (s.seed a)) (s.mxValues n c)
        else s.mxValues n c
      let all := vs.map (valueInto ty (s.cvRm a) (s.cvSat a) (fmtFZ s.fmtc))
      s.runResult a act k ty tag (runWord ty (all.map (·.1))) none (activeFlags (epl ty) act (all.map (·.2))) id))

/-! ### VROT, VIROT (R180) -/

/-- The length of the runs of VROT and VIROT. -/
def State.rotRun (s : State) (a : LaneArgs) : Nat := if a.ty = 8 ∧ seedN (s.seed a) = 64 then 2 else 1

/-- Rotation forward or back in one format (R180). -/
def rotateInstr (inv : Bool) (a : LaneArgs) (s : State) : Out :=
  let ty := a.ty.toNat
  let k := s.rotRun a
  let n := regNo a.sa
  .next (s.convert a true { srcs := [], runs := runOf n k, dsts := runOf a.vd.toNat k }
    (fun s act => !blocksOk ty k (seedN (s.seed a)) act)
    (fun s =>
      let t := seedTagOf (s.seed a)
      if inv then (if s.runTag n k = some t then some 0 else none) else (if s.runTag n k = some 0 then some t else none))
    (fun s act tag =>
      let fz := fmtFZ s.fmtc
      let xs := (s.runElements n k ty).map (plainValue ty fz)
      let z := s.seed a
      let ys := if inv then (unrotateBlocks (seedS z) (seedN z) xs).map (fun v => (v, 0))
        else rotateBlocks (seedS z) (seedN z) xs
      let all := ys.map (rotatedInto ty (s.cvRm a) (fmtSAT s.fmtc) fz)
      s.runResult a act k ty tag (runWord ty (all.map (·.1))) none (activeFlags (epl ty) act (all.map (·.2))) id))

/-- R180. -/
def execVrot (a : LaneArgs) (s : State) : Out := rotateInstr false a s
/-- R180. -/
def execVirot (a : LaneArgs) (s : State) : Out := rotateInstr true a s

/-! ### VSCL (R181) -/

/-- The exponent: a small immediate, or bits 31:0 of a constant, signed. -/
def State.sclK (s : State) (a : LaneArgs) : Int :=
  match a.sb with
  | .small v => v.toInt
  | .konst n => ((s.w.rk n.toNat).setWidth 32).toInt
  | _ => 0

/-- An exponent beyond every format's range acts as one just beyond it. -/
def sclClamp (k : Int) : Int := max (-2000) (min 2000 k)

/-- A block scale plus an exponent (R181): the scale, whether the elements become zero, the flags. -/
def sclScale (c : Nat) (k : Int) : Nat × Bool × Sticky :=
  if c = 0xFF then (0xFF, false, 0)
  else
    let t : Int := c + k
    if 0xFE < t then (0xFF, false, flagOF) else if t < 0 then (0, true, flagUF) else (t.toNat, false, 0)

/-- R181; with CODE ≠ 0 the words of a six-bit format are copied whole, bits 7:6 of their containers with them (DEDUCED, log entry
86). -/
def execVscl (a : LaneArgs) (s : State) : Out :=
  let c := cvCode a
  .next (s.convert a true { srcs := [a.sa], runs := [], dsts := dstRun a 1 }
    (fun s act => c != 0 && (sideCode (s.w.rx (regNo a.sa)) != c || !blocksOk c 1 32 act))
    (fun s => some (s.tagOf a.sa))
    (fun s act tag =>
      let k := s.sclK a
      if c = 0 then
        let ty := a.ty.toNat
        let fz := fmtFZ s.fmtc
        let all := (s.srcElements a a.sa ty).map (fun x =>
          valueInto ty (s.cvRm a) (s.cvSat a) fz ((plainValue ty fz x).scale (sclClamp k)))
        s.runResult a act 1 ty tag (runWord ty (all.map (·.1))) none (activeFlags (epl ty) act (all.map (·.2))) id
      else
        let sc := sideScales (s.w.rx (regNo a.sa))
        let bs := (List.range (epl c)).map (fun j => sclScale (bits sc.toNat (8 * j + 7) (8 * j)) k)
        let zeroed (L : Nat) : Bool := (List.range (epl c)).any (fun j =>
          (blockLanes c 32 j).getLsbD L && (bs[j]?.getD (0, false, 0)).2.1)
        let flags := flagsOr (bs.zipIdx.map (fun p => if blockActive c 32 p.2 act then p.1.2.2 else 0))
        s.runResult a act 1 c tag (fun _ L => if zeroed L then 0 else s.src 1 a.imm a.sa L)
          (some (scaleWord (bs.map (·.1)), scaleMask c act)) flags id))

/-! ### VTAG (R182) -/

/-- A sidecar with another tag. -/
def withTag (x : BitVec 128) (t : BitVec 16) : BitVec 128 := mkSide (sideCode x) t (sideScales x)

/-- The tag of a register replaced when some lane is active; no latch is written. -/
def tagWrite (a : LaneArgs) (t : State → BitVec 16) (s : State) : Out :=
  .next (s.laneBegin a { srcs := [], runs := [], dsts := [a.vd.toNat] } (fun act =>
    (if act = 0 then s else s.setX a.vd.toNat (withTag (s.w.rx a.vd.toNat) (t s))).laneNext false))

/-- R182: the seed's tag. -/
def execVtagSet (a : LaneArgs) (s : State) : Out := tagWrite a (fun s => seedTagOf (s.seed a)) s
/-- R182: no tag. -/
def execVtagClr (a : LaneArgs) (s : State) : Out := tagWrite a (fun _ => 0) s

/-- R182: the tag of a register, into the scalar window. -/
def execVtagGet (a : LaneArgs) (s : State) : Out :=
  .next (s.laneBegin a { srcs := [], runs := [regNo a.sa], dsts := [] } (fun act =>
    (if act = 0 then s else s.setS (48 + (a.vd.setWidth 6)) ((s.tagOf a.sa).setWidth 64)).laneNext false))

/-- R182: the fragment's format register, field by field (R160). -/
def execVtagFmt (a : LaneArgs) (s : State) : Out :=
  .next (s.laneBegin a { srcs := [], runs := [], dsts := [] } (fun _ =>
    (s.setEntry { s.entry with fmtc := writeFmt s.entry.fmtc a.imm }).laneNext false))

/-! ### VMXADD, VMXSCL (R183, R184) -/

/-- R183; an element sum that is zero is −0 where both elements are −0, else +0, in every rounding mode (DESIGN CHOICE, log entry
98). -/
def execVmxadd (a : LaneArgs) (s : State) : Out :=
  let c := cvCode a
  let n := epl c
  let ra := regNo a.sa
  let rb := regNo a.sb
  .next (s.convert a true { srcs := [], runs := [ra, rb], dsts := dstRun a 1 }
    (fun s act => sideCode (s.w.rx ra) != c || sideCode (s.w.rx rb) != c || !blocksOk c 1 32 act)
    (fun s => s.linearTag [a.sa, a.sb])
    (fun s act tag =>
      let st := s.cvStoch a
      let rms := (List.range 32).flatMap (s.roundings a st n)
      let sums := ((s.mxValues ra c).zip (s.mxValues rb c)).map (fun p => (fAdd false p.1 p.2).1)
      s.mxResult a act c tag (mxBlocks c rms sums) (fun s => s.drawn st act n)))

/-- R184, GET: scale bytes into lanes. -/
def execVmxsclGet (a : LaneArgs) (s : State) : Out :=
  .next (s.convert a true { srcs := [], runs := [regNo a.sa], dsts := dstRun a 1 } (fun _ _ => false)
    (fun _ => some 0) (fun s act tag =>
      let sc := sideScales (s.w.rx (regNo a.sa))
      s.runResult a act 1 1 tag (fun _ L => if L < 8 then BitVec.ofNat 32 (bits sc.toNat (8 * L + 7) (8 * L)) else 0)
        none 0 id))

/-- R184, PUT: FMTCODE, and lane words into scale bytes of the blocks whose lanes are all active.  The bytes above a format's blocks
keep their values, and a main-file source waits for the pending writes of all its lanes, which are read whatever the predicate
(DESIGN CHOICE, log entry 87). -/
def execVmxsclPut (a : LaneArgs) (s : State) : Out :=
  let c := cvCode a
  let d := a.vd.toNat
  .next (s.laneBegin a { srcs := [a.sa], runs := (mainRegOf a.sa).toList, dsts := [d] } (fun act =>
    if !blocksOk c 1 32 act then s.trapL 0x09 0 0 act false
    else
      let x := s.w.rx d
      let m := scaleMask c act
      let v := scaleWord ((List.range (epl c)).map (fun j => (s.src 1 a.imm a.sa j).toNat % 256))
      (s.setX d (mkSide c (sideTag x) ((sideScales x &&& ~~~m) ||| (v &&& m)))).laneNext false))

end Sys2Proof.Machine
end

