-- ==== Sys2Proof/Machine/Returns.lean ====
section
/-! DEFINITION. Returns and forks: where a return lands (03_contexts.md R87 to R89, R116), the forks of engine commands
and launches (10_visibility.md R326, R327), and the events' common questions. -/

namespace Sys2Proof.Machine

/-! ### The slot of a return (R87, R88) -/

/-- A pool holds a frame. -/
def Pool.holds (p : Pool) (asid : BitVec 16) (frame : BitVec 64) : Bool :=
  p.asid == asid && decide (p.pbase.toNat ≤ frame.toNat) && decide (frame.toNat < p.pbase.toNat + p.npages * 131072)

/-- The slot of a frame. -/
def Pool.slotOf (p : Pool) (frame : BitVec 64) : Nat := (frame.toNat - p.pbase.toNat) / 65536

/-- A function on the pool slot of a frame. -/
def State.onFrameSlot (s : State) (asid : BitVec 16) (frame : BitVec 64) (f : PoolSlot → PoolSlot) : State :=
  { s with pools := s.pools.map (fun p =>
      if p.holds asid frame then
        match Table.find p.slots (p.slotOf frame) with
        | some x => { p with slots := Table.put p.slots (p.slotOf frame) (f x) }
        | none => p
      else p) }

/-- The wave has a frame. -/
def Wave.hasFrame (w : Wave) (asid : BitVec 16) (frame : BitVec 64) : Bool :=
  w.asid == asid && w.frame == frame && !w.ccp && w.id != 0

/-- A return that a slot counts has arrived (R87). -/
def State.arrived (s : State) (asid : BitVec 16) (frame : BitVec 64) : State :=
  (s.mapWaves (fun w => if w.hasFrame asid frame then { w with pendcnt := w.pendcnt - 1 } else w)).onFrameSlot asid frame
    (fun x => { x with pend := x.pend - 1 })

/-- A return that finds its generation gone is discarded and counted (R88, R89). -/
def State.dropReturn (s : State) (lid : BitVec 32) : State := s.onLaunch lid (fun l => { l with drops := l.drops + 1 })

/-- What a return writes is held: it goes to a frame that cannot be written now (R88, R296, R386). -/
def State.landHeld (s : State) (asid : BitVec 16) (frame : BitVec 64) (gen : BitVec 16) : Bool :=
  s.waves.any (fun w => w.hasFrame asid frame && w.gen == gen && (w.swapped || w.residency == .retired) && s.frameHeld w)

/-- A return lands (R88): in the wave's state where its frame and generation are still the issuer's, with the lines of the main
file that it reaches; in its frame where that is authoritative, or where the wave's launch has ended (R412); nowhere otherwise.
`f` is what it writes, `words` the same in the frame, of the wave before and after, `lines` the lines.  The answer is whether it
landed. -/
def State.land (s : State) (asid : BitVec 16) (frame : BitVec 64) (gen : BitVec 16) (f : Wave → Wave)
    (words : Wave → Wave → List (Nat × Nat × Nat)) (lines : List FrameLine) : Bool × State :=
  let s := s.arrived asid frame
  match s.waves.find? (fun w => w.hasFrame asid frame && w.gen == gen) with
  | none => (false, s)
  | some w =>
    let s := s.mapWaves (fun x => if x.id == w.id then f x else x)
    (true, if w.swapped || w.residency == .retired then s.putFrame (f w) (words w (f w))
      else lines.foldl (fun s x => s.landLine (f w) x) s)

/-! ### Forks (R326, R327) -/

/-- The release of a fork: every earlier access acknowledged, the chords published; the wave's spin marks stay (R101). -/
def State.afterFork (s : State) (k : State → State) : State :=
  if !s.w.lq.isEmpty || !s.quiet then s.stall
  else match publish s s.w with
    | (s, some e) => s.failBack e
    | (s, none) => k (s.onW (fun w => { w with clusterWrites := 0 }))

/-! ### Requests and records -/

/-- Some element satisfies a condition. -/
def State.anyWave (s : State) (f : Wave → Bool) : Bool := s.waves.any f

end Sys2Proof.Machine
end

