-- ==== Sys2Proof/Machine/LaneMem.lean ====
section
/-! DEFINITION. Lane memory instructions: contiguous and per-lane loads and stores (09_memory.md R306 to R309), packed
blocks (R310), stash words, chord rows and prefetch (07_local_store.md R249 to R252). -/

namespace Sys2Proof.Machine

/-! ### Addresses and faults (R249, R306, R307) -/

/-- A base: a lane-block constant, or zero (R306). -/
def State.base (s : State) : Src → Word64
  | .konst n => s.w.rk n.toNat
  | _ => 0

/-- A mask of a list of lanes. -/
def lanesMask (l : List Nat) : Word32 := maskOf (fun L => l.contains L)

/-- ALIGN, then MEMFAULT, each over the lanes it strikes; TRAPADDR of MEMFAULT is the lowest such lane's address. -/
def State.laneFaults (s : State) (lanes : List Nat) (n : Nat) (addr : Nat → Addr) (bad : Nat → Option Addr) :
    Option State :=
  let mis := lanes.filter (fun L => (addr L).toNat % n != 0)
  if !mis.isEmpty then some (s.trapL 0x07 0 0 (lanesMask mis) false)
  else
    let no := lanes.filter (fun L => (bad L).isSome)
    match no with
    | L :: _ => some (s.trapL 0x06 0 ((bad L).getD 0) (lanesMask no) false)
    | [] => none

/-- An access's value as a lane word, or none when it is to land. -/
def laneValue (signed : Bool) (n : Nat) (r : Except AccFail (Option (List Byte) × State)) :
    Except AccFail (Option Word64 × State) :=
  match r with
  | .error e => .error e
  | .ok (b, s) => .ok (b.map (extended signed n), s)

/-- What a fragment's store does to the spin marks of its wave and its own (R101, R113). -/
def State.stored (s : State) : State :=
  (s.setEntry { s.entry with backward := false }).onW (fun w => { w with spinf := false, spinLines := [], spinCount := 0 })

/-! ### Loads -/

/-- The destination part of a lane load: the words that came into vd (a pair with `high`), its sidecar at the first
execution, the latches (R76, R162, R292).  A lane whose value is still to land keeps its word in l0 until then. -/
def State.loadWrites (s s0 : State) (a : LaneArgs) (act : Word32) (l : List (Nat × LaneGot)) (code : Nat) (tag : BitVec 16)
    (high latch : Bool) : State :=
  let d := a.vd.toNat
  let done := gotMask l LaneGot.isDone
  let moved := gotMask l LaneGot.isOk
  let lo (L : Nat) : Word32 := (gotValue l L).setWidth 32
  let hi (L : Nat) : Word32 := (gotValue l L).extractLsb' 32 32
  let first := s0.entry.first && act != 0
  let s := if a.w then s
    else
      let s := s.setV d done lo
      let s := if high then s.setV (d + 1) done hi else s
      if !first then s
      else
        let s := s.sideWrite d act code tag none
        if high then s.sideWrite (d + 1) act code tag none else s
  if latch then s.latchSince s0.seq moved (fun L => if done.getLsbD L then lo L else s0.w.rl 0 L) else s

/-- R162 forbids the result: some lane register of the destination carries another tag than the result's, under a
partial write at its first execution. -/
def State.tagClash (s : State) (a : LaneArgs) (act : Word32) (tag : BitVec 16) (k : Nat) : Bool :=
  !a.w && act != 0 && s.entry.first && !(runOf a.vd.toNat k).all (fun n => s.sideOk n act tag)

/-- EP and LU of a lane load (R298, R299, R306). -/
def loadHint (a : LaneArgs) : Hint := { ep := a.mods.extractLsb' 3 2, lu := a.mods.getLsbD 5 }

/-- The last-use drop of the lines that the lanes of a load have read at their homes, once all are served (R299); `s0` is the
state before it, and `tgts` are the lanes' targets, of `n` bytes each: a plain part of the own frame among them (R71). -/
def State.lastUse (s s0 : State) (n : Nat) (tgts : List Target) : State :=
  let read (va : Nat) : List Nat := if (s0.cachedBytes va 1).isNone then [va] else []
  let vas := tgts.flatMap (fun t => match t with
    | .global va => read va
    | .self off =>
      ((s0.w.frameParts n off n).filter (fun p => !p.2.2)).flatMap (fun p => read (s0.w.frame.toNat + p.1))
    | _ => [])
  vas.foldl (fun t va => match physOf s0 s0.w.asid va with
    | some pa => dropHome t (pa / 128)
    | none => t) s

/-- A lane load of `n` bytes (R307): `addr` and `tgt` give a lane's address and what it reaches.  A tagged address register
is ROTTAG (R167). -/
def State.laneLoad (s : State) (a : LaneArgs) (srcs : List Src) (n : Nat) (signed : Bool) (hint : Hint)
    (addr : State → Nat → Addr) (tgt : State → Addr → Target) : State :=
  s.laneBegin a { srcs := srcs, runs := [], dsts := if a.w then [] else [a.vd.toNat] } (fun act =>
    let lanes := lanesOf act
    let at_ := addr s
    match s.laneFaults lanes n at_ (fun L => if tgt s (at_ L) = .bad then some (at_ L) else none) with
    | some t => t
    | none =>
      if (act != 0 && s.tagged srcs) || s.tagClash a act 0 1 then s.trapL 0x08 0 0 act false
      else
        let dst := if a.w then 256 else a.vd.toNat
        let one (t : State) (L : Nat) : Except AccFail (Option Word64 × State) :=
          laneValue signed n (t.loadT (tgt s (at_ L)) (at_ L) n { hint with lu := hint.lu && s.defer } (.lane dst L n signed)
            (1#32 <<< L))
        let r := eachLane (fun t L => t.firstTouch (tgt s (at_ L)) n) one (fun L => (tgt s (at_ L)).late) lanes s
        if anyWait r.1 then s.stall
        else
          let done := gotMask r.1 LaneGot.isDone
          let t := if hint.lu then r.2.lastUse s n ((lanesOf done).map (fun L => tgt s (at_ L))) else r.2
          (t.loadWrites s a act r.1 a.ty.toNat 0 false true).laneMemEnd r.1 0 true (fun _ => false)) true

/-! ### Stores -/

/-- A store for each lane group: `group` gives the lanes that one write covers, `ep` the eviction priority (R298).  The data of a
store is tag-blind; a tagged register of `adrs`, its address operands, is ROTTAG (R167). -/
def State.laneStore (s : State) (a : LaneArgs) (srcs adrs : List Src) (n : Nat) (ep : BitVec 2) (addr : State → Nat → Addr)
    (tgt : State → Addr → Target) (data : Nat → Word32) (group : Word32 → Nat → List Nat) : State :=
  s.laneBegin a { srcs := srcs, runs := [], dsts := [] } (fun act =>
    let lanes := lanesOf act
    let at_ := addr s
    match s.laneFaults lanes n at_ (fun L => if tgt s (at_ L) = .bad then some (at_ L) else none) with
    | some t => t
    | none =>
      if act != 0 && s.tagged adrs then s.trapL 0x08 0 0 act false
      else
        let one (t : State) (L : Nat) : Except AccFail (Option Word64 × State) :=
          let g := group act L
          match t.storeT (tgt s (at_ L)) (at_ L) (g.flatMap (fun L => toBytes n (data L).toNat)) (lanesMask g) ep with
          | .error e => .error e
          | .ok t => .ok (some 0, t)
        let leads := lanes.filter (fun L => (group act L).head? == some L)
        let r := eachLane (fun t _ => t) one (fun L => (tgt s (at_ L)).late) leads s
        let l := r.1.flatMap (fun p => (group act p.1).map (fun L => (L, p.2)))
        if anyWait l then s.stall
        else
          let t := if l.any (fun p => p.2.isOk) then r.2.stored else r.2
          t.laneMemEnd l 1 false (fun _ => false)) true

/-- A lane alone. -/
def alone (_ : Word32) (L : Nat) : List Nat := [L]

/-! ### VLD, VST (R308) -/

/-- Address of a lane's word: A + 4L. -/
def vldAddr (a : LaneArgs) (s : State) (L : Nat) : Addr := s.base a.sa + a.imm.signExtend 64 + BitVec.ofNat 64 (4 * L)

/-- R308. -/
def execVld (a : LaneArgs) (s : State) : Out :=
  .next (s.laneLoad a [] 4 false (loadHint a) (vldAddr a) State.target)

/-- The 16 lanes of one sector of global memory, all active, are written as one; any other lane alone (R303, log entry
5).  What they write to one line is one packet on its way (R388). -/
def sectorGroup (s : State) (a : LaneArgs) (act : Word32) (L : Nat) : List Nat :=
  let sec (L : Nat) : Nat := (vldAddr a s L).toNat / 64
  let g := (lanesOf act).filter (fun K => sec K == sec L)
  let global := match s.target (vldAddr a s L) with
    | .global _ => true
    | _ => false
  if global && g.length == 16 then g else [L]

/-- R308. -/
def execVst (a : LaneArgs) (s : State) : Out :=
  .next (s.laneStore a [a.sb] [] 4 (a.mods.extractLsb' 3 2) (vldAddr a) State.target (fun L => s.src 0 a.imm a.sb L) (sectorGroup s a))

/-! ### VGTH, VSCT (R309) -/

/-- Size and sign of an SZ of a load: 0 word, 1 and 2 half, 3 and 4 byte. -/
def loadSize (sz : Nat) : Nat × Bool :=
  match sz with
  | 0 => (4, false)
  | 1 => (2, false)
  | 2 => (2, true)
  | 3 => (1, false)
  | _ => (1, true)

/-- Size of an SZ of a store. -/
def storeSize (sz : Nat) : Nat := if sz = 0 then 4 else if sz = 1 then 2 else 1

/-- Address of a lane: base, the lane's offset, a 32-bit integer, and the displacement. -/
def vgthAddr (a : LaneArgs) (s : State) (L : Nat) : Addr :=
  s.base a.sb + (s.src 0 a.imm a.sa L).signExtend 64 + a.imm.signExtend 64

/-- R309. -/
def execVgth (a : LaneArgs) (s : State) : Out :=
  let z := loadSize (a.mods.toNat % 8)
  .next (s.laneLoad a [a.sa] z.1 z.2 (loadHint a) (vgthAddr a) State.target)

/-- R309. -/
def execVsct (a : LaneArgs) (s : State) : Out :=
  .next (s.laneStore a [a.sa, a.sc] [a.sa] (storeSize (a.mods.toNat % 4)) (a.mods.extractLsb' 3 2) (vgthAddr a) State.target
    (fun L => s.src 0 a.imm a.sc L) alone)

/-! ### VLDS, VSTS (R250) -/

/-- The stash word of a lane, as TRAPADDR holds it. -/
def stashWord (a : LaneArgs) (s : State) (L : Nat) : Addr := (s.src 0 a.imm a.sa L + a.imm).setWidth 64

/-- R250. -/
def execVlds (a : LaneArgs) (s : State) : Out :=
  let z := loadSize (a.mods.toNat % 8)
  .next (s.laneLoad a [a.sa] z.1 z.2 .normal (stashWord a) (fun s w => s.stashTarget w.toNat (a.mods.getLsbD 3)))

/-- R250. -/
def execVsts (a : LaneArgs) (s : State) : Out :=
  .next (s.laneStore a [a.sa, a.sb] [] (storeSize (a.mods.toNat % 4)) 1 (stashWord a)
    (fun s w => s.stashTarget w.toNat (a.mods.getLsbD 2)) (fun L => s.src 0 a.imm a.sb L) alone)

/-! ### Chord rows (R251) -/

/-- The chord offset of a row. -/
def rowOffset (a : LaneArgs) (s : State) : Nat :=
  ((a.imm &&& 0xFFFFFF80#32) + (s.base a.sa).setWidth 32).toNat

/-- The chord of a row: its number is imm32 bits 4:0, on the wave's ORIGIN core. -/
def rowChord (a : LaneArgs) (s : State) : Option Chord := (s.core s.w.origin.toNat).chord s.w.lid (a.imm.toNat % 32)

/-- The companion of an MX chord: live, with FMT e8m0 (R229). -/
def companion (s : State) (c : Chord) : Option Chord :=
  match (s.core s.w.origin.toNat).chord s.w.lid c.sch with
  | some d => if d.fmt = 0x10 then some d else none
  | none => none

/-- A format that a row cannot use: i64, n64, e8m0, or MX without its companion. -/
def rowFormatBad (s : State) (c : Chord) : Bool :=
  c.fmt == 0x10 || c.fmt == 0x19 || c.fmt == 0x1A || (c.mx && (companion s c).isNone)

/-- The stash offset of scale byte `j` of a row. -/
def scaleOffset (d : Chord) (c : Chord) (o j : Nat) : Nat := d.soff + o * (epl c.fmt / 4) / 32 + j

/-- The blocks of a row's register whose lanes meet a mask. -/
def blocksOf (code : Nat) (m : Word32) : List Nat := (List.range (epl code)).filter (fun j => m &&& blockLanes code 32 j != 0)

/-- The block of a lane. -/
def blockOf (code L : Nat) : Nat := L / (32 / epl code)

/-- The checks of a chord row up to FMTERR (R249), then its effect. -/
def State.row (s : State) (a : LaneArgs) (u : LaneUse) (k : Word32 → Chord → Nat → State) (latch : Bool) : State :=
  s.laneBegin a u (fun act =>
    let o := rowOffset a s
    let mem := s.trapL 0x06 0 (BitVec.ofNat 64 o) act false
    if act = 0 then (if latch then s.latchWrite 0 (fun _ => 0) else s).laneNext latch
    else if o % 128 ≠ 0 then s.trapL 0x07 0 0 act false
    else match rowChord a s with
      | none => mem
      | some c =>
        if c.len < o + 128 then mem
        else if c.mx && ((companion s c).any (fun d =>
            (blocksOf c.fmt act).any (fun j => decide ((s.stash s.w.lid).2 ≤ scaleOffset d c o j)))) then mem
        else if rowFormatBad s c || (c.mx && !blocksOk c.fmt 1 32 act) then s.trapL 0x09 0 0 act false
        else k act c o)

/-- R251: a row's words, with its blocks' scales in bits 39:32 of a lane's value.  A replay of faulted lanes writes the scale bytes
of the blocks it loads (DEDUCED from R251 beside R162, log entry 88). -/
def execVldc (a : LaneArgs) (s : State) : Out :=
  .next (s.row a { srcs := [], runs := [], dsts := if a.w then [] else [a.vd.toNat] } (fun act c o =>
    if s.tagClash a act c.tag 1 then s.trapL 0x08 0 0 act false
    else
      let g := s.w.origin.toNat
      let one (t : State) (L : Nat) : Except AccFail (Option Word64 × State) :=
        if t.earlyStash g (c.soff + o + 4 * L) 4 then .error .wait
        else match stashRead (t.markStash g (c.soff + o + 4 * L)) g s.w.lid s.w.asid (c.soff + o + 4 * L) 4 with
        | .error e => .error e
        | .ok (b, t) =>
          match (if c.mx then companion s c else none) with
          | none => .ok (some (word64 b), t)
          | some d =>
            match stashRead t g s.w.lid s.w.asid (scaleOffset d c o (blockOf c.fmt L)) 1 with
            | .error e => .error e
            | .ok (x, t) => .ok (some (word64 (b ++ x)), t)
      let r := eachLane (fun t L => t.firstTouch (.stash g (c.soff + o + 4 * L) false) 4) one (fun _ => false) (lanesOf act) s
      if anyWait r.1 then s.stall
      else
        let t := r.2.loadWrites s a act r.1 c.fmt c.tag false true
        let done := gotMask r.1 LaneGot.isDone
        let t := if a.w || !c.mx then t
          else (blocksOf c.fmt done).foldl (fun t j =>
            let L := ((lanesOf done).find? (fun L => blockOf c.fmt L == j)).getD 0
            let old := t.w.rx a.vd.toNat
            let sc := (sideScales old &&& ~~~(0xFF#64 <<< (8 * j)))
              ||| (((gotValue r.1 L).extractLsb' 32 8).setWidth 64 <<< (8 * j))
            t.setX a.vd.toNat (mkSide (sideCode old) (sideTag old) sc)) t
        t.laneMemEnd r.1 4 true (fun _ => false)) true)

/-- R251: a row stored, its format and tag checked, with its blocks' scales to the companion. -/
def execVstsRow (a : LaneArgs) (s : State) : Out :=
  .next (s.row a { srcs := [a.sb], runs := [], dsts := [] } (fun act c o =>
    let x := s.w.rx (regNo a.sb)
    if sideCode x ≠ c.fmt then s.trapL 0x09 0 0 act false
    else if sideTag x ≠ c.tag then s.trapL 0x08 0 0 act false
    else
      let g := s.w.origin.toNat
      let path := s.w.core.toNat != g
      let scales : List (Nat × Byte) := match (if c.mx then companion s c else none) with
        | none => []
        | some d => (blocksOf c.fmt act).map (fun j => (scaleOffset d c o j, (sideScales x).extractLsb' (8 * j) 8))
      if stashBusy s g s.w.lid (c.soff + o) 128 path || scales.any (fun p => stashBusy s g s.w.lid p.1 1 path)
          || s.earlyStash g (c.soff + o) 128 then s.stall
      else
        let t := (lanesOf act).foldl (fun t L =>
          stashWrite t g s.w.lid (c.soff + o + 4 * L) (toBytes 4 (s.w.rv (regNo a.sb) L).toNat)) s
        let t := scales.foldl (fun t p => stashWrite t g s.w.lid p.1 [p.2]) t
        (t.viaCluster g path).stored.laneNext false) false)

/-! ### VPFT (R252) -/

/-- A fill of a stash line starts, unless the line is wholly VALID or filling; what fails in it leaves no record. -/
def startFill (s : State) (g off : Nat) : State :=
  let c := s.core g
  let line := ((s.stash s.w.lid).1 + off) / 128
  if (c.covers s.w.lid off).isNone || Sparse.get c.valid line == BitVec.allOnes 128 || c.filling.contains (s.w.lid, line) then s
  else s.setCore g { c with filling := c.filling ++ [(s.w.lid, line)], prefetched := c.prefetched ++ [(s.w.lid, line)] }

/-- One lane's prefetch. -/
def prefetch (s : State) (a : Addr) : State :=
  let stash : Target → State
    | .stash g off _ => startFill s g off
    | _ => s
  match decodeAddr (s.pbase s.w) a with
  | .global va =>
    let line := va / 128 * 128
    if s.overtakes line 128 then
      match (captureTouch s s.w.lid line).settle line .read with
      | .error _ => s
      | .ok ((pa, k), t) => t.send { t.blankRequest with
          kind := .load .normal, addr := BitVec.ofNat 64 line, pa := pa, key := k, size := 128, latch := 4 }
    else match coreRead s s.w.core.toNat s.w.lid s.w.asid line 128 s.w.tp s.w.td .normal with
    | .ok (_, t) => t
    | .error _ => s
  | .cluster word => stash (s.stashTarget word true)
  | .local off => stash (s.stashTarget off false)
  | _ => s

/-- R252; a tagged address operand is ROTTAG (R167). -/
def execVpft (a : LaneArgs) (s : State) : Out :=
  .next (s.laneBegin a { srcs := [a.sa], runs := [], dsts := [] } (fun act =>
    if act != 0 && s.tagged [a.sa] then s.trapL 0x08 0 0 act false
    else ((lanesOf act).foldl (fun t L =>
      prefetch t ((s.src 0 a.imm a.sa L).signExtend 64 + a.imm.signExtend 64)) s).laneNext false))

/-! ### Packed blocks (R293, R310) -/

/-- FMT of VLDB and VSTB. -/
def blockFmt (a : LaneArgs) : Nat := a.mods.toNat % 32

/-- BB: bytes of a block's packed image. -/
def blockBytes (code : Nat) : Nat := 4 * elementBits code

/-- The lanes of a block. -/
def lanesOfBlock (code b : Nat) : List Nat := (List.range (32 / epl code)).map (fun i => 32 / epl code * b + i)

/-- The data address of a block. -/
def blockAddr (a : LaneArgs) (s : State) (b : Nat) : Addr :=
  s.base a.sa + a.imm.signExtend 64 + BitVec.ofNat 64 (b * blockBytes (blockFmt a))

/-- The parts of a block in their order: data split at a line boundary, then the scale byte (R293). -/
def blockParts (a : LaneArgs) (s : State) (b : Nat) : List (Addr × Nat) :=
  let at_ := blockAddr a s b
  let n := blockBytes (blockFmt a)
  let m := min n (128 - at_.toNat % 128)
  [(at_, m)] ++ (if m < n then [(at_ + BitVec.ofNat 64 m, n - m)] else [])
    ++ (if isMxCode (blockFmt a) then [(s.base a.sb + BitVec.ofNat 64 b, 1)] else [])

/-- A block's image unpacked: its containers as one number (R145). -/
def unpackBlock (code x : Nat) : Nat :=
  if elementBits code = 6 then (List.range 32).foldl (fun m i => m + x / 2 ^ (6 * i) % 64 * 2 ^ (8 * i)) 0 else x

/-- Containers packed into a block's image (R145). -/
def packBlock (code x : Nat) : Nat :=
  if elementBits code = 6 then (List.range 32).foldl (fun m i => m + x / 2 ^ (8 * i) % 64 * 2 ^ (6 * i)) 0 else x

/-- Why a part of a block fails: its place in R293's order, the failure, and whether it is found late. -/
abbrev PartFail := Nat × AccFail × Bool

/-- Every part of a block translated for an access, and the stash bytes that it reads filled, in the order of R293. -/
def checkParts (acc : Acc) : Nat → List (Addr × Nat) → State → Except PartFail State
  | _, [], s => .ok s
  | i, (x, n) :: l, s =>
    match s.target x with
    | .global va =>
      match s.settle va acc with
      | .error e => .error (i, e.at x, true)
      | .ok (_, s) => checkParts acc (i + 1) l s
    | .stash g off p =>
      if acc = .read then
        match s.loadT (.stash g off p) x n .normal .none 0 with
        | .error e => .error (i, e, false)
        | .ok (_, s) => checkParts acc (i + 1) l s
      else checkParts acc (i + 1) l s
    | _ => checkParts acc (i + 1) l s

/-- The bytes of a block's parts, read at once. -/
def readParts : Nat → List (Addr × Nat) → State → Except PartFail (List Byte × State)
  | _, [], s => .ok ([], s)
  | i, (x, n) :: l, s =>
    let t := s.target x
    match s.loadT t x n .normal .none 0 with
    | .error e => .error (i, e, t.late)
    | .ok (b, s) =>
      match readParts (i + 1) l s with
      | .error e => .error e
      | .ok (bs, s) => .ok (b.getD [] ++ bs, s)

/-- The bytes of a block's parts written. -/
def writeParts (bytes : List Byte) (lanes : Word32) : Nat → List (Addr × Nat) → State → Except PartFail State
  | _, [], s => .ok s
  | i, (x, n) :: l, s =>
    let t := s.target x
    match s.storeT t x (bytes.take n) lanes with
    | .error e => .error (i, e, t.late)
    | .ok s => writeParts (bytes.drop n) lanes (i + 1) l s

/-- One block of VLDB: its containers and its scale byte; nothing moves when a part fails. -/
def loadBlock (a : LaneArgs) (s t : State) (b : Nat) : Except PartFail ((Nat × Nat) × State) :=
  let parts := blockParts a s b
  match checkParts .read 0 parts t with
  | .error e => .error e
  | .ok t =>
    match readParts 0 parts t with
    | .error e => .error e
    | .ok (bytes, t) =>
      let n := blockBytes (blockFmt a)
      .ok ((unpackBlock (blockFmt a) (ofBytes (bytes.take n)), ofBytes (bytes.drop n)), t)

/-- One block of VSTB. -/
def storeBlock (a : LaneArgs) (s t : State) (b : Nat) : Except PartFail State :=
  let parts := blockParts a s b
  let code := blockFmt a
  let r := regNo a.sc
  match checkParts .write 0 parts t with
  | .error e => .error e
  | .ok t =>
    let ls := lanesOfBlock code b
    let word := ls.foldr (fun L x => (s.w.rv r L).toNat + 2 ^ 32 * x) 0
    let bytes := toBytes (blockBytes code) (packBlock code word) ++ [(sideScales (s.w.rx r)).extractLsb' (8 * b) 8]
    writeParts bytes (lanesMask ls) 0 parts t

/-- The active blocks one after another: what each lane got, and which failures are of a second part.  `prep` gives what the
parts of a block up to the failing one have done all the same (R232). -/
def eachBlock (code : Nat) (prep : State → Nat → Nat → State) (f : State → Nat → Except PartFail ((Nat × Nat) × State)) :
    List Nat → State → List (Nat × LaneGot) × List Nat × State
  | [], s => ([], [], s)
  | b :: l, s =>
    let ls := lanesOfBlock code b
    match f s b with
    | .error (i, e, late) =>
      let r := eachBlock code prep f l (prep s b i)
      (ls.map (fun L => (L, .failed e late)) ++ r.1, if i = 0 then r.2.1 else ls ++ r.2.1, r.2.2)
    | .ok ((x, sc), s) =>
      let r := eachBlock code prep f l s
      ((ls.zipIdx.map (fun p => (p.1, .done (BitVec.ofNat 64 (x / 2 ^ (32 * p.2) % 2 ^ 32 + sc * 2 ^ 32))))) ++ r.1,
        r.2.1, r.2.2)

/-- The checks of a packed-block instruction up to FMTERR (R307, R310), then its effect on the active blocks. -/
def State.packed (s : State) (a : LaneArgs) (u : LaneUse) (fmterr : Bool) (k : Word32 → List Nat → State) : State :=
  s.laneBegin a u (fun act =>
    let code := blockFmt a
    let bad (L : Nat) : Option Addr :=
      (blockParts a s (blockOf code L)).findSome? (fun p => if s.target p.1 = .bad then some p.1 else none)
    match s.laneFaults (lanesOf act) 4 (fun _ => blockAddr a s 0) bad with
    | some t => t
    | none =>
      if act ≠ 0 && (fmterr || !blocksOk code 1 32 act) then s.trapL 0x09 0 0 act false
      else k act ((List.range (epl code)).filter (fun b => blockActive code 32 b act)))

/-- R310.  A replay of faulted blocks writes the scale bytes that it loads, as R310's worked example does (log entry 88). -/
def execVldb (a : LaneArgs) (s : State) : Out :=
  .next (s.packed a { srcs := [], runs := [], dsts := [a.vd.toNat] } false (fun act blocks =>
    if s.tagClash a act 0 1 then s.trapL 0x08 0 0 act false
    else
      let code := blockFmt a
      let touch (t : State) (b i : Nat) : State :=
        ((blockParts a s b).take (i + 1)).foldl (fun t p => t.firstTouch (s.target p.1) p.2) t
      let r := eachBlock code touch (loadBlock a s) blocks { s with defer := false }
      if anyWait r.1 then s.stall
      else
        let t := ({ r.2.2 with defer := s.defer } : State).loadWrites s a act r.1 code 0 false false
        let done := gotMask r.1 LaneGot.isDone
        let t := if !isMxCode code then t
          else (blocks.filter (fun b => blockActive code 32 b done)).foldl (fun t b =>
            let old := t.w.rx a.vd.toNat
            let sc := (sideScales old &&& ~~~(0xFF#64 <<< (8 * b)))
              ||| (((gotValue r.1 (32 / epl code * b)).extractLsb' 32 8).setWidth 64 <<< (8 * b))
            t.setX a.vd.toNat (mkSide (sideCode old) (sideTag old) sc)) t
        t.laneMemEnd r.1 0 false (fun L => r.2.1.contains L)))

/-- R310. -/
def execVstb (a : LaneArgs) (s : State) : Out :=
  .next (s.packed a { srcs := [a.sc], runs := [], dsts := [] } (sideCode (s.w.rx (regNo a.sc)) != blockFmt a)
    (fun _ blocks =>
      let code := blockFmt a
      let one (t : State) (b : Nat) : Except PartFail ((Nat × Nat) × State) :=
        match storeBlock a s t b with
        | .error e => .error e
        | .ok t => .ok ((0, 0), t)
      let r := eachBlock code (fun t _ _ => t) one blocks { s with defer := false }
      if anyWait r.1 then s.stall
      else
        let t : State := { r.2.2 with defer := s.defer }
        let t := if r.1.any (fun p => p.2.isOk) then t.stored else t
        t.laneMemEnd r.1 1 false (fun L => r.2.1.contains L)))

end Sys2Proof.Machine
end

