-- ==== Sys2Proof/Machine/Atomics.lean ====
section
/-! DEFINITION. Atomics: the operations, the place of each lane (10_visibility.md R329 to R334), VATOM and VATOMR (R339). -/

namespace Sys2Proof.Machine

/-! ### Operations (R339) -/

/-- A number of `n` bytes, signed. -/
def signedOf (n x : Nat) : Int := if x < 2 ^ (8 * n - 1) then x else (x : Int) - 2 ^ (8 * n)

/-- MIN and MAX: signed for i32, unsigned for n32, R204 for the floating formats. -/
def atomicMinMax (isMax : Bool) (ty n old data : Nat) : Nat :=
  if 8 ≤ ty then
    (floatLanes2 ty (fun x y => (fMinMax isMax ty false x y, 0)) (BitVec.ofNat 32 old) (BitVec.ofNat 32 data)).1.toNat
  else
    let less := if ty = 0 then decide (signedOf n old < signedOf n data) else decide (old < data)
    if less == isMax then data else old

/-- What an atomic writes, none where it writes nothing: OP in bits 3:0 of the modifiers. -/
def atomicOp (mods ty n old data cmp : Nat) : Option Nat :=
  match mods % 16 with
  | 0 =>
    some (if 8 ≤ ty then
        (floatLanes2 ty (faddElement ty .rne false) (BitVec.ofNat 32 old) (BitVec.ofNat 32 data)).1.toNat
      else (old + data) % 2 ^ (8 * n))
  | 1 => some (atomicMinMax false ty n old data)
  | 2 => some (atomicMinMax true ty n old data)
  | 3 => some (old &&& data)
  | 4 => some (old ||| data)
  | 5 => some (old ^^^ data)
  | 6 => some data
  | 7 => if old = cmp then some data else none
  | _ => none

/-! ### Places (R329, R330) -/

/-- The owner of a registered block that serves an atomic at its stash bank: a core of the issuer's cluster, at scope
wave, blk or clu. -/
def bankOwner (s : State) (g pa scope : Nat) : Option Owner :=
  match Table.find s.directory (pa / 512) with
  | some o => if o.core.toNat / 192 = g / 192 ∧ scope ≤ 2 then some o else none
  | none => none

/-- The bytes of an atomic at the stash bank of a registered block, which the owner's chords map onto it, are VALID: those that are not
are filled first, and a fault of the fill is the atomic's (R232). -/
def bankReady (s : State) (o : Owner) (asid : BitVec 16) (pa n : Nat) : Except AccFail State :=
  let g := o.core.toNat
  let a := o.addr + pa % 512
  let ok (s : State) : Bool := (List.range n).all (fun i => maskBit (s.core g).valid (a + i))
  let ch := (s.core g).chords.find? (fun x =>
    let b := (s.stash x.1.1).1
    s.holdsLine g x.1.1 (a / 128) && decide (b + x.2.soff ≤ a) && decide (a < b + x.2.soff + x.2.len))
  if !(List.range n).all (fun i => o.cover.getLsbD (pa % 512 + i)) then .error .wait
  else if ok s then .ok s
  else match ch with
    | none => .error .wait
    | some x =>
      let b := (s.stash x.1.1).1
      let t := fillLine s g x.1.1 asid b (a / 128)
      match (List.range n).find? (fun i => !maskBit (t.core g).valid (a + i)) with
      | none => .ok t
      | some i => .error (fillFault t g x.1.1 asid b (a + i))

/-- An atomic at the stash bank of a registered block: what it writes is PUB, DIRTY stays. -/
def atomicBank (s : State) (o : Owner) (asid : BitVec 16) (va pa n : Nat) (f : Nat → Option Nat) :
    Except AccFail (Nat × State) :=
  let g := o.core.toNat
  let a := o.addr + pa % 512
  match bankReady s o asid pa n with
  | .error e => .error e
  | .ok s =>
    let old := ofBytes (Sparse.getList (s.core g).store a n)
    match f old with
    | none => .ok (old, s)
    | some x =>
      let c := s.core g
      let pub := (List.range n).foldl (fun p i => setBit p (a + i) true) c.pub
      .ok (old, wakeWrite (s.setCore g { c with store := Sparse.setList c.store a (toBytes n x), pub := pub }) asid va pa n)

/-- An atomic on local HBM at its home's atomic unit: the block is recalled first, a move lock holds it, a failing sector
is not written. -/
def atomicLocal (s : State) (asid : BitVec 16) (va pa k n : Nat) (f : Nat → Option Nat) : Except AccFail (Nat × State) :=
  let v := BitVec.ofNat 64 va
  if s.locked pa n || s.recallHeld pa n then .error .wait
  else
    let s := recallBlock s (pa / 512)
    match readLocal s v pa n k with
    | .error e => .error e
    | .ok (b, s) =>
      match f (ofBytes b) with
      | none => .ok (ofBytes b, s)
      | some x =>
        match writeLocal s v pa k (toBytes n x) with
        | .error e => .error e
        | .ok s => .ok (ofBytes b, wakeWrite s asid va pa n)

/-- An atomic at the home atomic unit of its address: local HBM, another package's memory, host memory. -/
def atomicHome (s : State) (asid : BitVec 16) (va pa k n : Nat) (f : Nat → Option Nat) : Except AccFail (Nat × State) :=
  let h := homeDie va
  let v := BitVec.ofNat 64 va
  let plain (s : State) : Except AccFail (Nat × State) :=
    let old := ofBytes ((List.range n).map (fun i => Sparse.get s.mem (pa + i)))
    match f old with
    | none => .ok (old, s)
    | some x =>
      match serveWrite s h asid va pa k (toBytes n x) with
      | .error e => .error e
      | .ok s => .ok (old, s)
  if isLocal pa then atomicLocal s asid va pa k n f
  else if isPackage pa then
    match s.remote h pa with
    | .error => .error (.page (.walk 0) v (BitVec.ofNat 64 pa))
    | .here lpa lk w => if w then atomicLocal s asid va lpa lk n f else .error (.page (.walk 0) v (BitVec.ofNat 64 pa))
    | .away w => if w then plain s else .error (.page (.walk 0) v (BitVec.ofNat 64 pa))
    | .silent => .error (.link v true)
    | .lost => .error (.link v false)
  else if !s.pathUp h 0 then .error (.link v false)
  else plain s

/-- An atomic performed at the place of R329, from its translation, for a wave of the cluster of core `g` (R311).  One that was
`sent` has settled, and is performed at the home where its bank cannot be filled any more (log entry 55). -/
def atomicAt (s : State) (sent : Bool) (g scope : Nat) (asid : BitVec 16) (va pa k n : Nat) (f : Nat → Option Nat) :
    Except AccFail (Nat × State) :=
  match bankOwner s g pa scope with
  | some o =>
    match atomicBank s o asid va pa n f with
    | .error .wait => atomicHome s asid va pa k n f
    | .error (.page c v p) => if sent then atomicHome s asid va pa k n f else .error (.page c v p)
    | r => r
  | none => atomicHome s asid va pa k n f

/-! ### VATOM, VATOMR (R339) -/

/-- Bytes of an atomic. -/
def atomBytes (a : LaneArgs) : Nat := if a.mods.getLsbD 4 then 8 else 4

/-- SCOPE. -/
def atomScope (a : LaneArgs) : Nat := bits a.imm.toNat 26 24

/-- Address of a lane. -/
def atomAddr (a : LaneArgs) (s : State) (L : Nat) : Addr :=
  s.base a.sb + (s.src 0 a.imm a.sa L).signExtend 64 + (a.imm.truncate 24 : BitVec 24).signExtend 64

/-- A pair of registers, or one source, in a lane. -/
def pairWord (a : LaneArgs) (s : State) (x : Src) (L : Nat) : Nat :=
  let lo := (s.src a.ty.toNat a.imm x L).toNat
  if a.mods.getLsbD 4 then lo + 2 ^ 32 * (s.w.rv (regNo x + 1) L).toNat else lo

/-- The data of a lane; LOAD has none. -/
def atomData (a : LaneArgs) (s : State) (L : Nat) : Nat := if a.mods.toNat % 16 = 8 then 0 else pairWord a s a.sc L

/-- The compare value of a lane. -/
def atomCmp (a : LaneArgs) (s : State) (L : Nat) : Nat := pairWord a s (.reg a.vd) L

/-- The sources of an atomic and the registers it needs. -/
def atomUse (a : LaneArgs) (returns : Bool) : LaneUse :=
  let pair (n : Nat) : List Nat := if a.mods.getLsbD 4 then [n, n + 1] else [n]
  let high (x : Src) : List Src := if a.mods.getLsbD 4 then [x, .reg (BitVec.ofNat 8 (regNo x + 1))] else [x]
  let op := a.mods.toNat % 16
  { srcs := [a.sa] ++ (if op = 8 then [] else high a.sc) ++ (if op = 7 then high (.reg a.vd) else [])
    runs := []
    dsts := (if returns && !a.w then pair a.vd.toNat else [])
      ++ (if op ≠ 8 && a.mods.getLsbD 4 then pair (regNo a.sc) else []) }

/-- A lane's place among the windows: a stash bank, global memory, or MEMFAULT (R329). -/
def atomTarget (s : State) (x : Addr) : Target :=
  match decodeAddr (s.pbase s.w) x with
  | .global va => .global va
  | .cluster word => s.stashTarget word true
  | .local off => s.stashTarget off false
  | _ => .bad

/-- A lane whose atomic goes to the stash bank of a registered owner (R329): it is performed while the instruction waits, so that a
fault on a fill is the lane's (R232). -/
def State.atBank (s : State) (a : LaneArgs) (x : Addr) : Bool :=
  match atomTarget s x with
  | .global va => ((physOf s s.w.asid va).bind (fun pa => bankOwner s s.w.origin.toNat pa (atomScope a))).isSome
  | _ => false

/-- The fill that an atomic waits for before it has settled has ended (R477). -/
def bankSettled (s : State) (g scope : Nat) (asid : BitVec 16) (pa n : Nat) : Except AccFail State :=
  match bankOwner s g pa scope with
  | none => .ok s
  | some o =>
    match bankReady s o asid pa n with
    | .error .wait => .ok s
    | r => r

/-- One lane performed, or sent with `defer`: the old value, or none when it is to come. -/
def atomLane (a : LaneArgs) (returns defer : Bool) (s t : State) (L : Nat) : Except AccFail (Option Word64 × State) :=
  let n := atomBytes a
  let x := atomAddr a s L
  let data := atomData a s L
  let cmp := if a.mods.toNat % 16 = 7 then atomCmp a s L else 0
  let f (old : Nat) : Option Nat := atomicOp a.mods.toNat a.ty.toNat n old data cmp
  match atomTarget s x with
  | .stash g off path =>
    let t := if returns then t.markStash g off else t
    if t.earlyStash g off n then .error .wait
    else match stashRead t g s.w.lid s.w.asid off n with
    | .error e => .error e
    | .ok (b, t) =>
      match f (ofBytes b) with
      | none => .ok (some (word64 b), t)
      | some y =>
        if stashBusy t g s.w.lid off n path then .error .wait
        else .ok (some (word64 b), (stashWrite t g s.w.lid off (toBytes n y)).viaCluster g path)
  | .global va =>
    let t := if returns then t.markLine va else t
    if !defer && t.overtakes va n then .error .wait
    else
      match (captureTouch t s.w.lid va).settle va .write with
      | .error e => .error (e.at x)
      | .ok ((pa, k), t) =>
        let t := dropLine t s.w.core.toNat s.w.asid va
        if defer then
          match bankSettled t s.w.origin.toNat (atomScope a) s.w.asid pa n with
          | .error e => .error (e.at x)
          | .ok t => .ok (none, t.send { t.blankRequest with
            kind := .atomic a.mods returns
            dest := if returns then .lane (if a.w then 256 else a.vd.toNat) L n false else .none
            addr := BitVec.ofNat 64 va, pa := pa, key := k, size := n, data := BitVec.ofNat 1024 data
            cmp := BitVec.ofNat 64 cmp, type := a.ty, scope := BitVec.ofNat 3 (atomScope a), lanes := 1#32 <<< L
            latch := if returns then 0 else 4 })
        else
          match atomicAt t false s.w.origin.toNat (atomScope a) s.w.asid va pa k n f with
          | .error e => .error (e.at x)
          | .ok (old, t) => .ok (some (BitVec.ofNat 64 old), t)
  | _ => .error (.mem x)

/-- R339: lowest lane first; every source is read before a lane is performed. -/
def State.atomics (s : State) (a : LaneArgs) (returns : Bool) : State :=
  s.laneBegin a (atomUse a returns) (fun act =>
    let lanes := lanesOf act
    let at_ := atomAddr a s
    let regs := if a.mods.getLsbD 4 then 2 else 1
    match s.laneFaults lanes (atomBytes a) at_ (fun L => if atomTarget s (at_ L) = .bad then some (at_ L) else none) with
    | some t => t
    | none =>
      if act ≠ 0 && (s.tagged (atomUse a returns).srcs || (returns && s.tagClash a act 0 regs)) then s.trapL 0x08 0 0 act false
      else
        -- a lane at a stash bank is performed while the instruction waits, and its other lanes with it, in their order (R333)
        let defer := s.defer && lanes.all (fun L => (atomTarget s (at_ L)).isGlobal && !s.atBank a (at_ L))
        let r := eachLane (fun t L => t.firstTouch (atomTarget s (at_ L)) (atomBytes a)) (atomLane a returns defer s) (fun L => (atomTarget s (at_ L)).late) lanes s
        if anyWait r.1 then s.stall
        else
          let t := if returns then r.2.loadWrites s a act r.1 a.ty.toNat 0 (a.mods.getLsbD 4) true else r.2
          t.laneMemEnd r.1 2 returns (fun _ => false)) true

/-- R339. -/
def execVatom (a : LaneArgs) (s : State) : Out := .next (s.atomics a false)

/-- R339. -/
def execVatomr (a : LaneArgs) (s : State) : Out := .next (s.atomics a true)

end Sys2Proof.Machine
end

