-- ==== Sys2Proof/Machine/Copy.lean ====
section
/-! DEFINITION. Copy descriptors, completion slots and the running checksum (11_engines.md R343 to R356), and the issue of
copy commands (R361). -/

namespace Sys2Proof.Machine

/-! ### Completion slots (R354) -/

/-- STATE of a slot. -/
def slotState (x : BitVec 128) : Nat := bits x.toNat 31 30
/-- CODE of a slot. -/
def slotCode (x : BitVec 128) : Nat := bits x.toNat 7 0
/-- ENGID of a slot. -/
def slotEng (x : BitVec 128) : Nat := bits x.toNat 47 40
/-- SEQ of a slot. -/
def slotSeq (x : BitVec 128) : BitVec 16 := x.extractLsb' 48 16
/-- CRC of a slot. -/
def slotCrc (x : BitVec 128) : BitVec 32 := x.extractLsb' 96 32

/-- A slot from its fields. -/
def mkSlot (crc done : BitVec 32) (seq : BitVec 16) (eng state code : Nat) : BitVec 128 :=
  BitVec.ofNat 128 (crc.toNat * 2 ^ 96 + done.toNat * 2 ^ 64 + seq.toNat * 2 ^ 48 + (eng % 256) * 2 ^ 40
    + (state % 4) * 2 ^ 30 + code % 256)

/-- A slot as a command takes it: STATE 1 and its ENGID; the other fields stay (R355). -/
def takeSlot (x : BitVec 128) (eng : Nat) : BitVec 128 :=
  (x &&& ~~~(BitVec.ofNat 128 (255 * 2 ^ 40 + 3 * 2 ^ 30))) ||| BitVec.ofNat 128 ((eng % 256) * 2 ^ 40 + 2 ^ 30)

/-- The completion slot of a wave. -/
def Wave.cslot (w : Wave) (n : Nat) : BitVec 128 := Sparse.get w.slots n

/-! ### Descriptors (R343) -/

/-- `n` bytes of a descriptor, unsigned. -/
def dU (d : BitVec 512) (off n : Nat) : Nat := d.toNat / 2 ^ (8 * off) % 2 ^ (8 * n)

/-- Four bytes of a descriptor, signed. -/
def dI (d : BitVec 512) (off : Nat) : Int :=
  let x := dU d off 4
  if x < 2 ^ 31 then x else (x : Int) - 2 ^ 32

/-- SRC. -/
def dSrc (d : BitVec 512) : Nat := dU d 0 8
/-- DST. -/
def dDst (d : BitVec 512) : Nat := dU d 8 8
/-- Nk. -/
def dN (d : BitVec 512) (k : Nat) : Nat :=
  match k with
  | 0 => dU d 0x10 4
  | 1 => dU d 0x14 2
  | _ => dU d 0x16 2
/-- OPW. -/
def dOpw (d : BitVec 512) : Nat := dU d 0x28 4
/-- EXP. -/
def dExp (d : BitVec 512) : BitVec 32 := d.extractLsb' (8 * 0x2C) 32
/-- INJ. -/
def dInj (d : BitVec 512) : Nat := dU d 0x30 4
/-- CTL. -/
def dCtl (d : BitVec 512) : Nat := dU d 0x34 4
/-- EVQ of CTL. -/
def dEvq (d : BitVec 512) : Bool := dCtl d / 2048 % 2 == 1
/-- LAST of CTL. -/
def dLast (d : BitVec 512) : Bool := dCtl d / 1024 % 2 == 1
/-- INJ of CTL. -/
def dInjOn (d : BitVec 512) : Bool := dCtl d / 512 % 2 == 1
/-- LU of CTL. -/
def dLu (d : BitVec 512) : Bool := dCtl d / 256 % 2 == 1
/-- EP of CTL. -/
def dEp (d : BitVec 512) : BitVec 2 := BitVec.ofNat 2 (dCtl d / 64)

/-- The kinds of copy: 0 CPY, 1 CPYT, 2 CPYR, 3 CPYC. -/
abbrev CopyKind := BitVec 2

/-- NT of a CPYT's OPW. -/
def dNt (d : BitVec 512) : Nat := dOpw d / 65536
/-- ES of a CPYT's OPW, in bytes. -/
def dEs (d : BitVec 512) : Nat := 2 ^ (dOpw d % 4)
/-- PERM of a CPYT's OPW: P[i] (R348). -/
def dPerm (d : BitVec 512) (i : Nat) : Nat :=
  let p := match dOpw d / 4 % 8 with
    | 0 => [0, 1, 2]
    | 1 => [1, 0, 2]
    | 2 => [0, 2, 1]
    | 3 => [2, 1, 0]
    | 4 => [1, 2, 0]
    | _ => [2, 0, 1]
  p[i]?.getD 0
/-- The element size of a CPYR. -/
def redSize (d : BitVec 512) : Nat := if dOpw d % 4 = 0 then 4 else 2

/-- Bytes of one row, tile or command's axes: N0·N1·N2. -/
def dProduct (d : BitVec 512) : Nat := dN d 0 * dN d 1 * dN d 2

/-- Bytes of a CPYT's tile. -/
def tileBytes (d : BitVec 512) : Nat := dProduct d * dEs d

/-- Bytes moved in all. -/
def dTotal (kind : CopyKind) (d : BitVec 512) : Nat := if kind = 1 then dNt d * tileBytes d else dProduct d

/-- The strides that a command uses, by R347: source axes 1 and 2, destination axes 1 and 2, tiles. -/
def usedStrides (kind : CopyKind) (d : BitVec 512) : List Int :=
  let ax (i : Nat) : Nat := if kind = 1 then dPerm d i else i
  (if dN d 1 = 1 then [] else [dI d 0x18]) ++ (if dN d 2 = 1 then [] else [dI d 0x1C])
    ++ (if dN d (ax 1) = 1 then [] else [dI d 0x20]) ++ (if dN d (ax 2) = 1 then [] else [dI d 0x24])
    ++ (if kind = 1 && dNt d != 1 then [dI d 0x38, dI d 0x3C] else [])

/-- The lowest and the highest offset that `n` steps of a stride reach. -/
def reach (n : Nat) (stride : Int) : Int × Int :=
  if n ≤ 1 then (0, 0) else (min 0 ((n - 1 : Nat) * stride), max 0 ((n - 1 : Nat) * stride))

/-- The extent of one tile, or of a whole CPY, CPYR or CPYC, relative to its base: the lowest byte and the byte after
the highest. -/
def spanOf (kind : CopyKind) (d : BitVec 512) (dst : Bool) : Int × Int :=
  let ax (i : Nat) : Nat := if kind = 1 && dst then dPerm d i else i
  let e := if kind = 1 then dEs d else 1
  let a := reach (dN d (ax 1)) (dI d (if dst then 0x20 else 0x18))
  let b := reach (dN d (ax 2)) (dI d (if dst then 0x24 else 0x1C))
  (a.1 + b.1, a.2 + b.2 + (dN d (ax 0) * e : Nat))

/-- The extent of a command's source or destination (R346), as generic addresses. -/
def extentOf (kind : CopyKind) (d : BitVec 512) (dst : Bool) : Int × Int :=
  let s := spanOf kind d dst
  let base : Int := if dst then dDst d else dSrc d
  let t := if kind = 1 then reach (dNt d) (dI d (if dst then 0x3C else 0x38)) else (0, 0)
  (base + s.1 + t.1, base + s.2 + t.2)

/-- An extent lies wholly in the global window or in the pool-frame window (R346). -/
def extentOk (e : Int × Int) : Bool :=
  (decide (0 ≤ e.1) && decide (e.2 ≤ 2 ^ 56))
    || (decide (0xFFFFFF8000000000 ≤ e.1) && decide (e.2 ≤ 0xFFFFFF8100000000))

/-- The kind word of OPW is valid, with the alignments stated under the kind (R348, R349). -/
def kindOk (kind : CopyKind) (d : BitVec 512) : Bool :=
  let w := dOpw d
  let aligned (n : Nat) : Bool :=
    dSrc d % n == 0 && dDst d % n == 0 && (usedStrides kind d).all (fun x => x % (n : Int) == 0)
  if kind = 1 then
    w / 32 % 2048 == 0 && decide (w / 4 % 8 < 6) && decide (0 < dNt d) && decide (tileBytes d ≤ 65536)
      && aligned (dEs d)
  else
    dU d 0x38 4 == 0 && dU d 0x3C 4 == 0
      && (if kind = 2 then decide (w < 2) && dN d 0 % redSize d == 0 && aligned (redSize d) else w == 0)

/-- SLOT of a control register (R344). -/
def cSlot (c : Word64) : Nat := bits c.toNat 3 0
/-- ENG of a control register. -/
def cEng (c : Word64) : Nat := bits c.toNat 9 4
/-- PREV of a control register. -/
def cPrev (c : Word64) : Nat := bits c.toNat 16 13
/-- PV of a control register. -/
def cPv (c : Word64) : Bool := c.getLsbD 17
/-- NB of a control register. -/
def cNb (c : Word64) : Bool := c.getLsbD 18
/-- TRAPF of a control register. -/
def cTrapf (c : Word64) : Bool := c.getLsbD 19

/-- Issue status 2 or 4 of a descriptor and a control register, 0 where both are valid (R346). -/
def copyStatus (kind : CopyKind) (d : BitVec 512) (c : Word64) : Nat :=
  let ctl := dCtl d
  let good := decide (c.toNat < 2 ^ 20) && bits c.toNat 12 10 == 0 && ctl / 2 ^ 20 == 0 && ctl % 64 == 0
    && decide (0 < dProduct d) && kindOk kind d && decide (dTotal kind d < 2 ^ 32)
    && (kind == 3 || (!dLast d && !dInjOn d && !cPv c))
    && (dExp d == 0 || dLast d) && (dInj d == 0 || dInjOn d) && (!dInjOn d || decide (dInj d < 8 * dTotal kind d))
    && (cPrev c == 0 || cPv c)
  if !good then 2
  else if extentOk (extentOf kind d false) && extentOk (extentOf kind d true) then 0 else 4

/-! ### Issue (R361) -/

/-- The global address of a generic address in the global or the pool-frame window (R283). -/
def globalOf (pbase : BitVec 64) (a : Nat) : Nat :=
  if a < 2 ^ 56 then a else (pbase.toNat + a % 2 ^ 32) % 2 ^ 56

/-- The queue of an engine. -/
def State.engine (s : State) (e : Nat) : List EngineCmd := Table.getD s.engines e []

/-- The queue of an engine replaced. -/
def State.setEngine (s : State) (e : Nat) (q : List EngineCmd) : State :=
  { s with engines := if q.isEmpty then Table.erase s.engines e else Table.put s.engines e q }

/-- The engine that a command goes to (R340). -/
def copyEngine (s : State) (d : BitVec 512) (c : Word64) : Nat :=
  if cPv c then slotEng (s.w.cslot (cPrev c))
  else 64 * homeDie (globalOf (s.pbase s.w) (dDst d)) + cEng c

/-- The command that occupies a slot of the wave. -/
def State.occupant (s : State) (n : Nat) : Option EngineCmd :=
  (s.engine (slotEng (s.w.cslot n))).find? (fun q =>
    q.asid == s.w.asid && q.frame == s.w.frame && q.gen == s.w.gen && !q.returned && bits q.ctl.toNat 3 0 == n)

/-- The command takes its slot and its queue entry (R355, R361). -/
def State.enqueueCopy (s : State) (kind : CopyKind) (d : BitVec 512) (c : Word64) (e : Nat) : State :=
  let prev := s.w.cslot (cPrev c)
  let chained := kind == 3 && cPv c
  let busy := chained && slotState prev == 1
  let old := s.w.cslot (cSlot c)
  let q : EngineCmd :=
    { kind := kind, desc := d, ctl := c,
      seed := if chained then (if busy then none else some (slotCrc prev)) else some 0xFFFFFFFF,
      seq := s.seq + 1, pred := if busy then ((s.occupant (cPrev c)).map (·.seq)).getD 0 else 0,
      cancel := chained && !busy && slotCode prev != 0, wave := s.w.id, frame := s.w.frame, gen := s.w.gen,
      lid := s.w.lid, asid := s.w.asid, pbase := s.pbase s.w, core := s.w.origin, waveid := s.w.waveid,
      slotSeq := slotSeq old + 1, started := false, pos := 0, crc := 0, stalled := false, outcome := none, returned := false }
  let s := { s with seq := s.seq + 1 }.setEngine e (s.engine e ++ [q])
  let bit : BitVec 16 := 1#16 <<< cSlot c
  let s := s.onW (fun w => { w with
    slots := Sparse.set w.slots (cSlot c) (takeSlot old e)
    slotTrapf := if cTrapf c then w.slotTrapf ||| bit else w.slotTrapf &&& ~~~bit })
  s.expect

/-- The descriptor of a copy instruction: as it was read before a stall of the instruction, or loaded (R361). -/
def State.copyDesc (s : State) (a : Addr) : Except AccFail (BitVec 512 × State) :=
  match s.w.progress with
  | some (.copy x) => .ok (x, s)
  | _ => match s.loadNow a 64 with
    | .error e => .error e
    | .ok (img, s) => .ok (BitVec.ofNat 512 (ofBytes img), s)

/-- The issue of a copy command of a kind (R361): on a CCP it is ILLOP.  An entry is free once its slot return has been sent
(R341). -/
def copyIssue (kind : CopyKind) (d a b : BitVec 6) (s : State) : Out :=
  .next (if s.w.ccp then s.trapS 0x01 0 0 false
    else s.scalar [a, b] [d] (fun s =>
      let c := s.rs b
      if !s.w.lq.isEmpty then s.stall
      else if (s.rs a).toNat % 64 ≠ 0 then s.retS d 2 4
      else match s.copyDesc (s.rs a) with
        | .error e => s.failS 0 e
        | .ok (x, s) =>
          let keep (s : State) : State := s.onW (fun w => { w with progress := some (.copy x) })
          let s := s.onW (fun w => { w with progress := none })
          let st := copyStatus kind x c
          if st ≠ 0 then s.retS d (BitVec.ofNat 64 st) 4
          else if cPv c && slotState (s.w.cslot (cPrev c)) == 0 then s.retS d 2 4
          else if slotState (s.w.cslot (cSlot c)) = 1 then (if cNb c then s.retS d 3 4 else (keep s).stall)
          else
            let e := copyEngine s x c
            if 64 ≤ ((s.engine e).filter (fun q => !q.returned)).length then (if cNb c then s.retS d 1 4 else (keep s).stall)
            else if !s.quiet then (keep s).stall
            else s.afterFork (fun s => (s.enqueueCopy kind x c e).retS d 0 4)))

/-- R361, R347. -/
def execCpy (d a b : BitVec 6) (s : State) : Out := copyIssue 0 d a b s
/-- R361, R348. -/
def execCpyt (d a b : BitVec 6) (s : State) : Out := copyIssue 1 d a b s
/-- R361, R349. -/
def execCpyr (d a b : BitVec 6) (s : State) : Out := copyIssue 2 d a b s
/-- R361, R351. -/
def execCpyc (d a b : BitVec 6) (s : State) : Out := copyIssue 3 d a b s

/-! ### Observation (R362, R358) -/

/-- The slots of a mask in a list of STATEs. -/
def slotsWhere (w : Wave) (m : BitVec 16) (f : BitVec 128 → Bool) : BitVec 16 :=
  (List.range 16).foldl (fun a n => if m.getLsbD n && f (w.cslot n) then a ||| (1#16 <<< n) else a) 0

/-- The wait of EWAIT is over (R362). -/
def Wave.slotsReady (w : Wave) (m : BitVec 16) (any : Bool) : Bool :=
  if any then m == 0 || slotsWhere w m (fun x => slotState x != 1) != 0
  else slotsWhere w m (fun x => slotState x == 1) == 0

/-- The completions of a mask observed: the acquire, the result, and ENGFAULT (R358, R362). -/
def State.observe (s : State) (d : BitVec 6) (m : BitVec 16) : State :=
  let done := slotsWhere s.w m (fun x => slotState x == 2)
  let bad := slotsWhere s.w done (fun x => slotCode x != 0)
  if done ≠ 0 && !s.readsDone then s.stall
  else
    let pc := s.w.spc
    let s := s.onW (fun w => { w with progress := none })
    let s := if done = 0 then s else s.acquire 5
    let s := s.retS d (BitVec.ofNat 64 (done.toNat + bad.toNat * 65536)) 4
    let trap := slotsWhere s.w (done &&& s.w.slotTrapf) (fun x => decide (3 ≤ slotCode x) && decide (slotCode x ≤ 5))
    match (List.range 16).find? (fun n => trap.getLsbD n) with
    | none => s
    | some n =>
      s.raise { code := 0x14, detail := BitVec.ofNat 24 n, addr := 0, lanes := 0, pc := pc, frag := none, sw := false,
                nr := false, stop := true }

/-- R362. -/
def execEwait (d a : BitVec 6) (s : State) : Out :=
  .next (s.scalar [a] [d] (fun s =>
    let x := s.rs a
    let m : BitVec 16 := x.setWidth 16
    if 2 ^ 17 ≤ x.toNat then s.retS d (BitVec.allOnes 64) 4
    else if s.w.slotsReady m (x.getLsbD 16) then s.observe d m
    else s.block_ (.engine m (x.getLsbD 16))))

/-- R362. -/
def execEpoll (d a : BitVec 6) (s : State) : Out :=
  .next (s.scalar [a] [d] (fun s =>
    let x := s.rs a
    if 2 ^ 17 ≤ x.toNat then s.retS d (BitVec.allOnes 64) 4 else s.observe d (x.setWidth 16)))

end Sys2Proof.Machine
end

