-- ==== Sys2Proof/Machine/Launches.lean ====
section
/-! DEFINITION. Launch records and their checks (12_launch.md R363 to R370), the launch instructions LAUNCH and LJOIN
(R381, R382) and ITEMPUSH (04_issue.md R134). -/

namespace Sys2Proof.Machine

/-! ### Fields of a record (R363) -/

/-- A field of a launch's record. -/
def Launch.f (l : Launch) (off n : Nat) : Nat := recField l.record off n

/-- COMPL. -/
def Launch.compl (l : Launch) : Nat := l.f 0x38 8
/-- POOL. -/
def Launch.poolDesc (l : Launch) : BitVec 64 := BitVec.ofNat 64 (l.f 0x30 8)
/-- CLASS: 0 concurrent, 1 parallel, 2 weakly parallel. -/
def Launch.cls (l : Launch) : Nat := l.f 0x4B 1
/-- PRIO. -/
def Launch.prio (l : Launch) : Nat := l.f 0x4C 1
/-- REGS. -/
def Launch.regs (l : Launch) : Nat := l.f 0x50 2
/-- Blocks of the grid. -/
def Launch.blocks (l : Launch) : Nat := l.f 0x40 4 * l.f 0x44 2 * l.f 0x46 2
/-- CAPTURE. -/
def Launch.capture (l : Launch) : Bool := l.f 0x5B 1 % 2 == 1
/-- The identifiers that a launch waits for. -/
def Launch.deps (l : Launch) : List (BitVec 32) :=
  (List.range (min 4 (l.f 0x53 1))).map (fun i => BitVec.ofNat 32 (l.f (0x60 + 4 * i) 4))

/-- A launch as it stands after its record is read (R365, R381). -/
def Launch.ofRecord (lid : BitVec 32) (record : BitVec 2048) (queue parent : Option Nat) (depth : BitVec 4) (now : Nat) :
    Launch :=
  { lid := lid, record := record, queue := queue, parent := parent, depth := depth, phase := .parsed, status := 0,
    ending := false, joined := false, parsedAt := now, admittedAt := 0, mask := 0, nextBlock := 0, drops := 0, debugger := false,
    stalledAt := none, captured := [], capUsed := 0, capOver := false }

/-! ### Checks (R367) -/

/-- Status 1: every reserved byte and bit zero, every field in its range, every address aligned and global. -/
def recordOk (r : BitVec 2048) (parent : Option (BitVec 16)) : Bool :=
  let f (off n : Nat) : Nat := recField r off n
  let fmt := f 0x54 4
  f 0x5C 4 == 0 && f 0x78 134 == 0 && f 0x5A 1 / 16 == 0 && f 0x5B 1 / 4 == 0 && fmt % 4096 == 0
    && decide (fmt / 2 ^ 27 < 0x1B) && decide (fmt / 2 ^ 22 % 32 < 0x1B) && fmt / 2 ^ 20 % 4 != 3
    && decide (f 0x53 1 ≤ 4) && (List.range 4).all (fun i => decide (i < f 0x53 1) || f (0x60 + 4 * i) 4 == 0)
    && decide (0 < f 0x40 4 * f 0x44 2 * f 0x46 2) && decide (f 0x40 4 * f 0x44 2 * f 0x46 2 ≤ 16777215)
    && decide (1 ≤ f 0x48 2) && decide (f 0x48 2 ≤ 256) && decide (1 ≤ f 0x4A 1) && decide (f 0x4A 1 ≤ 192)
    && decide (f 0x4A 1 ≤ f 0x48 2) && decide (f 0x4B 1 ≤ 2) && decide (f 0x4C 1 ≤ 7) && decide (1 ≤ f 0x50 2)
    && decide (f 0x50 2 ≤ 256) && decide (f 0x52 1 ≤ 32) && decide (1 ≤ f 0x58 2)
    && f 0 8 % 4 == 0 && decide (f 0 8 < 2 ^ 56) && f 0x38 8 % 32 == 0 && decide (f 0x38 8 < 2 ^ 56)
    && f 0x20 8 % 512 == 0 && decide (f 0x20 8 < 2 ^ 56)
    && (f 0x5B 1 % 2 == 0 || f 0x70 8 != 0)
    && (match parent with
      | some a => f 0x58 2 == a.toNat
      | none => true)

/-- COMPL is valid: the completion record can be written (R367). -/
def Launch.complOk (l : Launch) : Bool := decide (l.compl % 32 = 0) && decide (l.compl < 2 ^ 56)

/-- A pool's descriptor read at its home (R85). -/
def readPool (s : State) (asid : BitVec 16) (desc : BitVec 64) : Except AccFail (Pool × State) :=
  if 2 ^ 56 ≤ desc.toNat then .error (.mem desc)
  else match readRange s 0 asid desc.toNat 48 with
    | .error e => .error e
    | .ok (b, s) =>
      let f (off n : Nat) : Nat := ofBytes ((b.drop off).take n)
      .ok ({ asid := asid, desc := desc, pbase := BitVec.ofNat 64 (f 0 8), npages := f 8 4, rbud := BitVec.ofNat 64 (f 0x10 8),
             rres := BitVec.ofNat 64 (f 0x18 8), rused := 0, accsave := BitVec.ofNat 64 (f 0x28 8), slots := [],
             launch := none, reserve := [], taken := [] }, s)

/-- The pool serves the record's class (R85, R367, status 2). -/
def poolOk (l : Launch) (p : Pool) : Bool :=
  decide (p.rbud.toNat ≤ p.rres.toNat) && decide (0 < p.npages) && p.pbase.toNat % 131072 == 0
    && (l.accGran == 0 || p.accsave != 0)
    && (match l.cls with
      | 1 => decide (l.wpb ≤ 2 * p.npages) && decide (l.regs * l.wpb ≤ p.rbud.toNat)
      | 2 => decide (l.regs ≤ p.rbud.toNat)
      | _ => true)

/-- R218's limits (status 3). -/
def partitionOk (l : Launch) : Bool :=
  let a := l.f 0x4D 1
  let b := l.accGran
  let c := l.f 0x4F 1
  decide (4 ≤ a) && decide (b ≤ 8) && decide (1 ≤ c) && decide (c ≤ 4) && decide (a + b + c ≤ 32)
    && decide (32 - (a + b + c) ≤ 27)

/-- The base die under a cluster, none where the package has no such cluster (R18, R20). -/
def clusterDie (map : BitVec 64) (c : Nat) : Option Nat :=
  (List.range 4).find? (fun b => decide (firstD map b ≤ c / 2) && decide (c / 2 < firstD map b + countD map b))

/-- The clusters that HOMEMASK and the partition of the address space allow (R370, R442). -/
def permitted (s : State) (l : Launch) : List Nat :=
  let home := l.f 0x5A 1
  let mask := if l.phase == .parsed then ((Table.find s.fw.asids l.asid.toNat).map (·.clusters)).getD 0 else l.mask
  (List.range 22).filter (fun c => mask.getLsbD c && (match clusterDie s.fw.diemap c with
    | some b => home == 0 || home / 2 ^ b % 2 == 1
    | none => false))

/-- Places per cluster of a launch (R369). -/
def Launch.places (l : Launch) : Nat := 192 / l.stride

/-- A concurrent grid fits the permitted clusters and its pool (R370, status 4). -/
def concurrentOk (s : State) (l : Launch) (p : Pool) : Bool :=
  l.cls != 0 || (decide (l.blocks ≤ (permitted s l).length * l.places) && decide (l.wpb * l.blocks ≤ 2 * p.npages)
    && decide (l.regs * l.wpb * l.blocks ≤ p.rbud.toNat))

/-- A sector that the dispatcher reads or writes for an address space fails its check: the device raises its record (R303). -/
def State.sectorLost (s : State) (asid : BitVec 16) (access : BitVec 4) : AccFail → State
  | .integrity va pa =>
    deliver s 0 { agentRecord 0x04 (integrityAccess s asid va pa access) 1 0x1FFF asid (s.die 0).ptc va 0 0 0 0 .nobody with
      detail := BitVec.ofNat 16 (pa.toNat / 64 % 2), paddr := pa }
  | _ => s

/-- The checks of R367 up to status 5, in order: the status and the pool read. -/
def checkRecord (s : State) (l : Launch) (parent : Option (BitVec 16)) : Except AccFail (Nat × Option Pool × State) :=
  if !recordOk l.record parent then .ok (1, none, s)
  else match readPool s l.asid l.poolDesc with
    | .error (.page f va pa) => .error (.page f va pa)
    | .error .wait => .error .wait
    | .error e => .ok (2, none, s.sectorLost l.asid 0 e)
    | .ok (p, s) =>
      if !poolOk l p then .ok (2, none, s)
      else if !partitionOk l then .ok (3, none, s)
      else if !concurrentOk s l p then .ok (4, none, s)
      else if ((s.pool l.asid l.poolDesc).map (fun q => q.launch.isSome)).getD false then .ok (5, none, s)
      else .ok (0, some p, s)

/-! ### LAUNCH and LJOIN (R381, R382) -/

/-- A launch record read by the wave's scalar loads, 64 bytes at a time. -/
def loadRecord (s : State) (a : Addr) : Nat → Except AccFail (List Byte × State)
  | 0 => .ok ([], s)
  | n + 1 =>
    match loadRecord s a n with
    | .error e => .error e
    | .ok (b, s) =>
      match s.loadNow (a + BitVec.ofNat 64 (64 * n)) 64 with
      | .error e => .error e
      | .ok (c, s) => .ok (b ++ c, s)

/-- Child grids live in the package (R375). -/
def State.liveChildren (s : State) : Nat :=
  (s.launches.filter (fun l => l.parent.isSome && l.phase != .completed)).length

/-- The result of LAUNCH. -/
def launchResult (st id : Nat) : Word64 := BitVec.ofNat 64 (st * 2 ^ 32 + id)

/-- The child's identifier given out, its launch recorded (R364, R381). -/
def State.startChild (s : State) (r : BitVec 2048) (d : BitVec 6) : State :=
  let lid : BitVec 32 := 1#1 ++ s.children
  let l := Launch.ofRecord lid r none (some s.w.id) (s.w.depth + 1) s.now
  ({ s with launches := s.launches ++ [l], children := s.children + 1 } : State).retS d (launchResult 0 lid.toNat) 4

/-- R381; while the pool's descriptor page is not mapped the wave is parked, and a fatal fault there is status 2 (R367). -/
def execLaunch (d a : BitVec 6) (s : State) : Out :=
  .next (s.scalar [a] [d] (fun s =>
    if s.w.widx ≠ 0 then s.retS d (launchResult 10 0) 4
    else if s.w.depth = 10 then s.trapS 0x10 0 0 false
    else if !s.w.lq.isEmpty then s.stall
    else if (s.rs a).toNat % 256 ≠ 0 then s.retS d (launchResult 1 0) 4
    else match loadRecord s (s.rs a) 4 with
      | .error e => s.failS 0 e
      | .ok (b, s) =>
        let r : BitVec 2048 := BitVec.ofNat 2048 (ofBytes b)
        s.afterFork (fun s =>
          match checkRecord s (Launch.ofRecord 0 r none none 0 0) (some s.w.asid) with
          | .error (.page f va pa) =>
            s.park .page ((waveRecord s s.w 0x02 0 1 va s.w.spc (.pool s.w.id d)).ofClass f pa)
          | .error e => s.failS 0 e
          | .ok (st, _, s) =>
            if st ≠ 0 then s.retS d (launchResult st 0) 4
            else if 4096 ≤ s.liveChildren then s.retS d (launchResult 9 0) 4
            else s.startChild r d)))

/-- The wave's children. -/
def State.childrenOf (s : State) (id : Nat) : List Launch := s.launches.filter (fun l => l.parent == some id)

/-- The launches that LJOIN names have completed (R364, R382). -/
def State.joinReady (s : State) (id : Nat) (h : BitVec 64) : Bool :=
  if h = 0 then (s.childrenOf id).all (fun l => l.phase == .completed)
  else (s.launch (h.setWidth 32)).isNone

/-- The status of a launch as the device keeps it; 0 where it keeps none (R364). -/
def State.statusOf (s : State) (lid : BitVec 32) : BitVec 8 :=
  ((s.statuses.find? (fun p => p.1 == lid)).map (·.2)).getD 0

/-- The join itself: the acquire, the status, and the joined children counted no more. -/
def State.join (s : State) (d : BitVec 6) (h : BitVec 64) : State :=
  if !s.readsDone then s.stall
  else
    let mine := (s.childrenOf s.w.id).filter (fun l => l.phase == .completed)
    let st : Nat := if h = 0 then (mine.map (fun l => l.status.toNat)).foldl max 0
      else (s.statusOf (h.setWidth 32)).toNat
    let gone (l : Launch) : Bool :=
      l.parent == some s.w.id && l.phase == .completed && (h == 0 || l.lid == h.setWidth 32)
    let s := { s with launches := s.launches.filter (fun l => !gone l) }.onW (fun w => { w with progress := none })
    (s.acquire 3).retS d (BitVec.ofNat 64 st) 4

/-- R382. -/
def execLjoin (d a : BitVec 6) (s : State) : Out :=
  .next (s.scalar [a] [d] (fun s =>
    let h := s.rs a
    if 2 ^ 32 ≤ h.toNat then s.retS d (BitVec.allOnes 64) 4
    else if s.joinReady s.w.id h then s.join d h
    else s.block_ (.join h)))

/-! ### ITEMPUSH (R134) -/

/-- Waves of a launch that wait in ITEMNEXT on a core become ready (R140). -/
def wakeItems (s : State) (g : BitVec 13) (lid : BitVec 32) : State :=
  s.mapWaves (fun w => if w.lid == lid && w.origin == g && w.wait == some .item then w.wake else w)

/-- R134. -/
def execItempush (d a b : BitVec 6) (s : State) : Out :=
  .next (s.scalar [a, b] [d] (fun s =>
    let x := s.rs b
    let c := (x.extractLsb' 0 7).toNat
    if 64 < c ∨ 2 ^ 9 ≤ x.toNat ∨ x.getLsbD 7 = true then s.retS d (BitVec.allOnes 64) 4
    else
      let g := s.w.origin.toNat
      let co := s.core g
      let k := min c (64 - (co.items.filter (fun x => co.banked x.1 || x.1 == s.w.lid)).length)
      let new := (List.range k).map (fun j => (s.w.lid, (s.rs a).setWidth 32 + BitVec.ofNat 32 j))
      let open_ := if 0 < k then co.sealed.filter (fun l => l != s.w.lid) else co.sealed
      let shut := x.getLsbD 8 && k == c
      let s := s.setCore g { co with
        items := co.items ++ new,
        sealed := if shut && !open_.contains s.w.lid then open_ ++ [s.w.lid] else open_ }
      let s := if 0 < k then handItems s s.w.origin s.w.lid else s
      let s := if 0 < k || shut then wakeItems s s.w.origin s.w.lid else s
      s.retS d (BitVec.ofNat 64 k) 4))

end Sys2Proof.Machine
end

