-- ==== Sys2Proof/Machine/Requests.lean ====
section
/-! DEFINITION. What becomes of the requests in flight: service at the home (09_memory.md R297, R303, R321, R329),
returns (03_contexts.md R88), time-outs (13_dies_links.md R390); and the directory's, the fills' and the walks' own steps (R231, R235
to R237, R290). -/

namespace Sys2Proof.Machine

/-! ### The requests -/

/-- The request of a number. -/
def State.request (s : State) (k : Nat) : Option Request := s.requests.find? (fun r => r.seq == k)

/-- A request replaced. -/
def State.setRequest (s : State) (r : Request) : State :=
  { s with requests := s.requests.map (fun q => if q.seq == r.seq then r else q) }

/-- A request gone. -/
def State.dropRequest (s : State) (k : Nat) : State := { s with requests := s.requests.filter (fun q => q.seq != k) }

/-- Two requests are of one instruction (R309, R333, R477). -/
def Request.beside (r q : Request) : Bool := q.wave == r.wave && q.gen == r.gen && q.frag == r.frag && q.at_ == r.at_

/-- Two requests travel in one packet: loads, or stores, of one instruction to one line (R388; log entry 89).  Each lane of an
atomic is alone (R333). -/
def Request.packed (r q : Request) : Bool :=
  if q.seq = r.seq then true
  else r.beside q && q.stage == r.stage && q.asid == r.asid && decide (q.addr.toNat / 128 = r.addr.toNat / 128)
    && (match r.kind, q.kind with
      | .load _, .load _ => true
      | .store _, .store _ => true
      | _, _ => false)

/-- A prefetch: a load that brings nothing but its line into the L1 (R252). -/
def Request.prefetch (r : Request) : Bool := r.kind.isLoad && r.dest == .none

/-- Two replies travel in one packet: of loads, or of stores, of one instruction to one line, answered at their home (R388; log
entry 89). -/
def Request.replied (r q : Request) : Bool :=
  let answered (x : Request) : Bool := match x.stage with
    | .answered _ => true
    | _ => false
  answered q && (q.seq == r.seq || ({ r with stage := .sent } : Request).packed { q with stage := .sent })

/-- A request that a request cannot pass: of its core to its home (R321, R386), on some of its wave's bytes (R313), or of a lower
lane of its atomic (R333). -/
def State.ahead (s : State) (r q : Request) : Bool :=
  decide (q.seq < r.seq) && q.unserved && !r.packed q
    && (s.inFront q r.core (homeDie r.addr.toNat)
      || (q.wave == r.wave
        && ((q.asid == r.asid && decide (q.addr.toNat < r.addr.toNat + r.size) && decide (r.addr.toNat < q.addr.toNat + q.size))
          || (decide (q.pa < r.pa + r.size) && decide (r.pa < q.pa + q.size))))
      || (r.beside q && !r.kind.isLoad && !q.kind.isLoad && (match r.kind with
        | .atomic _ _ => true
        | _ => false)))

/-- Every link of the way from one base die to another is up (R12). -/
def State.wayUp (s : State) (a b : Nat) : Bool := (linkPath a b).all (fun k => !s.fw.down.contains (.base k))

/-- The links of a request's way to its home are up, and the home has its HBM. -/
def State.arrives (s : State) (r : Request) : Bool :=
  let h := homeDie r.addr.toNat
  s.wayUp (s.dieOf r.core.toNat) h && !(s.die h).hbmLost

/-- The request can be served at its home: nothing is ahead of it, and it is on its way, or has timed out with its fate open
(R390).  A package that does not answer serves none (R392). -/
def State.servable (s : State) (r : Request) : Bool :=
  (r.stage == .sent || (r.stage == .timedOut && s.arrives r)) && !s.requests.any (s.ahead r)
    && !(isPackage r.pa && s.remote (homeDie r.addr.toNat) r.pa == .silent)

/-- ACCESS of a request (R295). -/
def Request.access (r : Request) : BitVec 4 :=
  match r.kind with
  | .load _ => 0
  | .store _ => 1
  | .atomic _ _ => 2

/-- A record about a request. -/
def State.requestRecord (s : State) (r : Request) (code : BitVec 8) (va : BitVec 64) : FaultRecord :=
  { agentRecord code r.access (if r.frag.isSome then 0 else 1) r.core r.asid (s.ptcOf r.core.toNat) va r.frame r.pc
      (((s.wave r.wave).map (·.waveid)).getD 0) r.gen .nobody with
    lmask := if r.frag.isSome then r.lanes else 0 }

/-- The record of a sector that fails its check under a request (R303). -/
def State.requestIntegrity (s : State) (r : Request) (va pa : BitVec 64) : State :=
  deliver s (r.core.toNat / 192)
    { s.requestRecord r 0x04 va with detail := BitVec.ofNat 16 (pa.toNat / 64 % 2), paddr := pa }

/-- The answer of a request: what was read, a failure, or nothing yet.  A request that has timed out gets a reply that is
to be discarded.  An error of another package found now is a walk error, and fatal (R294, R392). -/
def State.answer (s : State) (r : Request) (x : Except AccFail (BitVec 64 × State)) : State :=
  let put (t : State) (g : ReqStage) : State := t.setRequest { r with stage := if r.stage == .timedOut then .late else g }
  match (if r.prefetch then (match x with
      | .error .wait => .error .wait
      | .error _ => .ok (0, s)
      | x => x) else x) with
  | .error .wait => s
  | .error (.integrity va pa) => put (s.requestIntegrity r va pa) (.failed 0x11)
  | .error (.link _ _) => put s (.failed 0x12)
  | .error (.page f va pa) =>
    put (deliver s (r.core.toNat / 192) ((s.requestRecord r 0x07 va).ofClass f pa)) (.failed 0x06)
  | .error _ => put s (.failed 0x06)
  | .ok (v, t) => put t (.answered v)

/-- The requests of a packet served one after another; none where one is held. -/
def serveAll (k : State → Request → Except AccFail (BitVec 64 × State)) : List Request → State → Option State
  | [], s => some s
  | r :: l, s =>
    match k s r with
    | .error .wait => none
    | x => serveAll k l (s.answer r x)

/-- The service of the packet of a request for which `f` holds, by its number in the input; with a link down on its way, the
bridge answers LINKDOWN (R390). -/
def State.serve (s : State) (f : Request → Bool) (k : State → Request → Except AccFail (BitVec 64 × State))
    (after : Request → State → State) : Out :=
  .next (match s.request s.input.index with
    | some r =>
      if f r && s.servable r then
        let l := s.requests.filter r.packed
        if !s.arrives r then l.foldl (fun s q => s.setRequest { q with stage := .failed 0x12 }) s
        else match serveAll k l s with
          | some t => after r t
          | none => s
      else s
    | none => s)

/-- A line read at its home for a core enters the remote-data cache of its base die and its launch's L1 partition in an older copy; one that was dropped meanwhile enters neither, and what they hold of it is older (R297, R300, R318, R321, R323). -/
def State.takeLine (s : State) (r : Request) (bytes : List Byte) : State :=
  let g := r.core.toNat
  let line := r.addr.toNat / 128
  let s := dropL1 s g r.asid line
  if r.noFill then dropRdc s (s.dieOf g) r.asid line
  else
    let s := if homeDie r.addr.toNat = s.dieOf g then s else fillRdc s (s.dieOf g) r.asid line bytes
    if l1Lines s r.lid = 0 then s else fillL1 s g r.lid r.asid line bytes

/-- The bytes of a load at its home, under its translation (R291, R297); the line that holds them is fetched whole where it
can be. -/
def serveLoad (s : State) (r : Request) : Except AccFail (BitVec 64 × State) :=
  let h := homeDie r.addr.toNat
  let hint : Hint := match r.kind with
    | .load u => { u with lu := false }
    | _ => .normal
  let off := r.addr.toNat % 128
  match serveRead s h (r.addr - BitVec.ofNat 64 off) (r.pa - off) r.key 128 r.td hint with
  | .ok (b, s) => .ok (word64 ((b.drop off).take r.size), s.takeLine r b)
  | .error _ =>
    match serveRead s h r.addr r.pa r.key r.size r.td hint with
    | .error e => .error e
    | .ok (b, s) => .ok (word64 b, s)

/-- The last-use drop of the line of a packet of loads (R299). -/
def lastDrop (r : Request) (s : State) : State :=
  match r.kind with
  | .load u => if u.lu then dropHome s (r.pa / 128) else s
  | _ => s

/-- R297: a load served at its home. -/
def execHomeRead (s : State) : Out := s.serve (fun r => r.kind.isLoad) serveLoad lastDrop

/-- R236: a load of a registered block, its owner's PUB bytes at their current values, memory for the rest. -/
def execForwardedRead (s : State) : Out :=
  s.serve (fun r => r.kind.isLoad && isLocal r.pa && (Table.find s.directory (r.pa / 512)).isSome) serveLoad lastDrop

/-- R321: a store applied at its home, after a recall; a move lock holds it.  Copies that its core and base die have taken since
it was sent are dropped. -/
def execHomeWrite (s : State) : Out :=
  s.serve (fun r => match r.kind with
      | .store _ => true
      | _ => false) (fun s r =>
    let ep : BitVec 2 := match r.kind with
      | .store e => e
      | _ => 1
    match serveWrite s (homeDie r.addr.toNat) r.asid r.addr.toNat r.pa r.key (toBytes r.size r.data.toNat) ep with
    | .error e => .error e
    | .ok t => .ok (0, dropLine t r.core.toNat r.asid r.addr.toNat)) (fun _ s => s)

/-- R329: an atomic lane performed at its place. -/
def execAtomicPerform (s : State) : Out :=
  s.serve (fun r => match r.kind with
      | .atomic _ _ => true
      | _ => false) (fun s r =>
    let mods := match r.kind with
      | .atomic m _ => m.toNat
      | _ => 8
    let f (old : Nat) : Option Nat := atomicOp mods r.type.toNat r.size old r.data.toNat r.cmp.toNat
    let g := ((s.wave r.wave).map (·.origin.toNat)).getD r.core.toNat
    match atomicAt s true g r.scope.toNat r.asid r.addr.toNat r.pa r.key r.size f with
    | .error e => .error e
    | .ok (old, t) => .ok (BitVec.ofNat 64 old, dropLine t r.core.toNat r.asid r.addr.toNat)) (fun _ s => s)

/-! ### Returns (R87, R88) -/

/-- The lane words that a value brings: its register, word by word. -/
def Request.words (_ : Request) (n bytes : Nat) (signed : Bool) (v : BitVec 64) : List (Nat × Word32) :=
  if bytes = 8 then [(n, v.setWidth 32), (n + 1, v.extractLsb' 32 32)]
  else [(n, (extended signed bytes (toBytes bytes v.toNat)).setWidth 32)]

/-- The wave after a return: a register takes its value where the request is its youngest write (R116), a latch where the
value still belongs there. -/
def Request.landed (r : Request) (v : BitVec 64) (w : Wave) : Wave :=
  match r.dest with
  | .none => w
  | .scalar d n signed =>
    if Sparse.get w.pendS d.toNat = BitVec.ofNat 64 r.seq then
      { w with sreg := Sparse.set w.sreg d.toNat (extended signed n (toBytes n v.toNat)),
               pendS := Sparse.set w.pendS d.toNat 0 }
    else w
  | .lane n L bytes signed =>
    let ws := r.words n bytes signed v
    let w := if 256 ≤ n then w
      else ws.foldl (fun w p =>
        if Sparse.get w.pendV (p.1 * 32 + L) = BitVec.ofNat 64 r.seq then
          { w with v := Sparse.set w.v (p.1 * 32 + L) p.2, pendV := Sparse.set w.pendV (p.1 * 32 + L) 0 }
        else w) w
    if r.latch < 4 then { w with l := Sparse.set w.l (r.latch * 32 + L) ((ws.map (·.2)).headD 0) } else w

/-- What a return writes in the frame of a wave that is parked or swapped (R88): the words that it is the youngest write of; `old`
is the wave before it. -/
def Request.frameWords (r : Request) (old w : Wave) : List (Nat × Nat × Nat) :=
  let mine (x : Word64) : Bool := x == BitVec.ofNat 64 r.seq
  let data : List (Nat × Nat × Nat) := match r.dest with
    | .none => []
    | .scalar d _ _ => if mine (Sparse.get old.pendS d.toNat) then [(0x9000 + 8 * d.toNat, 8, (Sparse.get w.sreg d.toNat).toNat)] else []
    | .lane n L bytes _ =>
      (if 256 ≤ n then []
        else ((destRegs n bytes).filter (fun m => mine (Sparse.get old.pendV (m * 32 + L)))).map
          (fun m => (128 * m + 4 * L, 4, (w.rv m L).toNat)))
        ++ (if r.latch < 4 then [(0x9B00 + 4 * (r.latch * 32 + L), 4, (w.rl r.latch L).toNat)] else [])
  data ++ [(0xA100, 8, w.pendcnt), (0xA108, 8, w.pends), (0xA120, 32, w.pendv)]

/-- The destination of a return that failed is no longer pending on it, and keeps its old value (R390, R477). -/
def Request.abandoned (r : Request) (w : Wave) : Wave :=
  match r.dest with
  | .none => w
  | .scalar d _ _ =>
    if Sparse.get w.pendS d.toNat = BitVec.ofNat 64 r.seq then { w with pendS := Sparse.set w.pendS d.toNat 0 } else w
  | .lane n L bytes _ =>
    if 256 ≤ n then w
    else (destRegs n bytes).foldl (fun w m =>
      if Sparse.get w.pendV (m * 32 + L) = BitVec.ofNat 64 r.seq then
        { w with pendV := Sparse.set w.pendV (m * 32 + L) 0 } else w) w

/-- A wave with a trap that it takes at its next boundary: a wait is abandoned (R405, R406). -/
def Wave.interrupted (w : Wave) (t : TrapInfo) : Wave :=
  { w with
    heldTraps := w.heldTraps ++ [t]
    wait := none
    progress := none
    residency := if w.residency == .waiting then .ready else w.residency }

/-- A failure found after the accesses of an instruction settled (R477): a wave-stop trap at the wave's next boundary, not
resumable, on the failed lanes, with the lowest one's address; of the running handler's own instruction, a nested fault (R407). -/
def State.lateTrap (s : State) (rs : List Request) (code : BitVec 8) : State :=
  match rs with
  | [] => s
  | r :: _ =>
    let lanes := rs.foldl (fun m q => m ||| q.lanes) 0
    let first := (rs.find? (fun q => q.lanes.getLsbD ((lanesOf lanes).headD 0))).getD r
    let t : TrapInfo := { code := code, detail := 0, addr := first.addr, lanes := if r.frag.isSome then lanes else 0, pc := r.pc,
                          frag := r.frag, sw := false, nr := true, stop := true }
    match s.waves.find? (fun w => w.hasFrame r.asid r.frame && w.gen == r.gen && w.residency != .retired) with
    | none => s.trapOfRetired r.lid r.blk
    | some w =>
      let own := w.inhandler && (match w.handler with
        | some h => h.frag == r.frag && decide (h.since < r.seq)
        | none => false)
      match s.focus w.id with
      | none => s
      | some s => if own then haltWith s 1 t true else s.onW (fun w => w.interrupted t)

/-- The lines of the main file that a return reaches (R88). -/
def Request.lines (r : Request) : List FrameLine :=
  match r.dest with
  | .lane n _ bytes _ => if 256 ≤ n then [] else (destRegs n bytes).map .main
  | _ => []

/-- A return lands, or is dropped and counted (R88). -/
def State.landed (s : State) (r : Request) (f : Wave → Wave) (lines : List FrameLine) : State :=
  let x := s.land r.asid r.frame r.gen f r.frameWords lines
  if x.1 then x.2 else x.2.dropReturn r.lid

/-- Requests of one instruction end in failure: what they have kept pending is abandoned, and the wave takes one trap for all of
them (R477). -/
def State.failAll (s : State) (rs : List Request) (code : BitVec 8) : State :=
  (rs.foldl (fun s r => s.landed r r.abandoned []) s).lateTrap (rs.filter (fun r => !r.prefetch)) code

/-- A request has waited 1 ms for its reply (R390). -/
def State.expired (s : State) (r : Request) : Bool :=
  decide (r.issued.toNat + 1000000 ≤ (s.ptcOf r.core.toNat).toNat)

/-- A failure that a home has found of an instruction is known to the wave once every access of the instruction is known
(R477). -/
def State.allKnown (s : State) (r : Request) : Bool := !s.requests.any (fun q => r.beside q && q.unserved)

/-- R88: a reply arrives that is not lost on its way, its packet whole (R388). -/
def execReturnArrival (s : State) : Out :=
  .next (match s.request s.input.index with
    | some r =>
      let home := homeDie r.addr.toNat
      if s.expired r || (r.stage != .failed 0x12 && !s.wayUp home (s.dieOf r.core.toNat)) || s.landHeld r.asid r.frame r.gen then s
      else match r.stage with
        | .answered _ => (s.requests.filter r.replied).foldl (fun s q => match q.stage with
            | .answered v => (s.dropRequest q.seq).landed q (q.landed v) q.lines
            | _ => s) s
        | .failed code =>
          if !s.allKnown r then s
          else
            let rs := s.requests.filter (fun q => r.beside q && q.stage == r.stage)
            (rs.foldl (fun s q => s.dropRequest q.seq) s).failAll rs code
        | _ => s
    | none => s)

/-- R390: requests of an instruction unanswered 1 ms after their issue complete with LINKDOWN; whether one that has not been
performed is performed stays open, and a reply that is on its way is discarded. -/
def execRequestTimeout (s : State) : Out :=
  .next (match s.request s.input.index with
    | some r =>
      let waits (q : Request) : Bool := q.stage != .timedOut && q.stage != .late
      if waits r && s.expired r then
        let rs := s.requests.filter (fun q => r.beside q && waits q && s.expired q)
        (rs.foldl (fun s q => s.setRequest { q with stage := if q.stage == .sent then .timedOut else .late }) s).failAll rs 0x12
      else s
    | none => s)

/-- R390. -/
def execLateReplyDiscard (s : State) : Out :=
  .next (match s.request s.input.index with
    | some r => if r.stage == .late then s.dropRequest r.seq else s
    | none => s)

/-! ### Fills, the directory, walks -/

/-- The failures of the bytes of a line of a launch's stash that a fill has left invalid (R232). -/
def fillFaults (s : State) (g : Nat) (lid : BitVec 32) (asid : BitVec 16) (line : Nat) : List AccFail :=
  let base := (s.stash lid).1
  (((List.range 128).map (fun i => line * 128 + i)).filter (fun a =>
    ((s.core g).covers lid (a - base)).isSome && !maskBit (s.core g).valid a)).map (fillFault s g lid asid base)

/-- The record of a sector that fails its check under a fill that CHFILL has started (R232, R303). -/
def fillRecord (s : State) (g : Nat) (asid : BitVec 16) (p : BitVec 64 × BitVec 64) : State :=
  deliver s (g / 192)
    { agentRecord 0x04 4 0 (BitVec.ofNat 13 g) asid (s.ptcOf g) p.1 0 0 0 0 .nobody with
      detail := BitVec.ofNat 16 (p.2.toNat / 64 % 2), paddr := p.2 }

/-- R231: the started fill of line `input.line` of a core for launch `input.lid` ends; the bytes whose element cannot be read
stay invalid, and no trap follows; a failing sector is recorded, but not under a prefetch (R232, R252).  The fill waits for its
line (R220) and for the core's earlier requests (R386). -/
def execStashFill (s : State) : Out :=
  .next (
    let g := s.input.core
    let lid := s.input.lid
    let x := (lid, s.input.line)
    let base := (s.stash lid).1
    let asid := ((s.launch lid).map Launch.asid).getD 0
    if !(s.core g).filling.contains x || !s.holdsAt g lid (s.input.line * 128 - base) 128 then s
    else
      let t := fillLine s g lid asid base s.input.line
      let faults := fillFaults t g lid asid s.input.line
      if faults.contains .wait then t
      else
        let c := t.core g
        let quiet := c.prefetched.contains x
        let t := t.setCore g { c with filling := c.filling.filter (fun p => p != x), prefetched := c.prefetched.filter (fun p => p != x) }
        let bad := (faults.filterMap (fun e => match e with
          | .integrity va pa => some (va, pa)
          | _ => none)).eraseDups
        if quiet then t else bad.foldl (fun t p => fillRecord t g asid p) t)

/-- R235: the home registers the owner of the block of a line of a direct chord that its core holds with published bytes,
recalling another owner first. -/
def execDirectoryRegistration (s : State) : Out :=
  .next (
    let g := s.input.core
    let c := s.core g
    let a := s.input.line * 128
    match c.chords.find? (fun x =>
        let b := (s.stash x.1.1).1
        s.holdsLine g x.1.1 s.input.line && x.2.direct && decide (b + x.2.soff ≤ a) && decide (a < b + x.2.soff + x.2.len)) with
    | none => s
    | some x =>
      if Sparse.get c.pub s.input.line = 0 then s
      else
        let base := (s.stash x.1.1).1
        let va := x.2.gbase + (a - (base + x.2.soff))
        match translate s (((s.launch x.1.1).map Launch.asid).getD 0) va .write with
        | .error _ => s
        | .ok ((pa, k), s) =>
          let addr := a - va % 512
          if isLocal pa && !s.recallHeld (pa / 512 * 512) 512 g then registerBlock s (pa / 512) g addr k (x.2.cover base addr) else s)

/-- R237: a registered block recalled, after a fill that it meets. -/
def execRecall (s : State) : Out :=
  let b := s.input.addr.toNat / 512
  .next (if s.recallHeld (b * 512) 512 then s else recallBlock s b)

/-- R290: the translation of an address of an address space at its home's ingress, cached when it succeeds; a fault is the
accessing step's (R292). -/
def execPageWalk (s : State) : Out :=
  let acc : Acc := if s.input.fetch then .fetch else if s.input.write then .write else .read
  .next (match translate s s.input.asid s.input.va.toNat acc with
    | .ok (_, t) => t
    | .error _ => s)

/-- R425: the first touch of a granule by an agent of a grid under capture: the home copies the granule into the capture
buffer before the access. -/
def execCaptureFirstTouch (s : State) : Out := .next (captureTouch s s.input.lid s.input.va.toNat (agentWave s s.input.lid))

end Sys2Proof.Machine
end

