-- ==== Sys2Proof/Machine/Matrix.lean ====
section
/-! DEFINITION. Matrix pairs: the issue checks, the queue, the exact steps, batches and stamps (08_matrix.md R253 to
R282). -/

namespace Sys2Proof.Machine

/-! ### Formats (R258) -/

/-- The classes of R258. -/
inductive MatClass where
  | half | narrow | int | asym
  deriving DecidableEq, Repr

/-- A narrow floating format or mxi8. -/
def isNarrow (c : Nat) : Bool := (decide (0x0B ≤ c) && decide (c ≤ 0x0F)) || (decide (0x11 ≤ c) && decide (c ≤ 0x16))

/-- The row of R258 of a pair of formats. -/
def matClass (a b : Nat) : Option MatClass :=
  let both (f : Nat → Bool) : Bool := f a && f b
  if both (fun c => c == 0x09 || c == 0x0A) then some .half
  else if both isNarrow then some .narrow
  else if both (fun c => decide (0x04 ≤ c) && decide (c ≤ 0x07)) then some .int
  else if both (fun c => c == 0x17 || c == 0x18) then some .asym
  else none

/-- Elements per lane of a matrix operand; the asymmetric formats' too (R144). -/
def matEpl (c : Nat) : Nat :=
  if c = 0x17 then 8 else if c = 0x18 then 4 else epl c

/-- Registers of an A run. -/
def aRegs (c : Nat) : Nat := 128 / matEpl c

/-- Bytes of a B column. -/
def columnBytes (c : Nat) : Nat := 256 / matEpl c

/-- G of the asymmetric class (R258). -/
def groupSize (fmtc : Word32) : Nat := 32 * 2 ^ bits fmtc.toNat 21 20

/-- Registers of an A parameter run (R262). -/
def paramRegs (fmtc : Word32) : Nat := if bits fmtc.toNat 21 20 = 0 then 4 else 2

/-! ### The matrix word (R260) -/

/-- NT. -/
def mwNT (w : BitVec 64) : Nat := bits w.toNat 5 0
/-- BSOFF. -/
def mwB (w : BitVec 64) : Nat := bits w.toNat 34 16
/-- PSOFF. -/
def mwP (w : BitVec 64) : Nat := bits w.toNat 53 35

/-- The matrix word is refused (R260). -/
def mwBad (w : BitVec 64) (b : Nat) (asym : Bool) : Bool :=
  mwNT w == 0 || decide (32 < mwNT w) || bits w.toNat 63 54 != 0 || bits w.toNat 15 6 != 0
    || mwB w % columnBytes b != 0 || mwP w % 4 != 0 || (!asym && mwP w != 0)

/-! ### Issue -/

/-- The partner core (R22). -/
def partner (g : Nat) : Nat := if g % 2 = 0 then g + 1 else g - 1

/-- The pair of the wave's core. -/
def State.myPair (s : State) : Nat := s.w.core.toNat / 2

/-- ILLREG detail 5 (R253): the follower outside the block's core set, or a wave in a landing slot. -/
def State.pairBad (s : State) : Bool :=
  s.w.place != .origin || !(s.coresOf s.w).contains (partner s.w.core.toNat)

/-- Tiles of the launch's accumulator partition (R218). -/
def State.tileCount (s : State) : Nat := 8 * ((s.launch s.w.lid).map Launch.accGran).getD 0

/-- A chord of the wave's core that meets a stash range. -/
def State.chordMeeting (s : State) (off n : Nat) : Option Chord :=
  ((s.core s.w.core.toNat).chords.find? (fun x => x.1.1 == s.w.lid && meet off n x.2.soff x.2.len)).map (·.2)

/-- A range lies wholly in a chord. -/
def Chord.wholly (c : Chord) (off n : Nat) : Bool := decide (c.soff ≤ off) && decide (off + n ≤ c.soff + c.len)

/-- FMTERR of the B range (R261), and of the parameter range's chord rule (R262). -/
def State.bFormatBad (s : State) (b off n : Nat) : Bool :=
  match s.chordMeeting off n with
  | none => isMxCode b
  | some c => !c.wholly off n || c.fmt != b || (isMxCode b && (companion s c).isNone)

/-- The parameter range meets no chord or lies in one (R262). -/
def State.pFormatBad (s : State) (off n : Nat) : Bool :=
  match s.chordMeeting off n with
  | none => false
  | some c => !c.wholly off n

/-- The words of a run of registers, register by register, lane by lane. -/
def State.runWords (s : State) (r k : Nat) : List (BitVec 32) :=
  (runOf r k).flatMap (fun n => (List.range 32).map (fun L => s.w.rv n L))

/-- A queue entry of the wave that moves, with nothing of its own (R255). -/
def State.matEntry (s : State) (kind : MatKind) (a : LaneArgs) : MatOp :=
  { kind := kind, leader := s.w.core, wave := s.w.id, frag := s.frag, frame := s.w.frame, gen := s.w.gen, lid := s.w.lid, blk := s.w.blk,
    asid := s.w.asid, waveid := s.w.waveid, pc := s.pcNow, fmtc := s.entry.fmtc, sat := a.mods.getLsbD 0, hold := a.h,
    tid := a.imm.truncate 16, tile := a.vd.toNat, run := regNo a.sa, prun := regNo a.sc, word := 0, aWords := [],
    pWords := [], sides := [], shift := 0, type := a.ty, addr := 0, batch := none, issued := s.ptcOf s.w.core.toNat,
    fill0 := 0, fill1 := 0, start := 0, collected := false, col := 0, faulted := false, stalled := false, cancelled := false, done := false,
    seq := s.seq + 1 }

/-- The tiles that an operation writes. -/
def MatOp.tiles (o : MatOp) : List Nat :=
  match o.kind with
  | .mma | .mmaz => (List.range (mwNT o.word)).map (fun i => o.tile + i)
  | .in_ | .outz => [o.tile]
  | _ => []

/-- PENDT: the tiles that the wave's queued operations write (R67). -/
def pendTiles (s : State) (wave : Nat) : BitVec 64 :=
  (s.pairs.flatMap (fun p => (p.2.queue.filter (fun o => o.wave == wave)).flatMap MatOp.tiles)).foldl
    (fun m t => m ||| (1#64 <<< t)) 0

/-- An entry taken in the pair's queue: one pending return of the frame (R275), its tiles pending (R67). -/
def State.enqueue (s : State) (o : MatOp) : State :=
  let p := s.pair s.myPair
  let s := ({ s with seq := s.seq + 1 }.setPair s.myPair { p with queue := p.queue ++ [o] }).expect
  s.onW (fun w => { w with pendT := pendTiles s s.w.id })

/-- The start of a matrix instruction that takes an entry: the decode checks of the registers and the tile it names; nothing
without an active lane (R257); a wait while the queue is full (R255) or a run is pending or to be collected (R273); the lines it
references (R79 to R81). -/
def State.matBegin (s : State) (a : LaneArgs) (named runs dsts : List Nat) (tile : Bool) (k : Word32 → State) : State :=
  s.laneBegin a { srcs := [], runs := [], dsts := [] } (fun act =>
    if named.any (fun n => decide (s.w.regcnt ≤ n)) || (tile && decide (s.tileCount ≤ a.vd.toNat)) then s.trapDecode 0x03
    else if act = 0 then s.laneNext false
    else
      let u : LaneUse := { srcs := [], runs := runs, dsts := dsts }
      if 16 ≤ (s.pair s.myPair).queue.length || s.pendingV u act || s.collecting dsts then s.stall
      else if u.illegal s.w.regcnt then k act
      else match s.absent u 0xFFFFFFFF with
        | x :: _ => s.fetchLine x act
        | [] => (k act).useLines s u 0xFFFFFFFF)

/-- A run of registers that reaches v256 or REGCNT. -/
def State.runBad (s : State) (r k : Nat) : Bool := decide (s.w.regcnt < r + k) || decide (256 < r + k)

/-- MMA and MMAZ (R278); a parameter range outside the stash is MEMFAULT with its own start in TRAPADDR (DESIGN CHOICE, log entry
104). -/
def State.mmaIssue (s : State) (a : LaneArgs) (kind : MatKind) : State :=
  let fmtc := s.entry.fmtc
  let fa := fmtA fmtc
  let fb := fmtB fmtc
  let cls := matClass fa fb
  let asym := cls == some .asym
  let w : BitVec 64 := match a.sb with
    | .konst n => s.w.rk n.toNat
    | _ => 0
  let r := regNo a.sa
  let pr := regNo a.sc
  let nA := aRegs fa
  let nP := if asym then paramRegs fmtc else 0
  let nb := 16 * mwNT w * columnBytes fb
  let np := 16 * mwNT w * (64 / groupSize fmtc) * 4
  let size := (s.stash s.w.lid).2
  s.matBegin a (r :: if pr = 0 then [] else [pr]) (runOf r nA ++ runOf pr nP) [] true (fun act =>
    let trap (code : BitVec 8) (detail : BitVec 24) (addr : Nat) : State := s.trapL code detail (BitVec.ofNat 64 addr) act false
    let sides := (runOf r nA).map (fun n => s.w.rx n)
    let tag := sideTag (sides.headD 0)
    let bchord := s.chordMeeting (mwB w) nb
    let btag := (bchord.map Chord.tag).getD 0
    let z := Sparse.get s.w.z (fmtSEED fmtc)
    if s.pairBad then trap 0x03 5 0
    else if mwBad w fb asym then trap 0x03 3 0
    else if s.runBad r nA || (asym && s.runBad pr nP) || decide (s.tileCount < a.vd.toNat + mwNT w) then trap 0x03 4 0
    else if size < mwB w + nb then trap 0x06 0 (mwB w)
    else if asym && decide (size < mwP w + np) then trap 0x06 0 (mwP w)
    else if cls.isNone || (asym && decide (2 ≤ bits fmtc.toNat 21 20)) || sides.any (fun x => sideCode x != fa)
        || s.bFormatBad fb (mwB w) nb || (asym && (s.pFormatBad (mwP w) np || pr == 0)) || (!asym && pr != 0)
        || (a.mods.getLsbD 0 && cls != some .int) then trap 0x09 0 0
    else if sides.any (fun x => sideTag x != tag) || tag != btag
        || (tag != 0 && ((cls != some .half && cls != some .narrow) || seedTagOf z != tag)) then trap 0x08 0 0
    else
      let o := s.matEntry kind a
      (s.enqueue { o with
        word := w, aWords := s.runWords r nA, pWords := s.runWords pr nP, sides := sides
        shift := if tag = 0 then 0 else if seedN z = 64 then 6 else 5 }).laneNext false)

/-- R278. -/
def execMma (a : LaneArgs) (s : State) : Out := .next (s.mmaIssue a .mma)

/-- R278: the tiles are taken as zero. -/
def execMmaz (a : LaneArgs) (s : State) : Out := .next (s.mmaIssue a .mmaz)

/-- MACC with DIR = 0, and MACCZ (R279): the run's registers are pending on the operation; their sidecars are the
result's. -/
def State.maccOut (s : State) (a : LaneArgs) (kind : MatKind) : State :=
  s.matBegin a [regNo a.sa] [] (runOf (regNo a.sa) 32) true (fun act =>
    let r := regNo a.sa
    if s.pairBad then s.trapL 0x03 5 0 act false
    else if s.runBad r 32 then s.trapL 0x03 4 0 act false
    else
      let o := s.matEntry kind a
      let s := s.enqueue o
      let mark (m : Sparse 64) (k : Nat) : Sparse 64 := Sparse.set m k (BitVec.ofNat 64 o.seq)
      let s := s.onW (fun w => { w with pendV := (List.range 1024).foldl (fun m i => mark m (32 * r + i)) w.pendV })
      ((runOf r 32).foldl (fun s n => s.setX n (mkSide a.ty.toNat 0 0)) s).laneNext false)

/-- R279. -/
def execMaccOut (a : LaneArgs) (s : State) : Out := .next (s.maccOut a .out)

/-- R279: the tile pair is zeroed once read. -/
def execMaccz (a : LaneArgs) (s : State) : Out := .next (s.maccOut a .outz)

/-- R279, DIR = 1. -/
def execMaccIn (a : LaneArgs) (s : State) : Out :=
  .next (
    let r := regNo a.sa
    s.matBegin a [r] (runOf r 32) [] true (fun act =>
      if s.pairBad then s.trapL 0x03 5 0 act false
      else if s.runBad r 32 then s.trapL 0x03 4 0 act false
      else if (runOf r 32).any (fun n => sideTag (s.w.rx n) != 0) then s.trapL 0x08 0 0 act false
      else (s.enqueue { s.matEntry .in_ a with aWords := s.runWords r 32 }).laneNext false))

/-! ### Batches (R270) -/

/-- Every queued operation, with its pair. -/
def State.matOps (s : State) : List MatOp := s.pairs.flatMap (fun p => p.2.queue)

/-- ILLREG detail 5 on the active lanes of a matrix instruction that takes no A run, as R95 and R253 give it to every matrix
instruction (log entry 77); then `k`. -/
def State.paired (s : State) (act : Word32) (k : State) : State :=
  if act != 0 && s.pairBad then s.trapL 0x03 5 0 act false else k

/-- R280: the wave's operations in no batch yet are closed into one. -/
def execMfence (a : LaneArgs) (s : State) : Out :=
  .next (s.laneBegin a { srcs := [], runs := [], dsts := [] } (fun act => s.paired act (
    if act = 0 then s.laneNext false
    else
      let n := s.ptcRead
      let shut (o : MatOp) : MatOp :=
        if o.wave == s.w.id && o.batch.isNone then { o with batch := some (s.w.batches, n) } else o
      let s : State := { s with pairs := s.pairs.map (fun p => (p.1, { p.2 with queue := p.2.queue.map shut })) }
      let s := (s.markPtc 0).onW (fun w => { w with batches := w.batches + 1 })
      (s.setS (BitVec.ofNat 6 (48 + a.vd.toNat % 8)) n).laneNext false)))

/-- The wave's outstanding batches, each once. -/
def State.openBatches (s : State) : List (Nat × BitVec 64) :=
  ((s.matOps.filter (fun o => o.wave == s.w.id)).filterMap (·.batch)).eraseDups

/-- R281: the fragment waits for the batches its form names. -/
def execMwait (a : LaneArgs) (s : State) : Out :=
  .next (s.laneBegin a { srcs := [], runs := [], dsts := [] } (fun act =>
    let ready := match a.sa with
      | .konst n => s.openBatches.all (fun b => decide ((s.w.rk n.toNat).toNat < b.2.toNat))
      | _ => decide (s.openBatches.length ≤ a.imm.toNat % 16)
    s.paired act (if act = 0 || ready then s.laneNext false else s.stall)))

/-- R282. -/
def execMstamp (a : LaneArgs) (s : State) : Out :=
  .next (s.matBegin a [] [] [] false (fun act =>
    s.paired act ((s.enqueue { s.matEntry .stamp a with addr := s.base a.sa &&& ~~~(0x3F#64) }).laneNext false)))

/-! ### Steps (R264, R265) -/

/-- The window's sum of exact terms, rounded once to fp32 after 2^−r. -/
def matSum (r : Nat) (ts : List Fv) : Nat :=
  if ts.any (fun t => t == .nan) then canonicalNan 8
  else
    let pos := ts.any (fun t => t == .inf false)
    let neg := ts.any (fun t => t == .inf true)
    if pos && neg then canonicalNan 8
    else if pos || neg then (toFloat 8 .rne false (.inf neg)).1
    else if ts.all Fv.isZero then 0
    else
      let e := (maxAbs ts).ilog - 49
      let cut (t : Fv) : Int := match t.scale (-e) with
        | .fin g n d => let k : Int := (n / d : Nat); if g then -k else k
        | _ => 0
      (toFloat 8 .rne false (ofScaledInt ((ts.map cut).foldl (· + ·) 0) (e - r))).1

/-- c + s rounded once; an exact zero is +0, a NaN canonical. -/
def matAdd (c s : Nat) : Nat :=
  match (fAdd false (decodeFloat 8 c) (decodeFloat 8 s)).1 with
  | .fin g n d => if n = 0 then 0 else (toFloat 8 .rne false (.fin g n d)).1
  | v => (toFloat 8 .rne false v).1

/-- The value of an element of a float class, with its block's scale. -/
def matValue (c scale x : Nat) : Fv := if isMxCode c then mxValue c scale x else decodeFloat c x

/-- Element `e` of A's run. -/
def MatOp.aRaw (o : MatOp) (e : Nat) : Nat :=
  let n := matEpl (fmtA o.fmtc)
  elementOf (32 / n) (o.aWords[e / n]?.getD 0) (e % n)

/-- The scale of element `e` of A's run (R259). -/
def MatOp.aScale (o : MatOp) (e : Nat) : Nat :=
  let per := 32 * matEpl (fmtA o.fmtc)
  ((sideScales (o.sides[e / per]?.getD 0)).extractLsb' (8 * (e % per / 32)) 8).toNat

/-- The B data of one column: its bytes as a number, its two block scales, its parameter words. -/
structure Column where
  data : Nat
  scales : List Nat
  params : List Nat
  deriving DecidableEq, Repr

/-- Element `k` of a column. -/
def MatOp.bRaw (o : MatOp) (c : Column) (k : Nat) : Nat :=
  let w := 32 / matEpl (fmtB o.fmtc)
  c.data / 2 ^ (w * k) % 2 ^ w

/-- The exact terms of a step (R264). -/
def MatOp.terms (o : MatOp) (m : Nat) (c : Column) : List Fv :=
  let fa := fmtA o.fmtc
  let fb := fmtB o.fmtc
  if matClass fa fb = some .asym then
    let g := groupSize o.fmtc
    (List.range (64 / g)).map (fun h =>
      let pa := (o.pWords[m * (64 / g) + h]?.getD 0).toNat
      let pb := c.params[h]?.getD 0
      let q := (List.range g).foldl (fun (t : Int) i =>
        let k := g * h + i
        t + ((o.aRaw (64 * m + k) : Int) - (bits pa 23 16 : Nat)) * ((o.bRaw c k : Int) - (bits pb 23 16 : Nat))) 0
      (fMul (fMul (decodeFloat 9 (pa % 2 ^ 16)) (decodeFloat 9 (pb % 2 ^ 16))).1 (ofInt q)).1)
  else
    (List.range 64).map (fun k =>
      let e := 64 * m + k
      (fMul (matValue fa (o.aScale e) (o.aRaw e)) (matValue fb (c.scales[k / 32]?.getD 0) (o.bRaw c k))).1)

/-- Step(m, j) on the word it updates. -/
def MatOp.step (o : MatOp) (m : Nat) (c : Column) (old : Word32) : Word32 :=
  let fa := fmtA o.fmtc
  let fb := fmtB o.fmtc
  let c0 : Word32 := if o.kind = .mmaz then 0 else old
  if matClass fa fb = some .int then
    let t := (List.range 64).foldl (fun (t : Int) k =>
      t + decodeInt fa (o.aRaw (64 * m + k)) * decodeInt fb (o.bRaw c k)) c0.toInt
    BitVec.ofInt 32 (if o.sat then max (-(2 ^ 31)) (min (2 ^ 31 - 1) t) else t)
  else BitVec.ofNat 32 (matAdd c0.toNat (matSum o.shift (o.terms m c)))

/-! ### Execution (R256, R261, R262, R276) -/

/-- The key of a tile word in a core (R263). -/
def tileKey (t r c : Nat) : Nat := t * 512 + r * 16 + c

/-- One column landed on leader and follower. -/
def landColumn (s : State) (o : MatOp) (j : Nat) (c : Column) : State :=
  let half (s : State) (g base : Nat) : State :=
    let k := s.core g
    s.setCore g { k with tiles := (List.range 32).foldl (fun t r =>
      let key := tileKey (o.tile + j / 16) r (j % 16)
      Sparse.set t key (o.step (base + r) c (Sparse.get t key))) k.tiles }
  half (half s o.leader.toNat 0) (partner o.leader.toNat) 32

/-- The leader's chord that holds the B range, as it stands. -/
def MatOp.chord (o : MatOp) (s : State) : Option Chord :=
  ((s.core o.leader.toNat).chords.find? (fun x => x.1.1 == o.lid
    && meet (mwB o.word) (columnBytes (fmtB o.fmtc)) x.2.soff x.2.len)).map (·.2)

/-- A stash range has bytes to fill. -/
def needsFill (s : State) (g : Nat) (lid : BitVec 32) (off n : Nat) : Bool :=
  let base := (s.stash lid).1
  (List.range n).any (fun i => ((s.core g).covers lid (off + i)).isSome && !maskBit (s.core g).valid (base + off + i))

/-- The ranges of a column: data, scales, parameters.  Scale bytes beyond the companion chord's length are read as the stash holds
them, and beyond the stash they cancel the operation (DESIGN CHOICE, log entry 104). -/
def MatOp.ranges (o : MatOp) (s : State) (j : Nat) : List (Nat × Nat) :=
  let fb := fmtB o.fmtc
  let n := columnBytes fb
  let data := [(mwB o.word + j * n, n)]
  if isMxCode fb then
    match o.chord s with
    | none => data
    | some c =>
      match (s.core o.leader.toNat).chord o.lid c.sch with
      | none => data
      | some d => data ++ [(d.soff + ((mwB o.word - c.soff) * (if fb = 0x16 then 2 else 1) + 64 * j) / 32, 2)]
  else if fb = 0x17 ∨ fb = 0x18 then
    let h := 64 / groupSize o.fmtc
    data ++ [(mwP o.word + 4 * (j * h), 4 * h)]
  else data

/-- The bytes of ranges of the leader's stash. -/
def readRanges (g : Nat) (lid : BitVec 32) (asid : BitVec 16) :
    List (Nat × Nat) → State → Except AccFail (List (List Byte) × State)
  | [], s => .ok ([], s)
  | (off, n) :: l, s =>
    match stashRead s g lid asid off n with
    | .error e => .error e
    | .ok (b, s) =>
      match readRanges g lid asid l s with
      | .error e => .error e
      | .ok (bs, s) => .ok (b :: bs, s)

/-- A column from the bytes of its ranges. -/
def MatOp.columnOf (o : MatOp) (bs : List (List Byte)) : Column :=
  let rest := (bs[1]?).getD []
  { data := ofBytes (bs.headD [])
    scales := if isMxCode (fmtB o.fmtc) then rest.map (·.toNat) else []
    params := if isMxCode (fmtB o.fmtc) then []
      else (List.range (rest.length / 4)).map (fun i => ofBytes ((rest.drop (4 * i)).take 4)) }

/-- The head of a pair's queue replaced. -/
def State.setHead (s : State) (q : Nat) (o : MatOp) : State :=
  let p := s.pair q
  s.setPair q { p with queue := o :: p.queue.tail }

/-- The wave of an operation takes a wave-stop trap at its next boundary, not resumable (R276, R408). -/
def opTrap (s : State) (o : MatOp) (code : BitVec 8) (addr : BitVec 64) : State :=
  let t : TrapInfo := { code := code, detail := 0, addr := addr, lanes := 0xFFFFFFFF, pc := o.pc, frag := some o.frag,
                        sw := false, nr := true, stop := true }
  let mine (w : Wave) : Bool := w.id == o.wave && w.frame == o.frame && w.gen == o.gen && w.residency != .retired
  if s.waves.any mine then s.mapWaves (fun w => if mine w then w.interrupted t else w) else s.trapOfRetired o.lid o.blk

/-- An operation is cancelled with the later entries of its wave, and its wave traps (R276). -/
def matCancel (s : State) (q : Nat) (o : MatOp) (code : BitVec 8) (addr : BitVec 64) : State :=
  let p := s.pair q
  let gone (x : MatOp) : MatOp := if x.wave == o.wave then { x with cancelled := true, stalled := false } else x
  opTrap (s.setPair q { p with queue := { o with cancelled := true, stalled := false } :: p.queue.tail.map gone }) o code addr

/-- The record of a failing fill of an operation (R276, R295). -/
def MatOp.record (o : MatOp) (s : State) (q : Nat) (code : BitVec 8) (access : BitVec 4) (va : BitVec 64) (who : Bool) :
    FaultRecord :=
  agentRecord code access 3 o.leader o.asid (s.ptcOf o.leader.toNat) va o.frame o.pc o.waveid o.gen
    (if who then .pair q else .nobody)

/-- The record of a sector that fails its check for an operation (R303). -/
def MatOp.sectorRecord (o : MatOp) (s : State) (q : Nat) (access : BitVec 4) (va pa : BitVec 64) : FaultRecord :=
  { o.record s q 0x04 (integrityAccess s o.asid va pa access) va false with detail := BitVec.ofNat 16 (pa.toNat / 64 % 2), paddr := pa }

/-- The failure of a column's reads (R276). -/
def matFail (s : State) (q : Nat) (o : MatOp) : AccFail → State
  | .wait => s.setHead q o
  | .page f va pa =>
    deliver (s.setHead q { o with stalled := true, faulted := true }) (o.leader.toNat / 192)
      ((o.record s q 0x02 4 va true).ofClass f pa)
  | .integrity va pa =>
    matCancel (deliver s (o.leader.toNat / 192) (o.sectorRecord s q 4 va pa)) q o 0x11 va
  | .link va _ => matCancel s q o 0x12 va
  | .mem va => matCancel s q o 0x06 va

/-- The columns from `o.col` on, until one fails or the last has landed. -/
def matColumns (q : Nat) : Nat → MatOp → State → State
  | 0, o, s => s.setHead q { o with done := true }
  | n + 1, o, s =>
    let g := o.leader.toNat
    let rs := o.ranges s o.col
    let now := s.ptcOf g
    let o := if rs.any (fun r => needsFill s g o.lid r.1 r.2) then
        { o with fill0 := if o.fill0 = 0 then now else o.fill0, fill1 := now }
      else o
    match readRanges g o.lid o.asid rs s with
    | .error e => matFail s q o e
    | .ok (bs, s) => matColumns q n { o with col := o.col + 1 } (landColumn s o o.col (o.columnOf bs))

/-- The words of a tile pair, row by row (R279). -/
def tileWords (s : State) (o : MatOp) : List (BitVec 32) :=
  (List.range 64).flatMap (fun m => (List.range 16).map (fun c =>
    let g := if m < 32 then o.leader.toNat else partner o.leader.toNat
    Sparse.get (s.core g).tiles (tileKey o.tile (m % 32) c)))

/-- A tile pair written from a list of words. -/
def setTiles (s : State) (o : MatOp) (ws : List (BitVec 32)) : State :=
  let half (s : State) (g : Nat) (l : List (BitVec 32)) : State :=
    let k := s.core g
    s.setCore g { k with tiles := (l.take 512).zipIdx.foldl (fun t p => Sparse.set t (o.tile * 512 + p.2) p.1) k.tiles }
  half (half s o.leader.toNat ws) (partner o.leader.toNat) (ws.drop 512)

/-- The collector's image is the operation's: its wave, runs, A format and values (R269).  A register or sidecar written since shows
in the values, which the operation took when it issued (R273). -/
def Collector.serves (x : Collector) (o : MatOp) : Bool :=
  x.frame == o.frame && x.gen == o.gen && x.run == o.run && x.prun == o.prun && x.fmt.toNat == fmtA o.fmtc
    && x.aWords == o.aWords && x.pWords == o.pWords && x.sides == o.sides

/-- An operation collects its A run and its parameter run in its leader's collector, unless the image held there serves it
(R269). -/
def collect (s : State) (o : MatOp) : State :=
  let g := o.leader.toNat
  let c := s.core g
  if c.collector.any (fun x => x.held && x.serves o) then s
  else
    let x : Collector :=
      { fmt := BitVec.ofNat 5 (fmtA o.fmtc), run := o.run, prun := o.prun, frame := o.frame, gen := o.gen, aWords := o.aWords,
        pWords := o.pWords, sides := o.sides, held := false }
    s.setCore g { c with collector := some x }

/-- After its use, the image is held where the operation's H says so (R269). -/
def holdImage (s : State) (o : MatOp) : State :=
  let g := o.leader.toNat
  let c := s.core g
  s.setCore g { c with collector := c.collector.map (fun x => if x.serves o then { x with held := o.hold } else x) }

/-- The operation at the head of a queue streams on; with its last column its image is held or not. -/
def streamOn (s : State) (q : Nat) (o : MatOp) : State :=
  let s := if o.collected then s else collect s o
  let t := matColumns q (16 * mwNT o.word - o.col) { o with collected := true } s
  if (t.pair q).queue.headD o |>.done then holdImage t o else t

/-- The tiles of both cores of a pair are those of an operation's launch: those of a departing launch stand until they are
saved, and an operation of the incoming launch waits for its own (R91, R254). -/
def State.tilesHere (s : State) (o : MatOp) : Bool :=
  (s.core o.leader.toNat).tileLid == some o.lid && (s.core (partner o.leader.toNat)).tileLid == some o.lid

/-- R278, R279: the operation at the head of a pair's queue, up to its last column or a fault of its fills. -/
def execMatrixOpExecute (s : State) : Out :=
  let q := s.input.pair
  .next (match (s.pair q).queue with
    | [] => s
    | o :: _ =>
      if o.done || o.cancelled || o.stalled || !s.tilesHere o then s
      else
        let o := if o.start = 0 then { o with start := s.ptcOf o.leader.toNat } else o
        match o.kind with
        | .mma | .mmaz => streamOn s q o
        | .out => s.setHead q { o with done := true, aWords := tileWords s o }
        | .outz =>
          (setTiles s o (List.replicate 1024 0)).setHead q { o with done := true, aWords := tileWords s o }
        | .in_ => (setTiles s o o.aWords).setHead q { o with done := true }
        | .stamp => s)

/-! ### Retirement (R268, R271, R275) -/

/-- The stamp entry of an operation's key. -/
def Stamp.of (t : Stamp) (o : MatOp) : Bool := t.frame == o.frame && t.gen == o.gen && t.tid == o.tid

/-- What a stamped operation does to its entry. -/
def Stamp.update (t : Stamp) (o : MatOp) (now : BitVec 64) : Stamp :=
  let out := o.kind == .out || o.kind == .outz || o.kind == .in_
  { t with
    nops := if t.nops = 0xFFFF then t.nops else t.nops + 1
    fault := t.fault || o.faulted
    cancel := t.cancel || o.cancelled
    fill0 := if t.fill0 = 0 then o.fill0 else t.fill0
    fill1 := if o.fill1 = 0 then t.fill1 else o.fill1
    start := if t.start = 0 then o.start else t.start
    lastEnd := if !out && o.done then some now else t.lastEnd
    lastOut := if out && o.done then some now else t.lastOut }

/-- The stamp entries of a pair after a stamped operation: opened, updated, or counted as lost (R271). -/
def Pair.stamped (p : Pair) (o : MatOp) (now : BitVec 64) : Pair :=
  if o.tid = 0 then p
  else if p.stamps.any (fun t => t.of o) then
    { p with stamps := p.stamps.map (fun t => if t.of o then t.update o now else t) }
  else if p.stamps.length < 16 then
    let t : Stamp := { frame := o.frame, gen := o.gen, tid := o.tid, nops := 0, fault := false, cancel := false, fill0 := 0,
                       fill1 := 0, first := o.issued, start := 0, lastEnd := none, lastOut := none }
    { p with stamps := p.stamps ++ [t.update o now] }
  else { p with lost := if p.lost = 0xFFFF then p.lost else p.lost + 1 }

/-- The wave after an operation's retirement: the results of MACC and MACCZ where they are the youngest writes, nothing of
a cancelled one (R275, R276). -/
def MatOp.landed (o : MatOp) (pend : BitVec 64) (w : Wave) : Wave :=
  let w := { w with pendT := pend }
  match o.kind with
  | .out | .outz =>
    (List.range 1024).foldl (fun w i =>
      let k := 32 * o.run + i
      if Sparse.get w.pendV k = BitVec.ofNat 64 o.seq then
        { w with pendV := Sparse.set w.pendV k 0,
                 v := if o.cancelled then w.v else Sparse.set w.v k (o.aWords[i]?.getD 0) }
      else w) w
  | _ => w

/-- What a retirement writes in the frame of a wave that is parked or swapped: the words that it is the youngest write of; `old` is
the wave before it (R88). -/
def MatOp.frameWords (o : MatOp) (old w : Wave) : List (Nat × Nat × Nat) :=
  let data : List (Nat × Nat × Nat) := match o.kind with
    | .out | .outz => if o.cancelled then []
        else ((List.range 1024).filter (fun i => Sparse.get old.pendV (32 * o.run + i) == BitVec.ofNat 64 o.seq)).map (fun i => (128 * o.run + 4 * i, 4, (Sparse.get w.v (32 * o.run + i)).toNat))
    | _ => []
  data ++ [(0xA100, 8, w.pendcnt), (0xA110, 8, w.pendT.toNat), (0xA120, 32, w.pendv)]

/-- The head entry of a queue leaves it, its pending return landing; a result of MACC or MACCZ whose generation is gone is counted
in DROPCNT (R275). -/
def leaveQueue (s : State) (q : Nat) (o : MatOp) : State :=
  let p := s.pair q
  let s := s.setPair q { p with queue := p.queue.tail }
  let result := (o.kind == .out || o.kind == .outz) && !o.cancelled
  let x := s.land o.asid o.frame o.gen (o.landed (pendTiles s o.wave)) o.frameWords
    (if result then (runOf o.run 32).map .main else [])
  if x.1 || !result then x.2 else x.2.dropReturn o.lid

/-- R268: the head operation, its last column landed or cancelled, updates its stamp entry and frees its queue entry. -/
def execMatrixOpRetire (s : State) : Out :=
  let q := s.input.pair
  .next (match (s.pair q).queue with
    | [] => s
    | o :: _ =>
      if !(o.done || o.cancelled) || s.landHeld o.asid o.frame o.gen then s
      else
        let s := if o.kind = .stamp then s else s.setPair q ((s.pair q).stamped o (s.ptcOf o.leader.toNat))
        leaveQueue s q o)

/-! ### Stamp records (R272, R282) -/

/-- The 64 bytes of a stamp record. -/
def stampBytes (o : MatOp) (t : Option Stamp) (lost : BitVec 16) : List Byte :=
  let z : Stamp := { frame := 0, gen := 0, tid := 0, nops := 0, fault := false, cancel := false, fill0 := 0, fill1 := 0,
                     first := 0, start := 0, lastEnd := none, lastOut := none }
  let t := t.getD z
  let fin := t.lastEnd.getD t.start
  toBytes 2 o.tid.toNat ++ toBytes 2 t.nops.toNat ++ toBytes 2 (t.fault.toNat + 2 * t.cancel.toNat)
    ++ toBytes 2 lost.toNat ++ toBytes 8 o.waveid.toNat ++ toBytes 8 t.fill0.toNat ++ toBytes 8 t.fill1.toNat
    ++ toBytes 8 t.first.toNat ++ toBytes 8 t.start.toNat ++ toBytes 8 fin.toNat ++ toBytes 8 (t.lastOut.getD fin).toNat

/-- The MSTAMP at the head leaves: its stamp entry is freed, the lost counter cleared (R271). -/
def stampDone (s : State) (q : Nat) (o : MatOp) : State :=
  let p := s.pair q
  leaveQueue (s.setPair q { p with stamps := p.stamps.filter (fun t => !t.of o), lost := 0 }) q o

/-- The record is discarded, with a fault record that names its address (R272). -/
def stampDiscard (s : State) (q : Nat) (o : MatOp) : State :=
  deliver (stampDone s q o) (o.leader.toNat / 192) (o.record s q 0x06 1 o.addr false)

/-- R282: the MSTAMP at the head of a pair's queue writes its record, as a store of its wave; where that store
meets INTEGRITY or LINKDOWN the record is lost and the wave takes the trap at its next boundary (R303, R390). -/
def execStampRecordWrite (s : State) : Out :=
  let q := s.input.pair
  .next (match (s.pair q).queue with
    | [] => s
    | o :: _ =>
      if o.kind ≠ .stamp || o.cancelled || o.stalled || s.behind o.leader.toNat (homeDie o.addr.toNat)
          || s.landHeld o.asid o.frame o.gen then s
      else if 2 ^ 56 ≤ o.addr.toNat then stampDiscard s q o
      else
        let p := s.pair q
        let b := stampBytes o (p.stamps.find? (fun t => t.of o)) p.lost
        match coreWrite s o.leader.toNat o.lid o.asid o.addr.toNat b with
        | .ok s => stampDone s q o
        | .error .wait => s
        | .error (.page f va pa) =>
          deliver (s.setHead q { o with stalled := true }) (o.leader.toNat / 192) ((o.record s q 0x02 1 va true).ofClass f pa)
        | .error (.integrity va pa) =>
          opTrap (deliver (stampDone s q o) (o.leader.toNat / 192) (o.sectorRecord s q 1 va pa)) o 0x11 va
        | .error (.link va _) => opTrap (stampDone s q o) o 0x12 va
        | .error (.mem _) => stampDiscard s q o)

end Sys2Proof.Machine
end

