-- ==== Sys2Proof/Machine/Grid.lean ====
section
/-! DEFINITION. The life of a launch (12_launch.md R363 to R375): its record parsed, admitted, its blocks placed, its waves
created, its blocks started and ended, its waves retired, its completion; and the detectors of R94 and R374. -/

namespace Sys2Proof.Machine

/-! ### The dispatcher's own accesses -/

/-- A fault record that a launch waits on is with firmware. -/
def State.awaits (s : State) (who : Claimant) : Bool :=
  s.ccps.any (fun c => (c.2.faults ++ c.2.held).any (fun r => r.who == who))

/-- The page fault of an access that no wave makes, for a launch: its record goes to the control processor of cluster 0, and
what the device was doing is done again once firmware has served it (R295, R367, R368, R371). -/
def State.launchFault (s : State) (l : Launch) (access : BitVec 4) (f : FaultClass) (va pa : BitVec 64) : State :=
  deliver s 0 ((agentRecord 0x02 access 1 0x1FFF l.asid (s.die 0).ptc va 0 0 0 0 (.launch l.lid)).ofClass f pa)

/-! ### Parsing (R365) -/

/-- The physical address of a queue's head slot. -/
def Queue.slotAddr (q : Queue) : Nat := q.ring.toNat + 256 * q.head

/-- R365: where READY is 1 (R444), the head slot of queue `input.slot` carries the expected sequence byte; its record is copied, ACK written, and
the head advances. -/
def execLaunchRecordParse (s : State) : Out :=
  .next (match (if s.fw.ready then Table.find s.queues s.input.slot else none) with
    | none => s
    | some q =>
      match readLocal s 0 q.slotAddr 256 0 with
      | .error _ => s
      | .ok (b, t) =>
        if (b.getD 255 0).toNat ≠ q.expect then s
        else
          let s := t
          let n := Sparse.get s.parsed s.input.slot
          let lid := BitVec.ofNat 32 (s.input.slot * 2 ^ 25) + n.setWidth 32
          let l := Launch.ofRecord lid (BitVec.ofNat 2048 (ofBytes b)) (some s.input.slot) none 0 s.now
          let s := putLocal s (q.slotAddr + 254) 0 [BitVec.ofNat 8 q.expect]
          { s with
            launches := s.launches ++ [l]
            parsed := Sparse.set s.parsed s.input.slot (n + 1)
            queues := Table.put s.queues s.input.slot
              { q with head := (q.head + 1) % 2 ^ q.k, expect := q.expect % 255 + 1 } })

/-! ### Admission (R366, R367) -/

/-- A launch is eligible: its predecessor in its queue and its dependences have completed, and no record about it is with
firmware. -/
def State.eligible (s : State) (l : Launch) : Bool :=
  l.phase == .parsed && !l.ending && !s.awaits (.launch l.lid)
    && (l.queue.isNone || !(s.launches.takeWhile (fun m => m.lid != l.lid)).any
        (fun m => m.queue == l.queue && m.phase != .completed))
    && l.deps.all (fun d => (s.launch d).isNone)

/-- The launch that the dispatcher admits next: the highest priority, the earliest parsed of equals.  None is admitted before the
step of joining a domain, which no wave may observe (R396). -/
def State.nextAdmitted (s : State) : Option Launch :=
  if !s.fw.ready || s.fw.warm || s.fw.joining then none
  else (sortBy (fun a b => decide (b.prio ≤ a.prio)) (s.launches.filter s.eligible)).head?

/-- The pool that a launch names, bound to it: the slots of a pool seen before keep their generations (R85, R87). -/
def State.bindPool (s : State) (l : Launch) (p : Pool) : State :=
  let old := s.pool l.asid l.poolDesc
  let fresh : Table PoolSlot := (List.range (2 * p.npages)).map (fun i => (i, { gen := 0, pend := 0, live := false, freed := 0 }))
  let same := match old with
    | some o => o.pbase == p.pbase && o.npages == p.npages
    | none => false
  let p := { p with
    slots := if same then (old.map (·.slots)).getD fresh else fresh
    reserve := (old.map (·.reserve)).getD []
    taken := (old.map (·.taken)).getD []
    rused := if l.cls = 0 then BitVec.ofNat 64 (l.regs * l.wpb * l.blocks) else 0
    launch := some l.lid }
  let s := if old.isSome then s else { s with pools := s.pools ++ [p] }
  s.setPool p

/-- CAPSIZE of a launch's capture buffer (R424). -/
def State.capSize (s : State) (l : Launch) : Nat :=
  match readRange s 0 l.asid (l.f 0x70 8) 8 with
  | .ok (b, _) => ofBytes b
  | .error _ => 0

/-- The header of a capture buffer (R424): the record as parsed and the argument image. -/
def State.openCapture (s : State) (l : Launch) : State :=
  let buf := l.f 0x70 8
  if !l.capture then s
  else if s.capSize l < 0x1200 then
    (writeOr s l.asid (buf + 0x10) (toBytes 4 2)).onLaunch l.lid (fun l => { l with capOver := true })
  else
    let s := writeOr s l.asid (buf + 8) (toBytes 8 0x1200 ++ toBytes 4 0 ++ toBytes 4 0 ++ toBytes 232 0)
    let s := writeOr s l.asid (buf + 0x100) (toBytes 256 l.record.toNat)
    let s := match readRange s 0 l.asid (l.f 0x28 8) 4096 with
      | .ok (b, s) => writeOr s l.asid (buf + 0x200) b
      | .error _ => s
    s.onLaunch l.lid (fun l => { l with capUsed := 0x1200 })

/-! ### Placement (R369, R370) -/

/-- The element of the greatest measure, the first of equals. -/
def greatest {α : Type} (f : α → Nat) : List α → Option α
  | [] => none
  | x :: l =>
    match greatest f l with
    | none => some x
    | some y => if f y ≤ f x then some x else some y

/-- The places of a cluster free of a launch's blocks. -/
def State.freePlaces (s : State) (l : Launch) (c : Nat) : List Nat :=
  let used := (s.blocks.filter (fun b => b.lid == l.lid && b.cluster == c)).map (·.place)
  (List.range l.places).filter (fun p => !used.contains p)

/-- Where the next block of a launch goes: the die with the most free places, the cluster of it with the most, the lowest
place. -/
def State.placeFor (s : State) (l : Launch) : Option (Nat × Nat) :=
  let cs := (permitted s l).map (fun c => (c, (clusterDie s.fw.diemap c).getD 0, s.freePlaces l c))
  let onDie (b : Nat) : List (Nat × Nat × List Nat) := cs.filter (fun x => x.2.1 == b)
  let total (b : Nat) : Nat := ((onDie b).map (fun x => x.2.2.length)).foldl (· + ·) 0
  match greatest total [0, 1, 2, 3] with
  | none => none
  | some b =>
    match greatest (fun x => x.2.2.length) (onDie b) with
    | none => none
    | some x => x.2.2.head?.map (fun p => (x.1, p))

/-- The next block of a launch placed, if a place is free. -/
def State.placeBlock (s : State) (lid : BitVec 32) : Option State :=
  match s.launch lid with
  | none => none
  | some l =>
    if l.phase != .admitted || l.ending || l.blocks ≤ l.nextBlock then none
    else match s.placeFor l with
      | none => none
      | some (c, p) =>
        let b : Block := { lid := lid, blk := l.nextBlock, cluster := c, place := p, created := 0, retired := 0,
                           started := [], ended := [], halted := false, phases := [], arrived := [] }
        some ({ s with blocks := s.blocks ++ [b] }.onLaunch lid (fun l => { l with nextBlock := l.nextBlock + 1 }))

/-- As many of a launch's blocks placed as a count allows. -/
def placeMany (lid : BitVec 32) : Nat → State → State
  | 0, s => s
  | n + 1, s => placeMany lid n ((s.placeBlock lid).getD s)

/-- The launch admitted: its pool bound, its capture opened, a concurrent grid placed whole. -/
def State.admitLaunch (s : State) (l : Launch) (p : Pool) : State :=
  let s := (s.bindPool l p).onLaunch l.lid (fun l => { l with
    phase := .admitted, admittedAt := s.now, mask := ((Table.find s.fw.asids l.asid.toNat).map (·.clusters)).getD 0 })
  let s := s.openCapture l
  if l.cls = 0 then placeMany l.lid l.blocks s else s

/-- R366, R367: the next eligible launch is checked; it fails with a status, waits for its pool's page, or is admitted. -/
def execLaunchAdmission (s : State) : Out :=
  .next (match s.nextAdmitted with
    | none => s
    | some l =>
      match checkRecord s l none with
      | .error (.page f va pa) => s.launchFault l 0 f va pa
      | .error _ => s
      | .ok (st, p, s) =>
        let st := if st ≠ 0 then st else if l.deps.any (fun d => s.statusOf d != 0) then 6 else 0
        match p with
        | some p =>
          if st = 0 then s.admitLaunch l p
          else s.onLaunch l.lid (fun l => { l with ending := true, status := BitVec.ofNat 8 st })
        | none => s.onLaunch l.lid (fun l => { l with ending := true, status := BitVec.ofNat 8 st }))

/-- R370: a block of launch `input.lid` placed. -/
def execBlockPlacement (s : State) : Out := .next ((s.placeBlock s.input.lid).getD s)

/-! ### Waves (R69, R86, R371) -/

/-- A frame filled with zeros by its home (R69); no copy of its old contents is left for the new wave: no line in a core or in a
remote-data cache (R97). -/
def zeroFrame (s : State) (w : Wave) (pa k : Nat) : State :=
  let s := if isLocal pa then zeroRange s pa 65536 k else { s with mem := Sparse.clear s.mem pa 65536 }
  let other (asid : BitVec 16) (line : Nat) : Bool :=
    !(asid == w.asid && decide (w.frame.toNat / 128 ≤ line) && decide (line < w.frame.toNat / 128 + 512))
  let s : State := { s with
    cores := s.cores.map (fun p => (p.1, { p.2 with l1 := p.2.l1.filter (fun l => other l.asid l.line) }))
    dies := s.dies.map (fun p => (p.1, { p.2 with rdc := p.2.rdc.filter (fun l => other l.asid l.line) })) }
  (s.caches.map (·.1)).foldl (fun s g => s.forgetLines g w) s

/-- The scalar registers of a wave at creation (R371). -/
def initialS (l : Launch) (waveid : BitVec 64) (bx by_ bz widx : Nat) : Sparse 64 :=
  [(1, l.f 0x28 8), (2, waveid.toNat), (3, bx), (4, by_), (5, bz), (6, widx), (7, l.lid.toNat)].foldl
    (fun m p => Sparse.set m p.1 (BitVec.ofNat 64 p.2)) []

/-- A wave at its creation (R64, R69, R371, R372). -/
def newWave (l : Launch) (b : Block) (widx id : Nat) (frame : BitVec 64) (slot : Nat) (gen : BitVec 16) (now : Nat) :
    Wave :=
  let g := b.cluster * 192 + b.place * l.stride + widx % l.cpb
  let gx := l.f 0x40 4
  let gy := l.f 0x44 2
  let bx := b.blk % gx
  let by_ := b.blk / gx % gy
  let bz := b.blk / (gx * gy)
  let waveid := BitVec.ofNat 64 (widx * 2 ^ 56 + b.blk * 2 ^ 32 + l.lid.toNat)
  { Wave.blank with
    id := id, frame := frame, slot := slot, gen := gen, asid := l.asid, lid := l.lid, blk := b.blk, widx := widx,
    depth := l.depth, bx := BitVec.ofNat 32 bx, by_ := BitVec.ofNat 16 by_, bz := BitVec.ofNat 16 bz, waveid := waveid,
    origin := BitVec.ofNat 13 g, core := BitVec.ofNat 13 g, residency := .ready, born := id,
    sreg := initialS l waveid bx by_ bz widx, m := [(0, 0xFFFFFFFF)], gens := seedAll 0 gen [],
    fmtw := BitVec.ofNat 32 (l.f 0x54 4), regcnt := l.regs, spc := BitVec.ofNat 64 (l.f 0 8),
    poolptr := l.poolDesc, trampbase := BitVec.ofNat 64 (l.f 8 8) &&& 0x00FFFFFFFFFFFFF8#64,
    trapbase := BitVec.ofNat 64 (l.f 0x20 8), stagetab := BitVec.ofNat 64 (l.f 0x18 8), age := now }

/-- The first wave of a captured launch is created: TSTART (R424). -/
def State.captureStart (s : State) (l : Launch) : State :=
  if l.capture && !l.capOver && l.nextBlock == (s.blocks.filter (fun b => b.lid == l.lid)).length
      && s.blocks.all (fun b => b.lid != l.lid || b.created == 0) then
    writeOr s l.asid (l.f 0x70 8 + 0x18) (toBytes 8 (s.die 0).ptc.toNat)
  else s

/-- The next wave of a block created: the free slot least recently freed, the frame zeroed, its status block written and its stage budget read (R417).
The waves of a concurrent grid are charged at admission (R370). -/
def State.createWave (s : State) (l : Launch) (b : Block) (p : Pool) : Except AccFail State :=
  match p.freeSlots with
  | [] => .error .wait
  | (slot, x) :: _ =>
    let frame := p.frame slot
    match translate s l.asid frame.toNat .write with
    | .error e => .error e
    | .ok ((pa, k), s) =>
      let w := newWave l b b.created s.nextWave frame slot x.allot.gen s.now
      if isLocal pa && s.locked pa 65536 then .error .wait
      else
      let s := zeroFrame (s.captureStart l) w pa k
      match writeBack s w with
      | .error e => .error e
      | .ok s =>
        let used := if l.cls = 0 then p.rused else p.rused + BitVec.ofNat 64 l.regs
        let s := s.setPool { p with slots := Table.put p.slots slot x.allot, rused := used }
        let s := { s with others := s.others ++ [w], nextWave := s.nextWave + 1 }.onBlock l.lid b.blk
          (fun b => { b with created := b.created + 1 })
        .ok (((s.focus w.id).map (fun t => readBudget (t.onW (fun w => { w with budgetDue := false })) true w.spc)).getD s)

/-- A number of waves of a block created one after another, up to the first that cannot be. -/
def createMany (lid : BitVec 32) (blk : Nat) : Nat → State → State × Option AccFail
  | 0, s => (s, none)
  | n + 1, s =>
    match s.launch lid, s.block lid blk with
    | some l, some b =>
      match s.pool l.asid l.poolDesc with
      | none => (s, none)
      | some p =>
        match s.createWave l b p with
        | .error e => (s, some e)
        | .ok s => createMany lid blk n s
    | _, _ => (s, none)

/-- Waves of an earlier placed block of a launch are still to be created (R370). -/
def State.earlierWaits (s : State) (l : Launch) (b : Block) : Bool :=
  s.blocks.any (fun x => x.lid == l.lid && decide (x.blk < b.blk) && decide (x.created < l.wpb))

/-- How many waves of a block can be created now: all that remain of a concurrent or parallel block, or one (R86, R370).  A
parallel block waits for the earlier ones. -/
def State.creatable (s : State) (l : Launch) (b : Block) : Nat :=
  match s.pool l.asid l.poolDesc with
  | none => 0
  | some p =>
    let n := l.wpb - b.created
    let n := if l.cls = 2 then min n 1 else n
    let fits := decide (n ≤ p.freeSlots.length)
      && (l.cls == 0 || decide (p.rused.toNat + l.regs * n ≤ p.rbud.toNat))
    if l.phase == .admitted && !l.ending && fits && !s.awaits (.launch l.lid) && !(l.cls == 1 && s.earlierWaits l b) then n
    else 0

/-- R86, R370: the waves of block `input.blk` of launch `input.lid` that can be created are.  A page fault on a frame
waits for firmware (R83). -/
def execWaveCreation (s : State) : Out :=
  .next (match s.launch s.input.lid, s.block s.input.lid s.input.blk with
    | some l, some b =>
      match createMany l.lid b.blk (s.creatable l b) s with
      | (s, some (.page f va pa)) =>
        deliver s 0 { (agentRecord 0x01 1 2 0x1FFF l.asid (s.die 0).ptc va va 0 0 0 (.launch l.lid)).ofClass f pa with
          code := 0x01 }
      | (s, _) => s
    | _, _ => s)

/-! ### Block start (R371) -/

/-- The chords of a launch's list set on a core. -/
def setChords (g : Nat) (l : Launch) : List Nat → State → Except AccFail (Bool × State)
  | [], s => .ok (true, s)
  | j :: js, s =>
    match readRange s (s.dieOf g) l.asid (l.f 0x10 8 + 16 * j) 16 with
    | .error e => .error e
    | .ok (b, s) =>
      let k := ofBytes (b.take 8)
      let a := ofBytes (b.drop 8)
      if 32 ≤ k ∨ a % 64 ≠ 0 ∨ 2 ^ 56 ≤ a then .ok (false, s)
      else match readRange s (s.dieOf g) l.asid a 64 with
        | .error e => .error e
        | .ok (img, s) =>
          let c : Chord := { image := BitVec.ofNat 512 (ofBytes img) }
          if chsetStatus s g l.lid k c ≠ 0 then .ok (false, s)
          else
            let s := match (s.core g).chord l.lid k with
              | some old => dropChord s g l.lid k old (s.stash l.lid).1
              | none => s
            setChords g l js (setChord s g l.lid l.asid k c).2

/-- A block can start on a core: its waves are created (weakly parallel: one is), and the core's bank is the launch's; chords are
set once no line of another launch is departing (R91). -/
def State.startable (s : State) (l : Launch) (b : Block) (g : Nat) : Bool :=
  l.phase == .admitted && !l.ending && !s.awaits (.launch l.lid) && (coreSet l b).contains g && !b.started.contains g
    && (if l.cls = 2 then b.created != 0 else b.created == l.wpb)
    && (s.core g).active == some l.lid && ((s.core g).spill.isNone || l.f 0x52 1 == 0)

/-- R371: block `input.blk` of launch `input.lid` starts on core `input.core`: CHORDTAB's chords are set there.  A page
fault waits for firmware; another failure, or a status other than 0 or 1, ends the launch with status 1. -/
def execBlockStart (s : State) : Out :=
  .next (match s.launch s.input.lid, s.block s.input.lid s.input.blk with
    | some l, some b =>
      let g := s.input.core
      if !s.startable l b g then s
      else match setChords g l (List.range (min 32 (l.f 0x52 1))) s with
        | .error (.page f va pa) => s.launchFault l 0 f va pa
        | .error .wait => s
        | .error e => endLaunch (s.sectorLost l.asid 0 e) l.lid 1
        | .ok (true, s) => s.onBlock l.lid b.blk (fun b => { b with started := b.started ++ [g] })
        | .ok (false, s) => endLaunch s l.lid 1
    | _, _ => s)

/-! ### Retirement (R73, R86, R375, R456) -/

/-- The barriers of a block checked, all sixteen (R376). -/
def State.checkBarriers (s : State) (lid : BitVec 32) (blk : Nat) : State :=
  (List.range 16).foldl (fun s n => s.checkBarrier lid blk n) s

/-- The wave that moves leaves the machine: its slot and budget are freed, its block's barriers count it no more, its
children that it has not joined are forgotten. -/
def State.freeWave (s : State) : State :=
  let w := s.w
  let s := s.leaveCore.forgetLines w.core.toNat w
  let s := match s.pool w.asid w.poolptr with
    | none => s
    | some p =>
      let slots := match Table.find p.slots w.slot with
        | some x => Table.put p.slots w.slot (x.free s.now)
        | none => p.slots
      (s.setPool { p with slots := slots, rused := p.rused - BitVec.ofNat 64 w.regcnt }).retryGrow w.asid w.poolptr
  let s : State := { s with
    launches := s.launches.filter (fun l => !(l.parent == some w.id && l.phase == .completed))
    waiters := s.waiters.filter (fun x => !(x.2.1 == w.frame && x.2.2.1 == w.gen))
    w := Wave.blank }
  (s.onBlock w.lid w.blk (fun b => { b with retired := b.retired + 1 })).checkBarriers w.lid w.blk

/-- Every child that a wave launched has completed (R375). -/
def State.childless (s : State) (id : Nat) : Bool := (s.childrenOf id).all (fun l => l.phase == .completed)

/-- The scalar stream of the wave has ended and nothing of it remains to run (R107, R456). -/
def Wave.atEnd (w : Wave) : Bool :=
  w.residency == .active && w.spc == 0 && w.lq.isEmpty && !w.inhandler && w.heldTraps.isEmpty && w.wait.isNone && !w.ccp

/-- R375, R456: wave `input.wave` retires at the end of its scalar stream, or waits for its children; a wave that its
launch's end has stopped is freed (R368). -/
def execWaveRetirement (s : State) : Out :=
  .next (match s.focus s.input.wave with
    | none => s
    | some t =>
      if t.w.id = 0 then s
      else if t.w.residency == .retired then (if t.childless t.w.id then t.freeWave else s)
      else if !t.w.atEnd then s
      else if t.childless t.w.id then t.freeWave
      else t.block_ (.join 0))

/-! ### Block end (R239) -/

/-- A write-back that no wave issues fails (R238, R303, R390): a page fault waits for firmware; what a lost link or a
failing sector keeps out is lost, and a lost link ends the launch with status 8. -/
def State.backFailed (s : State) (l : Launch) (g : Nat) (who : Claimant) (code : BitVec 8) : AccFail → State
  | .page f va pa =>
    let r := (agentRecord code 5 4 (BitVec.ofNat 13 g) l.asid (s.ptcOf g) va 0 0 0 0 who).ofClass f pa
    deliver s (g / 192) { r with code := if r.code = 0x07 then 0x07 else code }
  | .integrity va pa =>
    deliver s (g / 192) { agentRecord 0x04 5 4 (BitVec.ofNat 13 g) l.asid (s.ptcOf g) va 0 0 0 0 .nobody with
      access := integrityAccess s l.asid va pa 5, paddr := pa, detail := BitVec.ofNat 16 (pa.toNat / 64 % 2) }
  | .link _ _ => endLaunch s l.lid 8
  | _ => s

/-- The failure leaves the write-back to be done again. -/
def AccFail.retried : AccFail → Bool
  | .page _ _ _ => true
  | .wait => true
  | _ => false

/-- One chord of a block leaves a core: written back, then released or retained (R239), its image with the TAG that CHTAG last gave it
(DESIGN CHOICE, log entry 103); a core whose lines are another
launch's has none of its bytes. -/
def State.endChord (s : State) (l : Launch) (g : Nat) (retain : Bool) (k : Nat) (c : Chord) : Except AccFail State :=
  let base := l.stashBase
  let gone (s : State) : State := dropChord s g l.lid k c base
  let keep (s : State) : State :=
    let co := s.core g
    let valid : Table (BitVec 128) := (s.ownLines g l.lid base c).map (fun x => (x, Sparse.get co.valid x))
    let r : Retained := { asid := l.asid, image := c.image, base := base, valid := valid.filter (fun p => p.2 != 0) }
    let s := gone s
    let co := s.core g
    s.setCore g { co with retained := (co.retained ++ [r]).drop (co.retained.length + 1 - 32) }
  let fin (s : State) : State := if retain && c.pkey != 0 then keep s else gone s
  match backLines g l.lid l.asid base c (s.ownLines g l.lid base c) s with
  | (s, none) => .ok (fin s)
  | (s, some e) =>
    if e.retried then .error e
    else .ok (fin ((backLossy s g l.lid l.asid base c).1.backFailed l g .nobody 0x05 e))

/-- The chords of a launch on a core end one after another, up to the first that must be done again. -/
def endChords (l : Launch) (g : Nat) (retain : Bool) : List ((BitVec 32 × Nat) × Chord) → State → State × Option AccFail
  | [], s => (s, none)
  | ((_, k), c) :: cs, s =>
    match s.endChord l g retain k c with
    | .error e => (s, some e)
    | .ok s => endChords l g retain cs s

/-- The live chords of a launch on a core. -/
def Core.chordsOf (c : Core) (lid : BitVec 32) : List ((BitVec 32 × Nat) × Chord) := c.chords.filter (fun x => x.1.1 == lid)

/-- The lines of a launch on a core can leave it: no line of another launch is departing while its bank is the active one (R91). -/
def Core.clear (c : Core) (lid : BitVec 32) : Bool := c.active != some lid || c.spill.isNone

/-- The last wave of a block on a core has retired. -/
def State.endable (s : State) (l : Launch) (b : Block) (g : Nat) : Bool :=
  l.phase == .admitted && !l.ending && !s.awaits (.launch l.lid) && (coreSet l b).contains g && !b.ended.contains g
    && b.created == l.wpb && (s.core g).clear l.lid
    && !s.waves.any (fun w => w.id != 0 && w.lid == l.lid && w.blk == b.blk && w.origin.toNat == g)

/-- A core of a block is done; with the last core the block's place is free (R370). -/
def State.coreEnded (s : State) (l : Launch) (b : Block) (g : Nat) : State :=
  if (coreSet l b).all (fun c => c == g || b.ended.contains c) then
    { s with blocks := s.blocks.filter (fun x => !(x.lid == l.lid && x.blk == b.blk)) }
  else s.onBlock l.lid b.blk (fun b => { b with ended := b.ended ++ [g] })

/-- R239: block `input.blk` of launch `input.lid` ends on core `input.core`. -/
def execBlockEnd (s : State) : Out :=
  .next (match s.launch s.input.lid, s.block s.input.lid s.input.blk with
    | some l, some b =>
      let g := s.input.core
      if !s.endable l b g then s
      else match endChords l g true ((s.core g).chordsOf l.lid) s with
        | (s, some e) => s.backFailed l g (.launch l.lid) 0x05 e
        | (s, none) => s.coreEnded l b g
    | _, _ => s)

/-! ### Completion (R327, R364, R368) -/

/-- Nothing that a launch's waves issued is outstanding, and their children have completed (R368). -/
def State.drained (s : State) (l : Launch) : Bool :=
  let mine (w : Wave) : Bool := w.id != 0 && w.lid == l.lid
  s.engines.all (fun e => e.2.all (fun q => q.lid != l.lid))
    && s.matOps.all (fun o => o.lid != l.lid)
    && s.requests.all (fun r => r.lid != l.lid || r.stage == .timedOut || r.stage == .late)
    && (s.waves.filter mine).all (fun w => s.childless w.id)
    && s.cores.all (fun c => c.2.spill != some l.lid && c.2.clear l.lid)
    && (if l.ending then s.waves.all (fun w => !mine w || w.residency != .active)
        else l.phase == .admitted && l.blocks ≤ l.nextBlock && s.blocks.all (fun b => b.lid != l.lid)
          && s.waves.all (fun w => !mine w))

/-- The waves of an ended launch that still hold frames, freed one after another. -/
def freeWaves : List Nat → State → State
  | [], s => s
  | i :: l, s =>
    match s.focus i with
    | some t => freeWaves l t.freeWave
    | none => freeWaves l s

/-- The chords of an ended launch on every core written back and released (R368). -/
def endCores (l : Launch) : List Nat → State → State × Option (Nat × AccFail)
  | [], s => (s, none)
  | g :: gs, s =>
    match endChords l g false ((s.core g).chordsOf l.lid) s with
    | (s, some e) => (s, some (g, e))
    | (s, none) => endCores l gs s

/-- A core with nothing of a launch. -/
def Core.forget (c : Core) (lid : BitVec 32) : Core :=
  let act := c.active == some lid
  let shd := c.shadow == some lid
  { c with
    active := if act then none else c.active
    activeWaves := if act then [] else c.activeWaves
    shadow := if shd then none else c.shadow
    shadowWaves := if shd then [] else c.shadowWaves
    preloaded := c.preloaded && !shd
    zeroed := c.zeroed.filter (fun x => x != lid)
    l1 := c.l1.filter (fun x => x.lid != lid)
    items := c.items.filter (fun x => x.1 != lid)
    savedItems := c.savedItems.filter (fun x => x.lid != lid)
    sealed := c.sealed.filter (fun x => x != lid)
    saved := c.saved.filter (fun x => x != lid)
    chords := c.chords.filter (fun x => x.1.1 != lid)
    filling := c.filling.filter (fun x => x.1 != lid) }

/-- The bytes of a completion record (R368). -/
def Launch.completion (l : Launch) (time : BitVec 64) : List Byte :=
  toBytes 4 l.status.toNat ++ toBytes 4 l.lid.toNat ++ toBytes 8 time.toNat ++ toBytes 8 l.drops.toNat ++ toBytes 8 0

/-- The launch has completed: its status is kept, its pool and cores are free, its waiting parent is ready (R364, R382). -/
def State.completed (s : State) (l : Launch) (written : Bool) : State :=
  let keep := match l.parent with
    | some p => (s.wave p).isSome
    | none => false
  let s : State := { s with
    launches := if keep then s.launches.map (fun x => if x.lid == l.lid then { x with phase := .completed } else x)
                else s.launches.filter (fun x => x.lid != l.lid || x.phase == .completed)
    statuses := ((l.lid, l.status) :: s.statuses.filter (fun x => x.1 != l.lid)).take 4096
    lost := if written then s.lost else s.lost ++ [(l.lid, l.status)]
    msix := match l.queue with
      | some q => if written && l.f 0x5B 1 / 2 % 2 == 1 then s.msix ++ [q] else s.msix
      | none => s.msix
    blocks := s.blocks.filter (fun b => b.lid != l.lid)
    cores := s.cores.map (fun p => (p.1, p.2.forget l.lid))
    pairs := s.pairs.map (fun p => (p.1, { p.2 with rotation := p.2.rotation.filter (fun x => x != l.lid) }))
    pools := s.pools.map (fun p =>
      let p := { p with taken := p.taken.filter (fun t => t.2.map (·.1) != some l.lid) }
      if p.launch == some l.lid then { p with launch := none } else p) }
  s.mapWaves (fun w =>
    match w.wait with
    | some (.join h) => if s.joinReady w.id h then w.wake else w
    | _ => w)

/-- R368: launch `input.lid` completes: what an ended launch leaves is released, the capture closed, and the completion
record written.  A page fault waits for firmware; a record that cannot be written is dropped. -/
def execGridCompletion (s : State) : Out :=
  .next (match s.launch s.input.lid with
    | none => s
    | some l =>
      if s.awaits (.launch l.lid) || !s.drained l then s
      else match endCores l (if l.ending then s.cores.map (·.1) else []) s with
        | (s, some (g, e)) => s.backFailed l g (.launch l.lid) 0x05 e
        | (s, none) =>
          let s := freeWaves ((s.waves.filter (fun w => w.id != 0 && w.lid == l.lid)).map (·.id)) s
          let l := (s.launch l.lid).getD l
          let s := if l.capture && l.phase == .admitted && !l.capOver then
              writeOr s l.asid (l.f 0x70 8 + 0x10) (toBytes 4 1) else s
          if !l.complOk then s.completed l false
          else match writeRange s 0 l.asid l.compl (l.completion (s.die 0).ptc) with
            | .ok s => s.completed l true
            | .error (.page f va pa) => s.launchFault l 1 f va pa
            | .error .wait => s
            | .error e => (s.sectorLost l.asid 1 e).completed l false)

/-! ### The stall of a launch (R374) -/

/-- A wait at a barrier. -/
def Wave.atBarrier (w : Wave) : Bool :=
  match w.wait with
  | some (.barrier _ _) => true
  | some (.grid _ _) => true
  | _ => false

/-- A wave of a stalled launch: it waits for a barrier or for CTXGROW. -/
def Wave.stuck (w : Wave) : Bool :=
  w.residency != .active && w.residency != .parked && (w.atBarrier || (match w.wait with
    | some (.grow _ _) => true
    | _ => false))

/-- The conditions of a stall hold. -/
def State.stallHolds (s : State) (l : Launch) : Bool :=
  let ws := s.waves.filter (fun w => w.id != 0 && w.lid == l.lid)
  l.phase == .admitted && !l.ending && ws.any Wave.atBarrier && ws.all Wave.stuck
    && s.blocks.all (fun b => b.lid != l.lid || b.created == l.wpb || s.creatable l b == 0)
    && (s.placeBlock l.lid).isNone

/-- The time since which each launch is stalled, kept as time passes. -/
def watchStalls (s : State) : State :=
  if s.launches.isEmpty then s
  else { s with launches := s.launches.map (fun l =>
    if s.stallHolds l then { l with stalledAt := some (l.stalledAt.getD (s.die 0).ptc) } else { l with stalledAt := none }) }

/-- BARFAULT at the barrier instruction of a wave that waits there: detail 2, a wave-stop trap. -/
def barStall (w : Wave) : TrapInfo :=
  { code := 0x13, detail := 2, addr := 0, lanes := 0, pc := w.spc, frag := none, sw := false, nr := false, stop := true }

/-- BARFAULT for the wave that moves, which waits at a barrier: a nested fault where its scalar handler waits there (R374, R406,
R407). -/
def State.barrierStalled (s : State) : State :=
  let s := { s with lane := false }
  if !s.w.atBarrier then s
  else if s.inOwnHandler then haltWith s 1 (barStall s.w) true
  else s.onW (fun w => w.interrupted (barStall w))

/-- R374: launch `input.lid` has been stalled for 1,000,000 ticks: BARFAULT for every wave of it that waits at a
barrier. -/
def execLaunchStall (s : State) : Out :=
  .next (match s.launch s.input.lid with
    | none => s
    | some l =>
      match l.stalledAt with
      | none => s
      | some t =>
        if s.stallHolds l && decide (t.toNat + 1000000 ≤ (s.die 0).ptc.toNat) then
          let mine := s.waves.filter (fun w => w.id != 0 && w.lid == l.lid && w.atBarrier)
          mine.foldl (fun s w => ((s.focus w.id).map State.barrierStalled).getD s)
            (s.onLaunch l.lid (fun l => { l with stalledAt := none }))
        else s)

/-! ### A pool that runs dry (R94) -/

/-- The wave may still free registers of its pool, or let another do so: it is active, ready or parked, or waits for an engine
or a child grid (R94). -/
def Wave.moves (w : Wave) : Bool :=
  match w.residency with
  | .active | .ready | .parked => true
  | .retired => false
  | .waiting | .swapped =>
    match w.wait with
    | some (.engine _ _) => true
    | some (.join _) => true
    | _ => false

/-- POOLDEADLOCK holds for a launch. -/
def State.deadlocked (s : State) (l : Launch) : Bool :=
  let ws := s.waves.filter (fun w => w.id != 0 && w.lid == l.lid)
  l.phase == .admitted && !l.ending && ws.any (fun w => w.growing.isSome) && ws.all (fun w => !w.moves)

/-- R94: firmware raises the budget of the pool of launch `input.lid`, or fails the youngest waiting request. -/
def execPooldeadlock (s : State) : Out :=
  .next (match s.launch s.input.lid with
    | none => s
    | some l =>
      if !s.deadlocked l then s
      else match s.pool l.asid l.poolDesc with
        | none => s
        | some p =>
          let g := growers s p
          match g.head?, g.getLast? with
          | some (_, _, need), some (_, last, _) =>
            if need ≤ p.rres.toNat - p.rbud.toNat then
              let n := min p.rres.toNat (p.rbud.toNat + (need + 1023) / 1024 * 1024)
              (s.setPool { p with rbud := BitVec.ofNat 64 n }).retryGrow p.asid p.desc
            else
              s.mapWaves (fun w =>
                if w.id == last then
                  (match w.wait with
                    | some (.grow n _) => { w with wait := some (.grow n true) }.wake
                    | _ => w)
                else w)
          | _, _ => s)

end Sys2Proof.Machine
end

