-- ==== Sys2Proof/Machine/Banks.lean ====
section
/-! DEFINITION. Residency: activation and voluntary switches (03_contexts.md R73, R84, R398), the rotation of the launches on
a pair and shadow-bank switches (R90 to R92, R219, R373), landing slots (R95, R96). -/

namespace Sys2Proof.Machine

/-! ### Waves that may be activated -/

/-- The wave is recorded as halted (R404, R412). -/
def Wave.halted (w : Wave) : Bool := w.trapcause.getLsbD 41

/-- The wave could run: ready, or swapped with nothing to wait for. -/
def Wave.canRun (w : Wave) : Bool :=
  w.id != 0 && !w.ccp && !w.halted && w.wait.isNone && (w.residency == .ready || w.residency == .swapped)

/-- The waves of a launch that could take an entry of a core's bank, the longest without one first (R84). -/
def State.runnable (s : State) (g : Nat) (lid : BitVec 32) : List Wave :=
  sortBy (fun a b => decide (a.since < b.since) || (decide (a.since = b.since) && decide (a.born ≤ b.born)))
    (s.waves.filter (fun w => w.lid == lid && w.core.toNat == g && w.place == .origin && w.canRun))

/-- Those whose block has started on the core (R371). -/
def State.waitingFor (s : State) (g : Nat) (lid : BitVec 32) : List Wave :=
  (s.runnable g lid).filter (fun w => ((s.block lid w.blk).map (fun b => b.started.contains g)).getD false)

/-- The state of the wave that moves is read afresh where its frame holds it, and the clean lines of it that a core still has
are discarded (R72); then `k`.  With the frame's page not mapped the wave parks for a context fault (R83); where a sector fails
its check or the frame cannot be reached, the wave goes on with what the device has of it and takes the trap at its next
boundary (R303, R390). -/
def State.refresh (s : State) (k : State → State) : State :=
  let keep (s : State) (code : BitVec 8) (va : BitVec 64) : State :=
    k (s.onW (fun w => { w with swapped := false }.owes code va false))
  if !s.w.swapped then k s
  else match reload s s.w with
    | .ok (w, s) => k ((s.onW (fun _ => { w with swapped := false })).forgetLines w.core.toNat w)
    | .error (.page _ _ _) =>
      deliver (s.onW (fun w => { w with residency := .parked, parkc := .ctxFault })) (ccpOf s.w)
        (waveRecord { s with lane := false } s.w 0x01 0 1 s.w.frame s.w.spc (.wave s.w.id))
    | .error (.integrity va pa) => keep (integrityRecord { s with lane := false } 0 va pa) 0x11 va
    | .error (.link va _) => keep s 0x12 va
    | .error _ => s

/-- The stage budget is read at this activation (R417). -/
def Wave.readsBudget (w : Wave) : Bool :=
  !w.budgetLost && (w.residency == .swapped || (w.fresh && w.budgetDue))

/-- That read of the wave that moves can be made. -/
def State.budgetReady (s : State) : Bool := !(s.w.readsBudget && s.budgetWaits)

/-- The wave that moves starts to issue on its core: TP, TD and the stage budget are set where R325 and R417 ask for it. -/
def State.begin (s : State) : State :=
  let w := s.w
  let fresh := w.fresh || w.residency == .swapped
  let t := s.ptcOf w.core.toNat
  let s := s.onW (fun _ =>
    { w with
      residency := .active
      switching := false
      fresh := false
      budgetDue := true
      since := s.now
      tp := if fresh then plusSkew t s.fw.skewPkg else w.tp
      td := if fresh then plusSkew t s.fw.skewDom else w.td })
  if w.readsBudget then readBudget s true s.w.spc else s

/-- The die's clock has reached the value that the wave last read (R398). -/
def State.clockReached (s : State) (w : Wave) (g : Nat) : Bool := decide (w.lastPtc.toNat ≤ (s.ptcOf g).toNat)

/-- A wave takes an entry of its core's active bank: there is one, and it is the next in turn. -/
def State.activable (s : State) (w : Wave) : Bool :=
  let c := s.core w.core.toNat
  c.active == some w.lid && decide (c.activeWaves.length < 32)
    && ((s.waitingFor w.core.toNat w.lid).head?.map (·.id)) == some w.id && s.clockReached w w.core.toNat

/-- R84, R325, R398: wave `input.wave` is given an activation entry. -/
def execWaveActivation (s : State) : Out :=
  .next (match s.focus s.input.wave with
    | none => s
    | some t =>
      if !t.activable t.w || !t.budgetReady then s
      else t.refresh (fun t =>
        let g := t.w.core.toNat
        let c := t.core g
        (t.setCore g { c with activeWaves := c.activeWaves ++ [t.w.id] }).begin))

/-- R84: wave `input.wave` has held its entry for 65,536 cycles while another waits for one. -/
def execEntryHoldExpiry (s : State) : Out :=
  .next (match s.focus s.input.wave with
    | none => s
    | some t =>
      if t.w.residency == .active && (t.core t.w.core.toNat).activeWaves.contains t.w.id && !t.w.switching
          && decide (t.w.since + 65536 ≤ t.now) && !(t.waitingFor t.w.core.toNat t.w.lid).isEmpty then t.orderSwitch
      else s)

/-- R84: wave `input.wave`, ordered off its core, leaves at a boundary at which no fragment is inside a latch chain. -/
def execVoluntarySwitch (s : State) : Out :=
  .next (match s.focus s.input.wave with
    | none => s
    | some t => if t.w.residency == .active && t.w.switching && !t.w.inChain then t.switchOut else s)

/-! ### The rotation of a pair (R373) -/

/-- The cores of a pair (R22). -/
def pairCores (q : Nat) : List Nat := [2 * q, 2 * q + 1]

/-- A launch has waves that could run on a core of the pair. -/
def State.wants (s : State) (q : Nat) (lid : BitVec 32) : Bool := (pairCores q).any (fun g => !(s.runnable g lid).isEmpty)

/-- A launch takes its turns: it is admitted, and not ended. -/
def Launch.rotates (l : Launch) : Bool := l.phase == .admitted && !l.ending

/-- The launches off a pair's banks in the order of its rotation: those that have entered, in their order, and those that now want
the pair for the first time, each before those of a lower priority, and after the launches admitted before it.  A launch that has
nothing to run keeps its place. -/
def State.rotating (s : State) (q : Nat) : List Launch :=
  let act := (s.core (2 * q)).active
  let all := (sortBy (fun a b => decide (a.admittedAt ≤ b.admittedAt)) s.launches).filter
    (fun l => l.rotates && some l.lid != act)
  let old := (s.pair q).rotation.filterMap (fun i => all.find? (fun l => l.lid == i))
  (all.filter (fun l => !(s.pair q).rotation.contains l.lid && s.wants q l.lid)).foldl
    (fun r l => insertBy (fun a b => decide (b.prio < a.prio)) l r) old

/-- The rotation: those of them that want the pair (R373). -/
def State.rotationOf (s : State) (q : Nat) : List Launch := (s.rotating q).filter (fun l => s.wants q l.lid)

/-- The active launch of a pair has a ready or active wave on one of its cores. -/
def State.busyPair (s : State) (q : Nat) : Bool :=
  (pairCores q).any (fun g =>
    match (s.core g).active with
    | none => false
    | some lid => !(s.core g).activeWaves.isEmpty || !(s.runnable g lid).isEmpty)

/-- The retained sets of a core that a launch may not meet are discarded: of another address space, or with bytes to which its
partition gives another role (R241). -/
def Core.discard (c : Core) (l : Launch) : Core :=
  { c with retained := c.retained.filter (fun r => r.asid == l.asid
      && decide (l.stashBase ≤ r.base + ({ image := r.image } : Chord).soff)) }

/-- The items of a launch leave a core's queue, in order, with its sealed flag, for memory of the launch's reservation
(R126). -/
def Core.saveItems (c : Core) (lid : BitVec 32) : Core :=
  let mine := c.items.filter (fun x => x.1 == lid)
  if mine.isEmpty && !c.sealed.contains lid then c
  else { c with
    items := c.items.filter (fun x => x.1 != lid)
    sealed := c.sealed.filter (fun x => x != lid)
    savedItems := c.savedItems ++ [{ lid := lid, items := mine.map (·.2), isSealed := c.sealed.contains lid }] }

/-- The saved items of a launch stand in a core's queue again, ahead of its newer ones, with its sealed flag, which a newer push
has cleared (R126, R134). -/
def Core.restoreItems (c : Core) (lid : BitVec 32) : Core :=
  (c.savedItems.filter (fun x => x.lid == lid)).foldr (fun x (c : Core) =>
    { c with
      items := x.items.map (fun i => (lid, i)) ++ c.items
      sealed := if x.isSealed && c.items.all (fun y => y.1 != lid) && !c.sealed.contains lid then c.sealed ++ [lid] else c.sealed })
    { c with savedItems := c.savedItems.filter (fun x => x.lid != lid) }

/-- A launch is preloaded in a core's shadow bank with some of its waves: the items of the bank's previous launch are saved, its own
restored.  Chord images stay in the chord table meanwhile, a copy of them standing in the reservation (DESIGN CHOICE, log entry
90). -/
def Core.preload (c : Core) (l : Launch) (waves : List Nat) : Core :=
  let c := match c.shadow with
    | some p => if p = l.lid then c else c.saveItems p
    | none => c
  { (c.restoreItems l.lid).discard l with shadow := some l.lid, shadowWaves := waves, preloaded := true }

/-- The states of preloaded waves read from their frames: each is ready then (R90). -/
def preloadWaves : List Nat → State → State
  | [], s => s
  | i :: l, s =>
    match s.focus i with
    | none => preloadWaves l s
    | some t =>
      if t.w.residency == .swapped then
        preloadWaves l (t.refresh (fun t => t.onW (fun w => { w with residency := .ready, fresh := true, budgetDue := true })))
      else preloadWaves l s

/-- What the CCP saves of a launch on a core, as it writes it: the items in order, then the parameter images of the live chords
(R126, R225; log entry 90). -/
def Core.savedBytes (c : Core) (lid : BitVec 32) : List Byte :=
  (c.items.filter (fun x => x.1 == lid)).flatMap (fun x => toBytes 4 x.2.toNat)
    ++ (c.chords.filter (fun x => x.1.1 == lid)).flatMap (fun x => toBytes 64 x.2.image.toNat)

/-- The CCP saves them in a frame that it takes from the launch's reservation on the core's die, and keeps until the launch
retires; with none free it keeps them itself (log entry 90). -/
def State.saveMemory (s : State) (g : Nat) (lid : BitVec 32) : State :=
  let b := (s.core g).savedBytes lid
  match (s.launch lid).bind (fun l => s.pool l.asid l.poolDesc) with
  | none => s
  | some p =>
    if b.isEmpty then s
    else match p.taken.find? (fun t => t.2 == some (lid, g)) with
    | some t => putLocal s t.1 0 b
    | none =>
      match s.freeFrames p (s.dieOf g) with
      | [] => s
      | f :: _ => putLocal (s.takeFrame p f (some (lid, g))) f 0 b

/-- R90, R126, R225: the next launch in rotation is preloaded in both shadow banks of pair `input.pair`, its oldest ready waves with
their state; not before the spill engine has written the state of the banks' previous entries, unless they are its own (R91). -/
def execShadowBankPreload (s : State) : Out :=
  .next (
    let q := s.input.pair
    match s.rotationOf q with
    | [] => s
    | l :: _ =>
      let done (g : Nat) : Bool := (s.core g).preloaded && (s.core g).shadow == some l.lid
      let held (g : Nat) : Bool := !(s.core g).departing.isEmpty && (s.core g).spill != some l.lid
      if (pairCores q).all done || (pairCores q).any held then s
      else
        let s := s.setPair q { s.pair q with rotation := (s.rotating q).map (·.lid) }
        (pairCores q).foldl (fun s g =>
          let ids := ((s.runnable g l.lid).take 32).map (·.id)
          let s := preloadWaves ids s
          let s := match (s.core g).shadow with
            | some p => if p = l.lid then s else s.saveMemory g p
            | none => s
          s.setCore g ((s.core g).preload l ids)) s)

/-- R373: the slice of the launch in the active banks of pair `input.pair` ends: its time is over, it has nothing to run,
or a launch of a higher priority has been admitted since. -/
def execSliceExpiry (s : State) : Out :=
  .next (
    let q := s.input.pair
    let c := s.core (2 * q)
    match c.active.bind s.launch with
    | none => s
    | some a =>
      let rot := s.rotationOf q
      let over_ := decide (c.switched + 65536 * (a.prio + 1) ≤ s.now) || !s.busyPair q
        || rot.any (fun l => decide (a.prio < l.prio) && decide (c.switched ≤ l.admittedAt))
      if rot.isEmpty || !over_ then s else s.setPair q { s.pair q with due := true })

/-! ### Switches (R90 to R92, R219, R242, R254) -/

/-- The stash of a launch zeroed on a core, except retained sets of its address space (R219, R243). -/
def Core.zeroStash (c : Core) (l : Launch) : Core :=
  let kept (a : Nat) : Bool := c.retained.any (fun r =>
    let ch : Chord := { image := r.image }
    r.asid == l.asid && decide (r.base + ch.soff ≤ a) && decide (a < r.base + ch.soff + ch.len))
  { c with store := c.store.filter (fun p => decide (p.1 < l.stashBase) || kept p.1), zeroed := c.zeroed ++ [l.lid] }

/-- Where a launch's tiles of a core are saved (R85). -/
def State.accSave (s : State) (l : Launch) (g : Nat) : Nat :=
  (((s.pool l.asid l.poolDesc).map (·.accsave.toNat)).getD 0) + g * (16384 * l.accGran)

/-- Tiles of which nothing is said: free words (log entry 7). -/
def freeTiles (s : State) (n : Nat) : Sparse 32 :=
  (List.range n).foldl (fun m k => Sparse.set m k ((Config.freeWord (s.free + k)).setWidth 32)) []

/-- The tiles that a list of bytes holds. -/
def tilesOf (n : Nat) (b : List Byte) : Sparse 32 :=
  (List.range n).foldl (fun m k => Sparse.set m k (BitVec.ofNat 32 (ofBytes ((b.drop (4 * k)).take 4)))) []

/-- A launch's lines take a core's local store: its stash is zeroed the first time, its tiles come from their save area, or
hold free values where they were never saved. -/
def arrive (s : State) (g : Nat) (l : Launch) (lossy : Bool) : Except AccFail State :=
  let c := (s.core g).discard l
  let c := if c.zeroed.contains l.lid then c else c.zeroStash l
  let n := 4096 * l.accGran
  let put (s : State) (t : Sparse 32) : State :=
    s.setCore g { c with tiles := t, saved := c.saved.filter (fun x => x != l.lid), tileLid := some l.lid }
  if c.tileLid = some l.lid then .ok (s.setCore g c)
  else if lossy || !c.saved.contains l.lid then .ok (put { s with free := s.free + n } (freeTiles s n))
  else match readRange s (s.dieOf g) l.asid (s.accSave l g) (4 * n) with
    | .error e => .error e
    | .ok (b, s) => .ok (put s (tilesOf n b))

/-- Preloaded waves that still can run become active (R90); one whose block has yet to start, or whose die's clock is behind, waits
for its activation. -/
def beginAll (g : Nat) : List Nat → State → State
  | [], s => s
  | i :: l, s =>
    match s.focus i with
    | none => beginAll g l s
    | some t =>
      if (t.waitingFor g t.w.lid).any (fun w => w.id == i) && t.clockReached t.w g && !t.w.swapped && t.budgetReady then
        let c := t.core g
        beginAll g l ((t.setCore g { c with activeWaves := c.activeWaves ++ [i] }).begin)
      else beginAll g l s

/-- The lines of a departing launch's chords on a core that hold bytes of it, but for those that were departing already (R90,
R242). -/
def State.leavingLines (s : State) (g : Nat) (a : Launch) : List Nat :=
  let c := s.core g
  (((c.chordsOf a.lid).flatMap (fun x => x.2.lines a.stashBase)).eraseDups).filter (fun line =>
    (Sparse.get c.valid line ||| Sparse.get c.dirty line ||| Sparse.get c.pub line) != 0 && !c.leaving.contains line)

/-- The switch on one core: the departing launch's waves leave their entries as they stand, its lines depart, its fills
are cancelled, and the preloaded bank is the active one.  Lines of the incoming launch that were departing are in place
(R92). -/
def switchCore (incoming : Launch) (g : Nat) (s : State) : State :=
  let c := (s.core g).discard incoming
  let mine (w : Wave) : Bool := some w.lid == c.active && w.core.toNat == g && w.place == .origin && w.id != 0
  let s := s.mapWaves (fun w =>
    if mine w && w.residency == .active then
      { w.restart with residency := if w.wait.isSome then .waiting else .ready, switching := false }
    else w)
  let s := s.setCore g { c with
    active := some incoming.lid
    activeWaves := []
    shadow := c.active
    shadowWaves := []
    preloaded := false
    spill := c.active
    departing := (s.waves.filter (fun w => mine w && (w.residency == .ready || w.residency == .waiting))).map (·.id)
    leaving := ((c.active.bind s.launch).map (s.leavingLines g)).getD []
    filling := c.filling.filter (fun x => some x.1 != c.active)
    collector := none
    switched := s.now
    l1 := c.l1.filter (fun x => some x.lid != c.active) }
  beginAll g c.shadowWaves (s.trimLines g (recField incoming.record 0x4D 1 * 128))

/-- The switch of a pair is due: ordered by the rotation, or the active launch has nothing to run. -/
def State.switchDue (s : State) (q : Nat) : Bool := (s.pair q).due || (s.core (2 * q)).active.isNone || !s.busyPair q

/-- The incoming launch takes the cores that no departing launch holds, one after another, up to the first that must
wait. -/
def arriveAll (l : Launch) : List Nat → State → State × Option (Nat × AccFail)
  | [], s => (s, none)
  | g :: gs, s =>
    if (s.core g).active.isSome || (s.core g).spill.isSome then arriveAll l gs s
    else match arrive s g l false with
      | .ok s => arriveAll l gs s
      | .error e =>
        if e.retried then (s, some (g, e))
        else match arrive s g l true with
          | .ok s => arriveAll l gs (s.backFailed l g .nobody 0x05 e)
          | .error _ => arriveAll l gs s

/-- The preloaded launch may take a pair: it heads the rotation (R373); no other launch's lines are departing, and where its own
are, which are then used in place, no operation of the active launch stands in the pair's queue (R91, R92, R254). -/
def State.mayTake (s : State) (q : Nat) (l : Launch) : Bool :=
  ((s.rotationOf q).head?.map (·.lid)) == some l.lid
    && (pairCores q).all (fun g =>
      let c := s.core g
      c.preloaded && c.shadow == some l.lid && (c.spill.isNone || (c.spill == some l.lid
        && (s.pair q).queue.all (fun o => some o.lid != c.active))))

/-- R90, R254: the preloaded launch takes the active banks of both cores of pair `input.pair`; the departing launch goes to
the back of the rotation. -/
def execShadowBankSwitch (s : State) : Out :=
  .next (
    let q := s.input.pair
    match ((s.core (2 * q)).shadow).bind s.launch with
    | none => s
    | some l =>
      if !s.mayTake q l || !s.switchDue q || (pairCores q).any (fun g => s.awaits (.spill g)) then s
      else match arriveAll l (pairCores q) s with
        | (s, some (g, e)) => s.backFailed l g (.spill g) 0x05 e
        | (s, none) =>
          let rest := (s.rotating q).filter (fun x => x.lid != l.lid)
          let old := ((s.core (2 * q)).active.bind s.launch).toList.filter Launch.rotates
          let s := (pairCores q).foldl (fun s g => switchCore l g s) s
          s.setPair q { s.pair q with due := false, rotation := (rest ++ old).map (·.lid) })

/-! ### The spill engine (R83, R91) -/

/-- The departing waves' states written into their frames: a wave becomes swapped, parks where its frame's page is not mapped
(R83), or takes LINKDOWN where its frame cannot be reached (R390). -/
def spillWaves (g : Nat) : List Nat → State → State
  | [], s => s
  | i :: l, s =>
    match s.wave i with
    | none => spillWaves g l s
    | some w =>
      let set (s : State) (f : Wave → Wave) : State := s.mapWaves (fun x => if x.id == i then f x else x)
      match writeBack s { w with swapped := true } with
      | .ok s => spillWaves g l (set s (fun w => { w with residency := .swapped, swapped := true }))
      | .error (.page _ _ _) =>
        let s := set s (fun w => { w with residency := .parked, parkc := .ctxFault })
        spillWaves g l (deliver s (g / 192) (waveRecord { s with lane := false } w 0x01 5 4 (w.frame + 0x9000) 0 (.wave i)))
      | .error .wait => spillWaves g l s
      | .error e => spillWaves g l (set (s.frameLost w 4 w.frame false e) (fun w => { w with fresh := true }))

/-- The departing lines of a launch's chords written back, no longer VALID and no longer departing (R242). -/
def spillChords (l : Launch) (g : Nat) : List ((BitVec 32 × Nat) × Chord) → State → State × Option AccFail
  | [], s => (s, none)
  | (_, c) :: cs, s =>
    let lines := (c.lines l.stashBase).filter (s.core g).leaving.contains
    let clear (s : State) : State :=
      let co := s.core g
      s.setCore g { co with
        valid := lines.foldl (fun v x => Sparse.set v x 0) co.valid
        leaving := co.leaving.filter (fun x => !lines.contains x) }
    match backLines g l.lid l.asid l.stashBase c lines s with
    | (s, none) => spillChords l g cs (clear s)
    | (s, some e) =>
      if e.retried then (s, some e)
      else spillChords l g cs (clear ((backLossy s g l.lid l.asid l.stashBase c).1.backFailed l g .nobody 0x05 e))

/-- The tiles of a departing launch written to their save area, where the core holds them. -/
def saveTiles (s : State) (g : Nat) (l : Launch) : Except AccFail State :=
  if l.accGran = 0 || (s.core g).tileLid != some l.lid then .ok s
  else
    let t := (s.core g).tiles
    match writeRange s (s.dieOf g) l.asid (s.accSave l g) ((List.range (4096 * l.accGran)).flatMap
        (fun k => toBytes 4 (Sparse.get t k).toNat)) with
    | .error e => .error e
    | .ok s =>
      let c := s.core g
      .ok (s.setCore g { c with saved := c.saved.filter (fun x => x != l.lid) ++ [l.lid] })

/-- The departing lines are gone: the incoming launch takes the local store. -/
def spillDone (s : State) (g : Nat) : State :=
  let fin (s : State) : State := s.setCore g { s.core g with spill := none, departing := [], leaving := [] }
  match ((s.core g).active).bind s.launch with
  | none => fin s
  | some m =>
    match arrive s g m false with
    | .ok s => fin s
    | .error e =>
      if e.retried then s.backFailed m g (.spill g) 0x05 e
      else match arrive s g m true with
        | .ok s => fin (s.backFailed m g .nobody 0x05 e)
        | .error _ => s

/-- R91: the spill engine of core `input.core` writes back the departing launch's waves; and its stash lines and tiles, once its
last matrix operation has retired (R254).  A page fault waits for firmware. -/
def execSpillWriteback (s : State) : Out :=
  .next (
    let g := s.input.core
    match ((s.core g).spill).bind s.launch with
    | none => s
    | some l =>
      if s.awaits (.spill g) then s
      else
        let ids := (s.waves.filter (fun w => w.lid == l.lid && w.core.toNat == g && w.place == .origin && w.id != 0
          && (w.residency == .ready || w.residency == .waiting))).map (·.id)
        let held := ids.any (fun i => ((s.wave i).map s.frameHeld).getD false)
        let s := spillWaves g ids s
        if held then s
        else
        let s := s.setCore g { s.core g with departing := [] }
        if (s.pair (g / 2)).queue.any (fun o => o.lid == l.lid) then s
        else match spillChords l g ((s.core g).chordsOf l.lid) s with
        | (s, some e) => s.backFailed l g (.spill g) 0x05 e
        | (s, none) =>
          match saveTiles s g l with
          | .ok s => spillDone s g
          | .error e => if e.retried then s.backFailed l g (.spill g) 0x05 e else spillDone (s.backFailed l g .nobody 0x05 e) g)

/-! ### Landing slots (R95, R96, R99) -/

/-- A wave in transit that could run. -/
def Wave.inTransit (w : Wave) : Bool := w.place == .transit && w.canRun

/-- Another wave in transit targets a base die, whether it could run or waits or is parked (R96). -/
def State.wanted (s : State) (b id : Nat) : Bool :=
  s.waves.any (fun w => w.id != 0 && w.id != id && w.place == .transit && w.residency != .retired
    && (w.target.map (fun t => s.dieOf t.toNat)) == some b)

/-- Waves in transit to a base die, oldest first. -/
def State.bound (s : State) (b : Nat) : List Wave :=
  sortBy (fun a b => decide (a.born ≤ b.born)) (s.waves.filter (fun w => w.inTransit
    && ((w.target.map (fun t => s.dieOf t.toNat)) == some b)))

/-- The landing slot of a core that no wave holds; none when both are held. -/
def State.freeLanding (s : State) (g : Nat) : Option Bool :=
  let used := s.waves.filterMap (fun w => if (s.core g).landing.contains w.id then
    (match w.place with
      | .landing k => some k
      | _ => none) else none)
  [false, true].find? (fun k => !used.contains k)

/-- R96: wave `input.wave`, in transit, takes a free landing slot of core `input.core` of its target die and resumes
there; a wave on its way home is placed again on its ORIGIN core. -/
def execLandingSlotAcquire (s : State) : Out :=
  .next (match s.focus s.input.wave with
    | none => s
    | some t =>
      if !t.w.inTransit then s
      else match t.w.target with
        | none => t.onW (fun w => { w with place := .origin, core := w.origin, fresh := true })
        | some x =>
          let g := s.input.core
          let b := s.dieOf x.toNat
          match t.freeLanding g with
          | none => s
          | some k =>
            if 4224 ≤ g ∨ t.dieOf g ≠ b ∨ ((t.bound b).head?.map (·.id)) ≠ some t.w.id
                ∨ t.clockReached t.w g = false ∨ t.budgetReady = false then s
            else
              (t.onW (fun w => { w with core := BitVec.ofNat 13 g })).refresh (fun t =>
                let c := t.core g
                ((t.setCore g { c with landing := c.landing ++ [t.w.id] }).onW
                  (fun w => { w with place := .landing k, target := none })).begin))

/-- R96: wave `input.wave` has held its landing slot for 65,536 cycles while another wave in transit targets its base
die.  It gives the slot up as at a voluntary switch, once no latch chain runs, and its latches are invalid (DESIGN CHOICE: R96 does
not say what kind of switch it is; log entry 47). -/
def execLandingSlotExpiry (s : State) : Out :=
  .next (match s.focus s.input.wave with
    | none => s
    | some t =>
      let held := match t.w.place with
        | .landing _ => t.w.residency == .active && !t.w.switching && decide (t.w.since + 65536 ≤ t.now)
        | _ => false
      if held && t.wanted (t.dieOf t.w.core.toNat) t.w.id then t.orderSwitch else s)

/-! ### Presence in the caches (R79, R80, R117) -/

/-- A fill of a line of an active wave's frame that is not present, by its number in the input. -/
def State.fill (s : State) (ok : Wave → Bool) (k : State → State) : Out :=
  .next (match s.focus s.input.wave with
    | none => s
    | some t => if t.w.residency == .active && ok t.w then k { t with lane := false } else s)

/-- R80, R81: line `input.index` of the main file of wave `input.wave` (0 to 255 a register, 256 to 287 eight sidecars)
is fetched into the register cache. -/
def execRegisterCacheFill (s : State) : Out :=
  let n := s.input.index
  s.fill (fun w => decide (n < 288) && (if n < 256 then decide (n < w.regcnt) else decide (8 * (n - 256) < w.regcnt)))
    (fun t => if t.present t.w (.main n) then t else t.fetchLine (.main n) 0)

/-- R79: slot `input.index` of wave `input.wave` is fetched into the operand file. -/
def execOperandFileFill (s : State) : Out :=
  let n := s.input.index
  s.fill (fun _ => decide (n < 16)) (fun t => if t.present t.w (.operand n) then t else t.fetchLine (.operand n) 0)

/-- R117: entry `input.index` of the split table of wave `input.wave` is fetched into the core. -/
def execSplitEntryFill (s : State) : Out :=
  let n := s.input.index
  s.fill (fun w => decide (n < 32) && !w.splitCache.contains n) (fun t =>
    let f : State := { t with lane := true, frag := n }
    { f.frameMiss (0x9D00 + 32 * n) 32 f.entry.lmask (fun t => t.useEntry n) with lane := false, frag := s.frag })

end Sys2Proof.Machine
end

