-- ==== Sys2Proof/Machine/CrossLane.lean ====
section
/-! DEFINITION. Cross-lane instructions (06_lane_arith.md R208 to R215). -/

namespace Sys2Proof.Machine

/-- A cross-lane instruction: `wide` are the sources read in all 32 lanes (R208, R209), `srcs` the others; a tagged
main-file source is ROTTAG.  `f` gives the words of the active lanes and the flags. -/
def State.crossLane (s : State) (a : LaneArgs) (srcs wide : List Src) (code : Nat)
    (f : State → Word32 → (Nat → Word32) × Sticky) : State :=
  let u : LaneUse := { srcs := srcs ++ wide, runs := wide.filterMap mainRegOf,
                       dsts := if a.w then [] else [a.vd.toNat], wide := wide }
  s.laneBegin a u (fun act =>
    if act ≠ 0 && s.tagged (srcs ++ wide) then s.trapL 0x08 0 0 act false
    else
      let r := f s act
      s.laneResult a act code 0 r.1 r.2)

/-- A cross-lane instruction that writes nothing, no latch included, when no lane is active (R213, R215). -/
def State.crossLaneAny (s : State) (a : LaneArgs) (code : Nat) (f : State → Word32 → (Nat → Word32) × Sticky) : State :=
  if s.active a.mask = 0 then
    s.laneBegin a { srcs := [a.sa], runs := [], dsts := if a.w then [] else [a.vd.toNat] } (fun _ => s.laneNext false)
  else s.crossLane a [a.sa] [] code f

/-- A source at level 0b11 as a signed 32-bit number. -/
def State.uniformInt (s : State) (a : LaneArgs) (x : Src) : Int :=
  match x with
  | .small v => v.toInt
  | .konst n => ((s.w.rk n.toNat).setWidth 32).toInt
  | .imm => a.imm.toInt
  | _ => 0

/-- Element `e` of a source over all lanes; of a 6-bit element, bits 7:6 are ignored (R144). -/
def State.elementAt (s : State) (a : LaneArgs) (x : Src) (e : Nat) : Nat :=
  let code := a.ty.toNat
  elementOf (containerBits code) (s.src code a.imm x (e / epl code)) (e % epl code) % 2 ^ elementBits code

/-- The lane words of a function of the element number. -/
def fromElements (code : Nat) (f : Nat → Nat) (L : Nat) : Word32 :=
  packElements (containerBits code) ((List.range (epl code)).map (fun p => f (L * epl code + p)))

/-- R210. -/
def execVslide (a : LaneArgs) (s : State) : Out :=
  let code := a.ty.toNat
  let n := 32 * epl code
  let fill := a.mods.toNat % 4
  .next (s.crossLane a [a.sb] (if fill = 1 then [a.sa, a.sc] else [a.sa]) code (fun s _ =>
    let c := s.uniformInt a a.sb
    let one (e : Nat) : Nat :=
      let j : Int := e + c
      if 0 ≤ j ∧ j < n then s.elementAt a a.sa j.toNat
      else if fill = 1 ∧ (n : Int) ≤ j ∧ j < 2 * n then s.elementAt a a.sc (j - n).toNat
      else if fill = 1 ∧ -(n : Int) ≤ j ∧ j < 0 then s.elementAt a a.sc (j + n).toNat
      else if fill = 2 then s.elementAt a a.sa (if j < 0 then 0 else n - 1)
      else 0
    (fromElements code one, 0)))

/-- R211; a small immediate is the index itself under every type, which it has to be exact in (DESIGN CHOICE, log entry 102). -/
def execVshuf (a : LaneArgs) (s : State) : Out :=
  let code := a.ty.toNat
  let n := 32 * epl code
  .next (s.crossLane a [a.sb] [a.sa] code (fun s _ =>
    let one (e : Nat) : Nat :=
      let i := match a.sb with
        | .small v => v.toNat
        | x => s.elementAt a x e
      if i < n then s.elementAt a a.sa i else 0
    (fromElements code one, 0)))

/-- R212: a negative small immediate reads as an unsigned number above every index (log entry 81). -/
def execVbcast (a : LaneArgs) (s : State) : Out :=
  let code := a.ty.toNat
  .next (s.crossLane a [a.sb] [a.sa] code (fun s _ =>
    let i := (BitVec.ofInt 32 (s.uniformInt a a.sb)).toNat
    let x := if i < 32 * epl code then s.elementAt a a.sa i else 0
    (fromElements code (fun _ => x), 0)))

/-! ### VRED, VSCAN (R213, R214) -/

/-- The identity of an operation by type (R212). -/
def redIdentity (op ty : Nat) : Word32 :=
  if ty = 8 then (if op = 0 then 0x80000000 else if op = 1 then 0x7F800000 else 0xFF800000)
  else match op with
    | 1 => if ty = 1 then 0xFFFFFFFF else 0x7FFFFFFF
    | 2 => if ty = 1 then 0 else 0x80000000
    | 3 => 0xFFFFFFFF
    | _ => 0

/-- Combine on words, but integer ADD (R213). -/
def redCombine (op ty : Nat) (m : Rm) (fz : Bool) (x y : Word32) : Word32 × Sticky :=
  if ty = 8 then
    if op = 0 then
      let r := faddElement 8 m fz x.toNat y.toNat
      (BitVec.ofNat 32 r.1, r.2)
    else (BitVec.ofNat 32 (fMinMax (op == 2) 8 fz x.toNat y.toNat), 0)
  else match op with
    | 1 => (if wordValue (ty == 1) y < wordValue (ty == 1) x then y else x, 0)
    | 2 => (if wordValue (ty == 1) x < wordValue (ty == 1) y then y else x, 0)
    | 3 => (x &&& y, 0)
    | 4 => (x ||| y, 0)
    | 5 => (x ^^^ y, 0)
    | _ => (x + y, 0)

/-- An exact integer sum as a lane word: wrapped, or clamped with QC (R213). -/
def redSum (sat uns : Bool) (t : Int) : Word32 × Sticky := if sat then satWord uns t else (BitVec.ofInt 32 t, 0)

/-- A value with the flags of every Combine that formed it. -/
abbrev Flagged := Word32 × Sticky

/-- Combine with the flags of both sides. -/
def combineF (op ty : Nat) (m : Rm) (fz : Bool) (x y : Flagged) : Flagged :=
  let r := redCombine op ty m fz x.1 y.1
  (r.1, r.2 ||| x.2 ||| y.2)

/-- One level of the tree: neighbours combined. -/
def redLevel (f : Flagged → Flagged → Flagged) : List Flagged → List Flagged
  | x :: y :: l => f x y :: redLevel f l
  | l => l

/-- The values that enter: an active lane's word, or the identity. -/
def redInputs (s : State) (a : LaneArgs) (act : Word32) : List Flagged :=
  (List.range 32).map (fun L => (if act.getLsbD L then srcA s a L else redIdentity (a.mods.toNat % 8) a.ty.toNat, 0))

/-- R213. -/
def execVred (a : LaneArgs) (s : State) : Out :=
  let ty := a.ty.toNat
  let op := a.mods.toNat % 8
  .next (s.crossLaneAny a ty (fun s act =>
    let ts := redInputs s a act
    let r : Flagged :=
      if ty ≠ 8 ∧ op = 0 then
        redSum (a.mods.getLsbD 3) (ty == 1) (ts.foldl (fun n t => n + wordValue (ty == 1) t.1) 0)
      else
        let lv := redLevel (combineF op ty (rmOfFmt s.fmtc) (fmtFZ s.fmtc))
        (lv (lv (lv (lv (lv ts))))).headD (0, 0)
    (fun _ => r.1, r.2)))

/-- One level of the prefix: each lane from `d` on combines with the lane `d` below. -/
def scanLevel (f : Flagged → Flagged → Flagged) (d : Nat) (l : List Flagged) : List Flagged :=
  l.zipIdx.map (fun p => if d ≤ p.2 then f (l[p.2 - d]?.getD (0, 0)) p.1 else p.1)

/-- R214: the flags of an active lane are those of every Combine of its inclusive prefix, also of those at inactive lanes (log
entry 81).  Lane 0 meets no Combine, so its source passes as it is, a subnormal under FZ too (DESIGN CHOICE, log entry
100). -/
def execVscan (a : LaneArgs) (s : State) : Out :=
  let ty := a.ty.toNat
  let op := a.mods.toNat % 8
  .next (s.crossLane a [a.sa] [] ty (fun s act =>
    let ts := redInputs s a act
    let incl : List Flagged :=
      if ty ≠ 8 ∧ op = 0 then
        (List.range 32).map (fun L => redSum (a.mods.getLsbD 3) (ty == 1)
          ((ts.take (L + 1)).foldl (fun n t => n + wordValue (ty == 1) t.1) 0))
      else
        let f := combineF op ty (rmOfFmt s.fmtc) (fmtFZ s.fmtc)
        [1, 2, 4, 8, 16].foldl (fun l d => scanLevel f d l) ts
    let out := if a.mods.getLsbD 4 then (redIdentity op ty, 0) :: incl.take 31 else incl
    (fun L => (out[L]?.getD (0, 0)).1, activeFlags1 act (incl.map (·.2)))))
where
  /-- The flags of the active lanes (R186). -/
  activeFlags1 (act : Word32) (fs : List Sticky) : Sticky :=
    flagsOr (fs.zipIdx.map (fun p => if act.getLsbD p.2 then p.1 else 0))

/-- R215. -/
def execVballot (a : LaneArgs) (s : State) : Out :=
  .next (s.crossLaneAny a 1 (fun s act =>
    let b := maskOf (fun L => act.getLsbD L && srcA s a L != 0)
    (fun _ => b, 0)))

end Sys2Proof.Machine
end

