-- ==== Sys2Proof/Machine/Engines.lean ====
section
/-! DEFINITION. The copy engines: a command's run, its faults and its completion, and the event queues (11_engines.md R342,
R347 to R359). -/

namespace Sys2Proof.Machine

/-! ### The running checksum (R351 to R353) -/

/-- One bit of CRC-32C. -/
def crc32Bits : Nat → BitVec 32 → BitVec 32
  | 0, c => c
  | n + 1, c => crc32Bits n (if c.getLsbD 0 then (c >>> 1) ^^^ 0x82F63B78 else c >>> 1)

/-- One byte of CRC-32C (R352). -/
def crc32Byte (c : BitVec 32) (b : Byte) : BitVec 32 := crc32Bits 8 (c ^^^ b.setWidth 32)

/-- The product of two reflected polynomials modulo CRC-32C's: the bits of `a` from the highest. -/
def crcMul : Nat → BitVec 32 → BitVec 32 → BitVec 32 → BitVec 32
  | 0, _, _, p => p
  | n + 1, a, b, p => crcMul n (a <<< 1) (crc32Bits 1 b) (if a.getLsbD 31 then p ^^^ b else p)

/-- x to the power 8·n: the square-and-multiply bits of `n`. -/
def crcPower : Nat → Nat → BitVec 32 → BitVec 32 → BitVec 32
  | 0, _, _, r => r
  | k + 1, n, sq, r => crcPower k (n / 2) (crcMul 32 sq sq 0) (if n % 2 = 1 then crcMul 32 r sq 0 else r)

/-- A running value moved past `n` zero bytes. -/
def crcShift (n : Nat) (c : BitVec 32) : BitVec 32 := crcMul 32 (crcPower 40 n 0x00800000 0x80000000) c 0

/-! ### Streams (R347, R348) -/

/-- The generic address of stream byte `j` of a CPY, CPYR or CPYC. -/
def streamAt (d : BitVec 512) (dst : Bool) (j : Nat) : Int :=
  let n0 := dN d 0
  let n1 := dN d 1
  let base : Int := if dst then dDst d else dSrc d
  base + (j / (n0 * n1) : Nat) * dI d (if dst then 0x24 else 0x1C)
    + (j / n0 % n1 : Nat) * dI d (if dst then 0x20 else 0x18) + (j % n0 : Nat)

/-- Two extents meet. -/
def spansMeet (a b : Int × Int) : Bool := decide (a.1 < b.2) && decide (b.1 < a.2)

/-- The source of tile `t` meets the destination of another tile: the tiles `u` whose destination meets it lie between
two bounds. -/
def tileMeets (d : BitVec 512) (t : Nat) : Bool :=
  let a := spanOf 1 d false
  let b := spanOf 1 d true
  let src : Int := dSrc d + t * dI d 0x38
  let step := dI d 0x3C
  -- u·step lies strictly between lo and hi
  let lo : Int := src + a.1 - (dDst d : Int) - b.2
  let hi : Int := src + a.2 - (dDst d : Int) - b.1
  let n : Int := dNt d
  if step = 0 then decide (lo < 0) && decide (0 < hi) && decide (1 < n)
  else
    let r : Int × Int := if 0 < step then (lo / step + 1, (hi - 1) / step)
      else ((-hi) / (-step) + 1, (-lo - 1) / (-step))
    let u0 := max 0 r.1
    let u1 := min (n - 1) r.2
    decide (u0 < u1) || (decide (u0 = u1) && decide (u0 ≠ t))

/-- A command ends with OVERLAP (R350). -/
def EngineCmd.overlaps (q : EngineCmd) : Bool :=
  let linear := dN q.desc 1 == 1 && dN q.desc 2 == 1
  if q.kind = 1 then (List.range (dNt q.desc)).any (tileMeets q.desc)
  else if (q.kind = 0 || q.kind = 3) && linear then false
  else spansMeet (extentOf q.kind q.desc false) (extentOf q.kind q.desc true)

/-- The write order is descending (R347). -/
def EngineCmd.down (q : EngineCmd) : Bool :=
  (q.kind == 0 || q.kind == 3) && dN q.desc 1 == 1 && dN q.desc 2 == 1
    && spansMeet (extentOf q.kind q.desc false) (extentOf q.kind q.desc true) && decide (dSrc q.desc < dDst q.desc)

/-- The global address of a generic address of the command. -/
def EngineCmd.va (q : EngineCmd) (a : Int) : Nat := globalOf q.pbase a.toNat

/-! ### Accesses of an engine -/

/-- A read at the homes, through forwarding; no cache of the core's side is used (R326).  It carries the command's eviction
priority (R298). -/
def engRead (s : State) (e : Nat) (q : EngineCmd) (va n : Nat) : Except AccFail (List Byte × State) :=
  homeReadAll (captureTouch s q.lid va (agentWave s q.lid)) (e / 64) q.asid (BitVec.allOnes 64) { ep := dEp q.desc, lu := false }
    (pieces (n / 128 + 2) va n)

/-- The last-use drop of the lines of source bytes that have been read, but the line that holds the next one (R299, R343);
`s0` is the state before the reads. -/
def engLastUse (s s0 : State) (q : EngineCmd) (vas : List Nat) (next : Option Nat) : State :=
  if !dLu q.desc then s
  else
    let lines := (vas.map (· / 128)).eraseDups.filter (fun l => next.map (· / 128) != some l)
    lines.foldl (fun t l => match physOf s0 q.asid (l * 128) with
      | some pa => dropHome t (pa / 128)
      | none => t) s

/-- A write at the homes. -/
def engWrite (s : State) (e : Nat) (q : EngineCmd) (va : Nat) (bytes : List Byte) : Except AccFail State :=
  homeWriteAll (captureTouch s q.lid va (agentWave s q.lid)) (e / 64) q.asid (dEp q.desc) bytes (pieces (bytes.length / 128 + 2) va bytes.length)

/-- How many of a list of addresses, from the first, are neighbours in order inside one sector. -/
def runLen (down : Bool) : List Nat → Nat
  | [] => 0
  | [_] => 1
  | a :: b :: l => if (if down then b + 1 = a else a + 1 = b) ∧ a / 64 = b / 64 then runLen down (b :: l) + 1 else 1

/-- The bytes at a list of addresses, in its order, up to the first failure. -/
def readRuns (e : Nat) (q : EngineCmd) (down : Bool) : Nat → List Nat → State → List Byte × State × Option AccFail
  | 0, _, s => ([], s, none)
  | fuel + 1, l, s =>
    match l with
    | [] => ([], s, none)
    | a :: _ =>
      let n := runLen down l
      match engRead s e q (if down then a + 1 - n else a) n with
      | .error f => ([], s, some f)
      | .ok (b, s) =>
        let r := readRuns e q down fuel (l.drop n) s
        ((if down then b.reverse else b) ++ r.1, r.2)

/-- Where an access failed: reading, or writing. -/
inductive EngFail where
  | reading (e : AccFail)
  | writing (e : AccFail)
  deriving DecidableEq, Repr

/-- Stream byte `j` with the inversion of R353. -/
def injected (d : BitVec 512) (j : Nat) (b : Byte) : Byte :=
  if dInjOn d && dInj d / 8 == j then b ^^^ (1#8 <<< (dInj d % 8)) else b

/-- The running value after bytes of the stream written in write order, `n` bytes in all. -/
def EngineCmd.fold (q : EngineCmd) (down : Bool) (bytes : List Byte) : BitVec 32 :=
  if down then (bytes.zipIdx).foldl (fun c p => c ^^^ crcShift (q.pos + p.2) (crc32Byte 0 p.1)) q.crc
  else bytes.foldl crc32Byte q.crc

/-- The next bytes of a CPY or CPYC written, `lim` at most: one run inside a sector of the destination. -/
def copyChunk (lim : Nat) (s : State) (e : Nat) (q : EngineCmd) : State × EngineCmd × Option EngFail :=
  let total := dTotal q.kind q.desc
  let down := q.down
  let at_ (i : Nat) : Nat := if down then total - 1 - (q.pos + i) else q.pos + i
  let js := (List.range (min (min lim 64) (total - q.pos))).map at_
  let m := runLen down (js.map (fun j => q.va (streamAt q.desc true j)))
  let js := js.take m
  let src (j : Nat) : Nat := q.va (streamAt q.desc false j)
  let r := readRuns e q down m (js.map src) s
  let r := (r.1, engLastUse r.2.1 s q ((js.take r.1.length).map src) (if q.pos + m < total then some (src (at_ m)) else none),
    r.2.2)
  let bytes := (js.zip r.1).map (fun p => injected q.desc p.1 p.2)
  let fail := r.2.2.map EngFail.reading
  if bytes.isEmpty then (r.2.1, q, fail)
  else
    let first := q.va (streamAt q.desc true (js.headD 0))
    let w := if down then engWrite r.2.1 e q (first + 1 - bytes.length) bytes.reverse
      else engWrite r.2.1 e q first bytes
    match w with
    | .error f => (r.2.1, q, some (.writing f))
    | .ok s => (s, { q with pos := q.pos + bytes.length, crc := q.fold down bytes }, fail)

/-- The sum of the next element of a CPYR read and computed (R349). -/
def reduceRead (s : State) (e : Nat) (q : EngineCmd) : State × EngineCmd × Option EngFail :=
  let n := redSize q.desc
  let code := if n = 4 then 0x8 else 0xA
  let src (j : Nat) : Nat := q.va (streamAt q.desc false j)
  match engRead s e q (src q.pos) n with
  | .error f => (s, q, some (.reading f))
  | .ok (x, t) =>
    let s := engLastUse t s q [src q.pos] (if q.pos + n < dTotal q.kind q.desc then some (src (q.pos + n)) else none)
    match engRead s e q (q.va (streamAt q.desc true q.pos)) n with
    | .error f => (s, q, some (.reading f))
    | .ok (y, s) => (s, { q with sum := some (faddElement code .rne false (ofBytes y) (ofBytes x)).1 }, none)

/-- The next element of a CPYR read, or the sum written that was read before (R349). -/
def reduceElement (s : State) (e : Nat) (q : EngineCmd) : State × EngineCmd × Option EngFail :=
  let n := redSize q.desc
  match q.sum with
  | none => reduceRead s e q
  | some x =>
    match engWrite s e q (q.va (streamAt q.desc true q.pos)) (toBytes n x) with
    | .error f => (s, q, some (.writing f))
    | .ok s => (s, { q with pos := q.pos + n, sum := none }, none)

/-! ### Tiles (R348, R357) -/

/-- The source and destination offsets of the elements of a tile, in destination order. -/
def tileMap (d : BitVec 512) : List (Int × Int) :=
  let n (i : Nat) : Nat := dN d (dPerm d i)
  let es := dEs d
  (List.range (dProduct d)).map (fun k =>
    let at_ : List Nat := [k % n 0, k / n 0 % n 1, k / (n 0 * n 1)]
    let x (i : Nat) : Nat := at_[i]?.getD 0
    -- the source coordinate of axis p is that of the destination axis which runs over it
    let c (p : Nat) : Nat := x (((List.range 3).find? (fun i => dPerm d i == p)).getD 0)
    ((c 0 * es : Nat) + c 1 * dI d 0x18 + c 2 * dI d 0x1C, (x 0 * es : Nat) + x 1 * dI d 0x20 + x 2 * dI d 0x24))

/-- The bytes of a tile by destination sector: what each sector takes, by offset. -/
def tileSectors (l : List (Nat × Byte)) : Table (Table Byte) :=
  l.foldl (fun t p => Table.put t (p.1 / 64) (Table.put (Table.getD t (p.1 / 64) []) (p.1 % 64) p.2)) []

/-- Every destination sector of a tile translates, and those covered in part pass their check. -/
def tileChecks (e : Nat) (q : EngineCmd) : Table (Table Byte) → State → Except AccFail State
  | [], s => .ok s
  | (sec, b) :: l, s =>
    let v : BitVec 64 := BitVec.ofNat 64 (sec * 64)
    if !s.reaches (e / 64) (homeDie (sec * 64)) then .error (.link v false)
    else match translate (captureTouch s q.lid (sec * 64) (agentWave s q.lid)) q.asid (sec * 64) .write with
      | .error f => .error f
      | .ok (_, s) =>
        if b.length = 64 then tileChecks e q l s
        else match engRead s e q (sec * 64) 64 with
          | .error f => .error f
          | .ok (_, s) => tileChecks e q l s

/-- The bytes of a tile by address, each with its byte, sector by sector. -/
def tileCells (secs : Table (Table Byte)) : List (Nat × Byte) := secs.flatMap (fun x => x.2.map (fun p => (x.1 * 64 + p.1, p.2)))

/-- Bytes written by address, each run of neighbours in a sector at once. -/
def cellWrites (e : Nat) (q : EngineCmd) : Nat → List (Nat × Byte) → State → Except AccFail State
  | 0, _, s => .ok s
  | fuel + 1, l, s =>
    match l with
    | [] => .ok s
    | (a, _) :: _ =>
      let n := runLen false (l.map (·.1))
      match engWrite s e q a ((l.take n).map (·.2)) with
      | .error f => .error f
      | .ok s => cellWrites e q fuel (l.drop n) s

/-- The next tile of a CPYT: read whole, from the byte at which a fault has stopped it (R357), checked, then written, `lim` bytes at
most. -/
def copyTile (lim : Nat) (s : State) (e : Nat) (q : EngineCmd) : State × EngineCmd × Option EngFail :=
  let d := q.desc
  let es := dEs d
  let t := q.pos / tileBytes d
  let m := tileMap d
  let byteOf (base : Int) (o : Int) : List Nat := (List.range es).map (fun i => q.va (base + o + (i : Nat)))
  let src : Int := dSrc d + t * dI d 0x38
  let dst : Int := dDst d + t * dI d 0x3C
  let vas := (m.flatMap (fun p => byteOf src p.1)).drop q.tile.length
  let r := readRuns e q false (tileBytes d) vas s
  let q := { q with tile := q.tile ++ r.1 }
  let s := engLastUse r.2.1 s q (vas.take r.1.length) vas[r.1.length]?
  match r.2.2 with
  | some f => (s, q, some (.reading f))
  | none =>
    let secs := tileSectors ((m.flatMap (fun p => byteOf dst p.2)).zip q.tile)
    match (if q.wrote = 0 then tileChecks e q secs s else .ok s) with
    | .error f => (s, q, some (.writing f))
    | .ok s =>
      let l := (tileCells secs).drop q.wrote
      match cellWrites e q (tileBytes d) (l.take lim) s with
      | .error f => (s, q, some (.writing f))
      | .ok s => (s, if l.length ≤ lim then { q with pos := q.pos + tileBytes d, tile := [], wrote := 0 }
          else { q with wrote := q.wrote + lim }, none)

/-- A command run up to its end or its first failure, or for a number of bytes written: 64 at a time, a whole tile, or an element's
read or write. -/
def runCommand (e : Nat) : Nat → Nat → State → EngineCmd → State × EngineCmd × Option EngFail
  | 0, _, s, q => (s, q, none)
  | fuel + 1, lim, s, q =>
    if dTotal q.kind q.desc ≤ q.pos || lim = 0 then (s, q, none)
    else
      let r := if q.kind = 1 then copyTile lim s e q else if q.kind = 2 then reduceElement s e q else copyChunk lim s e q
      match r with
      | (s, x, some f) => (s, x, some f)
      | (s, x, none) => runCommand e fuel (lim - max 1 (x.pos + x.wrote - (q.pos + q.wrote))) s x

/-! ### Start (R342, R357) -/

/-- A command that ends without having run to its end: its chain's seed stays its running value (R357). -/
def EngineCmd.ended (q : EngineCmd) (code : BitVec 8) : EngineCmd :=
  { q with outcome := some code, crc := if q.kind = 3 then q.seed.getD 0 else 0 }

/-- A command that has run to its end (R351, R352). -/
def EngineCmd.finished (q : EngineCmd) : EngineCmd :=
  if q.kind = 3 then
    let c := if q.down then q.crc ^^^ crcShift (dTotal q.kind q.desc) (q.seed.getD 0) else q.crc
    { q with crc := c, outcome := some (if dLast q.desc && c ^^^ 0xFFFFFFFF != dExp q.desc then 0x01 else 0x00) }
  else { q with crc := 0, outcome := some 0x00 }

/-- The cluster control processor of a command's issuer: that of the wave's core while the wave lives (R295). -/
def State.issuerCcp (s : State) (q : EngineCmd) : Nat :=
  match s.waves.find? (fun w => w.hasFrame q.asid q.frame && w.gen == q.gen) with
  | some w => ccpOf w
  | none => q.core.toNat / 192

/-- A record of an engine's access. -/
def engRecord (s : State) (e : Nat) (q : EngineCmd) (code : BitVec 8) (write : Bool) (va : BitVec 64) (who : Claimant) :
    FaultRecord :=
  agentRecord code (if write then 1 else 0) 2 0x1FFF q.asid (s.die (e / 64)).ptc va q.frame 0 q.waveid q.gen who

/-- A command's access fails (R357): it stalls on a page fault until firmware serves the record; otherwise it ends. -/
def engFailed (s : State) (e : Nat) (q : EngineCmd) (write : Bool) : AccFail → State × EngineCmd
  | .page f va pa =>
    let r (who : Claimant) : FaultRecord := (engRecord s e q 0x02 write va who).ofClass f pa
    match f with
    | .walk _ => (deliver s (s.issuerCcp q) (r .nobody), q.ended 0x03)
    | _ => (deliver s (s.issuerCcp q) (r (.engine e)), { q with stalled := true })
  | .mem _ => (s, q.ended 0x03)
  | .integrity va pa =>
    (deliver s (s.issuerCcp q) { engRecord s e q 0x04 write va .nobody with
      access := integrityAccess s q.asid va pa (if write then 1 else 0), detail := BitVec.ofNat 16 (pa.toNat / 64 % 2), paddr := pa }, q.ended 0x04)
  | .link _ _ => (s, q.ended 0x05)
  | .wait => (s, q)

/-- The head command of an engine runs: from its start, or from where a served page fault, a move lock or an earlier part of
its run stopped it.  It runs to its end, or for `parts` bytes where `parts` is not 0 (for CPYR, an element's read counting as one):
another agent may see any part of its writes (R342, R349; log entry 51). -/
def engStep (s : State) (e parts : Nat) (q : EngineCmd) : State × EngineCmd :=
  let q := if q.started then q
    else { q with started := true, crc := if q.kind = 3 && !q.down then q.seed.getD 0 else 0 }
  if q.cancel then (s, q.ended 0x06)
  else if q.overlaps then (s, q.ended 0x02)
  else
    let all := 2 * dTotal q.kind q.desc + 1
    match runCommand e all (if parts = 0 then all else parts) s q with
    | (s, q, some (.reading f)) => engFailed s e q false f
    | (s, q, some (.writing f)) => engFailed s e q true f
    | (s, q, none) => (s, if dTotal q.kind q.desc ≤ q.pos then q.finished else q)

/-- The head command of an engine may run: not stalled, not ended, its seed at hand. -/
def EngineCmd.runnable (q : EngineCmd) : Bool := !q.stalled && q.outcome.isNone && q.seed.isSome

/-- R342: the engine's head command runs, whole or in part. -/
def execEngineCommandStart (s : State) : Out :=
  let e := s.input.engine
  .next (match s.engine e with
    | [] => s
    | q :: rest =>
      if !q.runnable then s
      else
        let r := engStep s e s.input.k q
        r.1.setEngine e (r.2 :: rest))

/-! ### Completion (R355, R359) -/

/-- Waves whose EWAIT is over become ready (R362). -/
def wakeEngine (s : State) : State :=
  s.mapWaves (fun w => match w.wait with
    | some (.engine m any) => if w.slotsReady m any then w.wake else w
    | _ => w)

/-- The slot as its completion writes it. -/
def EngineCmd.slotImage (q : EngineCmd) (e : Nat) (code : BitVec 8) : BitVec 128 :=
  mkSlot q.crc (BitVec.ofNat 32 q.pos) q.slotSeq e 2 code.toNat

/-- The seed handed to the command that waits for it (R351). -/
def handOver (q : EngineCmd) (code : BitVec 8) (l : List EngineCmd) : List EngineCmd :=
  l.map (fun r => if r.seed.isNone && r.pred == q.seq then { r with seed := some q.crc, cancel := code != 0 } else r)

/-- The slot return of a command that has ended (R355): it lands as R88 says, the seed goes to the command that waits for it
(R351), and a wave whose EWAIT is over becomes ready. -/
def slotReturn (s : State) (e : Nat) (q : EngineCmd) (code : BitVec 8) : State :=
  let n := bits q.ctl.toNat 3 0
  let img := q.slotImage e code
  let s := s.setEngine e (handOver q code (s.engine e))
  let x := s.land q.asid q.frame q.gen (fun w => { w with slots := Sparse.set w.slots n img })
    (fun _ w => [(0xA180 + 16 * n, 16, img.toNat), (0xA100, 8, w.pendcnt)]) []
  wakeEngine (if x.1 then x.2 else x.2.dropReturn q.lid)

/-- The completion record of a command, with the time at which it completed (R359). -/
def eventRecord (s : State) (e : Nat) (q : EngineCmd) (code : BitVec 8) : EventRecord :=
  { time := if q.returned then q.endTime else (s.die (e / 64)).ptc, wave := q.waveid, done := BitVec.ofNat 32 q.pos, crc := q.crc,
    seq := q.slotSeq, code := code, evtag := BitVec.ofNat 8 (dCtl q.desc / 4096),
    slot := BitVec.ofNat 8 (bits q.ctl.toNat 3 0), engid := BitVec.ofNat 8 e }

/-- R355: the head command, whose writes are done, completes.  With EVQ it also writes its record; while the event queue is
full the engine holds the record, and its queue stalls behind it (R359). -/
def execEngineCompletion (s : State) : Out :=
  let e := s.input.engine
  .next (match s.engine e with
    | [] => s
    | q :: rest =>
      match q.outcome with
      | none => s
      | some code =>
        let c := q.core.toNat / 192
        let p := s.ccp c
        if !q.returned && s.landHeld q.asid q.frame q.gen then s
        else if dEvq q.desc && decide (256 ≤ p.events.length) then
          (if q.returned then s else slotReturn (s.setEngine e ({ q with returned := true, endTime := (s.die (e / 64)).ptc } :: rest)) e q code)
        else
          let s := if dEvq q.desc then s.setCcp c { p with events := p.events ++ [eventRecord s e q code] } else s
          let s := s.setEngine e rest
          if q.returned then s else slotReturn s e q code)

/-- R359: Apziesh takes the oldest record out of its event queue.  The control processor is joined under R326; its own accesses
are made at the homes, past every cache, so the join leaves no mark in the state. -/
def execEventRecordRead (s : State) : Out :=
  let c := s.input.ccp
  .next (if (s.ccp c).events.isEmpty then s
    else
      let p := s.ccp c
      s.setCcp c { p with events := p.events.tail })

end Sys2Proof.Machine
end

