-- ==== Sys2Proof/Machine/Events.lean ====
section
/-! DEFINITION. What comes due in a wave: its lane blocks (R106), split-table exhaustion (R120), the selector's boost (R112),
the ends of waits (R101, R379), latched halts (R413), timers (R416, R417) and samples (R418). -/

namespace Sys2Proof.Machine

/-- A step about wave `input.wave`, in focus, where a condition holds. -/
def State.about (s : State) (ok : State → Bool) (k : State → State) : Out :=
  .next (match s.focus s.input.wave with
    | none => s
    | some t => if t.w.id != 0 && ok t then k t else s)

/-! ### Lane blocks (R106) -/

/-- The head lane block has yet to start. -/
def Wave.blockDue (w : Wave) : Bool :=
  w.residency == .active && (match w.lq with
    | b :: _ => !b.started
    | [] => false)

/-- The root fragment of a lane block (R106). -/
def rootEntry (b : LaneBlock) (m0 : Word32) (now : Nat) : SplitEntry :=
  { SplitEntry.free with
    lpc := BitVec.ofNat 32 (b.pc.toNat % 2 ^ 34 / 4), rga := 0xFFFFFFFF, lmask := m0, fmtc := b.fmt, age := now }

/-- R106: the head lane block of wave `input.wave` starts; with m0 zero it completes at once.  A value still to land in a
latch is no longer wanted there (R78). -/
def execLaneBlockStart (s : State) : Out :=
  s.about (fun t => t.w.blockDue) (fun t =>
    let b := t.w.head
    let m0 := t.w.rm 0
    let t : State := { t with requests := t.requests.map (fun r => if r.wave == t.w.id then { r with latch := 4 } else r) }
    let t := t.onW (fun w =>
      { w with
        lbase := BitVec.ofNat 22 (bits b.pc.toNat 55 34)
        splitCache := if m0 = 0 then [] else [0]
        lq := { b with started := true } :: w.lq.tail
        split := if m0 = 0 then [] else [(0, rootEntry b m0 t.now)] })
    t.endBlock)

/-! ### Split-table exhaustion (R120) -/

/-- The live fragments that wait for split entries, when every live fragment does: time and entry number. -/
def Wave.starved (w : Wave) : List (Nat × Nat) :=
  let live := w.split.filter (fun p => p.2.state != .waiting)
  if (freePair w.split).isNone && live.all (fun p => p.2.entryWait.isSome) then live.map (fun p => (p.2.entryWait.getD 0, p.1)) else []

/-- R120: every live fragment of wave `input.wave` waits for split entries: ILLREG, detail 2, a wave-stop trap at the branch
of the oldest. -/
def execSplitTableExhaustion (s : State) : Out :=
  s.about (fun t => t.w.residency == .active && !t.w.starved.isEmpty) (fun t =>
    match sortBy (fun a b => decide (a.1 ≤ b.1)) t.w.starved with
    | [] => t
    | (_, f) :: _ =>
      let t := { t with lane := true, frag := f }
      let t := t.setEntry { t.entry with entryWait := none }
      t.trapL 0x03 2 0 t.entry.lmask true)

/-! ### The selector (R112) -/

/-- R112: stream `input.index` of wave `input.wave` (0 the scalar stream, else a fragment's entry plus 1) has been ready for
64 cycles without issuing. -/
def execIssueBoost (s : State) : Out :=
  let f := s.input.index - 1
  let lane := decide (0 < s.input.index)
  s.about (fun t => mayIssue t.w lane f) (fun t =>
    if lane then
      match Table.find t.w.split f with
      | some e => if e.age + 64 ≤ t.now then { t with frag := f }.setEntry { e with boost := true } else t
      | none => t
    else if t.w.age + 64 ≤ t.now then t.onW (fun w => { w with boost := true }) else t)

/-! ### Waits (R101, R379) -/

/-- A SPIN wait is over (R101). -/
def State.spinDue (s : State) (w : Wave) : Bool :=
  match w.wait with
  | some (.spin t) => decide (t ≤ s.now)
  | _ => false

/-- R101: wave `input.wave` leaves its SPIN wait after 4,096 cycles; a store published to a line it loaded ends the wait as
it lands. -/
def execSpinWaitEnd (s : State) : Out := s.about (fun t => t.spinDue t.w) (fun t => t.onW Wave.wake)

/-- A wave waits for a grid barrier whose unit has not recorded it. -/
def State.unrecorded (s : State) (w : Wave) : Bool :=
  match w.wait with
  | some (.grid a _) =>
    !s.waiters.any (fun r => r.2.1 == w.frame && r.2.2.1 == w.gen
      && (r.2.2.2 == a || decodeAddr (s.pbase w) r.2.2.2 == .global a.toNat))
  | _ => false

/-- R379: wave `input.wave`, whose GWAIT the full barrier unit did not record, reads PHASE again. -/
def execGwaitPollExpiry (s : State) : Out :=
  s.about (fun t => t.unrecorded t.w) (fun t =>
    match t.w.wait with
    | some (.grid a p) =>
      match gridObject t a.toNat with
      | .ok (some o, t) => if gridField o.bytes 8 = p then t else t.onW Wave.wake
      | _ => t
    | _ => t)

/-! ### Latched halts (R413) -/

/-- A latched halt has not been taken within 1,000,000 ticks. -/
def State.latchDue (s : State) (w : Wave) : Bool :=
  w.haltlatch && decide (w.haltAt + 1000000 ≤ (s.ptcOf w.core.toNat).toNat)

/-- R413: the halt latched in wave `input.wave` is taken at once, with the handler's own program counter recorded. -/
def execHaltLatchTimeout (s : State) : Out :=
  s.about (fun t => t.latchDue t.w) (fun t =>
    let pc := match t.w.handler.bind (·.frag) with
      | some f => t.w.laneAddr (Table.getD t.w.split f SplitEntry.free).lpc
      | none => t.w.spc
    t.takeLatchAt pc)

/-! ### Timers (R416, R417) -/

/-- A timer trap before the wave's next scalar instruction: held while a handler runs (R406). -/
def State.timerTrap (s : State) (code : BitVec 8) (detail : BitVec 24) : State :=
  let t : TrapInfo := { code := code, detail := detail, addr := 0, lanes := 0, pc := s.w.spc, frag := none, sw := false,
                        nr := false, stop := false }
  if s.w.inhandler then s.onW (fun w => { w with heldTraps := w.heldTraps ++ [t] }) else takeTrap { s with lane := false } t

/-- R416: the deadline of wave `input.wave` has passed; it disarms, and TIMER is raised. -/
def execDeadlineExpiry (s : State) : Out :=
  s.about (fun t => t.w.residency == .active && timerDue t) (fun t =>
    (t.onW (fun w => { w with deadline := 0 })).timerTrap 0x0B 0)

/-- R417: the stage of wave `input.wave` has run over its budget; FIRED is set, and STAGEOVER is raised. -/
def execStageBudgetExpiry (s : State) : Out :=
  s.about (fun t => t.w.residency == .active && stageDue t.w) (fun t =>
    (t.onW (fun w => { w with stagecnt := w.stagecnt ||| 0x8000000000000000#64 })).timerTrap 0x0A (t.w.stage.setWidth 24))

/-- R418: a SAMPLE record of wave `input.wave` is due. -/
def execSampleTimerExpiry (s : State) : Out :=
  s.about (fun t => t.w.residency == .active && sampleDue t.w) (fun t =>
    let masks := (t.w.split.filter (fun p => p.2.state != .waiting)).foldl (fun m p => m ||| p.2.lmask) 0
    let t := t.onW (fun w => { w with sampled := w.wclk })
    traceRecord t t.w 3 0 t.w.spc 0 masks)

end Sys2Proof.Machine
end

