-- ==== Sys2Proof/Machine/Service.lean ====
section
/-! DEFINITION. What firmware does for a wave: fault records (R83, R238, R276, R294, R357, R367, R368, R371, R403, R417),
emulation (R49) and firmware calls (R454). -/

namespace Sys2Proof.Machine

/-! ### A parked wave goes on -/

/-- The wave is parked no more: ready, or waiting for what it waited for; a wave in transit is swapped until it lands (R73). -/
def Wave.goesOn (w : Wave) : Wave :=
  { w with
    parkc := .none
    fresh := true
    budgetDue := true
    residency := if w.place == .transit then .swapped else if w.wait.isSome then .waiting else .ready }

/-- A wave that stays parked for the halt of its block (R412): its frame holds it. -/
def State.staysHalted (s : State) : State :=
  let s := s.onW (fun w => { w with parkc := .debugHalt })
  s.storeHalted s.w

/-- The state of a wave in transit goes to its frame, which is authoritative until it lands (R73, R96). -/
def State.inTransit (s : State) : State := if s.w.place == .transit then s.sendHome else s

/-- A parked wave goes on (R73, R412): its state is read afresh where its frame holds it (R72), and a wave of a block that has
halted meanwhile stays parked for the halt. -/
def State.unpark (s : State) : State :=
  if s.w.residency != .parked then s
  else if s.w.halted then s.staysHalted
  else if s.w.place == .transit && s.w.swapped then s.onW Wave.goesOn
  else s.refresh (fun s => (s.onW Wave.goesOn).inTransit)

/-- Firmware has performed the instruction for which a wave parked: its state is read afresh, `k` makes the instruction's effect,
and it goes on; a wave that a halt has reached stays parked past the instruction, TRAPPC its scalar program counter (R49, R412,
R454). -/
def State.performed (s : State) (k : State → State) : State :=
  s.refresh (fun s =>
    let halted := s.w.halted
    let s := k s
    if halted then (s.onW (fun w => { w with trappc := w.spc })).staysHalted
    else (s.onW Wave.goesOn).inTransit)

/-- The wave that a fault record concerns. -/
def FaultRecord.waveId (r : FaultRecord) : Option Nat :=
  match r.who with
  | .wave i | .vector i _ | .budget i | .pool i _ => some i
  | _ => none

/-- The virtual address of a record: VADDR, or the global address that a generic address of its wave names (R283, R295). -/
def State.recordVa (s : State) (r : FaultRecord) : Nat :=
  let base := ((r.waveId.bind (fun i => s.waves.find? (fun w => w.id == i))).map s.pbase).getD 0
  match decodeAddr base r.vaddr with
  | .global va => va
  | _ => r.vaddr.toNat

/-- One level of a walk with the entry written that firmware gives for its place: a table that becomes reachable holds nothing
else (R459).  The answer is the next table. -/
def pathEntry (es : List (BitVec 48 × BitVec 64)) (s : State) (table i : Nat) : State × Nat :=
  let p := table + 8 * i
  match es.find? (fun e => e.1.toNat == p) with
  | none => (s, pteAddr (s.cell64 p))
  | some e =>
    let linked := !pteV (s.cell64 p) && pteV e.2 && !pteLeaf e.2 && isLocal (pteAddr e.2)
    let s := putLocal s p 0 (toBytes 8 e.2.toNat)
    (if linked then zeroRange s (pteAddr e.2) 65536 0 else s, pteAddr e.2)

/-- Firmware's table entries for one address, written under key slot 0: those on the address's own walk, and no others. -/
def writePath (es : List (BitVec 48 × BitVec 64)) (s : State) (asid : BitVec 16) (va : Nat) : State :=
  if es.isEmpty then s
  else
    let top := ((Table.find s.fw.asids asid.toNat).map (·.top.toNat)).getD 0
    let x := pathEntry es s top (bits va 55 43)
    let x := pathEntry es x.1 x.2 (bits va 42 30)
    (pathEntry es x.1 x.2 (bits va 29 17)).1

/-- Firmware maps, for a record, the one 128 KiB page that holds its address: zeroed under its own key slot where it becomes
present, and from the pool's reservation in a pool's range (R85, R301, R459).  None where the entries do not map it; a page that
is mapped already needs none. -/
def mapPage (s : State) (r : FaultRecord) (es : List (BitVec 48 × BitVec 64)) : Option State :=
  let va := s.recordVa r
  let t := writePath es s r.asid va
  match walk s r.asid va, walk t r.asid va with
  | _, .error _ => none
  | .ok _, .ok p => if es.isEmpty || p.size == 131072 then some t else none
  | .error _, .ok p =>
    let f := pteAddr p.leaf
    let t' := if isLocal f then zeroRange t f p.size (pteKey p.leaf) else t
    if p.size != 131072 then none
    else match s.poolAt r.asid va with
      | none => some t'
      | some q => if (s.freeFrames q (homeDie va)).contains f then some (t'.takeFrame q f none) else none

/-- A trap that firmware delivers to the wave that moves: it is taken at the wave's next boundary, before anything else; of a
running handler's own stream, or where `halts`, it halts the block at once (R83, R294, R406, R407). -/
def State.deliverTrap (s : State) (t : TrapInfo) (halts : Bool) : State :=
  let own := match s.w.handler with
    | some h => h.frag == t.frag
    | none => true
  if s.w.inhandler && (own || halts) then haltWith s 1 t true
  else if s.w.inhandler then s.onW (fun w => { w with heldTraps := w.heldTraps ++ [t] })
  else s.onW (fun w => { w with heldTraps := t :: w.heldTraps })

/-! ### Fatal faults -/

/-- The trap that a fatal fault of a wave's own access becomes (R83, R238, R294, R338, R408). -/
def FaultRecord.trap (r : FaultRecord) (all : Word32) : TrapInfo :=
  let back := r.code == 0x05 || r.access == 5
  let lanes := if r.frag.isNone then 0 else if r.lmask = 0 then all else r.lmask
  if r.code = 0x01 then
    { code := 0x05, detail := 0, addr := r.vaddr, lanes := lanes, pc := r.pc, frag := r.frag, sw := false, nr := false,
      stop := true }
  else
    { code := 0x06, detail := 0, addr := r.vaddr, lanes := if back then 0 else lanes, pc := r.pc,
      frag := if back then none else r.frag, sw := false, nr := back, stop := back }

/-- Every chord line of a launch on a core written back where it can be; the rest is lost (R238). -/
def loseChords (s : State) (g : Nat) (l : Launch) : State :=
  ((s.core g).chordsOf l.lid).foldl (fun s x => (backLossy s g l.lid l.asid l.stashBase x.2).1) s

/-- A fatal fault of a launch's own accesses (R238, R367, R368, R371). -/
def State.launchFatal (s : State) (lid : BitVec 32) (r : FaultRecord) : State :=
  match s.launch lid with
  | none => s
  | some l =>
    if r.access = 5 then endLaunch (loseChords s r.core.toNat l) lid 8
    else if r.code = 0x01 then s
    else if r.access = 1 then s.completed l false
    else if l.phase == .parsed then s.onLaunch lid (fun l => { l with ending := true, status := 2 })
    else endLaunch s lid 1

/-- A fatal fault of a spill engine (R238, R412): what it could not write is lost, and the launch ends. -/
def State.spillFatal (s : State) (g : Nat) (r : FaultRecord) : State :=
  let who := if r.access = 5 then (s.core g).spill else (s.core g).active
  match who.bind s.launch with
  | none => s
  | some l => endLaunch (if r.access = 5 then loseChords s g l else s) l.lid 8

/-- A fault declared fatal (R294). -/
def State.fatal (s : State) (r : FaultRecord) : State :=
  match r.who with
  | .nobody => s
  | .wave i =>
    match s.focus i with
    | none => s
    | some t =>
      let all := (Table.getD t.w.split (r.frag.getD 0) SplitEntry.free).lmask
      if t.w.halted then t.unpark else t.unpark.deliverTrap (r.trap all) (r.code == 0x01)
  | .vector i t =>
    match s.focus i with
    | none => s
    | some u => if u.w.halted then u.unpark else haltWith u 0 t false
  | .budget i =>
    match s.focus i with
    | none => s
    | some t =>
      let trap : TrapInfo := { code := 0x06, detail := 0, addr := r.vaddr, lanes := 0, pc := r.pc, frag := none,
                               sw := false, nr := false, stop := false, here := r.pc == t.w.spc }
      let u := t.unpark.onW (fun w => { w with budgetLost := true })
      let own := match u.w.handler with
        | some h => h.frag.isNone
        | none => true
      if r.pc != t.w.spc && u.w.inhandler && own then haltWith u 1 trap true else u.holdTrap trap
  | .pool i d =>
    match s.focus i with
    | none => s
    | some t => t.performed (fun t => t.retS d (launchResult 2 0) 4)
  | .engine e =>
    match s.engine e with
    | [] => s
    | q :: rest => s.setEngine e ({ q with stalled := false }.ended 0x03 :: rest)
  | .pair q =>
    match (s.pair q).queue with
    | [] => s
    | o :: _ => if o.kind = .stamp then stampDiscard s q o else matCancel s q o 0x06 r.vaddr
  | .spill g => s.spillFatal g r
  | .launch lid => s.launchFatal lid r

/-! ### Served faults -/

/-- A fault whose page firmware has mapped: what waited goes on (R74, R83, R294, R357). -/
def State.served (s : State) (r : FaultRecord) : State :=
  match r.who with
  | .wave i | .budget i | .pool i _ => ((s.focus i).map State.unpark).getD s
  | .vector i t =>
    ((s.focus i).map (fun u => u.unpark.onW (fun w => { w with heldTraps := t :: w.heldTraps }))).getD s
  | .engine e =>
    match s.engine e with
    | [] => s
    | q :: rest => s.setEngine e ({ q with stalled := false } :: rest)
  | .pair q =>
    match (s.pair q).queue with
    | [] => s
    | o :: _ => s.setHead q { o with stalled := false }
  | _ => s

/-- A record leaves a queue, and one that its issuer kept takes the entry (R295). -/
def Ccp.without (p : Ccp) (i : Nat) : Ccp :=
  { p with faults := p.faults.eraseIdx i ++ p.held.take 1, held := p.held.drop 1 }

/-- The first record of a queue that satisfies a condition, with its place. -/
def firstRecord (f : FaultRecord → Bool) : Nat → List FaultRecord → Option (Nat × FaultRecord)
  | _, [] => none
  | i, r :: l => if f r then some (i, r) else firstRecord f (i + 1) l

/-- A record is taken out of the queue of control processor `input.ccp`. -/
def State.withRecord (s : State) (f : FaultRecord → Bool) (k : State → FaultRecord → Out) : Out :=
  match firstRecord f 0 (s.ccp s.input.ccp).faults with
  | none => .next s
  | some (i, r) => k (s.setCcp s.input.ccp ((s.ccp s.input.ccp).without i)) r

/-- Firmware may declare a fault fatal: a context fault only where the pool's reservation cannot supply the page (R83). -/
def State.mayBeFatal (s : State) (r : FaultRecord) : Bool :=
  let va := s.recordVa r
  r.code != 0x01 || ((s.poolAt r.asid va).map (fun p => (s.freeFrames p (homeDie va)).isEmpty)).getD true

/-- R294, R459: firmware serves the oldest fault record of control processor `input.ccp`: it maps the record's page, drops the
stale translation and lets what waited go on, or declares the fault fatal, as it does every walk error.  Until one of the two is
done the record stays the oldest. -/
def execFaultRecordService (s : State) : Out :=
  s.withRecord (fun r => r.code != 0x03) (fun t r =>
    .next (
      if r.code = 0x07 then t.fatal r
      else match t.input.action with
      | .fatal | .routine _ _ => if t.mayBeFatal r then t.fatal r else s
      | .map es =>
        match mapPage t r es with
        | none => s
        | some t =>
          let va := t.recordVa r
          let b := homeDie va
          let d := t.die b
          (t.setDie b { d with tlb := d.tlb.filter (fun x =>
            !(x.asid == r.asid && decide (x.base ≤ va) && decide (va < x.base + x.size))) }).served r))

/-! ### Emulation (R49) -/

/-- Firmware holds a routine for an extension opcode: its emulation bit (R49, R50). -/
def State.emulated (s : State) (lane : Bool) (b : List Byte) : Bool :=
  if lane then s.fw.feat2.getLsbD ((bits (ofBytes b) 95 86 - 0x300) / 4)
  else s.fw.feat0.getLsbD (16 + (bits (ofBytes b) 31 26 - 0x30))

/-- The wave goes on past an instruction that firmware has performed for it. -/
def State.past (s : State) (frag : Option Nat) : State :=
  match frag with
  | none => s.onW (fun w => { w with spc := w.spc + 4 })
  | some f =>
    let e := Table.getD s.w.split f SplitEntry.free
    s.onW (fun w => { w with split := Table.put w.split f { e with
      lpc := e.lpc + 3, fmask := if e.keeps then e.fmask else 0, unrun := false, chain := e.counted } })

/-- Bytes that an emulation routine writes in the wave's context frame. -/
def State.emuFrame (s : State) (l : List (BitVec 16 × Byte)) : State :=
  match framePlace s s.w with
  | .ok ((pa, k), s) => l.foldl (fun s p => putLocal s (pa + p.1.toNat) k [p.2]) s
  | .error _ => s

/-- Bytes that an emulation routine writes in memory, as the wave's own stores, one after another: a store that cannot be performed
is not made (log entry 14). -/
def State.emuMemory (s : State) (l : List (Addr × Byte)) : State :=
  l.foldl (fun s p => match s.storeNow p.1 [p.2] with
    | .ok s => s
    | .error _ => s) s

/-- R49: the emulation handler of control processor `input.ccp` serves its oldest EMU record: with a routine, the routine's
writes to the frame and to memory (an operand: log entry 14) are made and the wave goes on after the instruction; with none,
ILLOP is delivered at the instruction. -/
def execEmuHandler (s : State) : Out :=
  s.withRecord (fun r => r.code == 0x03) (fun s r =>
    .next (match r.who with
      | .wave i =>
        match s.focus i with
        | none => s
        | some t =>
          match fetch { t with lane := r.frag.isSome } r.pc (if r.frag.isSome then 12 else 4) with
          | .error _ => t.unpark
          | .ok (b, t) =>
            if t.emulated r.frag.isSome b then
              let x : List (BitVec 16 × Byte) × List (Addr × Byte) := match t.input.action with
                | .routine f m => (f, m)
                | _ => ([], [])
              (t.emuFrame x.1).performed (fun t => (t.emuMemory x.2).past r.frag)
            else
              let e := Table.getD t.w.split (r.frag.getD 0) SplitEntry.free
              let trap : TrapInfo := { code := 0x01, detail := 0, addr := 0, lanes := if r.frag.isSome then e.lmask else 0,
                                       pc := r.pc, frag := r.frag, sw := false, nr := false, stop := false }
              t.unpark.deliverTrap trap false
      | _ => s))

/-! ### Firmware calls (R454) -/

/-- The clock in MHz: lowered by R450, or at 550 MHz for temperature (R451, R453). -/
def Fw.clock (f : Fw) : Nat := if f.hot then 550 else (4400 - 275 * min f.slow 8) / 4

/-- A launch is live: from the copy of its record to its completion. -/
def State.live (s : State) : Bool := s.launches.any (fun l => l.phase != .completed)

/-- PSTATE (R451): THERMAL, IDLE, CAPPED or ACTIVE; 0 before bring-up has once been completed. -/
def State.pstate (s : State) : BitVec 4 :=
  if s.fw.hot then 3 else if s.fw.step == 6 && !s.live then 2 else if s.fw.slow != 0 then 1 else 0

/-- What the services return (R454). -/
def State.fwService (s : State) (c : FwCall) (w : Wave) : Word64 :=
  match c.service.toNat with
  | 0 => s.fw.fwrev.setWidth 64
  | 1 => BitVec.ofNat 64 (s.pstate.toNat + s.fw.cap % 2 ^ 16 * 2 ^ 16 + s.fw.clock * 2 ^ 32)
  | 2 => (s.die (s.dieOf w.core.toNat)).corrected
  | _ => BitVec.allOnes 64

/-- R454: control processor `input.ccp` runs its oldest call's service, writes the result and resumes the wave at the next
instruction. -/
def execFwcallService (s : State) : Out :=
  .next (
    let p := s.ccp s.input.ccp
    match p.calls with
    | [] => s
    | c :: rest =>
      let s := s.setCcp s.input.ccp { p with calls := rest }
      match s.focus c.wave with
      | none => s
      | some t =>
        if t.w.parkc != .fwcall || t.w.residency != .parked then s
        else t.performed (fun t => t.retS c.dest (t.fwService c t.w) 4))

end Sys2Proof.Machine
end

