-- ==== Sys2Proof/Machine/Firmware.lean ====
section
/-! DEFINITION. The firmware command set (15_firmware.md R438 to R449, R452), bring-up (R443) and the resets (R445).  A
command stands in the slot at the ring's head, with its code, TAG and SEQ; the place of its arguments in the slot is not the
manual's, and they stand in the input (log entry 11). -/

namespace Sys2Proof.Machine

/-- A function on firmware's state. -/
def State.onFw (s : State) (f : Fw → Fw) : State := { s with fw := f s.fw }

/-! ### Responses and live launches -/

/-- The slot at the ring's head. -/
def Fw.head (f : Fw) : CommandSlot := Table.getD f.slots f.cmdHead CommandSlot.empty

/-- The monitor sees a command there: SEQ has the expected value (R365, R439). -/
def Fw.offered (f : Fw) : Bool := f.head.seq.toNat == f.cmdExpect

/-- Its OPC. -/
def Fw.opc (f : Fw) : Nat := (f.head.body.extractLsb' 0 16).toNat

/-- Its reserved bytes 0x02 and 0x03. -/
def Fw.opcZero (f : Fw) : Bool := f.head.body.extractLsb' 16 16 == 0

/-- The TAG of the command that runs: of a warm reset that waits, the one it was given with (R439, R445). -/
def Fw.tag (f : Fw) : BitVec 32 := if f.warm then f.warmTag else f.head.body.extractLsb' 32 32

/-- A command is answered (R439): its slot takes the status, the tag, the result and DONE, and the head advances. -/
def State.respond (s : State) (st : Nat) (result : List (BitVec 64)) : State :=
  s.onFw (fun f =>
    { f with
      responses := Table.put f.responses f.cmdHead
        { status := BitVec.ofNat 32 st, tag := f.tag, result := result, done := BitVec.ofNat 8 f.cmdExpect }
      cmdHead := (f.cmdHead + 1) % 16
      cmdExpect := f.cmdExpect % 255 + 1 })

/-- A byte of a slot (R439): what the host has written, and firmware's response, of whose result the first 112 bytes stand
there (log entry 22). -/
def Fw.slotByte (f : Fw) (k o : Nat) : Byte :=
  let c := Table.getD f.slots k CommandSlot.empty
  if o < 0x80 then c.body.extractLsb' (8 * o) 8
  else if o = 0xFF then c.seq
  else match Table.find f.responses k with
    | none => 0
    | some r =>
      if o < 0x84 then r.status.extractLsb' (8 * (o - 0x80)) 8
      else if o < 0x88 then r.tag.extractLsb' (8 * (o - 0x84)) 8
      else if o < 0xF8 then (r.result.getD ((o - 0x88) / 8) 0).extractLsb' (8 * (o % 8)) 8
      else if o = 0xFE then r.done
      else 0

/-- Firmware may begin a command (R439, R440): READY is 1, the BAR is there, the slot at the head holds one, and none still
runs, as a page move does between its lock and its end. -/
def State.attends (s : State) : Bool :=
  s.fw.ready && s.fw.barUp && !s.fw.warm && s.fw.offered && s.dies.all (fun d => d.2.locks.isEmpty)

/-- The command of code `opc` runs where the slot at the head holds it. -/
def State.command (s : State) (opc : Nat) (k : State → State) : Out :=
  .next (if s.attends && s.fw.opc == opc && s.fw.opcZero then k s else s)

/-- A live launch of an address space. -/
def State.liveAsid (s : State) (a : BitVec 16) : Bool := s.launches.any (fun l => l.phase != .completed && l.asid == a)

/-- Every live launch ends with a status. -/
def endAll (s : State) (st : BitVec 8) : State :=
  (s.launches.filter (fun l => l.phase != .completed)).foldl (fun s l => endLaunch s l.lid st) s

/-- READY clears, and live launches end with status 7 (R444). -/
def State.notReady (s : State) : State := endAll (s.onFw (fun f => { f with ready := false })) 7

/-- FWSTAT (R438). -/
def State.fwstat (s : State) : BitVec 64 :=
  BitVec.ofNat 64 (s.fw.ready.toNat + s.fw.fail.toNat * 2 + s.fw.step.toNat * 2 ^ 4 + s.fw.failb.toNat * 2 ^ 8
    + s.fw.faildie.toNat * 2 ^ 12 + s.fw.failcode.toNat * 2 ^ 16 + s.pstate.toNat * 2 ^ 20 + s.fw.fwrev.toNat * 2 ^ 32)

/-! ### Bring-up (R443) -/

/-- The step of bring-up in which a failure of a code occurs (R438, R443); no other code is one of bring-up. -/
def stepOf (code : BitVec 4) : Nat :=
  match code.toNat with
  | 1 => 1
  | 2 => 2
  | 3 => 2
  | 4 => 3
  | 5 => 4
  | 6 => 5
  | _ => 0

/-- The device as power-on or a full reset leaves it, before bring-up: what is fused, memory and the model's own counters stay,
and so do the other packages. -/
def State.cleared (s : State) : State :=
  { State.reset with
    agenda := s.agenda
    input := s.input
    now := s.now
    seq := s.seq
    free := s.free
    nextWave := s.nextWave
    mem := s.mem
    hbm := s.hbm
    limbo := s.limbo
    keyed := s.keyed
    poison := s.poison
    peers := s.peers
    fw := { Fw.reset with
      fwrev := s.fw.romrev
      romrev := s.fw.romrev
      barUp := s.fw.barUp
      diemap := s.fw.diemap
      form := s.fw.form
      serial := s.fw.serial
      svnMin := s.fw.svnMin
      romHash := s.fw.romHash
      feat1 := s.fw.feat1
      feat3 := s.fw.feat3
      boardCap := s.fw.boardCap } }

/-- Memory initialisation (R443): every sector of local HBM is written with zeros under key slot 0, its check field valid. -/
def State.initMemory (s : State) : State :=
  { s with mem := s.mem.filter (fun c => !isLocal c.1), hbm := [], limbo := [], keyed := [], poison := [] }

/-- A bound that firmware publishes for an alignment, from `lo` to `hi` ticks (R397). -/
def State.skewBound (s : State) (lo hi : Nat) : BitVec 64 :=
  BitVec.ofNat 64 (lo + (Config.freeWord s.free).toNat % (hi - lo + 1))

/-- The copies as the forward step of bring-up leaves them: B0's as it counts, each other within the bound (R395, R397). -/
def State.alignDies (s : State) (skew : Nat) : State :=
  let t := (s.die 0).ptc
  let put (s : State) (b : Nat) (d : BitVec 64) : State := s.setDie b { s.die b with ptc := t + BitVec.ofNat 64 (d.toNat % (skew + 1)) }
  put (put (put s 1 s.input.t2) 2 s.input.t3) 3 s.input.t4

/-- The step of bring-up that comes next. -/
def Fw.nextStep (f : Fw) : Nat := if f.step.toNat < 6 then f.step.toNat + 1 else 1

/-- What a step of bring-up does (R443, R448). -/
def State.bringUpStep (s : State) : Nat → State
  | 1 => s.cleared.onFw (fun f =>
      { f with keyPair := some (Config.deriveEd25519 Config.fusedSecret, Config.deriveMlDsa Config.fusedSecret) })
  | 3 => s.initMemory
  | 5 =>
    let skew := s.skewBound 0 2
    (s.alignDies skew.toNat).spend.onFw (fun f => { f with skewPkg := skew })
  | 6 => s.onFw (fun f => { f with slots := [], responses := [], cmdHead := 0, cmdExpect := 1, due := false, ready := true })
  | _ => s

/-- R443: the next step of bring-up, where it is due and the launches that a full reset ended are gone, recorded in STEP.  A
failure `input.fail` of that step stops bring-up with FAIL set. -/
def execBringUp (s : State) : Out :=
  .next (
    if !s.fw.due || s.live then s
    else
      let n := s.fw.nextStep
      match s.input.fail with
      | some x =>
        if stepOf x.step = n then
          let self := x.step == 5
          (if n = 1 then s.cleared else s).onFw (fun f =>
            { f with due := false, fail := true, failcode := x.step, step := BitVec.ofNat 4 n,
                     faildie := if self then x.die else 0xF, failb := if self then 0xF else x.die })
        else s
      | none => (s.bringUpStep n).onFw (fun f => { f with step := BitVec.ofNat 4 n }))

/-! ### Queries -/

/-- The codes of the command set (R441). -/
def commandCodes : List Nat :=
  [0x0001, 0x0002, 0x0010, 0x0011, 0x0012, 0x0013, 0x0014, 0x0015, 0x0016, 0x0020, 0x0021, 0x0030, 0x0031, 0x0040, 0x0041,
   0x0050, 0x0060, 0x0061, 0x0062, 0x0063, 0x0070, 0x0071, 0x0080, 0x0081]

/-- R440: an unlisted code or a reserved byte that is not zero: status 1, no effect. -/
def execInvalidCommand (s : State) : Out :=
  .next (if s.attends && (!commandCodes.contains s.fw.opc || !s.fw.opcZero) then s.respond 1 [] else s)

/-- The links that are down: base-die links in bits 3:0, ports in bits 19:4. -/
def Fw.downMask (f : Fw) : Nat :=
  f.down.foldl (fun m l => m ||| (match l with
    | .base k => 2 ^ k.toNat
    | .port p => 2 ^ (4 + p.toNat))) 0

/-- The clusters that hold a placed block. -/
def State.usedClusters (s : State) : Nat := s.blocks.foldl (fun m b => m ||| 2 ^ b.cluster) 0

/-- The public keys of the device, each with its certificate (R448). -/
def Fw.publicKeys (f : Fw) : List (BitVec 64) :=
  match f.keyPair with
  | some k => Config.publicEd25519 k.1 ++ Config.publicMlDsa k.2
  | none => []

/-- R441, R367, R368, R448: the values of QUERY, in the manual's order, short ones two to a word so that they fit RESULT, then
each launch whose record was dropped with its status, then the public keys (log entry 22: the manual gives the result no
layout, and RESULT cannot hold the keys). -/
def execQuery (s : State) : Out :=
  s.command 0x0001 (fun s =>
    let two (a b : Nat) : BitVec 64 := BitVec.ofNat 64 (a + b * 2 ^ 32)
    s.respond 0 ([two s.fw.fwrev.toNat s.fw.romrev.toNat, BitVec.ofNat 64 s.fw.form.toNat, s.fw.diemap, s.fw.feat0,
        s.fw.feat1, s.fw.feat2, s.fw.feat3, BitVec.ofNat 64 s.fw.downMask]
      ++ (List.range 4).map (fun b => (s.die b).corrected)
      ++ [two s.fw.pkg.toNat s.usedClusters]
      ++ s.lost.map (fun x => two x.1.toNat x.2.toNat)
      ++ s.fw.publicKeys))

/-- R441, R451: POWERSTAT. -/
def execPowerstat (s : State) : Out :=
  s.command 0x0081 (fun s =>
    s.respond 0 ([s.pstate.setWidth 64, BitVec.ofNat 64 s.fw.cap]
      ++ (List.range 3).map (fun i => s.fw.average.getD i 0) ++ [BitVec.ofNat 64 s.fw.clock]))

/-- R452: POWERCAP, `input.watts` from 600 to 1,800. -/
def execPowercap (s : State) : Out :=
  s.command 0x0080 (fun s =>
    if s.input.watts < 600 ∨ 1800 < s.input.watts then s.respond 1 []
    else (s.onFw (fun f => { f with cap := s.input.watts, capAt := s.now })).respond 0 [])

/-! ### Resets (R445) -/

/-- Everything that a warm reset clears. -/
def State.warmClear (s : State) : State :=
  { s with
    queues := []
    parsed := []
    pools := []
    launches := []
    cores := s.cores.map (fun p => (p.1, { p.2 with retained := [] }))
    fw := { s.fw with asids := [], keys := [], traces := [], warm := false } }

/-- A warm reset goes on, or begins: its command stands at the head, and no page move is unfinished (R440, R445). -/
def State.warmMay (s : State) : Bool :=
  if s.fw.warm then s.fw.ready && s.fw.barUp else s.attends && s.fw.opc == 2 && s.fw.opcZero

/-- R445: a warm reset ends every live launch with status 7; once they are gone it clears the queues, address spaces,
keys, pools, trace rings and retained sets, and is answered. -/
def execResetWarm (s : State) : Out :=
  .next (
    if !s.warmMay then s
    else
      let t := endAll s 7
      if t.live then t.onFw (fun f => { f with warm := true, warmTag := s.fw.tag }) else (t.respond 0 []).warmClear)

/-- R445: a full reset is answered first; then READY clears, live launches end with status 7, patches are discarded, and
bring-up is due from its first step. -/
def execResetFull (s : State) : Out :=
  s.command 0x0002 (fun s =>
    (s.respond 0 []).notReady.onFw (fun f =>
      { f with due := true, feat0 := 0, feat2 := 0, patchHash := 0, fwrev := f.romrev }))

/-! ### Address spaces -/

/-- R287, R442: ASIDSET registers the top-level table `input.addr` of `input.asid`. -/
def execAsidset (s : State) : Out :=
  s.command 0x0010 (fun s =>
    if s.input.asid = 0 ∨ s.input.addr.toNat % 65536 ≠ 0 ∨ isLocal s.input.addr.toNat = false then s.respond 1 []
    else if s.liveAsid s.input.asid then s.respond 2 []
    else (s.onFw (fun f =>
      { f with asids := Table.put f.asids s.input.asid.toNat { top := s.input.addr, clusters := 0x3FFFFF } })).respond 0 [])

/-- R441: ASIDCLR. -/
def execAsidclr (s : State) : Out :=
  s.command 0x0011 (fun s =>
    if (Table.find s.fw.asids s.input.asid.toNat).isNone then s.respond 5 []
    else if s.liveAsid s.input.asid then s.respond 2 []
    else (s.onFw (fun f => { f with asids := Table.erase f.asids s.input.asid.toNat })).respond 0 [])

/-- The translations of an address space that overlap a range leave every ingress cache (R291). -/
def invalidate (s : State) (asid : BitVec 16) (va n : Nat) : State :=
  { s with dies := s.dies.map (fun p => (p.1,
      { p.2 with tlb := p.2.tlb.filter (fun t =>
          !(t.asid == asid && decide (t.base < va + n) && decide (va < t.base + t.size))) })) }

/-- R291: INVAL of `input.len` bytes at `input.va`. -/
def execInval (s : State) : Out :=
  s.command 0x0012 (fun s => (invalidate s s.input.asid s.input.va.toNat s.input.len.toNat).respond 0 [])

/-- R442: PARTITION. -/
def execPartition (s : State) : Out :=
  s.command 0x0013 (fun s =>
    if 2 ^ 22 ≤ s.input.mask.toNat then s.respond 1 []
    else match Table.find s.fw.asids s.input.asid.toNat with
      | none => s.respond 5 []
      | some a => (s.onFw (fun f =>
          { f with asids := Table.put f.asids s.input.asid.toNat { a with clusters := s.input.mask.setWidth 22 } })).respond 0 [])

/-! ### Keys (R301) -/

/-- The entries of a page table that may differ from zero. -/
def tableEntries (s : State) (base : Nat) : List (BitVec 64) :=
  let listed := (Sparse.range s.mem base 65536).map (fun c => c.1 / 8)
  let owned := (s.directory.filter (fun d => decide (base ≤ d.1 * 512) && decide (d.1 * 512 < base + 65536))).flatMap
    (fun d => (List.range 64).map (fun i => d.1 * 64 + i))
  (listed ++ owned).map (fun k => s.cell64 (8 * k))

/-- A leaf of a registered table names a key slot. -/
def State.keyInUse (s : State) (k : Nat) : Bool :=
  s.fw.asids.any (fun a => (tableEntries s a.2.top.toNat).any (fun e2 =>
    pteV e2 && !pteLeaf e2 && (tableEntries s (pteAddr e2)).any (fun e1 =>
      pteV e1 && (if pteLeaf e1 then pteKey e1 == k
        else (tableEntries s (pteAddr e1)).any (fun e0 => pteV e0 && pteLeaf e0 && pteKey e0 == k)))))

/-- R301, R441: KEYLOAD of slot `input.slot`. -/
def execKeyload (s : State) : Out :=
  s.command 0x0014 (fun s =>
    if s.input.slot < 1 ∨ 63 < s.input.slot then s.respond 1 []
    else if s.keyInUse s.input.slot then s.respond 2 []
    else (s.onFw (fun f => { f with keys := Table.put f.keys s.input.slot (s.input.xts ++ s.input.tagKey) })).respond 0 [])

/-- R301, R441: KEYCLR. -/
def execKeyclr (s : State) : Out :=
  s.command 0x0015 (fun s =>
    if s.input.slot < 1 ∨ 63 < s.input.slot then s.respond 1 []
    else if (Table.find s.fw.keys s.input.slot).isNone then s.respond 5 []
    else if s.keyInUse s.input.slot then s.respond 2 []
    else (s.onFw (fun f => { f with keys := Table.erase f.keys s.input.slot })).respond 0 [])

/-! ### Page moves (R296) -/

/-- The words at the keys `a` to `a + n − 1` copied to `b`. -/
def Sparse.copy {w : Nat} (m : Sparse w) (a b n : Nat) : Sparse w :=
  (Sparse.range m a n).foldl (fun r c => Sparse.set r (b + (c.1 - a)) c.2) (Sparse.clear m b n)

/-- The physical address of a page's first table entry at its level (R287). -/
def leafPlace (s : State) (asid : BitVec 16) (va : Nat) : Nat :=
  let top := ((Table.find s.fw.asids asid.toNat).map (·.top.toNat)).getD 0
  let e1 := s.cell64 (pteAddr (s.cell64 (top + 8 * bits va 55 43)) + 8 * bits va 42 30)
  pteAddr e1 + 8 * bits va 29 17

/-- A page's sectors copied to a new frame under its key slot, through the memory-side caches as every access to HBM: sectors with few
errors are corrected and counted, a failing one fails there too, and of a byte that a last-use drop left with two values one is
read (R296, R297, R299, R302). -/
def copyFrame (s : State) (old new size k : Nat) : State :=
  let bad := (List.range (size / 64)).filter (fun i => !s.sectorOk (old / 64 + i) k)
  let s := ((recallRange s new size).mend old size).touchRange old size
  let mem := (Sparse.range s.limbo old size).foldl (fun m c => Sparse.set m (new + (c.1 - old)) (s.cell c.1))
    (Sparse.copy s.mem old new size)
  let s : State := { s with
    mem := mem
    limbo := Sparse.clear s.limbo new size
    keyed := Sparse.rekey s.keyed (new / 64) (size / 64) (s.keyOf k)
    poison := bad.foldl (fun m i => Sparse.set m (new / 64 + i) 3) (Sparse.clear s.poison (new / 64) (size / 64)) }
  s.touchRange new size

/-- Steps 3 to 5 of a move: the copy, the new leaf, the invalidation; the lock clears, and the writes and atomics held
meanwhile go to the new frame. -/
def State.movePage (s : State) (asid : BitVec 16) (t : TlbEntry) (new : Nat) : State :=
  let old := pteAddr t.leaf
  let bad := (List.range (t.size / 64)).any (fun i => !s.sectorOk (old / 64 + i) (pteKey t.leaf))
  let place := leafPlace s asid t.base
  let s := copyFrame s old new t.size (pteKey t.leaf)
  let leaf := (t.leaf &&& 0xFFFF00000000FFFF#64) ||| BitVec.ofNat 64 new
  let s := (List.range (t.size / 131072)).foldl (fun s i => putLocal s (place + 8 * i) 0 (toBytes 8 leaf.toNat)) s
  let s := invalidate s asid t.base t.size
  let s : State := { s with
    requests := s.requests.map (fun r =>
      if !r.kind.isLoad && decide (old ≤ r.pa) && decide (r.pa < old + t.size) then { r with pa := new + (r.pa - old) } else r) }
  let d := s.die (homeDie t.base)
  (s.setDie (homeDie t.base) { d with locks := d.locks.filter (fun p => p.1 != old) }).respond (if bad then 7 else 0) []

/-- R296: PGMOVE of the page of `input.asid` at `input.va` to the frame `input.addr`.  With `input.write` the move is left
after steps 1 and 2, its lock set, and the next PGMOVE of the page completes it (log entry 23). -/
def execPgmove (s : State) : Out :=
  .next (
    if !s.fw.ready || !s.fw.barUp || s.fw.warm || !s.fw.offered || s.fw.opc != 0x16 || !s.fw.opcZero then s
    else match walk s s.input.asid s.input.va.toNat with
      | .error _ => if s.dies.all (fun d => d.2.locks.isEmpty) then s.respond 5 [] else s
      | .ok t =>
        let b := homeDie t.base
        let new := s.input.addr.toNat
        let old := pteAddr t.leaf
        let d := s.die b
        if d.locks.any (fun p => p.1 == old) then
          (if new % t.size ≠ 0 ∨ isLocal new = false ∨ bits new 38 37 ≠ b ∨ s.recallHeld new t.size = true then s else s.movePage s.input.asid t new)
        else if s.dies.any (fun d => !d.2.locks.isEmpty) then s
        else if t.size = 2 ^ 30 ∨ isLocal old = false ∨ new % t.size ≠ 0 ∨ isLocal new = false ∨ bits new 38 37 ≠ b then
          s.respond 1 []
        else if s.recallHeld old t.size || s.recallHeld new t.size then s
        else
          let s := (recallRange s old t.size).setDie b { d with locks := d.locks ++ [(old, t.size)] }
          if s.input.write then s else s.movePage s.input.asid t new)

/-! ### Queues and launches -/

/-- R365: QUEUECFG of queue `input.slot`, a ring of 2^`input.k` slots at `input.addr`, on B0. -/
def execQueuecfg (s : State) : Out :=
  s.command 0x0020 (fun s =>
    let r := s.input.addr.toNat
    if 64 ≤ s.input.slot ∨ s.input.k < 4 ∨ 12 < s.input.k ∨ r % 256 ≠ 0 ∨ 2 ^ 37 < r + 256 * 2 ^ s.input.k then s.respond 1 []
    else if s.launches.any (fun l => l.queue == some s.input.slot && l.phase == .parsed) then s.respond 2 []
    else
      let q : Queue := { ring := s.input.addr.setWidth 48, k := s.input.k, head := 0, expect := 1 }
      ({ s with queues := Table.put s.queues s.input.slot q } : State).respond 0 [])

/-- R367, R368: KILL of launch `input.lid`. -/
def execKill (s : State) : Out :=
  s.command 0x0021 (fun s =>
    if (s.launch s.input.lid).isNone then s.respond 5 [] else (endLaunch s s.input.lid 7).respond 0 [])

/-! ### Pool reservations (R441) -/

/-- A function on a pool. -/
def State.onPool (s : State) (asid : BitVec 16) (desc : BitVec 64) (f : Pool → Pool) : State :=
  { s with pools := s.pools.map (fun p => if p.asid == asid && p.desc == desc then f p else p) }

/-- The frame lists lie in local HBM, and every frame that they supply for a die is a 128 KiB page of that die's HBM (R441). -/
def framesOk (s : State) (l : List (BitVec 2 × BitVec 64 × BitVec 32)) : Bool :=
  l.all (fun x => decide (x.2.1.toNat + 8 * x.2.2.toNat ≤ 2 ^ 39)
    && (frameList s x.2.1.toNat x.2.2.toNat).all (fun f => isLocal f && f % 131072 == 0 && bits f 38 37 == x.1.toNat))

/-- R441: POOLRES supplies the frames of the pool with descriptor `input.va` of `input.asid`. -/
def execPoolres (s : State) : Out :=
  s.command 0x0030 (fun s =>
    if (Table.find s.fw.asids s.input.asid.toNat).isNone then s.respond 5 []
    else if !framesOk s s.input.frames || decide (2 ^ 56 ≤ s.input.va.toNat) then s.respond 1 []
    else
      let p : Pool :=
        { asid := s.input.asid, desc := s.input.va, pbase := 0, npages := 0, rbud := 0, rres := 0, rused := 0, accsave := 0,
          slots := [], launch := none, reserve := [], taken := [] }
      let s : State := if (s.pool s.input.asid s.input.va).isSome then s else { s with pools := s.pools ++ [p] }
      (s.onPool s.input.asid s.input.va (fun p => { p with reserve := s.input.frames })).respond 0 [])

/-- R441: POOLREL. -/
def execPoolrel (s : State) : Out :=
  s.command 0x0031 (fun s =>
    match s.pool s.input.asid s.input.va with
    | none => s.respond 5 []
    | some p =>
      if s.launches.any (fun l => l.phase != .completed && l.asid == p.asid && l.poolDesc == p.desc) then s.respond 2 []
      else (s.onPool p.asid p.desc (fun p => { p with reserve := [], taken := [] })).respond 0 [])

/-! ### The domain -/

/-- R392, R396: DOMAIN gives the package its number `input.index`, whether it is the reference, and its time port. -/
def execDomain (s : State) : Out :=
  s.command 0x0040 (fun s =>
    if 1024 ≤ s.input.index then s.respond 1 []
    else if s.live then s.respond 2 []
    else (s.onFw (fun f =>
      { f with pkg := BitVec.ofNat 10 s.input.index, reference := s.input.reference, port := s.input.port,
               joining := !s.input.reference, domain := true,
               skewDom := BitVec.allOnes 64 })).respond 0 [])

/-- R392: EXPORT writes entry `input.index` of the export table. -/
def execExportEntry (s : State) : Out :=
  s.command 0x0041 (fun s =>
    if 16 ≤ s.input.index ∨ s.input.entry &&& 0x00FFFF80FFFFFFFF#64 ≠ 0 then s.respond 1 []
    else (s.onFw (fun f => { f with exports := Sparse.set f.exports s.input.index s.input.entry })).respond 0 [])

/-- R422: TRACE registers the ring of 2^`input.k` records at `input.va`; `input.k` 0 unregisters it. -/
def execTrace (s : State) : Out :=
  s.command 0x0050 (fun s =>
    if (Table.find s.fw.asids s.input.asid.toNat).isNone then s.respond 5 []
    else if s.input.k = 0 then
      (s.onFw (fun f => { f with traces := Table.erase f.traces s.input.asid.toNat })).respond 0 []
    else if s.input.k < 6 ∨ 20 < s.input.k ∨ s.input.va.toNat % 4096 ≠ 0 ∨ 2 ^ 56 ≤ s.input.va.toNat then s.respond 1 []
    else (s.onFw (fun f => { f with traces := Table.put f.traces s.input.asid.toNat (s.input.va, s.input.k) })).respond 0 [])

/-! ### The debugger -/

/-- R412: DBGATTACH. -/
def execDbgattach (s : State) : Out :=
  s.command 0x0060 (fun s =>
    if (s.launch s.input.lid).isNone then s.respond 5 []
    else (s.onLaunch s.input.lid (fun l => { l with debugger := true })).respond 0 [])

/-- R410, R413: DBGHALT forces a halt of kind 4 on block `input.blk` of launch `input.lid`; it names wave 0 as origin (log
entry 24). -/
def execDbghalt (s : State) : Out :=
  s.command 0x0061 (fun s =>
    match s.launch s.input.lid, s.block s.input.lid s.input.blk with
    | some _, some b =>
      (spreadHalt s b.lid b.blk b.cluster 4 0 (s.ptcOf (b.cluster * 192)) s.haltedIds).respond 0 []
    | _, _ => s.respond 5 [])

/-- The origin of a halt stands at its trapping instruction again, as TRAPCAUSE and TRAPPC name it, with the lanes of TRAPMASK to
execute it; any other wave stands where it is (R414). -/
def Wave.retried (w : Wave) : Wave :=
  if w.trapcause.extractLsb' 0 8 = 0x0E then w
  else if w.trapcause.getLsbD 40 then
    let f := (w.trapcause.extractLsb' 35 5).toNat
    match Table.find w.split f with
    | none => w
    | some e =>
      let lanes := w.trapmask.setWidth 32 &&& e.lmask
      let at_ := BitVec.ofNat 32 ((w.trappc.toNat + 2 ^ 64 - w.lbase.toNat * 2 ^ 34) % 2 ^ 64 / 4)
      { w with split := Table.put w.split f { e with lpc := at_, fmask := if lanes = 0 then e.fmask else lanes } }
  else { w with spc := w.trappc }

/-- A halted wave resumes from its frame (R414): HALTED and HALTLATCH clear; what else it waits for, it goes on waiting
for, its frame holding it.  A wave in whose handler the halt was latched runs on. -/
def State.resumeHalted (s : State) (i : Nat) : State :=
  match s.focus i with
  | none => s
  | some t =>
    if !t.w.halted then t.onW (fun w => { w with haltlatch := false })
    else t.refresh (fun t =>
      let t := t.onW (fun w =>
        let w := w.retried
        let w := { w with trapcause := w.trapcause &&& ~~~haltedBit, haltlatch := false, fresh := true, budgetDue := true }
        if w.residency == .parked && w.parkc == .debugHalt then w.goesOn else w)
      if t.w.residency == .parked || t.w.residency == .swapped then t.storeHalted t.w else t)

/-- R414: DBGRESUME of block `input.blk` of launch `input.lid`. -/
def execDbgresume (s : State) : Out :=
  s.command 0x0062 (fun s =>
    match s.launch s.input.lid, s.block s.input.lid s.input.blk with
    | some l, some b =>
      if !l.debugger || !b.halted then s.respond 5 []
      else
        let ids := (s.waves.filter (fun w => w.lid == b.lid && w.blk == b.blk && (w.halted || w.haltlatch))).map (·.id)
        let t := ids.foldl State.resumeHalted s
        let t := t.onBlock b.lid b.blk (fun b => { b with halted := false })
        let p := t.ccp b.cluster
        (t.setCcp b.cluster { p with halts := p.halts.filter (fun x => x != (b.lid, b.blk)) }).respond 0 []
    | _, _ => s.respond 5 [])

/-- R412, R441: DBGDETACH; a block that is halted then has no debugger, and its launch ends with status 8. -/
def execDbgdetach (s : State) : Out :=
  s.command 0x0063 (fun s =>
    match s.launch s.input.lid with
    | none => s.respond 5 []
    | some l =>
      if !l.debugger then s.respond 5 []
      else
        let t := s.onLaunch s.input.lid (fun l => { l with debugger := false })
        ((t.blocks.filter (fun b => b.lid == s.input.lid && b.halted)).foldl (fun t b => settleHalt t b.lid b.blk) t).respond
          0 [])

/-! ### Attestation and patches -/

/-- Bit *n*: key slot *n* holds a key (R449). -/
def State.keyMap (s : State) : Nat := ((List.range 64).filter s.keyLoaded).foldl (fun m k => m + 2 ^ k) 0

/-- The first 256 bytes of a report (R449). -/
def State.report (s : State) : List Byte :=
  toBytes 32 s.input.nonce.toNat ++ toBytes 16 s.fw.serial.toNat ++ toBytes 48 s.fw.romHash.toNat
    ++ toBytes 48 s.fw.patchHash.toNat ++ toBytes 8 s.fw.fwrev.toNat ++ toBytes 8 s.fw.diemap.toNat
    ++ toBytes 8 s.fw.feat0.toNat ++ toBytes 8 s.fw.feat1.toNat ++ toBytes 8 s.fw.feat2.toNat ++ toBytes 8 s.fw.feat3.toNat
    ++ toBytes 8 s.keyMap ++ toBytes 8 (s.die 0).ptc.toNat ++ toBytes 48 0

/-- R449: ATTEST writes the signed report to the buffer `input.addr` under key slot 0. -/
def execAttest (s : State) : Out :=
  s.command 0x0070 (fun s =>
    let a := s.input.addr.toNat
    if a % 4096 ≠ 0 ∨ isLocal a = false then s.respond 1 []
    else
      let keys := s.fw.keyPair.getD ([], [])
      (putLocal s a 0 (s.report ++ toBytes 64 (Config.signEd25519 keys.1 s.report).toNat
        ++ toBytes 3309 (Config.signMlDsa keys.2 s.report).toNat ++ toBytes 467 0)).respond 0 [])

/-- The bytes of a patch image in memory; none where a sector fails its check or the range is no memory. -/
def patchImage (s : State) (a n : Nat) : Option (List Byte) :=
  if isUnused a || isPackage a then none
  else match readLocal s 0 a n 0 with
    | .ok (b, _) => some b
    | .error _ => none

/-- The layout of a patch image (R446). -/
def patchOk (b : List Byte) : Bool :=
  let f (off n : Nat) : Nat := ofBytes ((b.drop off).take n)
  f 0 4 == 0x5441504B && decide (f 8 4 ≤ 0x400000) && b.length == 0xD6D + f 8 4 && f 0xC 4 == 0 && f 0x20 32 == 0
    && decide (f 0x10 8 < 2 ^ 14) && decide (f 0x18 8 < 2 ^ 60)

/-- A public key in ROM is the one whose digest is fused (R447). -/
def romKeysOk : Bool := sha384 Config.romEd25519 == Config.fusedEd25519 && sha384 Config.romMlDsa == Config.fusedMlDsa

/-- The signatures of a patch image, each over bytes 0x00 to 0x3F + LEN (R446, R447): SIGED and SIGML both verify. -/
def patchSigned (b : List Byte) : Bool :=
  let n := 0x40 + ofBytes ((b.drop 8).take 4)
  let sigEd := (b.drop n).take 64
  let sigMl := (b.drop (n + 64)).take 3309
  romKeysOk && Config.verifyEd25519 Config.romEd25519 (b.take n) sigEd && Config.verifyMlDsa Config.romMlDsa (b.take n) sigMl

/-- R447: PATCH installs the image of `input.len` bytes at `input.addr`. -/
def execPatch (s : State) : Out :=
  s.command 0x0071 (fun s =>
    if s.live then s.respond 2 []
    else if 0x400000 + 0xD6D < s.input.len.toNat then s.respond 1 []
    else match patchImage s s.input.addr.toNat s.input.len.toNat with
      | none => s.respond 1 []
      | some b =>
        let f (off n : Nat) : Nat := ofBytes ((b.drop off).take n)
        if !patchOk b then s.respond 1 []
        else if !patchSigned b then s.respond 3 []
        else if f 4 4 < s.fw.svnMin.toNat then s.respond 4 []
        else
          let rev := Config.patchRevision b
          (s.onFw (fun w =>
            { w with
              feat0 := BitVec.ofNat 64 (f 0x10 8 * 2 ^ 16 + bits w.feat0.toNat 13 0)
              feat2 := BitVec.ofNat 64 (f 0x18 8)
              fwrev := if w.fwrev.toNat < rev.toNat then rev else w.fwrev + 1
              patchHash := sha384 b })).respond 0 [])

end Sys2Proof.Machine
end

