-- ==== Sys2Proof/Machine/Package.lean ====
section
/-! DEFINITION. What reaches the package from outside its waves: host and remote accesses (R303, R328, R392), links
(R389, R444), package time (R395 to R397), power and temperature (R31, R450 to R453), and the supplies (R28). -/

namespace Sys2Proof.Machine

/-! ### Host and remote accesses -/

/-- Waves that wait for a store to a line they loaded, or for a grid barrier's phase, become ready after a write at a
physical address, which no address space names (R101, R379). -/
def wakePhys (s : State) (pa n : Nat) : State := wakeWrite s 0 (2 ^ 56) pa n

/-- The record of a sector that fails for the host or another package (R303). -/
def hostRecord (s : State) (access : BitVec 4) (addr : BitVec 64) (sec : Nat) : State :=
  deliver s 0
    { agentRecord 0x04 access 5 0x1FFF 0 (s.die 0).ptc addr 0 0 0 0 .nobody with
      detail := BitVec.ofNat 16 (sec % 2), paddr := BitVec.ofNat 64 (sec * 64) }

/-- A reply with an error. -/
def State.replyErr (s : State) : State := { s with reply := [], replyError := true }

/-- A reply's bytes, each with its poison mark. -/
def State.replyWith (s : State) (l : List (Byte × Bool)) : State := { s with reply := l, replyError := false }

/-- An access from outside at a local physical address under a key slot: bytes read are forwarded from an owner, failing
sectors are marked poisoned and recorded; a write recalls the owner, is held by a move lock, and is not performed on part
of a failing sector; an atomic is performed at the home (R236, R237, R296, R303, R330). -/
def outsideAccess (s : State) (addr : BitVec 64) (pa k : Nat) : HostAccess → State
  | .read n =>
    let bad := (sectorsOf pa n).filter (fun sec => !s.sectorOk sec k)
    let s := (bad.foldl (fun s sec => hostRecord s 0 addr sec) (s.mend pa n)).touch pa n 1
    s.replyWith ((List.range n).map (fun i => (s.cell (pa + i), bad.contains ((pa + i) / 64))))
  | .write b =>
    if s.locked pa b.length then s
    else
      match writeLocal s addr pa k b with
      | .ok s => (wakePhys s pa b.length).replyWith []
      | .error (.integrity _ p) => (hostRecord s 1 addr (p.toNat / 64)).replyErr
      | .error _ => s
  | .atomic mods ty n data cmp =>
    match atomicLocal s 0 addr.toNat pa k n (fun old => atomicOp mods.toNat ty.toNat n old data.toNat cmp.toNat) with
    | .ok (old, s) => (wakePhys s pa n).replyWith ((toBytes n old).map (fun b => (b, false)))
    | .error (.integrity _ p) => (hostRecord s 2 addr (p.toNat / 64)).replyErr
    | .error _ => s

/-- Bytes that an access names. -/
def accessLen : HostAccess → Nat
  | .read n => n
  | .write b => b.length
  | .atomic _ _ n _ _ => n

/-- A byte of the BAR (R438): FWSTAT, the command ring, or zero. -/
def State.barByte (s : State) (o : Nat) : Byte :=
  if o < 8 then s.fwstat.extractLsb' (8 * o) 8
  else if 0x1000 ≤ o ∧ o < 0x2000 then s.fw.slotByte ((o - 0x1000) / 256) (o % 256)
  else 0

/-- The host writes a byte of the command ring: one of its own fields of a slot (R439). -/
def Fw.hostByte (f : Fw) (k o : Nat) (b : Byte) : Fw :=
  let c := Table.getD f.slots k CommandSlot.empty
  if o < 0x80 then
    { f with slots := Table.put f.slots k { c with
        body := (c.body &&& ~~~(0xFF#1024 <<< (8 * o))) ||| (b.setWidth 1024 <<< (8 * o)) } }
  else if o = 0xFF then { f with slots := Table.put f.slots k { c with seq := b } }
  else f

/-- The host reads or writes the BAR (R438, R439): until READY is 1 a write to the ring is discarded, and elsewhere it always
is.  An atomic has no effect there and is answered with an error (log entry 94). -/
def barAccess (s : State) (o : Nat) : HostAccess → State
  | .read n => if s.fw.barUp then s.replyWith ((List.range n).map (fun i => (s.barByte (o + i), false))) else s.replyErr
  | .write b =>
    if !s.fw.barUp then s.replyErr
    else
      ((List.range b.length).foldl (fun s i =>
        let a := o + i
        if s.fw.ready && decide (0x1000 ≤ a) && decide (a < 0x2000) then
          s.onFw (fun f => f.hostByte ((a - 0x1000) / 256) (a % 256) (b.getD i 0))
        else s) s).replyWith []
  | .atomic .. => s.replyErr

/-- R328, R303, R390: a host access at device address `input.addr`, under the key slot `input.slot` by which the host's
mapping reaches the page (log entry 25).  A lost link or an address outside local HBM answers an error. -/
def execHostMemoryAccess (s : State) : Out :=
  .next (
    let a := s.input.addr.toNat
    if !s.fw.supplied then s
    else if s.input.bar then barAccess s a s.input.access
    else if 2 ^ 39 < a + accessLen s.input.access || !s.reaches 0 (bits a 38 37) || !s.keyLoaded s.input.slot then s.replyErr
    else outsideAccess s s.input.addr a s.input.slot s.input.access)

/-- R392, R393: a request of another package that enters at port `input.port` for domain address `input.addr`. -/
def execRemoteAccessTarget (s : State) : Out :=
  .next (
    let a := s.input.addr.toNat
    if !s.fw.supplied || !isPackage a || s.fw.down.contains (.port s.input.port) then s
    else match s.remote (s.input.port.toNat / 4) a with
      | .here pa k w =>
        let reads := match s.input.access with
          | .read _ => true
          | _ => false
        if !(reads || w) || !s.reaches (s.input.port.toNat / 4) (bits pa 38 37)
          || decide (2 ^ 39 < pa + accessLen s.input.access) then s.replyErr
        else outsideAccess s s.input.addr pa k s.input.access
      | .error | .lost => s.replyErr
      | _ => s)

/-! ### Links (R389, R444) -/

/-- A link is down until the package is reset; a base-die link takes READY with it. -/
def State.linkDown (s : State) (l : LinkId) : State :=
  let s := if s.fw.down.contains l then s else s.onFw (fun f => { f with down := f.down ++ [l], downAt := f.downAt ++ [(l, s.now)] })
  match l with
  | .base _ => s.notReady
  | .port _ => s

/-- R388, R389: a CRC error on link `input.link` is replayed, and the requester sees only latency; a retrain that fails
takes the link down. -/
def execLinkCrcError (s : State) : Out := .next (if s.input.retrained then s else s.linkDown s.input.link)

/-- R389: link `input.link` goes down. -/
def execLinkDown (s : State) : Out := .next (s.linkDown s.input.link)

/-! ### Package time (R395 to R397) -/

/-- The offset of an exchange (R396): positive where the slave is ahead. -/
def exchangeOffset (i : Input) : Int :=
  (((i.t2.toNat : Int) - i.t1.toNat) - ((i.t4.toNat : Int) - i.t3.toNat)) / 2

/-- The path delay of an exchange (R396). -/
def exchangeDelay (i : Input) : Int :=
  (((i.t2.toNat : Int) - i.t1.toNat) + ((i.t4.toNat : Int) - i.t3.toNat)) / 2

/-- The link over which a base die aligns to its master (R396). -/
def alignLink : Nat → LinkId
  | 0 => .base 0
  | 1 => .base 2
  | _ => .base 3

/-- Every alignment within the package has its link. -/
def State.packageAligned (s : State) : Bool := [0, 1, 2].all (fun i => !s.fw.down.contains (alignLink i))

/-- The greatest difference of two copies in the package. -/
def State.spread (s : State) : Nat :=
  let l := (List.range 4).map (fun b => (s.die b).ptc.toNat)
  l.foldl max 0 - l.foldl min (2 ^ 64 - 1)

/-- The single step of joining a domain: every copy moves by the offset, and no line keeps a stamp of the old count: the
remote-data caches and the home L2s' lines of other packages' memory are invalid. -/
def State.joinStep (s : State) (off : Int) : State :=
  let step (x : Die) : Die :=
    { x with ptc := x.ptc - BitVec.ofInt 64 off, rdc := [], remote := [], l2 := x.l2.filter (fun l => !isPackage (l * 128)) }
  { s with dies := (List.range 4).foldl (fun d b => Table.put d b (step (Table.getD d b Die.empty))) s.dies }

/-- A published bound (R397): free within its limit, and not below the difference of any two copies in the package, which is
then at most 2. -/
def State.publishPkg (s : State) : State :=
  let x := s.skewBound s.spread 2
  if s.packageAligned && decide (s.spread ≤ 2) then s.spend.onFw (fun f => { f with skewPkg := x }) else s

/-- The same of SKEWDOM, once a domain is there (R443). -/
def State.publishDom (s : State) : State :=
  let x := s.skewBound 0 50
  if s.packageAligned && s.fw.domain then s.spend.onFw (fun f => { f with skewDom := x }) else s

/-- A link has been down for more than 1 ms (R397). -/
def State.longDown (s : State) (l : LinkId) : Bool := s.fw.downAt.any (fun x => x.1 == l && decide (x.2 + 1000000 < s.now))

/-- An exchange within the package has failed for more than 1 ms. -/
def State.packageLost (s : State) : Bool := [0, 1, 2].any (fun i => s.longDown (alignLink i))

/-- R396: an exchange of base die `input.index` + 1 with its master in the package, or, where `input.index` is 3, of B0
with the domain's reference over the named port; the first exchange after DOMAIN steps the copies, while no launch runs. -/
def execTimeAlignmentExchange (s : State) : Out :=
  .next (
    let off := exchangeOffset s.input
    if s.fw.step != 6 then s
    else if s.input.index < 3 then
      if s.fw.down.contains (alignLink s.input.index) then s
      else
        let b := s.input.index + 1
        (s.setDie b { s.die b with slew := off }).publishPkg
    else if s.fw.down.contains (.port s.fw.port) || !s.fw.domain then s
    else if s.fw.reference then s.publishDom
    else if s.fw.joining && s.launches.any (fun l => l.phase == .admitted) then s
    else if s.fw.joining then (s.joinStep off).onFw (fun f => { f with joining := false })
    else (s.setDie 0 { s.die 0 with slew := off }).publishDom)

/-- R397: a bound reads all ones again once an exchange that it depends on has failed for more than 1 ms, over a link within
the package or over the named port; `input.reference` tells that the domain's reference is lost, which only its environment
knows. -/
def execSkewBoundLoss (s : State) : Out :=
  .next (
    let domain := s.packageLost || s.longDown (.port s.fw.port) || s.input.reference
    s.onFw (fun f =>
      { f with
        skewPkg := if s.packageLost then BitVec.allOnes 64 else f.skewPkg
        skewDom := if domain then BitVec.allOnes 64 else f.skewDom }))

/-! ### Power and temperature (R31, R450 to R453) -/

/-- The cap in force: the lower of the command's and the board's (R452). -/
def Fw.limit (f : Fw) : Nat := min f.cap (f.boardCap.getD f.cap)

/-- A core-rail average within its share of the cap (R31, R452). -/
def Fw.withinShare (f : Fw) (watts : Nat) : Bool := decide (watts * 1800 ≤ 1450 * f.limit)

/-- The averages of the rails where the load would draw `l`: held at the cap, each in proportion, but in the 1 ms that a new cap
takes to act (R450, R452, R455; log entry 15). -/
def State.heldAverages (s : State) (l : List (BitVec 64)) : List (BitVec 64) :=
  let sum := (l.map (·.toNat)).sum
  if sum ≤ s.fw.limit ∨ s.now ≤ s.fw.capAt + 1000000 then l
  else l.map (fun x => BitVec.ofNat 64 (x.toNat * s.fw.limit / sum))

/-- R450: what the load draws as 1 ms averages, `input.t1` to `input.t3` of the core, HBM and base-die rails; one step of 68.75
MHz down while their sum is above the cap, one step up while it is not; the peak limits lift with the core rails' average. -/
def execPowerCapThrottle (s : State) : Out :=
  .next (s.onFw (fun f =>
    let sum := s.input.t1.toNat + s.input.t2.toNat + s.input.t3.toNat
    { f with
      average := s.heldAverages [s.input.t1, s.input.t2, s.input.t3]
      slow := if f.limit < sum then min 8 (f.slow + 1) else f.slow - 1
      railLimit := f.railLimit && !f.withinShare ((s.heldAverages [s.input.t1, s.input.t2, s.input.t3]).getD 0 0).toNat }))

/-- R450: the current monitor reads `input.amps`; `input.longPeak` tells 20 µs above 3,222 A. -/
def execCoreRailPeakLimit (s : State) : Out :=
  .next (s.onFw (fun f =>
    { f with railLimit :=
        if 3600 ≤ s.input.amps ∨ (s.input.longPeak = true ∧ 3222 < s.input.amps) then true
        else f.railLimit && !f.withinShare (f.average.getD 0 0).toNat }))

/-- R453: a die of `input.temp` °C above 100 °C: THERMAL. -/
def execThermalThrottle (s : State) : Out :=
  .next (if 100 < s.input.temp then s.onFw (fun f => { f with hot := true }) else s)

/-- R453: the hottest die is back at `input.temp` °C, below 100 °C. -/
def execThermalExit (s : State) : Out :=
  .next (if s.input.temp < 100 then s.onFw (fun f => { f with hot := false }) else s)

/-- R438, R453: a die of `input.temp` °C above 110 °C: live launches end with status 7, READY clears, FAILCODE tells 7 and FAILB
the base die `input.die` that it is or is over. -/
def execThermalTrip (s : State) : Out :=
  .next (if 110 < s.input.temp then
      s.notReady.onFw (fun f => { f with hot := true, failcode := 7, failb := if s.input.die < 4 then BitVec.ofNat 4 s.input.die else 0xF })
    else s)

/-- R452: a TJ9-M's board controller signals its limit, `input.watts`. -/
def execBoardPowerLimit (s : State) : Out :=
  .next (if s.fw.form then s.onFw (fun f => { f with boardCap := some s.input.watts, capAt := s.now }) else s)

/-! ### Supplies, the host link, HBM -/

/-- R28: the supplies are removed: no part of the device keeps state. -/
def execSupplyRemoval (s : State) : Out :=
  .next (s.cleared.initMemory.onFw (fun f => { f with barUp := false, boardCap := none, supplied := false }))

/-- R438: PCIe link training has ended; the BAR is there. -/
def execHostLinkTraining (s : State) : Out :=
  .next (if s.fw.supplied then s.onFw (fun f => { f with barUp := true }) else s)

/-- R444: all of the HBM of base die `input.die` is lost, and with it what its caches hold of it. -/
def execBaseDieHbmLoss (s : State) : Out :=
  .next (if s.input.die < 4 then
      let d := s.die s.input.die
      (s.setDie s.input.die { d with hbmLost := true, msc := [], l2 := d.l2.filter (fun l => !isLocal (l * 128)) }).notReady
    else s)

end Sys2Proof.Machine
end

