-- ==== Sys2Proof/Machine/Dispatch.lean ====
section
/-! DEFINITION. One arm for each constructor of Instr: a direct call of its meaning. -/

namespace Sys2Proof.Machine

def exec (i : Instr) (s : State) : Host.Outcome State Fault Refusal :=
  match i with
  | .longImmediatePrefix hi word => Sys2Proof.Machine.execLongImmediatePrefix hi word s
  | .add d a b => Sys2Proof.Machine.execAdd d a b s
  | .sub d a b => Sys2Proof.Machine.execSub d a b s
  | .and d a b => Sys2Proof.Machine.execAnd d a b s
  | .or d a b => Sys2Proof.Machine.execOr d a b s
  | .xor d a b => Sys2Proof.Machine.execXor d a b s
  | .andn d a b => Sys2Proof.Machine.execAndn d a b s
  | .shl d a b => Sys2Proof.Machine.execShl d a b s
  | .shr d a b => Sys2Proof.Machine.execShr d a b s
  | .sra d a b => Sys2Proof.Machine.execSra d a b s
  | .shli d a n => Sys2Proof.Machine.execShli d a n s
  | .shri d a n => Sys2Proof.Machine.execShri d a n s
  | .srai d a n => Sys2Proof.Machine.execSrai d a n s
  | .slt d a b => Sys2Proof.Machine.execSlt d a b s
  | .sltu d a b => Sys2Proof.Machine.execSltu d a b s
  | .min d a b => Sys2Proof.Machine.execMin d a b s
  | .max d a b => Sys2Proof.Machine.execMax d a b s
  | .minu d a b => Sys2Proof.Machine.execMinu d a b s
  | .maxu d a b => Sys2Proof.Machine.execMaxu d a b s
  | .mul d a b => Sys2Proof.Machine.execMul d a b s
  | .mulh d a b => Sys2Proof.Machine.execMulh d a b s
  | .mulhu d a b => Sys2Proof.Machine.execMulhu d a b s
  | .div d a b => Sys2Proof.Machine.execDiv d a b s
  | .divu d a b => Sys2Proof.Machine.execDivu d a b s
  | .rem d a b => Sys2Proof.Machine.execRem d a b s
  | .remu d a b => Sys2Proof.Machine.execRemu d a b s
  | .clz d a => Sys2Proof.Machine.execClz d a s
  | .ctz d a => Sys2Proof.Machine.execCtz d a s
  | .popc d a => Sys2Proof.Machine.execPopc d a s
  | .sextb d a => Sys2Proof.Machine.execSextb d a s
  | .sexth d a => Sys2Proof.Machine.execSexth d a s
  | .sextw d a => Sys2Proof.Machine.execSextw d a s
  | .addi d a imm => Sys2Proof.Machine.execAddi d a imm s
  | .andi d a imm => Sys2Proof.Machine.execAndi d a imm s
  | .ori d a imm => Sys2Proof.Machine.execOri d a imm s
  | .xori d a imm => Sys2Proof.Machine.execXori d a imm s
  | .slti d a imm => Sys2Proof.Machine.execSlti d a imm s
  | .sltiu d a imm => Sys2Proof.Machine.execSltiu d a imm s
  | .muli d a imm => Sys2Proof.Machine.execMuli d a imm s
  | .sldB d a imm => Sys2Proof.Machine.execSldB d a imm s
  | .sldBu d a imm => Sys2Proof.Machine.execSldBu d a imm s
  | .sldH d a imm => Sys2Proof.Machine.execSldH d a imm s
  | .sldHu d a imm => Sys2Proof.Machine.execSldHu d a imm s
  | .sldW d a imm => Sys2Proof.Machine.execSldW d a imm s
  | .sldWu d a imm => Sys2Proof.Machine.execSldWu d a imm s
  | .sldD d a imm => Sys2Proof.Machine.execSldD d a imm s
  | .sstB d a imm => Sys2Proof.Machine.execSstB d a imm s
  | .sstH d a imm => Sys2Proof.Machine.execSstH d a imm s
  | .sstW d a imm => Sys2Proof.Machine.execSstW d a imm s
  | .sstD d a imm => Sys2Proof.Machine.execSstD d a imm s
  | .b o => Sys2Proof.Machine.execB o s
  | .call o => Sys2Proof.Machine.execCall o s
  | .beq a b o => Sys2Proof.Machine.execBeq a b o s
  | .bne a b o => Sys2Proof.Machine.execBne a b o s
  | .blt a b o => Sys2Proof.Machine.execBlt a b o s
  | .bge a b o => Sys2Proof.Machine.execBge a b o s
  | .bltu a b o => Sys2Proof.Machine.execBltu a b o s
  | .bgeu a b o => Sys2Proof.Machine.execBgeu a b o s
  | .jr a => Sys2Proof.Machine.execJr a s
  | .callr d a => Sys2Proof.Machine.execCallr d a s
  | .ret a => Sys2Proof.Machine.execRet a s
  | .lrun d a imm => Sys2Proof.Machine.execLrun d a imm s
  | .lwait n => Sys2Proof.Machine.execLwait n s
  | .fmt d a b => Sys2Proof.Machine.execFmt d a b s
  | .seedld z a b => Sys2Proof.Machine.execSeedld z a b s
  | .seedtag d a b => Sys2Proof.Machine.execSeedtag d a b s
  | .chset d a b => Sys2Proof.Machine.execChset d a b s
  | .chrel d a => Sys2Proof.Machine.execChrel d a s
  | .chkey d a b => Sys2Proof.Machine.execChkey d a b s
  | .chfill d a b => Sys2Proof.Machine.execChfill d a b s
  | .chtag d a b => Sys2Proof.Machine.execChtag d a b s
  | .cpy d a b => Sys2Proof.Machine.execCpy d a b s
  | .cpyt d a b => Sys2Proof.Machine.execCpyt d a b s
  | .cpyr d a b => Sys2Proof.Machine.execCpyr d a b s
  | .cpyc d a b => Sys2Proof.Machine.execCpyc d a b s
  | .ewait d a => Sys2Proof.Machine.execEwait d a s
  | .epoll d a => Sys2Proof.Machine.execEpoll d a s
  | .phase h sc => Sys2Proof.Machine.execPhase h sc s
  | .barb d a => Sys2Proof.Machine.execBarb d a s
  | .bara d a => Sys2Proof.Machine.execBara d a s
  | .barw d a b => Sys2Proof.Machine.execBarw d a b s
  | .garrive d a => Sys2Proof.Machine.execGarrive d a s
  | .gwait d a b => Sys2Proof.Machine.execGwait d a b s
  | .ctxgrow d a => Sys2Proof.Machine.execCtxgrow d a s
  | .ctxshrink d a => Sys2Proof.Machine.execCtxshrink d a s
  | .migrate d a b => Sys2Proof.Machine.execMigrate d a b s
  | .yield => Sys2Proof.Machine.execYield s
  | .spin => Sys2Proof.Machine.execSpin s
  | .launch d a => Sys2Proof.Machine.execLaunch d a s
  | .ljoin d a => Sys2Proof.Machine.execLjoin d a s
  | .itempush d a b => Sys2Proof.Machine.execItempush d a b s
  | .nop => Sys2Proof.Machine.execNop s
  | .trap a c => Sys2Proof.Machine.execTrap a c s
  | .tret k => Sys2Proof.Machine.execTret k s
  | .halt a => Sys2Proof.Machine.execHalt a s
  | .brk t => Sys2Proof.Machine.execBrk t s
  | .stage d n => Sys2Proof.Machine.execStage d n s
  | .srdsr d h l => Sys2Proof.Machine.execSrdsr d h l s
  | .srdsrSflags d => Sys2Proof.Machine.execSrdsrSflags d s
  | .srdsrPtc d => Sys2Proof.Machine.execSrdsrPtc d s
  | .swrsr d h l => Sys2Proof.Machine.execSwrsr d h l s
  | .swrsrSflags d => Sys2Proof.Machine.execSwrsrSflags d s
  | .swrsrDbgctl d => Sys2Proof.Machine.execSwrsrDbgctl d s
  | .swrsrDeadline d => Sys2Proof.Machine.execSwrsrDeadline d s
  | .swrsrTrampbase d => Sys2Proof.Machine.execSwrsrTrampbase d s
  | .fwcall d a b => Sys2Proof.Machine.execFwcall d a b s
  | .tramps imm => Sys2Proof.Machine.execTramps imm s
  | .trampsRet => Sys2Proof.Machine.execTrampsRet s
  | .extensionInstruction kind => Sys2Proof.Machine.execExtensionInstruction kind s
  | .vadd a => Sys2Proof.Machine.execVadd a s
  | .vsub a => Sys2Proof.Machine.execVsub a s
  | .vmul a => Sys2Proof.Machine.execVmul a s
  | .vmulh a => Sys2Proof.Machine.execVmulh a s
  | .vmad a => Sys2Proof.Machine.execVmad a s
  | .vand a => Sys2Proof.Machine.execVand a s
  | .vor a => Sys2Proof.Machine.execVor a s
  | .vxor a => Sys2Proof.Machine.execVxor a s
  | .vandn a => Sys2Proof.Machine.execVandn a s
  | .vshl a => Sys2Proof.Machine.execVshl a s
  | .vshr a => Sys2Proof.Machine.execVshr a s
  | .vmin a => Sys2Proof.Machine.execVmin a s
  | .vmax a => Sys2Proof.Machine.execVmax a s
  | .vabs a => Sys2Proof.Machine.execVabs a s
  | .vneg a => Sys2Proof.Machine.execVneg a s
  | .vclz a => Sys2Proof.Machine.execVclz a s
  | .vpopc a => Sys2Proof.Machine.execVpopc a s
  | .vcmp a => Sys2Proof.Machine.execVcmp a s
  | .vsel a => Sys2Proof.Machine.execVsel a s
  | .vshrr a => Sys2Proof.Machine.execVshrr a s
  | .vadds a => Sys2Proof.Machine.execVadds a s
  | .vsubs a => Sys2Proof.Machine.execVsubs a s
  | .vshls a => Sys2Proof.Machine.execVshls a s
  | .vpadd a => Sys2Proof.Machine.execVpadd a s
  | .vpsub a => Sys2Proof.Machine.execVpsub a s
  | .vpmul a => Sys2Proof.Machine.execVpmul a s
  | .vpmad2 a => Sys2Proof.Machine.execVpmad2 a s
  | .vpadds a => Sys2Proof.Machine.execVpadds a s
  | .vpsubs a => Sys2Proof.Machine.execVpsubs a s
  | .vpmin a => Sys2Proof.Machine.execVpmin a s
  | .vpmax a => Sys2Proof.Machine.execVpmax a s
  | .vpshrr a => Sys2Proof.Machine.execVpshrr a s
  | .vpcmp a => Sys2Proof.Machine.execVpcmp a s
  | .vfadd a => Sys2Proof.Machine.execVfadd a s
  | .vfsub a => Sys2Proof.Machine.execVfsub a s
  | .vfmul a => Sys2Proof.Machine.execVfmul a s
  | .vfma a => Sys2Proof.Machine.execVfma a s
  | .vfmin a => Sys2Proof.Machine.execVfmin a s
  | .vfmax a => Sys2Proof.Machine.execVfmax a s
  | .vfabs a => Sys2Proof.Machine.execVfabs a s
  | .vfneg a => Sys2Proof.Machine.execVfneg a s
  | .vfcmp a => Sys2Proof.Machine.execVfcmp a s
  | .vfdiv a => Sys2Proof.Machine.execVfdiv a s
  | .vrcp a => Sys2Proof.Machine.execVrcp a s
  | .vrsq a => Sys2Proof.Machine.execVrsq a s
  | .vsqrt a => Sys2Proof.Machine.execVsqrt a s
  | .vexp2 a => Sys2Proof.Machine.execVexp2 a s
  | .vlog2 a => Sys2Proof.Machine.execVlog2 a s
  | .vsin a => Sys2Proof.Machine.execVsin a s
  | .vcos a => Sys2Proof.Machine.execVcos a s
  | .vtanh a => Sys2Proof.Machine.execVtanh a s
  | .vcvt a => Sys2Proof.Machine.execVcvt a s
  | .vcvtn a => Sys2Proof.Machine.execVcvtn a s
  | .vcvtw a => Sys2Proof.Machine.execVcvtw a s
  | .vqnt a => Sys2Proof.Machine.execVqnt a s
  | .vdqnt a => Sys2Proof.Machine.execVdqnt a s
  | .vrot a => Sys2Proof.Machine.execVrot a s
  | .virot a => Sys2Proof.Machine.execVirot a s
  | .vscl a => Sys2Proof.Machine.execVscl a s
  | .vtagSet a => Sys2Proof.Machine.execVtagSet a s
  | .vtagClr a => Sys2Proof.Machine.execVtagClr a s
  | .vtagGet a => Sys2Proof.Machine.execVtagGet a s
  | .vtagFmt a => Sys2Proof.Machine.execVtagFmt a s
  | .vmxadd a => Sys2Proof.Machine.execVmxadd a s
  | .vmxsclGet a => Sys2Proof.Machine.execVmxsclGet a s
  | .vmxsclPut a => Sys2Proof.Machine.execVmxsclPut a s
  | .vslide a => Sys2Proof.Machine.execVslide a s
  | .vshuf a => Sys2Proof.Machine.execVshuf a s
  | .vbcast a => Sys2Proof.Machine.execVbcast a s
  | .vred a => Sys2Proof.Machine.execVred a s
  | .vscan a => Sys2Proof.Machine.execVscan a s
  | .vballot a => Sys2Proof.Machine.execVballot a s
  | .mand a => Sys2Proof.Machine.execMand a s
  | .mor a => Sys2Proof.Machine.execMor a s
  | .mxor a => Sys2Proof.Machine.execMxor a s
  | .mandn a => Sys2Proof.Machine.execMandn a s
  | .mnot a => Sys2Proof.Machine.execMnot a s
  | .mmov a => Sys2Proof.Machine.execMmov a s
  | .mcnt a => Sys2Proof.Machine.execMcnt a s
  | .mset a => Sys2Proof.Machine.execMset a s
  | .vld a => Sys2Proof.Machine.execVld a s
  | .vst a => Sys2Proof.Machine.execVst a s
  | .vgth a => Sys2Proof.Machine.execVgth a s
  | .vsct a => Sys2Proof.Machine.execVsct a s
  | .vlds a => Sys2Proof.Machine.execVlds a s
  | .vsts a => Sys2Proof.Machine.execVsts a s
  | .vstsRow a => Sys2Proof.Machine.execVstsRow a s
  | .vldc a => Sys2Proof.Machine.execVldc a s
  | .vpft a => Sys2Proof.Machine.execVpft a s
  | .vldb a => Sys2Proof.Machine.execVldb a s
  | .vstb a => Sys2Proof.Machine.execVstb a s
  | .vatom a => Sys2Proof.Machine.execVatom a s
  | .vatomr a => Sys2Proof.Machine.execVatomr a s
  | .mma a => Sys2Proof.Machine.execMma a s
  | .mmaz a => Sys2Proof.Machine.execMmaz a s
  | .maccOut a => Sys2Proof.Machine.execMaccOut a s
  | .maccIn a => Sys2Proof.Machine.execMaccIn a s
  | .maccz a => Sys2Proof.Machine.execMaccz a s
  | .mfence a => Sys2Proof.Machine.execMfence a s
  | .mwait a => Sys2Proof.Machine.execMwait a s
  | .mstamp a => Sys2Proof.Machine.execMstamp a s
  | .vbr a => Sys2Proof.Machine.execVbr a s
  | .vbrc a => Sys2Proof.Machine.execVbrc a s
  | .vcall a => Sys2Proof.Machine.execVcall a s
  | .vret a => Sys2Proof.Machine.execVret a s
  | .regang a => Sys2Proof.Machine.execRegang a s
  | .lend a => Sys2Proof.Machine.execLend a s
  | .itemnext a => Sys2Proof.Machine.execItemnext a s
  | .vtrap a => Sys2Proof.Machine.execVtrap a s
  | .vbrk a => Sys2Proof.Machine.execVbrk a s
  | .vmov a => Sys2Proof.Machine.execVmov a s
  | .vlid a => Sys2Proof.Machine.execVlid a s
  | .vrdsr a => Sys2Proof.Machine.execVrdsr a s
  | .vnop a => Sys2Proof.Machine.execVnop a s
  | .vtramp a => Sys2Proof.Machine.execVtramp a s
  | .vtret a => Sys2Proof.Machine.execVtret a s
  | .vtool n a => Sys2Proof.Machine.execVtool n a s
  | .illegalInstruction stream => Sys2Proof.Machine.execIllegalInstruction stream s
  | .bringUp => Sys2Proof.Machine.execBringUp s
  | .invalidCommand => Sys2Proof.Machine.execInvalidCommand s
  | .query => Sys2Proof.Machine.execQuery s
  | .resetWarm => Sys2Proof.Machine.execResetWarm s
  | .resetFull => Sys2Proof.Machine.execResetFull s
  | .asidset => Sys2Proof.Machine.execAsidset s
  | .asidclr => Sys2Proof.Machine.execAsidclr s
  | .inval => Sys2Proof.Machine.execInval s
  | .partition => Sys2Proof.Machine.execPartition s
  | .keyload => Sys2Proof.Machine.execKeyload s
  | .keyclr => Sys2Proof.Machine.execKeyclr s
  | .pgmove => Sys2Proof.Machine.execPgmove s
  | .queuecfg => Sys2Proof.Machine.execQueuecfg s
  | .kill => Sys2Proof.Machine.execKill s
  | .poolres => Sys2Proof.Machine.execPoolres s
  | .poolrel => Sys2Proof.Machine.execPoolrel s
  | .domain => Sys2Proof.Machine.execDomain s
  | .exportEntry => Sys2Proof.Machine.execExportEntry s
  | .trace => Sys2Proof.Machine.execTrace s
  | .dbgattach => Sys2Proof.Machine.execDbgattach s
  | .dbghalt => Sys2Proof.Machine.execDbghalt s
  | .dbgresume => Sys2Proof.Machine.execDbgresume s
  | .dbgdetach => Sys2Proof.Machine.execDbgdetach s
  | .attest => Sys2Proof.Machine.execAttest s
  | .patch => Sys2Proof.Machine.execPatch s
  | .powercap => Sys2Proof.Machine.execPowercap s
  | .powerstat => Sys2Proof.Machine.execPowerstat s
  | .launchRecordParse => Sys2Proof.Machine.execLaunchRecordParse s
  | .launchAdmission => Sys2Proof.Machine.execLaunchAdmission s
  | .blockPlacement => Sys2Proof.Machine.execBlockPlacement s
  | .waveCreation => Sys2Proof.Machine.execWaveCreation s
  | .blockStart => Sys2Proof.Machine.execBlockStart s
  | .waveRetirement => Sys2Proof.Machine.execWaveRetirement s
  | .gridCompletion => Sys2Proof.Machine.execGridCompletion s
  | .launchStall => Sys2Proof.Machine.execLaunchStall s
  | .waveActivation => Sys2Proof.Machine.execWaveActivation s
  | .entryHoldExpiry => Sys2Proof.Machine.execEntryHoldExpiry s
  | .voluntarySwitch => Sys2Proof.Machine.execVoluntarySwitch s
  | .shadowBankPreload => Sys2Proof.Machine.execShadowBankPreload s
  | .shadowBankSwitch => Sys2Proof.Machine.execShadowBankSwitch s
  | .sliceExpiry => Sys2Proof.Machine.execSliceExpiry s
  | .spillWriteback => Sys2Proof.Machine.execSpillWriteback s
  | .registerCacheFill => Sys2Proof.Machine.execRegisterCacheFill s
  | .operandFileFill => Sys2Proof.Machine.execOperandFileFill s
  | .splitEntryFill => Sys2Proof.Machine.execSplitEntryFill s
  | .returnArrival => Sys2Proof.Machine.execReturnArrival s
  | .pooldeadlock => Sys2Proof.Machine.execPooldeadlock s
  | .landingSlotAcquire => Sys2Proof.Machine.execLandingSlotAcquire s
  | .landingSlotExpiry => Sys2Proof.Machine.execLandingSlotExpiry s
  | .laneBlockStart => Sys2Proof.Machine.execLaneBlockStart s
  | .splitTableExhaustion => Sys2Proof.Machine.execSplitTableExhaustion s
  | .issueBoost => Sys2Proof.Machine.execIssueBoost s
  | .spinWaitEnd => Sys2Proof.Machine.execSpinWaitEnd s
  | .stashFill => Sys2Proof.Machine.execStashFill s
  | .directoryRegistration => Sys2Proof.Machine.execDirectoryRegistration s
  | .forwardedRead => Sys2Proof.Machine.execForwardedRead s
  | .recall => Sys2Proof.Machine.execRecall s
  | .blockEnd => Sys2Proof.Machine.execBlockEnd s
  | .matrixOpExecute => Sys2Proof.Machine.execMatrixOpExecute s
  | .matrixOpRetire => Sys2Proof.Machine.execMatrixOpRetire s
  | .stampRecordWrite => Sys2Proof.Machine.execStampRecordWrite s
  | .pageWalk => Sys2Proof.Machine.execPageWalk s
  | .faultRecordService => Sys2Proof.Machine.execFaultRecordService s
  | .emuHandler => Sys2Proof.Machine.execEmuHandler s
  | .homeRead => Sys2Proof.Machine.execHomeRead s
  | .homeWrite => Sys2Proof.Machine.execHomeWrite s
  | .atomicPerform => Sys2Proof.Machine.execAtomicPerform s
  | .hostMemoryAccess => Sys2Proof.Machine.execHostMemoryAccess s
  | .remoteAccessTarget => Sys2Proof.Machine.execRemoteAccessTarget s
  | .linkCrcError => Sys2Proof.Machine.execLinkCrcError s
  | .linkDown => Sys2Proof.Machine.execLinkDown s
  | .requestTimeout => Sys2Proof.Machine.execRequestTimeout s
  | .lateReplyDiscard => Sys2Proof.Machine.execLateReplyDiscard s
  | .timeAlignmentExchange => Sys2Proof.Machine.execTimeAlignmentExchange s
  | .skewBoundLoss => Sys2Proof.Machine.execSkewBoundLoss s
  | .engineCommandStart => Sys2Proof.Machine.execEngineCommandStart s
  | .engineCompletion => Sys2Proof.Machine.execEngineCompletion s
  | .eventRecordRead => Sys2Proof.Machine.execEventRecordRead s
  | .gwaitPollExpiry => Sys2Proof.Machine.execGwaitPollExpiry s
  | .haltLatchTimeout => Sys2Proof.Machine.execHaltLatchTimeout s
  | .deadlineExpiry => Sys2Proof.Machine.execDeadlineExpiry s
  | .stageBudgetExpiry => Sys2Proof.Machine.execStageBudgetExpiry s
  | .sampleTimerExpiry => Sys2Proof.Machine.execSampleTimerExpiry s
  | .captureFirstTouch => Sys2Proof.Machine.execCaptureFirstTouch s
  | .fwcallService => Sys2Proof.Machine.execFwcallService s
  | .powerCapThrottle => Sys2Proof.Machine.execPowerCapThrottle s
  | .coreRailPeakLimit => Sys2Proof.Machine.execCoreRailPeakLimit s
  | .thermalThrottle => Sys2Proof.Machine.execThermalThrottle s
  | .thermalTrip => Sys2Proof.Machine.execThermalTrip s
  | .supplyRemoval => Sys2Proof.Machine.execSupplyRemoval s
  | .hostLinkTraining => Sys2Proof.Machine.execHostLinkTraining s
  | .boardPowerLimit => Sys2Proof.Machine.execBoardPowerLimit s
  | .baseDieHbmLoss => Sys2Proof.Machine.execBaseDieHbmLoss s
  | .thermalExit => Sys2Proof.Machine.execThermalExit s

end Sys2Proof.Machine
end

