-- ==== Sys2Proof/Machine/Undo.lean ====
section
/-! DEFINITION. The undo log (14_traps.md R420, R421): the entries that an instruction of a wave in debug mode writes before
its own writes land. -/

namespace Sys2Proof.Machine

/-- An entry of the undo log (R420). -/
structure UndoEntry where
  kind : Nat
  reg : Nat
  lanes : Word32
  addr : Addr
  size : Nat
  old : List Byte
  deriving DecidableEq, Repr

/-- The entry of a stop (R421). -/
def UndoEntry.stop : UndoEntry := { kind := 8, reg := 0, lanes := 0, addr := 0, size := 0, old := [] }

/-- The entry of a register of a kind. -/
def UndoEntry.register (kind reg : Nat) (lanes : Word32) (old : List Byte) : UndoEntry :=
  { kind := kind, reg := reg, lanes := lanes, addr := 0, size := old.length, old := old }

/-- The entry of a memory write. -/
def UndoEntry.memory (a : Addr) (old : List Byte) : UndoEntry :=
  { kind := 7, reg := 0, lanes := 0, addr := a, size := old.length, old := old }

/-- The 256 bytes of an entry (R420). -/
def UndoEntry.bytes (e : UndoEntry) (frag : Nat) (pc wclk : BitVec 64) : List Byte :=
  toBytes 1 e.kind ++ toBytes 1 frag ++ toBytes 2 e.reg ++ toBytes 4 e.lanes.toNat ++ toBytes 8 pc.toNat
    ++ toBytes 8 e.addr.toNat ++ toBytes 2 e.size ++ toBytes 6 0 ++ toBytes 8 wclk.toNat ++ toBytes 88 0
    ++ (e.old ++ List.replicate 128 0).take 128

/-! ### Which writes an instruction makes -/

/-- What of an instruction's writes its fields tell. -/
inductive Writes where
  /-- its effect is seen by other agents, or changes device-owned state (R421) -/
  | stop
  /-- a scalar register -/
  | scalar (d : BitVec 6)
  /-- FMTW, with its old value into a scalar register -/
  | format (d : BitVec 6)
  /-- the fragment's format register -/
  | fragmentFormat
  | seed (z : BitVec 3)
  | mask (n : Nat)
  /-- the main-file registers from vd with their sidecars -/
  | lane (a : LaneArgs)
  /-- the sidecar of vd -/
  | side (a : LaneArgs)
  /-- a scalar store: bytes, base, offset -/
  | scalarStore (n : Nat) (a : BitVec 6) (i : BitVec 14)
  | vst (a : LaneArgs)
  | vsct (a : LaneArgs)
  | vsts (a : LaneArgs)
  | row (a : LaneArgs)
  /-- the scalar link of the tool area (R135) -/
  | link
  | vstb (a : LaneArgs)
  /-- the prefix: the instruction of the second word (R37) -/
  | prefixed (hi : BitVec 26) (word : BitVec 32)
  /-- nothing that its fields name -/
  | other
  deriving DecidableEq, Repr

/-- The writes of an instruction. -/
def writesOf : Instr → Writes
  | .vatom _ | .vatomr _ | .cpy _ _ _ | .cpyt _ _ _ | .cpyr _ _ _ | .cpyc _ _ _ | .mma _ | .mmaz _ | .maccOut _
  | .maccIn _ | .maccz _ | .mfence _ | .mstamp _ | .chset _ _ _ | .chrel _ _ | .chkey _ _ _ | .chfill _ _ _
  | .chtag _ _ _ | .barb _ _ | .bara _ _ | .barw _ _ _ | .garrive _ _ | .gwait _ _ _ | .launch _ _ | .migrate _ _ _
  | .ctxgrow _ _ | .ctxshrink _ _ | .itempush _ _ _ | .itemnext _ => .stop
  | .phase h _ => if h.getLsbD 0 then .stop else .other
  | .add d _ _ | .sub d _ _ | .and d _ _ | .or d _ _ | .xor d _ _ | .andn d _ _ | .shl d _ _ | .shr d _ _ | .sra d _ _
  | .shli d _ _ | .shri d _ _ | .srai d _ _ | .slt d _ _ | .sltu d _ _ | .min d _ _ | .max d _ _ | .minu d _ _
  | .maxu d _ _ | .mul d _ _ | .mulh d _ _ | .mulhu d _ _ | .div d _ _ | .divu d _ _ | .rem d _ _ | .remu d _ _
  | .clz d _ | .ctz d _ | .popc d _ | .sextb d _ | .sexth d _ | .sextw d _ | .addi d _ _ | .andi d _ _ | .ori d _ _
  | .xori d _ _ | .slti d _ _ | .sltiu d _ _ | .muli d _ _ | .sldB d _ _ | .sldBu d _ _ | .sldH d _ _ | .sldHu d _ _
  | .sldW d _ _ | .sldWu d _ _ | .sldD d _ _ | .callr d _ | .seedtag d _ _ | .ewait d _ | .epoll d _ | .ljoin d _
  | .stage d _ | .srdsr d _ _ | .srdsrSflags d | .srdsrPtc d | .fwcall d _ _ => .scalar d
  | .call _ => .scalar 63
  | .vtagSet a | .vtagClr a | .vmxsclPut a => .side a
  | .vtagGet a => .scalar (48 + a.vd.setWidth 6)
  | .mcnt a => .scalar (BitVec.ofNat 6 (48 + a.vd.toNat % 8))
  | .fmt d _ _ => .format d
  | .vtagFmt _ => .fragmentFormat
  | .seedld z _ _ => .seed z
  | .mand a | .mor a | .mxor a | .mandn a | .mnot a | .mmov a | .mset a => .mask (a.vd.toNat % 16)
  | .vadd a | .vsub a | .vmul a | .vmulh a | .vmad a | .vand a | .vor a | .vxor a | .vandn a | .vshl a | .vshr a
  | .vmin a | .vmax a | .vabs a | .vneg a | .vclz a | .vpopc a | .vcmp a | .vsel a | .vshrr a | .vadds a | .vsubs a
  | .vshls a | .vpadd a | .vpsub a | .vpmul a | .vpmad2 a | .vpadds a | .vpsubs a | .vpmin a | .vpmax a | .vpshrr a
  | .vpcmp a | .vfadd a | .vfsub a | .vfmul a | .vfma a | .vfmin a | .vfmax a | .vfabs a | .vfneg a | .vfcmp a
  | .vfdiv a | .vrcp a | .vrsq a | .vsqrt a | .vexp2 a | .vlog2 a | .vsin a | .vcos a | .vtanh a | .vcvt a | .vcvtn a
  | .vcvtw a | .vqnt a | .vdqnt a | .vrot a | .virot a | .vscl a | .vmxadd a | .vmxsclGet a | .vslide a | .vshuf a
  | .vbcast a | .vred a | .vscan a | .vballot a | .vld a | .vgth a | .vlds a | .vldc a | .vldb a | .vlid a | .vrdsr a | .vcall a =>
    if a.w then .other else .lane a
  | .vmov a => if a.w || a.mods.getLsbD 1 then .other else .lane a
  | .sstB _ a i => .scalarStore 1 a i
  | .sstH _ a i => .scalarStore 2 a i
  | .sstW _ a i => .scalarStore 4 a i
  | .sstD _ a i => .scalarStore 8 a i
  | .tramps _ | .trampsRet => .link
  | .vst a => .vst a
  | .vsct a => .vsct a
  | .vsts a => .vsts a
  | .vstsRow a => .row a
  | .vstb a => .vstb a
  | .longImmediatePrefix hi w => .prefixed hi w
  | _ => .other

/-- The prefix's own second word in its place (R37). -/
def Writes.inner : Writes → Writes
  | .prefixed _ w => writesOf (decodeScalar w 0)
  | x => x

/-- The scalar register among the writes. -/
def Writes.sd : Writes → Option (BitVec 6)
  | .scalar d => some d
  | .format d => some d
  | _ => none

/-- The lane destination among the writes. -/
def Writes.vd : Writes → Option LaneArgs
  | .lane a => some a
  | _ => none

/-- The sidecars that the fields name: of the lane destination, or alone. -/
def Writes.vx : Writes → Option LaneArgs
  | .lane a => some a
  | .side a => some a
  | _ => none

/-- The length of the run of destination registers (R177 to R180). -/
def runLength (i : Instr) (s : State) : Nat :=
  match i with
  | .vcvtw a => epl a.ty.toNat / epl (cvCode a)
  | .vdqnt a => epl (cvCode a) / epl a.ty.toNat
  | .vqnt a => if 0x17 ≤ cvCode a then 2 else 1
  | .vrot a | .virot a => s.rotRun a
  | _ => 1

/-! ### The entries of registers -/

/-- Lanes of a main-file register that an instruction wrote: words that differ or await a new return. -/
def wroteV (w t : Wave) (n : Nat) : Word32 :=
  maskOf (fun L => w.rv n L != t.rv n L
    || (Sparse.get t.pendV (n * 32 + L) != 0 && Sparse.get t.pendV (n * 32 + L) != Sparse.get w.pendV (n * 32 + L)))

/-- The entries of the registers that an instruction wrote, from the wave before (`s`) and after (`t`); lanes that await a
replay (`left`) wrote nothing. -/
def registerEntries (i : Writes) (k : Nat) (s : State) (t : Wave) (left : Word32) : List UndoEntry :=
  let w := s.w
  let act (d : Option LaneArgs) : Word32 := d.elim 0 (fun a => s.active a.mask &&& ~~~left)
  let named (d : Option LaneArgs) (n : Nat) : Bool := d.any (fun a => decide (a.vd.toNat ≤ n) && decide (n < a.vd.toNat + k))
  let v := (List.range 256).filterMap (fun n =>
    let m := wroteV w t n ||| (if named i.vd n then act i.vd else 0)
    if m = 0 then none
    else some (UndoEntry.register 1 n m ((List.range 32).flatMap (fun L => toBytes 4 (w.rv n L).toNat))))
  let x := (List.range 256).filterMap (fun n =>
    if w.rx n != t.rx n || (named i.vx n && act i.vx != 0) then
      some (UndoEntry.register 2 n 0 (toBytes 16 (w.rx n).toNat)) else none)
  let sd := i.inner.sd
  let r := ((List.range 64).drop 1).filterMap (fun n =>
    if Sparse.get w.sreg n != Sparse.get t.sreg n || sd == some (BitVec.ofNat 6 n) then
      some (UndoEntry.register 3 n 0 (toBytes 8 (Sparse.get w.sreg n).toNat)) else none)
  let m := (List.range 16).filterMap (fun n =>
    if w.rm n != t.rm n || i == .mask n then
      some (UndoEntry.register 4 n 0 (toBytes 4 (w.rm n).toNat)) else none)
  let z := (List.range 8).filterMap (fun n =>
    if Sparse.get w.z n != Sparse.get t.z n || i == .seed (BitVec.ofNat 3 n) then
      some (UndoEntry.register 5 n 0 (toBytes 16 (seedImage (Sparse.get w.z n)))) else none)
  let f := match i with
    | .format _ => [UndoEntry.register 6 0 0 (toBytes 4 w.fmtw.toNat)]
    | .fragmentFormat => [UndoEntry.register 6 0 0 (toBytes 4 s.entry.fmtc.toNat)]
    | _ => []
  v ++ x ++ r ++ m ++ z ++ f

/-! ### The entries of stores -/

/-- What a read of the wave at issue would return; zeros where it cannot be read. -/
def oldBytes (s : State) (a : Addr) (n : Nat) : List Byte :=
  match s.loadNow a n with
  | .ok (b, _) => (b ++ List.replicate n 0).take n
  | .error _ => List.replicate n 0

/-- The entries of a lane store that has one for each of its lanes. -/
def laneEntries (s : State) (lanes : List Nat) (addr : Nat → Addr) (n : Nat) : List UndoEntry :=
  lanes.map (fun L => UndoEntry.memory (addr L) (oldBytes s (addr L) n))

/-- The entry of a contiguous store of 32 words, the bytes of inactive lanes among them. -/
def runEntry (s : State) (a : Addr) : UndoEntry :=
  UndoEntry.memory a ((List.range 32).flatMap (fun L => oldBytes s (a + BitVec.ofNat 64 (4 * L)) 4))

/-- The generic address of a stash word, with or without CL (R283). -/
def stashGeneric (word : Addr) (cl : Bool) : Addr :=
  if cl then 0xFFFFFFFFF0000000 + (word &&& 0x0FFFFFFF#64) else 0xFFFFFFFFFFF00000 + (word &&& 0x7FFFF#64)

/-- The entry of a scalar store. -/
def scalarEntry (s : State) (n : Nat) (a : Addr) : List UndoEntry := [UndoEntry.memory a (oldBytes s a n)]

/-- The entries of a packed store: its data, and its blocks' scale bytes, each run as one. -/
def packedEntries (a : LaneArgs) (s : State) (act : Word32) : List UndoEntry :=
  let code := blockFmt a
  let n := blockBytes code
  let blocks := List.range (epl code)
  if !blocks.any (fun b => blockActive code 32 b act) then []
  else [UndoEntry.memory (blockAddr a s 0) (blocks.flatMap (fun b => oldBytes s (blockAddr a s b) n))]
    ++ (if isMxCode code then
          [UndoEntry.memory (s.base a.sb) (blocks.flatMap (fun b => oldBytes s (s.base a.sb + BitVec.ofNat 64 b) 1))] else [])

/-- The entries of the memory that a store of the wave writes: lanes that failed (`left`) wrote nothing. -/
def storeEntries (i : Writes) (s : State) (left : Word32) : List UndoEntry :=
  let act (a : LaneArgs) : Word32 := s.active a.mask &&& ~~~left
  let lanes (a : LaneArgs) : List Nat := lanesOf (act a)
  match i with
  | .vst a => if (lanes a).isEmpty then [] else [runEntry s (vldAddr a s 0)]
  | .vsct a => laneEntries s (lanes a) (vgthAddr a s) (storeSize (a.mods.toNat % 4))
  | .vsts a => laneEntries s (lanes a) (fun L => stashGeneric (stashWord a s L) (a.mods.getLsbD 2)) (storeSize (a.mods.toNat % 4))
  | .row a =>
    match rowChord a s with
    | some c =>
      if (lanes a).isEmpty then []
      else [runEntry s (stashGeneric (BitVec.ofNat 64 (c.soff + rowOffset a s)) false)]
    | none => []
  | .vstb a => packedEntries a s (act a)
  | .scalarStore n a off => scalarEntry s n (s.rs a + off.signExtend 64)
  | .link => scalarEntry s 8 s.linkAddr
  | .prefixed hi w =>
    match writesOf (decodeScalar w 0) with
    | .scalarStore n a off => scalarEntry s n (s.rs a + longImm hi off)
    | _ => []
  | _ => []

/-! ### Writing the log -/

/-- A trap was raised, so that the instruction wrote nothing. -/
def trapped (w t : Wave) : Bool :=
  (t.inhandler && !w.inhandler) || (t.trapcause.getLsbD 41 && !w.trapcause.getLsbD 41)
    || decide (w.heldTraps.length < t.heldTraps.length)

/-- The entries of an instruction, from the state before and the wave after it (R421). -/
def undoEntries (i : Writes) (k : Nat) (s : State) (t : Wave) : List UndoEntry :=
  if trapped s.w t then registerEntries .other 1 s t 0
  else if i = .stop then (if t.wait.isSome then [] else [UndoEntry.stop])
  else
    let left := if s.lane then (Table.getD t.split s.frag SplitEntry.free).fmask else 0
    registerEntries i k s t left ++ (if !s.lane && t.residency == .parked then [] else storeEntries i s left)

/-- A read of what an entry holds of memory has to wait for what is before it (R313, R386, R421). -/
def UndoEntry.awaits (s : State) (e : UndoEntry) : Bool :=
  e.kind == 7 && (List.range ((e.size + 3) / 4)).any (fun i =>
    match s.loadNow (e.addr + BitVec.ofNat 64 (4 * i)) (min 4 (e.size - 4 * i)) with
    | .error .wait => true
    | _ => false)

/-- LOGNEXT of DBGCTL advanced, modulo 4,096. -/
def logNext (d : BitVec 64) : BitVec 64 :=
  (d &&& 0xFFFFFFFFFFF000FF#64) ||| ((((d.extractLsb' 8 12) + 1).setWidth 64) <<< 8)

/-- One entry written at LOGNEXT, as a store of the wave. -/
def writeEntry (s : State) (e : UndoEntry) : Except AccFail State :=
  let a := bits s.w.dbgctl.toNat 55 20 * 2 ^ 20 + 256 * bits s.w.dbgctl.toNat 19 8
  let b := e.bytes (if s.lane then s.frag else 0xFF) s.pcNow s.w.wclk
  match coreWrite s s.w.core.toNat s.w.lid s.w.asid a (b.take 128) with
  | .error x => .error x
  | .ok s =>
    match coreWrite s s.w.core.toNat s.w.lid s.w.asid (a + 128) (b.drop 128) with
    | .error x => .error x
    | .ok s => .ok (s.onW (fun w => { w with dbgctl := logNext w.dbgctl }))

/-- Entries written one after another. -/
def writeLog : List UndoEntry → State → Except AccFail State
  | [], s => .ok s
  | e :: l, s =>
    match writeEntry s e with
    | .error x => .error x
    | .ok s => writeLog l s

end Sys2Proof.Machine
end

