-- ==== Sys2Proof/Machine/Program.lean ====
section
/-! DEFINITION. What surrounds an instruction of a stream: the traps due at its boundary (R406, R416, R417), the undo log
(R420, R421), single step (R419), the passing of time; what moves of itself (log entry 3); and how a test word is placed (log
entry 2). -/

namespace Sys2Proof.Machine

/-! ### Boundaries -/

/-- What a stream does at its instruction boundary. -/
inductive Boundary where
  | idle
  | trap (t : State)
  | event (i : Instr) (input : Input)
  | go

/-- A held trap of a timer, or of a budget read at an activation, names the instruction before which it is taken (R405, R416,
R417). -/
def TrapInfo.due (t : TrapInfo) (w : Wave) : TrapInfo :=
  if t.code = 0x0A ∨ t.code = 0x0B ∨ t.here = true then { t with pc := w.spc } else t

/-- The wave with its oldest held trap taken out: what the trap held goes on unless another held trap holds it too. -/
def Wave.release (w : Wave) (t : TrapInfo) (rest : List TrapInfo) : Wave :=
  { w with
    heldTraps := rest
    scalarHeld := w.scalarHeld && t.lane
    split := match t.frag with
      | none => w.split
      | some f =>
        match Table.find w.split f with
        | none => w.split
        | some e => Table.put w.split f { e with held := e.held && rest.any (fun x => x.frag == some f) } }

/-- The timer that is due before the scalar stream's next instruction (R416, R417). -/
def timerEvent (s : State) : Option Instr :=
  if s.lane then none else if timerDue s then some .deadlineExpiry else if stageDue s.w then some .stageBudgetExpiry else none

/-- The boundary of the stream that moves: it may not issue; a held trap is taken first, oldest first (R406); a timer
trap is raised before a scalar instruction, and held in a handler (R416, R417); a fragment's entry that the core does not
hold is fetched (R117); or it goes on. -/
def boundary (s : State) : Boundary :=
  if !mayIssue s.w s.lane s.frag && (s.w.inhandler || s.w.heldTraps.isEmpty || s.w.residency != .active) then .idle
  else match (if s.w.inhandler then [] else s.w.heldTraps) with
    | t :: rest => .trap (takeTrap (s.onW (fun w => w.release t rest)) (t.due s.w))
    | [] =>
      match timerEvent s with
      | some i => .event i { s.input with wave := s.w.id }
      | none =>
        if s.lane && !s.w.splitCache.contains s.frag then .event .splitEntryFill { s.input with wave := s.w.id, index := s.frag }
        else .go

/-- The stream that moves refers to its split entry, which is the latest used (R117). -/
def State.refers (s : State) : State := if s.lane then s.useEntry s.frag else s

/-! ### Time -/

/-- Time passes: one tick, and the launches' stalls are watched (R374, R395). -/
def passTime (s : State) : State := watchStalls (tick s)

/-! ### Debug mode -/

/-- Is the undo log kept for this instruction? (R418, R421) -/
def logs (s t : State) : Bool := s.w.dbgctl.getLsbD 1 && s.w.dbgctl.getLsbD 0 && !t.stalled

/-- The undo log's entries for an instruction, from the states before and after it (R420). -/
def logUndo (i : Instr) (s t : State) : Except AccFail State :=
  let l := undoEntries (writesOf i) (runLength i s) s t.w
  if l.any (UndoEntry.awaits s) then .error .wait else writeLog l s

/-- A log write that fails parks the wave, or traps, as a store of its own does, INTEGRITY not resumable (R408, R421). -/
def logFailed (s : State) (e : AccFail) : State :=
  let trap (code : BitVec 8) (va : BitVec 64) (stop : Bool) : State := s.trapL code 0 va s.entry.lmask stop
  let partial_ (s : State) (va : BitVec 64) : State :=
    s.raise { code := 0x11, detail := 0, addr := va, lanes := s.entry.lmask, pc := s.pcNow, frag := some s.frag, sw := false,
              nr := true, stop := true }
  if s.lane then
    match e with
    | .page f va pa => s.parkPage f va pa 1 s.entry.fmask false
    | .mem a => trap 0x06 a false
    | .integrity va pa => partial_ (integrityRecord s 1 va pa) va
    | .link va _ => trap 0x12 va false
    | .wait => s.stall
  else s.failS 1 e

/-- Single step is on outside a handler (R419). -/
def stepping (w : Wave) : Bool := w.dbgctl.getLsbD 0 && w.dbgctl.getLsbD 2 && !w.inhandler

/-- After an instruction of a wave in single step, its block halts with kind 3; TRAPPC names the stream's next instruction
(R419; log entry 26).  One that waits where it stands, or that a fault will replay, has not been executed yet. -/
def singleStep (s t : State) : State :=
  let done := t.w.wait.isNone || t.pcNow != s.pcNow
  let replays := t.w.parkc == .page || t.w.parkc == .ctxFault
  if stepping s.w && !t.stalled && t.w.id == s.w.id && t.w.residency != .retired && !t.w.inhandler && !t.w.halted && done
      && !replays then
    haltWith t 3 { code := 0x0D, detail := 0, addr := 0, lanes := 0, pc := t.pcNow,
                   frag := if t.lane then some t.frag else none, sw := false, nr := false, stop := false } false
  else t

/-- What follows the issue of an instruction: the selector's record of its stream, single step, and time. -/
def afterIssue (s t : State) : State :=
  let t := markIssued t
  let t := if t.lane then t else t.onW (fun w => { w with sstall := t.stalled })
  passTime (singleStep s t)

/-! ### What the environment supplies -/

/-- A step's input is there, and with it what has changed outside: other packages' tables (R392), and errors over sectors of HBM
(R302). -/
def State.given (s : State) (i : Input) : State :=
  { s with
    input := { i with peers := none, errors := [] }
    stalled := false
    peers := i.peers.getD s.peers
    poison := i.errors.foldl (fun m p => Sparse.set m p.1 p.2) s.poison }

/-! ### What moves of itself (log entry 3) -/

/-- A step of the device with what it is about. -/
abbrev Due := Instr × Input

/-- An input about a wave. -/
def Input.ofWave (w : Nat) : Input := { Input.none with wave := w }
/-- An input about a request. -/
def Input.ofRequest (k : Nat) : Input := { Input.none with index := k }
/-- An input about a pair. -/
def Input.ofPair (q : Nat) : Input := { Input.none with pair := q }
/-- An input about a copy engine. -/
def Input.ofEngine (e : Nat) : Input := { Input.none with engine := e }
/-- An input about a control processor. -/
def Input.ofCcp (c : Nat) : Input := { Input.none with ccp := c }
/-- An input about a core. -/
def Input.ofCore (g : Nat) : Input := { Input.none with core := g }
/-- An input about a line of a core's local store, for a launch. -/
def Input.ofLine (g line : Nat) (lid : BitVec 32) : Input := { Input.none with core := g, line := line, lid := lid }
/-- An input about a stream of a wave: 0 the scalar stream, else a fragment's entry plus 1. -/
def Input.ofStream (w : Nat) : Pick → Input
  | .issue _ lane f _ => { Input.none with wave := w, index := if lane then f + 1 else 0 }
  | .event _ _ => Input.none
/-- An input about a queue. -/
def Input.ofQueue (q : Nat) : Input := { Input.none with slot := q }
/-- An input about a launch. -/
def Input.ofLaunch (lid : BitVec 32) : Input := { Input.none with lid := lid }
/-- An input about a block, and a core of it. -/
def Input.ofBlock (lid : BitVec 32) (blk g : Nat) : Input := { Input.none with lid := lid, blk := blk, core := g }

/-- Steps of one kind where a condition holds. -/
def due (c : Bool) (x : Input) (l : List Instr) : List Due := if c then l.map (fun i => (i, x)) else []

/-- The service of a request. -/
def ReqKind.service : ReqKind → Instr
  | .load _ => .homeRead
  | .store _ => .homeWrite
  | .atomic _ _ => .atomicPerform

/-- Steps of a request in flight. -/
def requestDue (r : Request) : List Due :=
  match r.stage with
  | .sent => due true (.ofRequest r.seq) [r.kind.service, .requestTimeout]
  | .answered _ => due true (.ofRequest r.seq) [.returnArrival, .requestTimeout]
  | .failed _ => due true (.ofRequest r.seq) [.returnArrival, .requestTimeout]
  | .late => due true (.ofRequest r.seq) [.lateReplyDiscard]
  | .timedOut => due true (.ofRequest r.seq) [r.kind.service]

/-- Steps of a control processor.  A fault record waits for firmware's decision, an emulated instruction for its routine;
neither is taken of itself. -/
def ccpDue (f : Fw) (c : Nat) (p : Ccp) : List Due :=
  (due (!p.calls.isEmpty) (.ofCcp c) [.fwcallService]).append
    ((due (decide (256 ≤ p.events.length)) (.ofCcp c) [.eventRecordRead]).append
      (due (f.feat0.toNat / 65536 == 0 && f.feat2 == 0) (.ofCcp c) [.emuHandler]))

/-- Steps of a core: a fill in progress, a spill. -/
def coreDue (g : Nat) (c : Core) : List Due :=
  (c.filling.map (fun p => (.stashFill, .ofLine g p.2 p.1))).append (due c.spill.isSome (.ofCore g) [.spillWriteback])

/-- Steps of requests, matrix pairs, copy engines, control processors and cores. -/
def unitDue (s : State) : List Due :=
  List.flatten [
    s.requests.flatMap requestDue,
    s.pairs.flatMap (fun p => due (!p.2.queue.isEmpty) (.ofPair p.1) [.matrixOpExecute, .stampRecordWrite, .matrixOpRetire]),
    s.engines.flatMap (fun p => due (!p.2.isEmpty) (.ofEngine p.1) [.engineCommandStart, .engineCompletion]),
    s.ccps.flatMap (fun p => ccpDue s.fw p.1 p.2),
    s.cores.flatMap (fun p => coreDue p.1 p.2)]

/-- Steps of a placed block and of its pairs' rotations. -/
def blockDue (s : State) (b : Block) : List Due :=
  let cs := ((s.launch b.lid).map (fun l => coreSet l b)).getD []
  List.flatten [
    due true (.ofBlock b.lid b.blk 0) [.waveCreation],
    cs.flatMap (fun g => due true (.ofBlock b.lid b.blk g) [.blockStart, .blockEnd]),
    ((cs.map (fun g => g / 2)).eraseDups).flatMap
      (fun q => due true (.ofPair q) [.shadowBankPreload, .sliceExpiry, .shadowBankSwitch])]

/-- Steps of queues, launches and blocks. -/
def launchDue (s : State) : List Due :=
  List.flatten [
    s.queues.flatMap (fun q => due true (.ofQueue q.1) [.launchRecordParse]),
    due (!s.launches.isEmpty) Input.none [.launchAdmission],
    due s.fw.warm Input.none [.resetWarm],
    due s.fw.due Input.none [.bringUp],
    due true Input.none [.skewBoundLoss],
    s.launches.flatMap (fun l => due (l.phase != .completed) (.ofLaunch l.lid)
      [.blockPlacement, .gridCompletion, .launchStall, .pooldeadlock]),
    s.blocks.flatMap (blockDue s)]

/-- A landing slot for a wave in transit: the target core's, else the first free one of its die (R96). -/
def landingFor (s : State) (w : Wave) : Nat :=
  match w.target with
  | none => 0
  | some x =>
    if (s.freeLanding x.toNat).isSome then x.toNat
    else ((List.range 4224).find? (fun g => s.dieOf g == s.dieOf x.toNat && (s.freeLanding g).isSome)).getD 0

/-- The next instruction of a stream can issue: its sources have no pending write, and what it needs is free (R111, R112). -/
def State.canIssue (s : State) : Pick → Bool
  | .issue wave lane f _ =>
    match s.focus wave with
    | none => false
    | some t =>
      let t : State := { t with lane := lane, frag := f, defer := false, stalled := false }
      match boundary t with
      | .idle => false
      | .trap _ => true
      | .event _ _ => true
      | .go =>
        match fetchInstr t.refers with
        | .error e => !(fetchFailed t.refers e).stalled
        | .ok (i, u) => match exec i u with
          | .next x => !x.stalled
          | _ => true
  | .event _ _ => true

/-- A wave's ready streams (R112). -/
def State.readyOf (s : State) (w : Wave) : List (Nat × Bool × Pick) := (s.streamsOf w).filter (fun x => s.canIssue x.2.2)

/-- A stream's place: its wave, and 0 for the scalar stream or a fragment's entry plus 1. -/
def Pick.place : Pick → Nat × Nat
  | .issue w lane f _ => (w, if lane then f + 1 else 0)
  | .event _ _ => (0, 0)

/-- Every stream that is not ready has its age, the cycle in which it last became ready, still before it, and is not boosted
(R112). -/
def State.settleAges (s : State) : State :=
  let ready := s.waves.flatMap (fun w => (s.readyOf w).map (fun x => x.2.2.place))
  s.mapWaves (fun w =>
    let w := if ready.contains (w.id, 0) then w else { w with age := s.now, boost := false }
    { w with split := w.split.map (fun p =>
        (p.1, if ready.contains (w.id, p.1 + 1) then p.2 else { p.2 with age := s.now, boost := false })) })

/-- The selector (R112): boosted candidates, then undemoted, then demoted, oldest first. -/
def select (s : State) : Option Pick :=
  let c := s.waves.flatMap (fun w => (s.readyOf w).map (fun x => (x.1, x.2.1, demoted w x.2.2, x.2.2)))
  let pick (f : Nat × Bool × Bool × Pick → Bool) : Option Pick := (oldest ((c.filter f).map (fun x => (x.1, x.2.2.2)))).map (·.2)
  match pick (fun x => x.2.1) with
  | some p => some p
  | none =>
    match pick (fun x => !x.2.2.1) with
    | some p => some p
    | none => pick (fun _ => true)

/-- Streams of a wave that have been ready for 64 cycles without issuing (R112). -/
def boostDue (s : State) (w : Wave) : List Due :=
  ((s.readyOf w).filter (fun x => decide (x.1 + 64 ≤ s.now) && !x.2.1)).map (fun x => (.issueBoost, .ofStream w.id x.2.2))

/-- Steps of a wave. -/
def waveDue (s : State) (w : Wave) : List Due :=
  if w.id = 0 then []
  else List.flatten [
    due true (.ofWave w.id) [.waveRetirement, .haltLatchTimeout],
    due (w.residency == .active) (.ofWave w.id)
      [.laneBlockStart, .splitTableExhaustion, .voluntarySwitch, .entryHoldExpiry, .landingSlotExpiry, .sampleTimerExpiry],
    due (w.residency != .active) (.ofWave w.id) [.waveActivation, .spinWaitEnd],
    due (s.now % 4096 == 0) (.ofWave w.id) [.gwaitPollExpiry],
    due w.inTransit { Input.ofWave w.id with core := landingFor s w } [.landingSlotAcquire],
    boostDue s w]

/-- A step of the device changes the state. -/
def changes (s : State) (e : Due) : Bool :=
  let s : State := { s with input := e.2, stalled := false }
  match exec e.1 s with
  | .next t => t != s
  | _ => false

/-- A list from a place on, then its beginning. -/
def rotated {α : Type} (l : List α) (n : Nat) : List α := l.drop (n % (l.length + 1)) ++ l.take (n % (l.length + 1))

/-- The first step of the device that is due, the search starting at another place each time. -/
def dueEvent (s : State) : Option Pick :=
  let l : List Due := List.flatten [unitDue s, launchDue s, s.waves.flatMap (waveDue s)]
  ((rotated l s.now).find? (changes s)).map (fun e => .event e.1 e.2)

/-- An active wave none of whose streams can issue takes the trap that it holds (R406). -/
def heldPick (s : State) : Option Pick :=
  (s.waves.find? (fun w => w.residency == .active && !w.inhandler && !w.heldTraps.isEmpty && (s.streamsOf w).isEmpty)).map
    (fun w => .issue w.id false 0 false)

/-- The first of two choices. -/
def orElse (x y : Option Pick) : Option Pick :=
  match x with
  | some p => some p
  | none => y

/-- What moves when the agenda is empty: the device's own steps and the selector's choice in turn. -/
def choose (s : State) : Option Pick :=
  let streams := orElse (heldPick s) (select s)
  if s.now % 2 = 0 then orElse (dueEvent s) streams else orElse streams (dueEvent s)

/-! ### Test words (log entry 2) -/

/-- Page-table entries that map one 128 KiB page of a test program: top table at 1 MiB, then one table for each level. -/
def testTables (va pa : Nat) : List (Nat × Nat) :=
  [(0x100000 + 8 * bits va 55 43, 0x110001), (0x110000 + 8 * bits va 42 30, 0x120001),
   (0x120000 + 8 * bits va 29 17, pa + 7)]

/-- A test word in memory: an active wave of address space 1 fetches it next.  A word of more than 64 bits is a lane
instruction of the root fragment of a started lane block.  The lines of its frame are present, so that nothing is fetched first. -/
def placeWord (s : State) (nbits w : Nat) : State :=
  let lane := decide (64 < nbits)
  let pc := if s.w.spc = 0 then 0x10000#64 else s.w.spc
  let page := pc.toNat / 131072 * 131072
  let h := homeDie page
  let pa := h * 2 ^ 37 + 0x200000
  let mem := (testTables page pa).foldl (fun m p => Sparse.setList m p.1 (toBytes 8 p.2)) s.mem
  let mem := Sparse.setList mem (pa + (pc.toNat - page)) (toBytes 12 w)
  let root : SplitEntry := { SplitEntry.free with
    lpc := BitVec.ofNat 32 (pc.toNat % 2 ^ 34 / 4), rga := 0xFFFFFFFF, lmask := 0xFFFFFFFF, fmtc := s.w.fmtw }
  let w1 : Wave := { s.w with
    residency := .active, asid := 1, regcnt := 256, spc := pc,
    lbase := BitVec.ofNat 22 (pc.toNat / 2 ^ 34),
    lq := if lane then [{ pc := pc, k := List.replicate 8 0, fmt := s.w.fmtw, started := true }] else s.w.lq,
    split := if lane then [(0, root)] else s.w.split
    splitCache := if lane then [0] else s.w.splitCache }
  let lines (n : Nat) (x : Nat → FrameLine) : List (Nat × Bool) := (List.range n).map (fun i => (frameLine w1 (x i).offset, false))
  let cache : RegCache := { rc := lines 288 .main, operand := lines 16 .operand }
  { s with w := w1, mem := mem, caches := Table.put s.caches w1.core.toNat cache, fw := { s.fw with asids := Table.put s.fw.asids 1 { top := 0x100000, clusters := 0x3FFFFF } },
           agenda := [.issue w1.id lane 0 false] }

end Sys2Proof.Machine
end

