-- ==== Sys2Proof/Machine/Step.lean ====
section
/-! DEFINITION. One step of the machine: what moves next, its instruction fetched and decoded, its meaning, and time
(log entries 3 and 4). -/

namespace Sys2Proof.Machine

/-- The next state passed on, a fault or a refusal as it stands. -/
def onNext (f : State → State) : Host.Outcome State Fault Refusal → Host.Outcome State Fault Refusal
  | .next s => .next (f s)
  | .fault r => .fault r
  | .refused r => .refused r

/-- An instruction of the stream that moves: its meaning, the undo log's entries before it where debug mode keeps them,
and what follows an issue. -/
def runInstr (i : Instr) (s : State) : Host.Outcome State Fault Refusal :=
  match exec i s with
  | .next t =>
    if logs s t then
      match logUndo i s t with
      | .ok s => onNext (afterIssue s) (exec i s)
      | .error e => .next (passTime (logFailed s e))
    else .next (afterIssue s t)
  | r => r

/-- A stream issues, or takes the trap that is due at its boundary, or cannot issue and time passes. -/
def issue (s : State) (wave : Nat) (lane : Bool) (frag : Nat) (defer : Bool) : Host.Outcome State Fault Refusal :=
  match s.focus wave with
  | none => .next (passTime s)
  | some s =>
    let s := { s with lane := lane, frag := frag, defer := defer, stalled := false }
    match boundary s with
    | .idle => .next (passTime s)
    | .trap t => .next (passTime t)
    | .event i inp => onNext passTime (exec i (s.given inp))
    | .go =>
      match fetchInstr s.refers with
      | .error e => .next (passTime (fetchFailed s.refers e))
      | .ok (i, s) => runInstr i s

/-- What moves, moved. -/
def perform (s : State) : Pick → Host.Outcome State Fault Refusal
  | .event i inp => onNext passTime (exec i (s.given inp))
  | .issue w lane f d => issue s w lane f d

/-- One step: the head of the agenda; with none, what is due of itself, then the selector's choice, then time. -/
def step (s : State) : Host.Outcome State Fault Refusal :=
  match s.agenda with
  | p :: rest => perform { s with agenda := rest } p
  | [] =>
    let s := s.settleAges
    match choose s with
    | some p => perform s p
    | none => .next (passTime s)

/-- The machine with an instruction of `nbits` bits stored where the next step fetches it (log entry 2). -/
def State.withFetchWord (s : State) (nbits w : Nat) : State := placeWord s nbits w

end Sys2Proof.Machine
end

