-- ==== Sys2Proof/Certificates/Slice0/Obligations.lean ====
section
/-! DEFINITION. The statements for the provers, each a proposition about the model, with the rules of the manual that it
formalises.  The definitions beside them name what several statements say in common. -/

namespace Sys2Proof.Claims
end Sys2Proof.Claims

open Sys2Proof Sys2Proof.Machine Sys2Proof.Claims

/-! ### Scalar instructions -/

namespace Sys2Proof.Claims

/-- The scalar part of a wave moved on: only the registers `ds`, their pending marks and the program counter may differ.
Memory, every lane register, mask, latch, sidecar, flag, special register and every other unit is as before. -/
def scalarFrame (s t : State) (ds : List (BitVec 6)) : Prop :=
  t = { s with w := { s.w with sreg := t.w.sreg, pendS := t.w.pendS, spc := t.w.spc } }
    ∧ (∀ r, r ∉ ds → t.rs r = s.rs r)
    ∧ (∀ r, r ∉ ds → Sparse.get t.w.pendS r.toNat = Sparse.get s.w.pendS r.toNat)
    ∧ (∀ pa, t.cell pa = s.cell pa)

/-- The instruction reads `srcs` and writes `x` to `d`: it completes when its registers may be read, and waits in its
place otherwise (R108, R115). -/
def writesScalar (s : State) (i : Instr) (srcs : List (BitVec 6)) (d : BitVec 6) (x : Word64) (len : Nat) : Prop :=
  (s.scalarReady srcs [d] = true → ∃ t, exec i s = .next t
    ∧ t.rs d = (if d = 0 then 0 else x) ∧ t.w.spc = s.w.spc + BitVec.ofNat 64 len ∧ scalarFrame s t [d])
  ∧ (s.scalarReady srcs [d] = false → exec i s = .next { s with stalled := true })

/-- The wave goes on at `pc`: nothing else of the machine changes but what `backward` records of the branch. -/
def jumpFrame (s t : State) (pc : Addr) : Prop :=
  t.w.spc = pc ∧ scalarFrame { s with w := { s.w with backward := t.w.backward } } t []

/-- Leading zeros: the `n` highest bits are zero and the next, if there is one, is not. -/
def leadingZeros (x : Word64) (n : Nat) : Prop :=
  n ≤ 64 ∧ (∀ i, i < n → x.getLsbD (63 - i) = false) ∧ (n < 64 → x.getLsbD (63 - n) = true)

/-- Trailing zeros. -/
def trailingZeros (x : Word64) (n : Nat) : Prop :=
  n ≤ 64 ∧ (∀ i, i < n → x.getLsbD i = false) ∧ (n < 64 → x.getLsbD n = true)

/-- The block that LRUN enqueues (R132). -/
def lrunBlock (s : State) (d a : BitVec 6) (i : Word64) : LaneBlock :=
  { pc := s.rs a + i
    k := (List.range 8).map (fun j => if d = 0 then 0 else s.rs (d + BitVec.ofNat 6 j))
    fmt := s.w.fmtw
    started := false }

end Sys2Proof.Claims

/-- R188: the two-operand instructions of the integer group but shifts and divisions, modulo 2^64. -/
def Sys2Proof.Claims.scalarIntegerResults : Prop :=
  ∀ (s : State) (d a b : BitVec 6), let x := s.rs a; let y := s.rs b
    writesScalar s (.add d a b) [a, b] d (x + y) 4
    ∧ writesScalar s (.sub d a b) [a, b] d (x - y) 4
    ∧ writesScalar s (.and d a b) [a, b] d (x &&& y) 4
    ∧ writesScalar s (.or d a b) [a, b] d (x ||| y) 4
    ∧ writesScalar s (.xor d a b) [a, b] d (x ^^^ y) 4
    ∧ writesScalar s (.andn d a b) [a, b] d (x &&& ~~~y) 4
    ∧ writesScalar s (.slt d a b) [a, b] d (if x.toInt < y.toInt then 1 else 0) 4
    ∧ writesScalar s (.sltu d a b) [a, b] d (if x.toNat < y.toNat then 1 else 0) 4
    ∧ writesScalar s (.min d a b) [a, b] d (BitVec.ofInt 64 (min x.toInt y.toInt)) 4
    ∧ writesScalar s (.max d a b) [a, b] d (BitVec.ofInt 64 (max x.toInt y.toInt)) 4
    ∧ writesScalar s (.minu d a b) [a, b] d (BitVec.ofNat 64 (min x.toNat y.toNat)) 4
    ∧ writesScalar s (.maxu d a b) [a, b] d (BitVec.ofNat 64 (max x.toNat y.toNat)) 4
    ∧ writesScalar s (.mul d a b) [a, b] d (BitVec.ofNat 64 (x.toNat * y.toNat)) 4
    ∧ writesScalar s (.mulh d a b) [a, b] d (BitVec.ofInt 64 (x.toInt * y.toInt / 2 ^ 64)) 4
    ∧ writesScalar s (.mulhu d a b) [a, b] d (BitVec.ofNat 64 (x.toNat * y.toNat / 2 ^ 64)) 4

/-- R189, and R188's immediate shifts: only bits 5:0 of the count register count, and a count of 0 leaves the value. -/
def Obligations.ScalarShifts : Prop :=
  ∀ (s : State) (d a b n : BitVec 6), let x := s.rs a; let c := ((s.rs b).extractLsb' 0 6).toNat
    writesScalar s (.shl d a b) [a, b] d (BitVec.ofNat 64 (x.toNat * 2 ^ c)) 4
    ∧ writesScalar s (.shr d a b) [a, b] d (BitVec.ofNat 64 (x.toNat / 2 ^ c)) 4
    ∧ writesScalar s (.sra d a b) [a, b] d (BitVec.ofInt 64 (x.toInt / 2 ^ c)) 4
    ∧ writesScalar s (.shli d a n) [a] d (BitVec.ofNat 64 (x.toNat * 2 ^ n.toNat)) 4
    ∧ writesScalar s (.shri d a n) [a] d (BitVec.ofNat 64 (x.toNat / 2 ^ n.toNat)) 4
    ∧ writesScalar s (.srai d a n) [a] d (BitVec.ofInt 64 (x.toInt / 2 ^ n.toNat)) 4
    ∧ (c = 0 → BitVec.ofNat 64 (x.toNat * 2 ^ c) = x ∧ BitVec.ofNat 64 (x.toNat / 2 ^ c) = x ∧ BitVec.ofInt 64 (x.toInt / 2 ^ c) = x)

/-- R190: signed division truncates towards zero and the remainder takes the dividend's sign; the table's corners. -/
def Obligations.ScalarDivision : Prop :=
  ∀ (s : State) (d a b : BitVec 6), let x := s.rs a; let y := s.rs b
    writesScalar s (.div d a b) [a, b] d
      (if y = 0 then 0xFFFFFFFFFFFFFFFF
       else if x = 0x8000000000000000 ∧ y = 0xFFFFFFFFFFFFFFFF then 0x8000000000000000
       else BitVec.ofInt 64 (x.toInt.tdiv y.toInt)) 4
    ∧ writesScalar s (.rem d a b) [a, b] d
      (if y = 0 then x
       else if x = 0x8000000000000000 ∧ y = 0xFFFFFFFFFFFFFFFF then 0
       else BitVec.ofInt 64 (x.toInt.tmod y.toInt)) 4
    ∧ writesScalar s (.divu d a b) [a, b] d (if y = 0 then 0xFFFFFFFFFFFFFFFF else BitVec.ofNat 64 (x.toNat / y.toNat)) 4
    ∧ writesScalar s (.remu d a b) [a, b] d (if y = 0 then x else BitVec.ofNat 64 (x.toNat % y.toNat)) 4

/-- R188's unary instructions: counts of leading and trailing zeros and of set bits, and sign extensions. -/
def Sys2Proof.Claims.scalarUnary : Prop :=
  ∀ (s : State) (d a : BitVec 6), let x := s.rs a
    (∃ n, leadingZeros x n ∧ writesScalar s (.clz d a) [a] d (BitVec.ofNat 64 n) 4)
    ∧ (∃ n, trailingZeros x n ∧ writesScalar s (.ctz d a) [a] d (BitVec.ofNat 64 n) 4)
    ∧ writesScalar s (.popc d a) [a] d (BitVec.ofNat 64 ((List.range 64).filter (fun i => x.getLsbD i)).length) 4
    ∧ writesScalar s (.sextb d a) [a] d (BitVec.ofInt 64 (x.extractLsb' 0 8).toInt) 4
    ∧ writesScalar s (.sexth d a) [a] d (BitVec.ofInt 64 (x.extractLsb' 0 16).toInt) 4
    ∧ writesScalar s (.sextw d a) [a] d (BitVec.ofInt 64 (x.extractLsb' 0 32).toInt) 4

namespace Sys2Proof.Claims

/-- The seven S-I arithmetic instructions on the immediate `i`, `len` bytes long, each given by the instruction that
carries it. -/
def immediateResults (s : State) (d a : BitVec 6) (i : Word64) (len : Nat)
    (addi andi ori xori slti sltiu muli : Instr) : Prop :=
  let x := s.rs a
  writesScalar s addi [a] d (x + i) len
    ∧ writesScalar s andi [a] d (x &&& i) len
    ∧ writesScalar s ori [a] d (x ||| i) len
    ∧ writesScalar s xori [a] d (x ^^^ i) len
    ∧ writesScalar s slti [a] d (if x.toInt < i.toInt then 1 else 0) len
    ∧ writesScalar s sltiu [a] d (if x.toNat < i.toNat then 1 else 0) len
    ∧ writesScalar s muli [a] d (BitVec.ofNat 64 (x.toNat * i.toNat)) len

/-- The prefix before an S-I word of major `m` (R35, R37). -/
def prefixed (hi : BitVec 26) (m : BitVec 6) (d a : BitVec 6) (i : BitVec 14) : Instr :=
  .longImmediatePrefix hi (m ++ d ++ a ++ i)

end Sys2Proof.Claims

/-- R191, with R36 and R37: the S-I arithmetic on the sign-extended 14-bit immediate, and, as one instruction of 8 bytes,
on the 40-bit immediate of a prefixed pair. -/
def Obligations.ScalarImmediates : Prop :=
  ∀ (s : State) (d a : BitVec 6) (i : BitVec 14) (hi : BitVec 26),
    immediateResults s d a (BitVec.ofInt 64 i.toInt) 4 (.addi d a i) (.andi d a i) (.ori d a i) (.xori d a i)
      (.slti d a i) (.sltiu d a i) (.muli d a i)
    ∧ immediateResults s d a (BitVec.ofInt 64 (hi ++ i).toInt) 8 (prefixed hi 0x03 d a i) (prefixed hi 0x04 d a i)
      (prefixed hi 0x05 d a i) (prefixed hi 0x06 d a i) (prefixed hi 0x07 d a i) (prefixed hi 0x08 d a i)
      (prefixed hi 0x09 d a i)

/-- R129 and R130: B and CALL go to PC + 4 × offset, CALL after writing PC + 4 to s63; a conditional branch goes there
when its condition holds and to PC + 4 otherwise.  A taken branch backwards under SPINF, and a transfer to address 0 in a
handler, are parts of their own. -/
def Sys2Proof.Claims.scalarBranches : Prop :=
  (∀ (s : State) (o : BitVec 22), let pc := s.w.spc + BitVec.ofInt 64 (4 * o.toInt)
    (pc ≠ 0 ∨ s.inOwnHandler = false) → (0 ≤ o.toInt ∨ s.w.spinf = false) →
      (∃ t, exec (.b o) s = .next t ∧ jumpFrame s t pc)
      ∧ (∃ t, exec (.call o) s = .next t ∧ t.w.spc = pc ∧ t.rs 63 = s.w.spc + 4
          ∧ scalarFrame { s with w := { s.w with backward := t.w.backward } } t [63]))
  ∧ (∀ (s : State) (a b : BitVec 6) (o : BitVec 14), let pc := s.w.spc + BitVec.ofInt 64 (4 * o.toInt)
    let goes (i : Instr) (c : Prop) : Prop :=
      (c → ∃ t, exec i s = .next t ∧ jumpFrame s t pc) ∧ (¬ c → ∃ t, exec i s = .next t ∧ jumpFrame s t (s.w.spc + 4))
    s.scalarReady [a, b] [] = true → (pc ≠ 0 ∨ s.inOwnHandler = false) → (0 ≤ o.toInt ∨ s.w.spinf = false) →
      goes (.beq a b o) (s.rs a = s.rs b) ∧ goes (.bne a b o) (s.rs a ≠ s.rs b)
      ∧ goes (.blt a b o) ((s.rs a).toInt < (s.rs b).toInt) ∧ goes (.bge a b o) ((s.rs b).toInt ≤ (s.rs a).toInt)
      ∧ goes (.bltu a b o) ((s.rs a).toNat < (s.rs b).toNat) ∧ goes (.bgeu a b o) ((s.rs b).toNat ≤ (s.rs a).toNat))

/-- R131: JR, CALLR and RET go to the address in their source, read before CALLR writes its link; a misaligned target is
ALIGN with detail 0. -/
def Sys2Proof.Claims.indirectTransfers : Prop :=
  ∀ (s : State) (d a : BitVec 6), let tgt := s.rs a
    (s.scalarReady [a] [] = true → tgt.extractLsb' 0 2 = 0 → (tgt ≠ 0 ∨ s.inOwnHandler = false) →
      (∃ t, exec (.jr a) s = .next t ∧ t.w.spc = tgt ∧ scalarFrame s t [])
      ∧ (∃ t, exec (.ret a) s = .next t ∧ t.w.spc = tgt ∧ scalarFrame s t []))
    ∧ (s.scalarReady [a] [d] = true → tgt.extractLsb' 0 2 = 0 → (tgt ≠ 0 ∨ s.inOwnHandler = false) →
      ∃ t, exec (.callr d a) s = .next t ∧ t.w.spc = tgt ∧ t.rs d = (if d = 0 then 0 else s.w.spc + 4)
        ∧ scalarFrame s t [d])
    ∧ (tgt.extractLsb' 0 2 ≠ 0 →
      (s.scalarReady [a] [] = true → exec (.jr a) s = .next (s.trapS 0x07 0 0 false)
        ∧ exec (.ret a) s = .next (s.trapS 0x07 0 0 false))
      ∧ (s.scalarReady [a] [d] = true → exec (.callr d a) s = .next (s.trapS 0x07 0 0 false)))

/-- R101: with SPINF set, a taken scalar branch backwards counts, and the 256th since SPIN makes the wave wait for at most
4,096 cycles, with the count at zero again. -/
def Sys2Proof.Claims.spinBackwardBranches : Prop :=
  ∀ (s : State) (o : BitVec 22), let pc := s.w.spc + BitVec.ofInt 64 (4 * o.toInt)
    (pc ≠ 0 ∨ s.inOwnHandler = false) → o.toInt < 0 → s.w.spinf = true → ∃ t, exec (.b o) s = .next t
      ∧ (s.w.spinCount < 255 → t = { s with w := { s.w with spc := pc, backward := true, spinCount := s.w.spinCount + 1 } })
      ∧ (255 ≤ s.w.spinCount → s.w.inChain = false → s.w.place = .origin →
          t.w.spc = pc ∧ t.w.spinCount = 0 ∧ t.w.residency = .waiting ∧ t.w.wait = some (.spin (s.now + 4096))
          ∧ (∀ pa, t.cell pa = s.cell pa) ∧ (∀ r, t.rs r = s.rs r))

/-- R132, R133, R101 and R427: LRUN (with s0 or a run from s1 to s56 named) appends a block with the snapshot of eight registers, the format register and its start to
the lane queue and clears SPINF; LWAIT goes on when at most n blocks are queued; SPIN sets SPINF; NOP does nothing. -/
def Sys2Proof.Claims.laneBlockQueue : Prop :=
  ∀ (s : State) (d a n : BitVec 6) (i : BitVec 14) (hi : BitVec 26),
    let enqueues (ins : Instr) (b : LaneBlock) (len : Nat) : Prop :=
      d.toNat ≤ 56 → s.w.ccp = false → s.scalarReady (a :: runRegs d) [] = true → b.pc.extractLsb' 0 2 = 0 → s.w.lq.length < 8 →
        exec ins s = .next { s with w := { s.w with lq := s.w.lq ++ [b], spinf := false,
                                                    spc := s.w.spc + BitVec.ofNat 64 len } }
    enqueues (.lrun d a i) (lrunBlock s d a (BitVec.ofInt 64 i.toInt)) 4
    ∧ enqueues (prefixed hi 0x1D d a i) (lrunBlock s d a (BitVec.ofInt 64 (hi ++ i).toInt)) 8
    ∧ (s.w.lq.length ≤ n.toNat → exec (.lwait n) s = .next { s with w := { s.w with spc := s.w.spc + 4 } })
    ∧ (n.toNat < s.w.lq.length → exec (.lwait n) s = .next { s with stalled := true })
    ∧ (s.w.spinf = false → exec .spin s
        = .next { s with w := { s.w with spinf := true, spinLines := [], spinCount := 0, spc := s.w.spc + 4 } })
    ∧ (s.w.spinf = true → exec .spin s = .next { s with w := { s.w with spc := s.w.spc + 4 } })
    ∧ exec .nop s = .next { s with w := { s.w with spc := s.w.spc + 4 } }

/-- R172 to R174: FMT answers the old format register, writes the new one field by field and, with a seed register named,
seeds every lane's generator; SEEDLD sets S and BS of a seed register; SEEDTAG answers the tag of a seed. -/
def Sys2Proof.Claims.formatAndSeeds : Prop :=
  ∀ (s : State) (d a b : BitVec 6) (z : BitVec 3),
    (s.scalarReady [a] [d] = true → ∃ t, exec (.fmt d a 0) s = .next t
      ∧ t.w.fmtw = writeFmt s.w.fmtw ((s.rs a).setWidth 32) ∧ t.rs d = (if d = 0 then 0 else s.w.fmtw.setWidth 64)
      ∧ t.w.spc = s.w.spc + 4 ∧ scalarFrame { s with w := { s.w with fmtw := t.w.fmtw } } t [d])
    ∧ (b ≠ 0 → s.w.lq = [] → s.scalarReady [a, b] [d] = true → ∃ t, exec (.fmt d a b) s = .next t
      ∧ t.w.fmtw = writeFmt s.w.fmtw ((s.rs a).setWidth 32) ∧ t.rs d = (if d = 0 then 0 else s.w.fmtw.setWidth 64)
      ∧ (∀ L, L < 32 → Sparse.get t.w.gens L = seedGenerator ((s.rs b).setWidth 32) s.w.gen L)
      ∧ t.w.spc = s.w.spc + 4
      ∧ scalarFrame { s with w := { s.w with fmtw := t.w.fmtw, gens := t.w.gens } } t [d])
    ∧ (s.w.lq = [] → s.scalarReady [a, b] [] = true → ∃ t, exec (.seedld z a b) s = .next t
      ∧ seedS (Sparse.get t.w.z z.toNat) = s.rs a
      ∧ (Sparse.get t.w.z z.toNat).getLsbD 64 = (s.rs b).getLsbD 0
      ∧ (∀ k, k ≠ z.toNat → Sparse.get t.w.z k = Sparse.get s.w.z k)
      ∧ t.w.spc = s.w.spc + 4 ∧ scalarFrame { s with w := { s.w with z := t.w.z } } t [])
    ∧ writesScalar s (.seedtag d a b) [a, b] d ((seedTag (s.rs a) ((s.rs b).getLsbD 0)).setWidth 64) 4

/-! ### Scalar loads and stores -/

namespace Sys2Proof.Claims

/-- An access to `n` bytes at the global address `va` is made at once and reaches local HBM at `pa` under key slot `k`,
within one line, on a page that permits it, with no earlier access to the bytes on its way, no first-touch capture, no
registered block, no move lock and every sector passing its check. -/
def reachesHbm (s : State) (va n : Nat) (acc : Acc) (pa k : Nat) : Bool :=
  !s.defer && !s.overtakes va n && decide (va % 128 + n ≤ 128) && decide (pa % 128 + n ≤ 128)
    && (match s.launch s.w.lid with
      | some l => !l.capture
      | none => true)
    && s.reaches (s.dieOf s.w.core.toNat) (homeDie va)
    && (match translate s s.w.asid va acc with
      | .ok (x, _) => x == (pa, k)
      | .error _ => false)
    && decide (pa + n ≤ 0x8000000000) && (s.badSector pa n k).isNone
    && (Table.find s.directory (pa / 512)).isNone
    && (s.die (bits pa 38 37)).locks.isEmpty && s.w.wait.isNone

/-- Nothing of the line is held between the core and the home, and the launch has no L1 partition: the load goes to the
home (R297, R322, R323). -/
def uncached (s : State) (va : Nat) : Bool :=
  (s.cachedBytes va 1).isNone && decide (l1Lines s s.w.lid = 0) && decide (homeDie va = s.dieOf s.w.core.toNat)
    && (s.core s.w.core.toNat).l1.isEmpty && (s.die (s.dieOf s.w.core.toNat)).rdc.isEmpty

/-- The state `s` with what an access to local HBM may change at the homes whose memory it passes: translations and lines cached
there, the copies in HBM of lines replaced, and the marks of sectors corrected on the way (R290, R297, R302). -/
def passing (s t : State) : State := { s with dies := t.dies, hbm := t.hbm, poison := t.poison }

/-- The little-endian number in `n` bytes of memory (R3). -/
def memNumber (s : State) (pa n : Nat) : Nat := ofBytes ((List.range n).map (fun i => s.cell (pa + i)))

/-- The register value of a load of `n` bytes (R304). -/
def loaded (s : State) (pa n : Nat) (sgn : Bool) : Word64 :=
  if sgn then BitVec.ofInt 64 (BitVec.ofNat (8 * n) (memNumber s pa n)).toInt else BitVec.ofNat 64 (memNumber s pa n)

/-- The load `i` of `n` bytes at `addr` completes with what local HBM holds; memory and everything else of the wave but the
destination, the program counter and SPIN's record of lines stay. -/
def loads (s : State) (i : Instr) (n : Nat) (sgn : Bool) (d a : BitVec 6) (addr : Addr) (len : Nat) : Prop :=
  ∀ va pa k, s.scalarReady [a] [d] = true → addr.toNat % n = 0 → s.target addr = .global va →
    reachesHbm s va n .read pa k = true → uncached s va = true → ∃ t, exec i s = .next t
      ∧ t.rs d = (if d = 0 then 0 else loaded s pa n sgn) ∧ t.w.spc = s.w.spc + BitVec.ofNat 64 len
      ∧ scalarFrame (passing { s with w := { s.w with spinLines := t.w.spinLines } } t) t [d]

/-- The store `i` of the low `n` bytes of `x` at `addr` completes: local HBM holds them little-endian at the translated
address, every other byte of memory reads as before, and so does every register. -/
def stores (s : State) (i : Instr) (n : Nat) (d a : BitVec 6) (addr : Addr) (len : Nat) : Prop :=
  ∀ va pa k, s.scalarReady [a, d] [] = true → addr.toNat % n = 0 → s.target addr = .global va →
    reachesHbm s va n .write pa k = true → ∃ t, exec i s = .next t
      ∧ (∀ j, j < n → t.cell (pa + j) = (s.rs d).extractLsb' (8 * j) 8)
      ∧ (∀ y, y < pa ∨ pa + n ≤ y → t.cell y = s.cell y)
      ∧ t.w = { s.w with spinf := false, spinLines := [], spinCount := 0, backward := false,
                         spc := s.w.spc + BitVec.ofNat 64 len }

end Sys2Proof.Claims

/-- R304: the scalar loads from local HBM, sign- or zero-extended, alone and with a prefix. -/
def Sys2Proof.Claims.scalarLoads : Prop :=
  ∀ (s : State) (d a : BitVec 6) (i : BitVec 14) (hi : BitVec 26),
    let at4 := s.rs a + BitVec.ofInt 64 i.toInt
    let at8 := s.rs a + BitVec.ofInt 64 (hi ++ i).toInt
    (loads s (.sldB d a i) 1 true d a at4 4 ∧ loads s (.sldBu d a i) 1 false d a at4 4
      ∧ loads s (.sldH d a i) 2 true d a at4 4 ∧ loads s (.sldHu d a i) 2 false d a at4 4
      ∧ loads s (.sldW d a i) 4 true d a at4 4 ∧ loads s (.sldWu d a i) 4 false d a at4 4
      ∧ loads s (.sldD d a i) 8 true d a at4 4)
    ∧ (loads s (prefixed hi 0x0A d a i) 1 true d a at8 8 ∧ loads s (prefixed hi 0x0B d a i) 1 false d a at8 8
      ∧ loads s (prefixed hi 0x0C d a i) 2 true d a at8 8 ∧ loads s (prefixed hi 0x0D d a i) 2 false d a at8 8
      ∧ loads s (prefixed hi 0x0E d a i) 4 true d a at8 8 ∧ loads s (prefixed hi 0x0F d a i) 4 false d a at8 8
      ∧ loads s (prefixed hi 0x10 d a i) 8 true d a at8 8)

/-- R304: the scalar stores to local HBM, alone and with a prefix. -/
def Sys2Proof.Claims.scalarStores : Prop :=
  ∀ (s : State) (d a : BitVec 6) (i : BitVec 14) (hi : BitVec 26),
    let at4 := s.rs a + BitVec.ofInt 64 i.toInt
    let at8 := s.rs a + BitVec.ofInt 64 (hi ++ i).toInt
    stores s (.sstB d a i) 1 d a at4 4 ∧ stores s (.sstH d a i) 2 d a at4 4 ∧ stores s (.sstW d a i) 4 d a at4 4
    ∧ stores s (.sstD d a i) 8 d a at4 4
    ∧ stores s (prefixed hi 0x11 d a i) 1 d a at8 8 ∧ stores s (prefixed hi 0x12 d a i) 2 d a at8 8
    ∧ stores s (prefixed hi 0x13 d a i) 4 d a at8 8 ∧ stores s (prefixed hi 0x14 d a i) 8 d a at8 8

/-- R304: an address that is no multiple of the size is ALIGN with detail 0, before anything is accessed; an address in the
void is MEMFAULT with the address (R284). -/
def Sys2Proof.Claims.scalarAccessTraps : Prop :=
  ∀ (s : State) (d a : BitVec 6) (i : BitVec 14), let addr := s.rs a + BitVec.ofInt 64 i.toInt
    (s.scalarReady [a] [d] = true →
      (addr.toNat % 2 ≠ 0 → exec (.sldH d a i) s = .next (s.trapS 0x07 0 0 false)
        ∧ exec (.sldHu d a i) s = .next (s.trapS 0x07 0 0 false))
      ∧ (addr.toNat % 4 ≠ 0 → exec (.sldW d a i) s = .next (s.trapS 0x07 0 0 false)
        ∧ exec (.sldWu d a i) s = .next (s.trapS 0x07 0 0 false))
      ∧ (addr.toNat % 8 ≠ 0 → exec (.sldD d a i) s = .next (s.trapS 0x07 0 0 false))
      ∧ (s.target addr = .bad → exec (.sldB d a i) s = .next (s.trapS 0x06 0 addr false)))
    ∧ (s.scalarReady [a, d] [] = true →
      (addr.toNat % 2 ≠ 0 → exec (.sstH d a i) s = .next (s.trapS 0x07 0 0 false))
      ∧ (addr.toNat % 4 ≠ 0 → exec (.sstW d a i) s = .next (s.trapS 0x07 0 0 false))
      ∧ (addr.toNat % 8 ≠ 0 → exec (.sstD d a i) s = .next (s.trapS 0x07 0 0 false))
      ∧ (s.target addr = .bad → exec (.sstB d a i) s = .next (s.trapS 0x06 0 addr false)))

/-! ### Chords, copies, phases and barriers -/

namespace Sys2Proof.Claims

/-- Scalar register `d` takes `x` (s0 stays zero) and every other keeps its value. -/
def setsOnly (s t : State) (d : BitVec 6) (x : Word64) : Prop :=
  t.rs d = (if d = 0 then 0 else x) ∧ ∀ r, r ≠ d → t.rs r = s.rs r

/-- Every byte of memory reads as before. -/
def memSame (s t : State) : Prop := ∀ pa, t.cell pa = s.cell pa

/-- The scalar stream went on to the next instruction. -/
def goesOn (s t : State) : Prop := t.w.spc = s.w.spc + 4

/-- A chord instruction may act: on a core, its registers readable, a chord number below 32, no lane block queued, and
the launch's bank on the ORIGIN core. -/
def chordReady (s : State) (a : BitVec 6) (regs : List (BitVec 6)) (d : BitVec 6) : Bool :=
  !s.w.ccp && s.scalarReady (a :: regs) [d] && decide ((s.rs a).toNat < 32) && s.w.lq.isEmpty
    && (s.core s.w.origin.toNat).holds s.w.lid

/-- A live chord `k` of the wave's launch on its ORIGIN core. -/
def myChord (s : State) (k : Nat) : Option Chord := (s.core s.w.origin.toNat).chord s.w.lid k

/-- No line of the chord holds a DIRTY or PUB byte. -/
def cleanChord (s : State) (c : Chord) : Bool :=
  let co := s.core s.w.origin.toNat
  (c.lines (s.stash s.w.lid).1).all (fun l => Sparse.get co.dirty l == 0 && Sparse.get co.pub l == 0)

end Sys2Proof.Claims

/-- R244 and R245: CHSET of a chord that is not live loads the 64-byte block and makes the chord live with every line's
masks clear (status 0), or with a qualifying retained set adopted (status 1), or changes nothing (status 2, 3 or 4); CHREL
of a chord with nothing to write back makes it not live, and answers 1 for a chord that was not live. -/
def Sys2Proof.Claims.chordSetAndRelease : Prop :=
  (∀ (s s1 : State) (d a b : BitVec 6) (img : List Byte), let k := (s.rs a).toNat
    let c : Chord := { image := BitVec.ofNat 512 (ofBytes img) }
    let st := chsetStatus s1 s.w.origin.toNat s.w.lid k c
    let adopted := (s1.core s.w.origin.toNat).retained.any
      (fun r => r.asid == s.w.asid && r.image == c.image && r.base == (s1.stash s.w.lid).1)
    chordReady s a [b] d = true → (s.rs b).toNat % 64 = 0 → s.loadNow (s.rs b) 64 = .ok (img, s1) →
      s1.w = s.w → s1.directory = [] → myChord s1 k = none → (s1.core s.w.origin.toNat).holds s.w.lid = true →
      queuedRead s1 s.w.origin.toNat c.soff c.len = false →
      ∃ t, exec (.chset d a b) s = .next t ∧ goesOn s t ∧ memSame s1 t
        ∧ (st ≠ 0 → setsOnly s t d (BitVec.ofNat 64 st) ∧ myChord t k = none)
        ∧ (st = 0 → setsOnly s t d (if adopted then 1 else 0) ∧ myChord t k = some c
            ∧ (adopted = false → ∀ l, l ∈ c.lines (s1.stash s.w.lid).1 →
                Sparse.get (t.core s.w.origin.toNat).valid l = 0 ∧ Sparse.get (t.core s.w.origin.toNat).dirty l = 0)))
  ∧ (∀ (s : State) (d a : BitVec 6), let k := (s.rs a).toNat
    chordReady s a [] d = true →
      (myChord s k = none → ∃ t, exec (.chrel d a) s = .next t ∧ goesOn s t ∧ setsOnly s t d 1 ∧ memSame s t)
      ∧ (∀ c, myChord s k = some c → chordBusy s s.w.origin.toNat c = false → cleanChord s c = true →
          ∃ t, exec (.chrel d a) s = .next t ∧ goesOn s t ∧ setsOnly s t d 0 ∧ myChord t k = none))

/-- R246 to R248: CHKEY and CHTAG replace PKEY and TAG of a live chord's parameter block and answer the old value; CHFILL
starts the fill of every line of the range that is neither filling nor wholly VALID and answers their number; each answers
all ones for a chord that is not live. -/
def Sys2Proof.Claims.chordFields : Prop :=
  ∀ (s : State) (d a b : BitVec 6), let k := (s.rs a).toNat
    chordReady s a [b] d = true →
      (∀ c, myChord s k = some c →
        (∃ t c', exec (.chkey d a b) s = .next t ∧ goesOn s t ∧ setsOnly s t d (BitVec.ofNat 64 c.pkey) ∧ memSame s t
          ∧ myChord t k = some c' ∧ c'.pkey = (s.rs b).toNat % 2 ^ 32
          ∧ ∀ i, i < 512 → (i < 8 * 0x38 ∨ 8 * 0x3C ≤ i) → c'.image.getLsbD i = c.image.getLsbD i)
        ∧ (chordBusy s s.w.origin.toNat c = false →
          ∃ t c', exec (.chtag d a b) s = .next t ∧ goesOn s t ∧ setsOnly s t d (c.tag.setWidth 64) ∧ memSame s t
          ∧ myChord t k = some c' ∧ c'.tag = (s.rs b).setWidth 16
          ∧ ∀ i, i < 512 → (i < 8 * 0x36 ∨ 8 * 0x38 ≤ i) → c'.image.getLsbD i = c.image.getLsbD i)
        ∧ (let co := s.core s.w.origin.toNat
          let lo := (s.rs b).toNat % 2 ^ 32
          let hi := min (lo + (s.rs b).toNat / 2 ^ 32) c.len
          let start := (c.lines (s.stash s.w.lid).1).filter (fun l =>
            let o := l * 128 - ((s.stash s.w.lid).1 + c.soff)
            decide (o < hi) && decide (lo < o + 128) && decide (lo < hi)
              && Sparse.get co.valid l != BitVec.allOnes 128 && !co.filling.contains (s.w.lid, l))
          ∃ t, exec (.chfill d a b) s = .next t ∧ goesOn s t ∧ setsOnly s t d (BitVec.ofNat 64 start.length)
            ∧ memSame s t ∧ (t.core s.w.origin.toNat).filling = co.filling ++ start.map (fun l => (s.w.lid, l))))
      ∧ (myChord s k = none → ∀ i, i ∈ [Instr.chkey d a b, .chfill d a b, .chtag d a b] →
          ∃ t, exec i s = .next t ∧ goesOn s t ∧ setsOnly s t d (BitVec.allOnes 64) ∧ memSame s t)

namespace Sys2Proof.Claims

/-- What the issue of a valid copy command needs (R361): a core's wave, its registers readable, no lane block queued, its
accesses acknowledged and nothing to publish, a valid descriptor `x`, a slot that is free and an engine queue with
room. -/
def copyReady (s : State) (kind : CopyKind) (d a b : BitVec 6) (x : BitVec 512) : Bool :=
  let c := s.rs b
  !s.w.ccp && s.scalarReady [a, b] [d] && s.w.lq.isEmpty && decide ((s.rs a).toNat % 64 = 0) && s.quiet
    && (s.core s.w.origin.toNat).chords.isEmpty && s.w.clusterWrites == 0
    && copyStatus kind x c == 0 && (!cPv c || slotState (s.w.cslot (cPrev c)) != 0)
    && slotState (s.w.cslot (cSlot c)) != 1 && decide ((s.engine (copyEngine s x c)).length < 64)

/-- The copy `i` of a kind, its descriptor `x` loaded in the state `s1`, or as it was read before the instruction stalled, issues:
status 0, its slot busy with the engine's number, and one command more, of that kind and with that descriptor, at the end of the
engine's queue. -/
def copies (s : State) (i : Instr) (kind : CopyKind) (d a b : BitVec 6) : Prop :=
  ∀ x s1, s.w.ccp = false → s.scalarReady [a, b] [d] = true → s.w.lq = [] → (s.rs a).toNat % 64 = 0 →
      ((∃ img, s.w.progress = none ∧ s.loadNow (s.rs a) 64 = .ok (img, s1) ∧ x = BitVec.ofNat 512 (ofBytes img))
        ∨ (s.w.progress = some (.copy x) ∧ s1 = s)) → s1.w = s.w → copyReady s1 kind d a b x = true →
    let e := copyEngine s1 x (s.rs b)
    ∃ t q, exec i s = .next t ∧ goesOn s t ∧ setsOnly s t d 0 ∧ memSame s1 t
      ∧ t.engine e = s1.engine e ++ [q] ∧ q.kind = kind ∧ q.desc = x ∧ q.ctl = s.rs b ∧ q.started = false
      ∧ q.frame = s.w.frame ∧ q.gen = s.w.gen ∧ q.slotSeq = slotSeq (s.w.cslot (cSlot (s.rs b))) + 1
      ∧ slotState (t.w.cslot (cSlot (s.rs b))) = 1 ∧ slotEng (t.w.cslot (cSlot (s.rs b))) = e % 256
      ∧ (∀ n, n ≠ cSlot (s.rs b) → t.w.cslot n = s.w.cslot n) ∧ t.w.pendcnt = s.w.pendcnt + 1

end Sys2Proof.Claims

/-- R361, R341 and R355: a copy instruction whose checks pass puts its command at the end of the engine's queue, takes the
completion slot and answers 0; an invalid descriptor answers its status and changes nothing else. -/
def Sys2Proof.Claims.copyIssue : Prop :=
  ∀ (s : State) (d a b : BitVec 6),
    copies s (.cpy d a b) 0 d a b ∧ copies s (.cpyt d a b) 1 d a b ∧ copies s (.cpyr d a b) 2 d a b
    ∧ copies s (.cpyc d a b) 3 d a b
    ∧ (s.w.ccp = false → s.scalarReady [a, b] [d] = true → s.w.lq = [] → (s.rs a).toNat % 64 ≠ 0 →
        ∀ i, i ∈ [Instr.cpy d a b, .cpyt d a b, .cpyr d a b, .cpyc d a b] →
          ∃ t, exec i s = .next t ∧ t.w.spc = s.w.spc + 4 ∧ scalarFrame s t [d] ∧ t.rs d = (if d = 0 then 0 else 2))

/-- R362 and R358: EWAIT of a mask whose slots are ready, and EPOLL at once, answer the done slots in bits 15:0 and the
failed ones in bits 31:16, with an acquire at sys scope where one is done and ENGFAULT where a failed slot asks for it; EWAIT
of a busy slot makes the wave wait; a mask with bits above 16 answers all ones. -/
def Sys2Proof.Claims.engineWaits : Prop :=
  ∀ (s : State) (d a : BitVec 6), let x := s.rs a; let m : BitVec 16 := x.setWidth 16
    let done := slotsWhere s.w m (fun v => slotState v == 2)
    let bad := slotsWhere s.w done (fun v => slotCode v != 0)
    let answer (i : Instr) : Prop :=
      ∃ t, exec i s = .next t ∧ goesOn s t ∧ setsOnly s t d (BitVec.ofNat 64 (done.toNat + bad.toNat * 65536)) ∧ memSame s t
    s.scalarReady [a] [d] = true →
      (x.toNat < 2 ^ 17 → s.readsDone = true → slotsWhere s.w (done &&& s.w.slotTrapf) (fun v =>
          decide (3 ≤ slotCode v) && decide (slotCode v ≤ 5)) = 0 →
        answer (.epoll d a) ∧ (s.w.slotsReady m (x.getLsbD 16) = true → answer (.ewait d a)))
      ∧ (x.toNat < 2 ^ 17 → s.w.slotsReady m (x.getLsbD 16) = false → s.w.inChain = false → s.w.place = .origin →
          ∃ t, exec (.ewait d a) s = .next t ∧ t.w.spc = s.w.spc ∧ t.w.residency = .waiting
            ∧ t.w.wait = some (.engine m (x.getLsbD 16)) ∧ (∀ r, t.rs r = s.rs r) ∧ memSame s t)
      ∧ (2 ^ 17 ≤ x.toNat → ∀ i, i ∈ [Instr.ewait d a, .epoll d a] →
          ∃ t, exec i s = .next t ∧ goesOn s t ∧ setsOnly s t d (BitVec.allOnes 64) ∧ scalarFrame s t [d])

/-- R338: PHASE.  An acquire drops the launch's L1 lines on the core from block scope on, sets TP from package scope on and
TD from domain scope on; a release (here with nothing to publish) clears SPINF. -/
def Obligations.PhaseInstruction : Prop :=
  ∀ (s : State) (h : BitVec 2) (sc : BitVec 3), let now := s.ptcOf s.w.core.toNat
    s.w.lq = [] → s.quiet = true → s.readsDone = true → (s.core s.w.origin.toNat).chords = [] → s.w.clusterWrites = 0 →
      ∃ t, exec (.phase h sc) s = .next t ∧ goesOn s t ∧ (∀ r, t.rs r = s.rs r) ∧ memSame s t
        ∧ (h.getLsbD 0 = true → t.w.spinf = false) ∧ (h.getLsbD 0 = false → t.w.spinf = s.w.spinf)
        ∧ (h.getLsbD 1 = true → sc ≠ 0 → ∀ l, l ∈ (t.core s.w.core.toNat).l1 → l.lid ≠ s.w.lid)
        ∧ t.w.tp = (if h.getLsbD 1 = true ∧ 3 ≤ sc.toNat then plusSkew now s.fw.skewPkg else s.w.tp)
        ∧ t.w.td = (if h.getLsbD 1 = true ∧ 4 ≤ sc.toNat then plusSkew now s.fw.skewDom else s.w.td)

namespace Sys2Proof.Claims

/-- A barrier instruction of the wave may arrive: a core's wave with its registers readable, a barrier number below 16, its
accesses acknowledged and nothing to publish, and a block that exists, where the wave has not arrived. -/
def arrivalReady (s : State) (a d : BitVec 6) : Bool :=
  !s.w.ccp && s.scalarReady [a] [d] && decide ((s.rs a).toNat < 16) && s.w.lq.isEmpty && s.quiet && s.readsDone
    && (s.core s.w.origin.toNat).chords.isEmpty && s.w.clusterWrites == 0
    && (s.block s.w.lid s.w.blk).isSome && !s.hasArrived (s.rs a).toNat && decide (s.w.widx < 256)

/-- Arrivals of a block's barrier, with the wave's own. -/
def arrivals (s : State) (n : Nat) : BitVec 256 :=
  Sparse.get ((s.block s.w.lid s.w.blk).map (·.arrived) |>.getD []) n ||| (1#256 <<< s.w.widx)

/-- The wave's arrival is the one that completes the phase (R376). -/
def lastArrival (s : State) (n : Nat) : Bool :=
  match s.block s.w.lid s.w.blk with
  | some b => decide (s.expected s.w.lid b ≤ bitCount (arrivals s n))
  | none => false

end Sys2Proof.Claims

/-- R376 to R378: an arrival sets the wave's bit, or, when it is the last, raises the phase count by one and clears the
bits.  BARA answers the phase arrived at; BARB then waits for that phase to complete, or goes on with an acquire and the new
count; BARW goes on at once when the phase it names is no longer the current one, and waits otherwise. -/
def Sys2Proof.Claims.blockBarriers : Prop :=
  ∀ (s : State) (d a b : BitVec 6), let n := (s.rs a).toNat; let p := s.phaseOf n
    let counted (t : State) : Prop :=
      (lastArrival s n = false → t.phaseOf n = p
        ∧ (t.block s.w.lid s.w.blk).map (fun x => Sparse.get x.arrived n) = some (arrivals s n))
      ∧ (lastArrival s n = true → t.phaseOf n = p + 1
        ∧ (t.block s.w.lid s.w.blk).map (fun x => Sparse.get x.arrived n) = some 0)
    (arrivalReady s a d = true → s.w.progress = none → s.w.wait = none →
      (∃ t, exec (.bara d a) s = .next t ∧ goesOn s t ∧ setsOnly s t d (p.setWidth 64) ∧ counted t ∧ memSame s t)
      ∧ (lastArrival s n = true → ∃ t, exec (.barb d a) s = .next t ∧ goesOn s t
          ∧ setsOnly s t d ((p + 1).setWidth 64) ∧ counted t ∧ memSame s t)
      ∧ (lastArrival s n = false → s.w.inChain = false → s.w.place = .origin →
          ∃ t, exec (.barb d a) s = .next t ∧ t.w.spc = s.w.spc ∧ t.w.residency = .waiting
          ∧ t.w.wait = some (.barrier n p) ∧ counted t ∧ memSame s t))
    ∧ (s.w.ccp = false → s.scalarReady [a, b] [d] = true → n < 16 → s.readsDone = true → s.w.progress = none →
      (p ≠ (s.rs b).setWidth 32 → ∃ t, exec (.barw d a b) s = .next t ∧ goesOn s t
          ∧ setsOnly s t d (p.setWidth 64) ∧ memSame s t)
      ∧ (p = (s.rs b).setWidth 32 → s.w.inChain = false → s.w.place = .origin →
          ∃ t, exec (.barw d a b) s = .next t ∧ t.w.spc = s.w.spc ∧ t.w.residency = .waiting
          ∧ t.w.wait = some (.barrier n p) ∧ memSame s t))
    ∧ (s.w.ccp = false → s.scalarReady [a] [d] = true → 16 ≤ n →
        exec (.bara d a) s = .next (s.trapS 0x13 0 0 true) ∧ exec (.barb d a) s = .next (s.trapS 0x13 0 0 true))

/-- R380: GARRIVE on an object whose COUNT exceeds ARRIVED adds an arrival, or, with the last, clears ARRIVED and raises
PHASE, and answers the old PHASE; GWAIT answers a PHASE that differs from the one it names, with an acquire, and waits while
they are equal. -/
def Sys2Proof.Claims.gridBarriers : Prop :=
  ∀ (s s1 : State) (d a b : BitVec 6) (va : Nat) (o : GridObject),
    let pa := o.pa; let count := gridField o.bytes 0; let arrived := gridField o.bytes 4; let p := gridField o.bytes 8
    (s.rs a).extractLsb' 0 4 = 0 → decodeAddr (s.pbase s.w) (s.rs a) = .global va →
    gridObject (captureTouch s s.w.lid va) va = .ok (some o, s1) → o.bad = none → o.bytes.length = 16 → s1.w = s.w → s1.directory = [] →
      (s.scalarReady [a] [d] = true → s.w.lq = [] → s.quiet = true → (s.core s.w.origin.toNat).chords = [] →
        s.w.clusterWrites = 0 → s.w.spinf = false → s.w.spinLines = [] → s.w.spinCount = 0 → s.w.backward = false →
        s.w.split = [] → s.w.wait = none → arrived.toNat < count.toNat →
        ∃ t, exec (.garrive d a) s = .next t ∧ goesOn s t ∧ setsOnly s t d (p.setWidth 64)
          ∧ (arrived + 1 ≠ count → memNumber t (pa + 4) 4 = arrived.toNat + 1
              ∧ ∀ y, y < pa + 4 ∨ pa + 8 ≤ y → t.cell y = s1.cell y)
          ∧ (arrived + 1 = count → memNumber t (pa + 4) 4 = 0 ∧ memNumber t (pa + 8) 4 = (p + 1).toNat
              ∧ ∀ y, y < pa + 4 ∨ pa + 12 ≤ y → t.cell y = s1.cell y))
      ∧ (s.scalarReady [a, b] [d] = true → s.w.progress = none → s1.readsDone = true →
        (p ≠ (s.rs b).setWidth 32 → ∃ t, exec (.gwait d a b) s = .next t ∧ goesOn s t
          ∧ setsOnly s t d (p.setWidth 64) ∧ memSame s1 t)
        ∧ (p = (s.rs b).setWidth 32 → s.w.inChain = false → s.w.place = .origin →
          ∃ t, exec (.gwait d a b) s = .next t ∧ t.w.spc = s.w.spc ∧ t.w.residency = .waiting
          ∧ t.w.wait = some (.grid (BitVec.ofNat 64 va) p) ∧ memSame s1 t))

/-! ### Contexts -/

namespace Sys2Proof.Claims

/-- The status and the register count that CTXGROW and CTXSHRINK answer (R98). -/
def countWord (st regs : Nat) : Word64 := BitVec.ofNat 64 (st + 256 * regs)

/-- Registers and sidecars below `n` keep their values. -/
def keepsBelow (s t : State) (n : Nat) : Prop :=
  (∀ r L, r < n → L < 32 → t.w.rv r L = s.w.rv r L) ∧ ∀ r, r < n → t.w.rx r = s.w.rx r

/-- No wave but the one that moves asks for registers, and it waits for nothing. -/
def noGrowers (s : State) : Bool := s.w.wait.isNone && s.others.all (fun w => w.growing.isNone)

/-- The wave's registers, entries and slots are those that a context has (R62). -/
def fitsFrame (w : Wave) : Bool :=
  decide (w.regcnt ≤ 256) && w.sreg.all (fun p => decide (p.1 < 64)) && w.m.all (fun p => decide (p.1 < 16))
    && w.o.all (fun p => decide (p.1 < 512)) && w.l.all (fun p => decide (p.1 < 128))
    && w.split.all (fun p => decide (p.1 < 32)) && w.slots.all (fun p => decide (p.1 < 16))
    && w.gens.all (fun p => decide (p.1 < 32)) && decide (w.lq.length ≤ 8)

/-- The wave's frame stands in a writable page at `pa` that no earlier request of its core is on its way to and no move lock
holds, each of its sectors passes its check, and no block of memory is registered by a core. -/
def frameAt (s : State) (pa k : Nat) : Bool :=
  s.directory.isEmpty && fitsFrame s.w && (!isLocal pa || (!s.locked pa 65536 && (sectorsOf pa 65536).all (fun sec => s.sectorOk sec k)))
    && (match framePlace s s.w with
    | .ok (x, _) => x == (pa, k)
    | .error _ => false)

/-- Memory outside the 64 KiB frame at `pa` reads as before. -/
def memOutside (s t : State) (pa : Nat) : Prop := ∀ y, y < pa ∨ pa + 65536 ≤ y → t.cell y = s.cell y

end Sys2Proof.Claims

/-- R98 and R93: CTXGROW and CTXSHRINK outside their range, or not in their direction, answer and change nothing; a
grant makes REGCNT the number asked for, the registers added read zero and the others keep their values; a shrink drops the
registers above; the pool's count of lines in use moves by the difference; a request that exceeds the pool's budget waits. -/
def Sys2Proof.Claims.contextSizes : Prop :=
  ∀ (s : State) (d a : BitVec 6), let n := (s.rs a).toNat; let r := s.w.regcnt
    s.scalarReady [a] [d] = true → s.w.lq = [] → s.w.progress = none → noGrowers s = true → r ≤ 256 →
      s.collecting ((List.range r).drop n) = false →
      ((n < 1 ∨ 256 < n) → ∀ i, i ∈ [Instr.ctxgrow d a, .ctxshrink d a] →
        ∃ t, exec i s = .next t ∧ goesOn s t ∧ setsOnly s t d (countWord 2 r) ∧ memSame s t ∧ t.w.regcnt = r)
      ∧ (1 ≤ n → n ≤ 256 →
        (n ≤ r → ∃ t, exec (.ctxgrow d a) s = .next t ∧ goesOn s t ∧ setsOnly s t d (countWord 0 r) ∧ memSame s t)
        ∧ (r ≤ n → ∃ t, exec (.ctxshrink d a) s = .next t ∧ goesOn s t ∧ setsOnly s t d (countWord 0 r) ∧ memSame s t)
        ∧ (r < n → s.myPool = none → ∃ t, exec (.ctxgrow d a) s = .next t ∧ goesOn s t
            ∧ setsOnly s t d (countWord 0 n) ∧ t.w.regcnt = n ∧ keepsBelow s t r ∧ memSame s t
            ∧ (∀ m L, r ≤ m → m < n → L < 32 → t.w.rv m L = 0) ∧ (∀ m, r ≤ m → m < n → t.w.rx m = 0))
        ∧ (∀ p, r < n → s.myPool = some p → p.rused.toNat + (n - r) ≤ p.rbud.toNat →
            ∃ t, exec (.ctxgrow d a) s = .next t ∧ goesOn s t
            ∧ setsOnly s t d (countWord 0 n) ∧ t.w.regcnt = n ∧ keepsBelow s t r
            ∧ t.myPool = some { p with rused := p.rused + BitVec.ofNat 64 (n - r) }
            ∧ (∀ y, t.cell y = (s.charge p (n - r : Nat)).cell y)
            ∧ (∀ m L, r ≤ m → m < n → L < 32 → t.w.rv m L = 0) ∧ (∀ m, r ≤ m → m < n → t.w.rx m = 0))
        ∧ (∀ p, r < n → s.myPool = some p → p.rbud.toNat < p.rused.toNat + (n - r) → s.w.inChain = false →
            s.w.place = .origin → ∃ t, exec (.ctxgrow d a) s = .next t ∧ t.w.spc = s.w.spc
            ∧ t.w.residency = .waiting ∧ t.w.wait = some (.grow (n - r) false) ∧ t.w.regcnt = r
            ∧ (∀ x, t.rs x = s.rs x) ∧ memSame s t)
        ∧ (n < r → (∀ p, p ∈ s.w.pendV → p.1 < 32 * n) → s.myPool = none →
            ∃ t, exec (.ctxshrink d a) s = .next t ∧ goesOn s t ∧ setsOnly s t d (countWord 0 n) ∧ t.w.regcnt = n
            ∧ keepsBelow s t n ∧ memSame s t)
        ∧ (∀ p, n < r → (∀ p, p ∈ s.w.pendV → p.1 < 32 * n) → s.myPool = some p →
            ∃ t, exec (.ctxshrink d a) s = .next t ∧ goesOn s t ∧ setsOnly s t d (countWord 0 n) ∧ t.w.regcnt = n
            ∧ keepsBelow s t n ∧ t.myPool = some { p with rused := p.rused - BitVec.ofNat 64 (r - n) }
            ∧ (∀ y, t.cell y = (s.charge p (-((r - n : Nat) : Int))).cell y)))

/-- R99, R100 and R84: MIGRATE with a reserved flag answers 4, with an address outside the global window 3, and towards the
die it is on 1; with nothing outstanding and without the copy flag it writes 0 and leaves for the address's die, or, with
address 0, for home; its state goes to its frame.  That s[sd] and SPC stand in the frame from the departing step on, and
that the target core is the die's lowest, are the model's choices (log 47).  YIELD gives up the entry, or, inside a latch chain,
orders the switch. -/
def Sys2Proof.Claims.migrationAndYield : Prop :=
  ∀ (s : State) (d a b : BitVec 6), let x := s.rs a; let here := s.dieOf s.w.core.toNat
    (s.scalarReady [a, b] [d] = true →
      ((s.rs b).toNat / 2 ≠ 0 → ∃ t, exec (.migrate d a b) s = .next t ∧ goesOn s t ∧ scalarFrame s t [d]
        ∧ setsOnly s t d 4)
      ∧ ((s.rs b).toNat / 2 = 0 → 2 ^ 56 ≤ x.toNat → ∃ t, exec (.migrate d a b) s = .next t ∧ goesOn s t
        ∧ scalarFrame s t [d] ∧ setsOnly s t d 3)
      ∧ ((s.rs b).toNat / 2 = 0 → x ≠ 0 → x.toNat < 2 ^ 56 → homeDie x.toNat = here →
        ∃ t, exec (.migrate d a b) s = .next t ∧ goesOn s t ∧ scalarFrame s t [d] ∧ setsOnly s t d 1)
      ∧ (∀ pa k, s.rs b = 0 → x.toNat < 2 ^ 56 → (x = 0 ∨ homeDie x.toNat ≠ here) → s.w.lq = [] → s.w.pendcnt = 0 →
          frameAt s pa k = true →
        ∃ t, exec (.migrate d a b) s = .next t ∧ goesOn s t ∧ setsOnly s t d 0 ∧ memOutside s t pa
          ∧ t.w.residency = .swapped ∧ t.w.place = .transit ∧ t.w.swapped = true
          ∧ t.w.target = (if x = 0 then none else some (BitVec.ofNat 13 (384 * firstD s.fw.diemap (homeDie x.toNat))))
          ∧ (t.core s.w.core.toNat).activeWaves.contains s.w.id = false))
    ∧ (s.w.inChain = false → s.w.place = .origin → s.w.wait = none →
        ∃ t, exec .yield s = .next t ∧ goesOn s t ∧ (∀ r, t.rs r = s.rs r) ∧ memSame s t ∧ t.w.residency = .ready
          ∧ (t.core s.w.core.toNat).activeWaves.contains s.w.id = false
          ∧ ∀ f e, Table.find t.w.split f = some e → e.latv = 0)
    ∧ (s.w.inChain = true → exec .yield s
        = .next { s with w := { s.w with spc := s.w.spc + 4, switching := true } })

/-! ### Launches and items -/

namespace Sys2Proof.Claims

/-- A wave's state at the launch instruction: wave 0 of its block, not too deep, nothing queued, its register readable, its
accesses acknowledged and nothing to publish. -/
def launchReady (s : State) (a d : BitVec 6) : Bool :=
  s.w.widx == 0 && s.w.depth != 10 && s.scalarReady [a] [d] && s.w.lq.isEmpty && s.quiet
    && (s.core s.w.origin.toNat).chords.isEmpty && s.w.clusterWrites == 0

end Sys2Proof.Claims

/-- R381: LAUNCH answers 10 from another wave than wave 0, traps LAUNCHDEPTH at depth 10, and answers 1 for a record that is
not 256-byte aligned; when the record passes its checks and fewer than 4,096 children live, the child takes the next
identifier with bit 31 set, one nesting level deeper; a failing check's status stands in bits 63:32. -/
def Sys2Proof.Claims.launchInstruction : Prop :=
  ∀ (s : State) (d a : BitVec 6), let x := s.rs a
    (s.scalarReady [a] [d] = true → s.w.widx ≠ 0 →
      ∃ t, exec (.launch d a) s = .next t ∧ goesOn s t ∧ scalarFrame s t [d] ∧ setsOnly s t d 0x0000000A00000000)
    ∧ (s.scalarReady [a] [d] = true → s.w.widx = 0 → s.w.depth = 10 →
        exec (.launch d a) s = .next (s.trapS 0x10 0 0 false))
    ∧ (launchReady s a d = true → x.toNat % 256 ≠ 0 →
        ∃ t, exec (.launch d a) s = .next t ∧ goesOn s t ∧ scalarFrame s t [d] ∧ setsOnly s t d 0x0000000100000000)
    ∧ (∀ b p s0 s1 st, launchReady s a d = true → x.toNat % 256 = 0 → loadRecord s x 4 = .ok (b, s0) → s0.w = s.w →
        launchReady s0 a d = true → checkRecord s0 (Launch.ofRecord 0 (BitVec.ofNat 2048 (ofBytes b)) none none 0 0) (some s.w.asid) = .ok (st, p, s1) →
        s1.w = s.w →
        (st ≠ 0 → ∃ t, exec (.launch d a) s = .next t ∧ goesOn s t ∧ setsOnly s t d (BitVec.ofNat 64 (st * 2 ^ 32))
          ∧ t.launches = s1.launches ∧ memSame s1 t)
        ∧ (st = 0 → s1.liveChildren < 4096 → ∃ t l, exec (.launch d a) s = .next t ∧ goesOn s t
          ∧ t.launches = s1.launches ++ [l] ∧ l.lid = 1#1 ++ s1.children ∧ l.depth = s.w.depth + 1
          ∧ l.parent = some s.w.id ∧ l.record = BitVec.ofNat 2048 (ofBytes b) ∧ l.phase = .parsed
          ∧ setsOnly s t d (l.lid.setWidth 64) ∧ t.children = s1.children + 1 ∧ memSame s1 t)
        ∧ (st = 0 → 4096 ≤ s1.liveChildren → ∃ t, exec (.launch d a) s = .next t ∧ goesOn s t
          ∧ setsOnly s t d 0x0000000900000000 ∧ t.launches = s1.launches ∧ memSame s1 t))

/-- R382: LJOIN of a value above 32 bits answers all ones; of a child that has completed its status, with an acquire, and of 0
the greatest status of its completed children; until then the wave waits. -/
def Sys2Proof.Claims.joinInstruction : Prop :=
  ∀ (s : State) (d a : BitVec 6), let h := s.rs a
    s.scalarReady [a] [d] = true →
      (2 ^ 32 ≤ h.toNat → ∃ t, exec (.ljoin d a) s = .next t ∧ goesOn s t ∧ scalarFrame s t [d]
        ∧ setsOnly s t d (BitVec.allOnes 64))
      ∧ (h.toNat < 2 ^ 32 → s.joinReady s.w.id h = true → s.readsDone = true →
        ∃ t, exec (.ljoin d a) s = .next t ∧ goesOn s t ∧ memSame s t
          ∧ (h ≠ 0 → setsOnly s t d ((s.statusOf (h.setWidth 32)).setWidth 64))
          ∧ (h = 0 → setsOnly s t d (BitVec.ofNat 64
              (((s.launches.filter (fun l => l.parent == some s.w.id)).map (fun l => l.status.toNat)).foldl max 0)))
          ∧ ∀ l, l ∈ (t.core s.w.core.toNat).l1 → l.lid ≠ s.w.lid)
      ∧ (h.toNat < 2 ^ 32 → s.joinReady s.w.id h = false → s.w.inChain = false → s.w.place = .origin →
        ∃ t, exec (.ljoin d a) s = .next t ∧ t.w.spc = s.w.spc ∧ t.w.residency = .waiting
          ∧ t.w.wait = some (.join h) ∧ (∀ r, t.rs r = s.rs r) ∧ memSame s t)

namespace Sys2Proof.Claims

/-- No lane of any wave waits for items in ITEMNEXT. -/
def noItemWaits (s : State) : Bool := s.waves.all (fun w => w.split.all (fun p => !p.2.itemWait))

/-- The only fragment that waits for items is `f` of the wave that moves, in the ITEMNEXT `c`, and no item of the launch is
queued. -/
def awaitsItems (s : State) (f : Nat) (c : LaneArgs) : Bool :=
  (s.core s.w.origin.toNat).items.all (fun y => y.1 != s.w.lid) && s.others.all (fun w => w.split.all (fun p => !p.2.itemWait))
    && s.w.id != 0 && !s.w.swapped && s.w.residency == .active
    && (s.w.split.filter (fun p => p.2.itemWait)).map (fun p => (p.1, p.2.itemArgs)) == [(f, some c)]
    && (Table.find s.w.split f).any (·.itemWait)

/-- The lanes of that fragment that request items, lowest first. -/
def requesting (s : State) (f : Nat) (c : LaneArgs) : List Nat :=
  lanesOf (({ s with lane := true, frag := f } : State).active c.mask &&& s.w.rm (c.imm.extractLsb' 0 4).toNat)

end Sys2Proof.Claims

/-- R134: ITEMPUSH with a count above 64 or a reserved bit answers all ones; otherwise it appends consecutive items of the
launch, as many as the queue of 64 holds, and answers their number.  R140 and R464: lanes that wait in ITEMNEXT take the items as
they are pushed, lowest lane first, and their request bits clear. -/
def Sys2Proof.Claims.itemPush : Prop :=
  ∀ (s : State) (d a b : BitVec 6), let x := s.rs b; let c := x.toNat % 128; let g := s.w.origin.toNat
    let queued := ((s.core g).items.filter (fun y => (s.core g).banked y.1 || y.1 == s.w.lid)).length
    let k := min c (64 - queued)
    let item (j : Nat) : Word32 := (s.rs a).setWidth 32 + BitVec.ofNat 32 j
    s.scalarReady [a, b] [d] = true →
      ((64 < c ∨ 2 ^ 9 ≤ x.toNat ∨ x.getLsbD 7 = true) → ∃ t, exec (.itempush d a b) s = .next t ∧ goesOn s t
        ∧ scalarFrame s t [d] ∧ setsOnly s t d (BitVec.allOnes 64))
      ∧ (c ≤ 64 → x.toNat < 2 ^ 9 → x.getLsbD 7 = false → noItemWaits s = true → ∃ t, exec (.itempush d a b) s = .next t
        ∧ goesOn s t ∧ setsOnly s t d (BitVec.ofNat 64 k) ∧ memSame s t
        ∧ (t.core g).items = (s.core g).items ++ (List.range k).map (fun j => (s.w.lid, item j))
        ∧ (x.getLsbD 8 = true → k = c → (t.core g).sealed.contains s.w.lid = true)
        ∧ (x.getLsbD 8 = false → 0 < k → (t.core g).sealed.contains s.w.lid = false))
      ∧ (∀ f e, 0 < c → c ≤ 64 → x.toNat < 2 ^ 8 → x.getLsbD 7 = false → awaitsItems s f e = true →
        ∃ t, exec (.itempush d a b) s = .next t ∧ goesOn s t ∧ setsOnly s t d (BitVec.ofNat 64 k) ∧ memSame s t
        ∧ (∀ j L, j < k → (requesting s f e)[j]? = some L → t.w.rv e.vd.toNat L = item j
            ∧ (t.w.rm (e.imm.extractLsb' 0 4).toNat).getLsbD L = false)
        ∧ ((t.core g).items.filter (fun y => y.1 == s.w.lid)).map (·.2)
            = ((List.range k).map item).drop (requesting s f e).length)

/-! ### Traps, returns and halts -/

namespace Sys2Proof.Claims

/-- The scalar vector entry of a code, loaded at TRAPBASE, is the bytes `b`, read without effect on the wave, with no earlier access
that the load would pass on its way (R313, R321, R403). -/
def scalarVector (s : State) (code : Nat) (b : List Byte) (s1 : State) : Prop :=
  let va := (s.w.trapbase.toNat + 8 * code) % 2 ^ 56
  s.early va 8 = false ∧ ((s.cachedBytes va 8).isSome = true ∨ s.overtakes va 8 = false)
    ∧ coreRead s s.w.core.toNat s.w.lid s.w.asid va 8 s.w.tp s.w.td .normal = .ok (b, s1) ∧ s1.w = s.w

/-- The wave that moves is on a core: it is neither parked nor swapped (R73). -/
def onCore (s : State) : Bool := s.w.residency != .parked && s.w.residency != .swapped

/-- A valid scalar vector entry (R403). -/
def validVector (e : Nat) : Bool := e != 0 && e / 2 ^ 56 % 256 == 0 && e % 4 == 0

/-- The scalar handler at `e` is entered from `s`: TRAPCAUSE, TRAPPC, TRAPADDR and TRAPMASK are written, INHANDLER is
set, SPINF is clear, and the scalar stream is at `e`; nothing else changes (R403 to R405). -/
def entered (s : State) (cause pc addr : Word64) (e : Nat) (stop : Bool) : State :=
  { s with w := { s.w with trapcause := cause, trappc := pc, trapaddr := addr, trapmask := 0, inhandler := true,
                           spinf := false, spc := BitVec.ofNat 64 e, scalarHeld := false, wait := none, progress := none,
                           handler := some { frag := none, stop := stop, nr := false, since := s.seq } } }

/-- TRAPCAUSE of a scalar trap: the code in bits 7:0, the detail in bits 31:8, NEST in bit 32 and SW in bit 34 (R404). -/
def scalarCause (code detail : Nat) (nest sw : Bool) : Word64 :=
  BitVec.ofNat 64 (code + 256 * detail + 2 ^ 32 * nest.toNat + 2 ^ 34 * sw.toNat)

/-- The origin of a halt (R411, R412): it keeps its cause with HALTED set, and parks with every register as it was: for the
debugger, or, where its frame's page is not mapped and its state stays with its core, for that (R83). -/
def haltedAt (s t : State) (cause pc : Word64) : Prop :=
  t.w.trapcause = cause ||| 0x0000020000000000 ∧ t.w.trappc = pc ∧ t.w.residency = .parked
    ∧ (t.w.parkc = .debugHalt ∨ (t.w.parkc = .ctxFault ∧ t.w.swapped = false))
    ∧ (∀ r, t.rs r = s.rs r) ∧ t.w.v = s.w.v ∧ t.w.m = s.w.m ∧ t.w.x = s.w.x ∧ t.w.id = s.w.id

end Sys2Proof.Claims

/-- R403 to R405 and R428: TRAP enters the scalar handler of its code with the operand's low 24 bits as DETAIL and SW set,
TRAPPC at the TRAP; an encoding that is not assigned enters the handler of ILLOP; a breakpoint that does not halt that of
BRK with its tag.  With no valid vector entry the block halts with the trap's own cause. -/
def Sys2Proof.Claims.trapEntry : Prop :=
  ∀ (s s1 : State) (a c n : BitVec 6) (k : IllegalKind) (b : List Byte), let e := ofBytes b; let x := (s.rs a).toNat % 2 ^ 24
    s.w.inhandler = false → s.w.dbgctl.getLsbD 4 = false → s.lane = false → onCore s = true →
      (s.scalarReady [a] [] = true → scalarVector s (c.toNat % 32) b s1 →
        (validVector e = true →
          exec (.trap a c) s = .next (entered s1 (scalarCause c.toNat x false true) s.w.spc 0 e false))
        ∧ (validVector e = false → ∃ t, exec (.trap a c) s = .next t
          ∧ haltedAt s t (scalarCause c.toNat x false true) s.w.spc))
      ∧ (scalarVector s 0x01 b s1 → validVector e = true →
        exec (.illegalInstruction k) s = .next (entered s1 (scalarCause 0x01 0 false false) s.w.spc 0 e false))
      ∧ (scalarVector s 0x0C b s1 → validVector e = true → s.w.dbgctl.getLsbD 3 = false →
        exec (.brk n) s = .next (entered s1 (scalarCause 0x0C n.toNat false false) s.w.spc 0 e false))

/-- R407 and R408: a trap that the scalar handler itself raises halts the block with NEST set; a return from a handler of a
trap that is not resumable halts it too. -/
def Sys2Proof.Claims.nestedFault : Prop :=
  ∀ (s : State) (a c : BitVec 6) (k : BitVec 1) (h : Handler), s.lane = false → onCore s = true → s.w.inhandler = true →
    s.w.handler = some h → h.frag = none →
      (s.scalarReady [a] [] = true → ∃ t, exec (.trap a c) s = .next t
        ∧ haltedAt s t (scalarCause c.toNat ((s.rs a).toNat % 2 ^ 24) true true) s.w.spc)
      ∧ (s.w.trapcause.getLsbD 33 = true → ∃ t, exec (.tret k) s = .next t ∧ haltedAt s t s.w.trapcause s.w.trappc)

/-- R430, R431 and R410 to R412: HALT halts the block with HALTREQ and the operand's low 16 bits, BRK under BRKH with its
tag; every other wave of the block that has not retired and runs no handler records HALTREQ with the kind and the origin's
index, and its own program counter; that its siblings stop at their program counters with a zero skid is the model's choice (log
entry 37). -/
def Sys2Proof.Claims.haltingABlock : Prop :=
  ∀ (s : State) (a n : BitVec 6),
    let spread (t : State) (kind : Nat) : Prop := ∀ u, u ∈ s.others → u.lid = s.w.lid → u.blk = s.w.blk →
      u.residency ≠ .retired → u.trapcause.getLsbD 41 = false → u.inhandler = false →
        ∃ v, v ∈ t.others ∧ v.id = u.id ∧ v.trappc = u.spc ∧ (v.residency = .parked ∨ v.residency = .swapped)
          ∧ v.trapcause = BitVec.ofNat 64 (0x0E + 256 * (kind * 65536 + s.w.widx)) ||| 0x0000020000000000
    onCore s = true →
    (s.scalarReady [a] [] = true → ∃ t, exec (.halt a) s = .next t
        ∧ haltedAt s t (scalarCause 0x0E ((s.rs a).toNat % 2 ^ 16) false false) s.w.spc ∧ spread t 2)
    ∧ (s.w.dbgctl.getLsbD 3 = true → ∃ t, exec (.brk n) s = .next t
        ∧ haltedAt s t (scalarCause 0x0C n.toNat false false) s.w.spc ∧ spread t 3)

/-- R429 and R413: TRET leaves the scalar handler for TRAPPC, TRET.skip for the instruction after it, 8 bytes on where a
long-immediate prefix stands there; a latched halt is taken at the resume point.  A TRAPPC that is not word-aligned is ALIGN with detail 0 (R32); outside
the handler it is ALIGN with detail 2. -/
def Obligations.TrapReturn : Prop :=
  ∀ (s s1 : State) (k : BitVec 1) (h : Handler) (b : List Byte),
    (s.w.inhandler = true → s.w.handler = some h → h.frag = none → s.w.trapcause.getLsbD 33 = false →
      s.w.trappc.extractLsb' 0 2 = 0 →
      (s.w.haltlatch = false → exec (.tret 0) s
        = .next { s with w := { s.w with spc := s.w.trappc, inhandler := false, handler := none } })
      ∧ (s.w.haltlatch = false → fetch s s.w.trappc 4 = .ok (b, s1) → s1.w = s.w → exec (.tret 1) s
        = .next { s1 with w := { s.w with spc := s.w.trappc + (if ofBytes b / 2 ^ 26 = 1 then 8 else 4),
                                          inhandler := false, handler := none } })
      ∧ (s.w.haltlatch = true → ∃ t, exec (.tret 0) s = .next t ∧ t.w.haltlatch = false ∧ t.w.residency = .parked
        ∧ t.w.trappc = s.w.trappc ∧ t.w.inhandler = false ∧ ∀ r, t.rs r = s.rs r))
    ∧ (s.w.inhandler = true → s.w.handler = some h → h.frag = none → s.w.trapcause.getLsbD 33 = false →
        s.w.trappc.extractLsb' 0 2 ≠ 0 → exec (.tret k) s = .next (s.trapS 0x07 0 0 false))
    ∧ (s.w.inhandler = false → exec (.tret k) s = .next (s.trapS 0x07 2 0 false))

/-! ### Stages and special registers -/

/-- R432 and R417: STAGE answers the cycles of the stage that ends without FIRED, and begins the next with its count at zero and
its budget read from the stage table, zero where there is none. -/
def Sys2Proof.Claims.stageInstruction : Prop :=
  ∀ (s s1 : State) (d n : BitVec 6) (b : List Byte), let st : BitVec 4 := n.setWidth 4
    s.scalarReady [] [d] = true → Table.find s.fw.traces s.w.asid.toNat = none → s.lane = false →
      (s.w.stagetab = 0 → ∃ t, exec (.stage d n) s = .next t ∧ goesOn s t
        ∧ setsOnly s t d (s.w.stagecnt &&& 0x7FFFFFFFFFFFFFFF) ∧ t.w.stage = st ∧ t.w.stagecnt = 0 ∧ t.w.budget = 0
        ∧ t.w.budgetLost = false
        ∧ scalarFrame { s with w := { s.w with stage := t.w.stage, stagecnt := t.w.stagecnt, budget := t.w.budget,
                                               budgetLost := t.w.budgetLost } } t [d])
      ∧ (s.w.stagetab ≠ 0 → let s2 : State := ((s.setS d (s.w.stagecnt &&& 0x7FFFFFFFFFFFFFFF)).advance 4).onW (fun w => { w with stage := st, stagecnt := 0, budget := 0, budgetLost := false })
          s2.loadNow (s.w.stagetab + BitVec.ofNat 64 (4 * st.toNat)) 4 = .ok (b, s1) → s1.w = s2.w → s1.fw = s.fw →
          exec (.stage d n) s = .next { s1 with w := { s2.w with budget := BitVec.ofNat 32 (ofBytes b) } })

namespace Sys2Proof.Claims

/-- The special registers that the manual assigns (R54). -/
def assignedSrs : List Nat :=
  [0x000, 0x001, 0x002, 0x003, 0x004, 0x005, 0x006, 0x008, 0x009, 0x010, 0x011, 0x012, 0x013, 0x020, 0x021, 0x030, 0x031,
   0x032, 0x033, 0x040, 0x041, 0x042, 0x050, 0x060]

end Sys2Proof.Claims

/-- R54 and R433: SRDSR answers each special register under its number, and an unassigned number is ILLREG; the named
forms read SFLAGS, after every lane block, and PTC, never smaller than an earlier read. -/
def Sys2Proof.Claims.specialRegisterReads : Prop :=
  ∀ (s : State) (d h l : BitVec 6), let n := 64 * h.toNat + l.toNat; let i := Instr.srdsr d h l; let w := s.w
    let is (m : Nat) (x : Word64) : Prop := n = m → writesScalar s i [] d x 4
    let ptc := if (s.ptcOf w.core.toNat).toNat < w.lastPtc.toNat then w.lastPtc else s.ptcOf w.core.toNat
    let readsPtc (i : Instr) : Prop := s.scalarReady [] [d] = true → ∃ t, exec i s = .next t ∧ goesOn s t
      ∧ setsOnly s t d ptc ∧ t.w.lastPtc = ptc ∧ scalarFrame { s with w := { w with lastPtc := ptc } } t [d]
    (is 0x001 w.wclk ∧ is 0x003 s.fw.diemap ∧ is 0x004 (w.core.setWidth 64) ∧ is 0x005 w.waveid
      ∧ is 0x006 (w.depth.setWidth 64) ∧ is 0x008 s.fw.skewPkg ∧ is 0x009 s.fw.skewDom ∧ is 0x010 s.fw.feat0
      ∧ is 0x011 s.fw.feat1 ∧ is 0x012 s.fw.feat2 ∧ is 0x013 s.fw.feat3 ∧ is 0x020 w.trampbase ∧ is 0x021 w.trapbase)
    ∧ (is 0x030 w.trapcause ∧ is 0x031 w.trappc ∧ is 0x032 w.trapaddr ∧ is 0x033 w.trapmask ∧ is 0x040 w.deadline
      ∧ is 0x041 w.stagemargin ∧ is 0x042 w.stagecnt ∧ is 0x050 w.dbgctl ∧ is 0x060 w.sflags)
    ∧ (∀ x, s.launch w.lid = some x → is 0x002 x.drops)
    ∧ (n = 0 → readsPtc i) ∧ readsPtc (.srdsrPtc d)
    ∧ (s.w.lq = [] → writesScalar s (.srdsrSflags d) [] d w.sflags 4)
    ∧ (s.lane = false → n ∉ assignedSrs → exec i s = .next (s.trapS 0x03 0 0 false))

namespace Sys2Proof.Claims

/-- The scalar instruction `i` of 4 bytes changes the wave by `f` and goes on; nothing else changes. -/
def setsWave (s : State) (i : Instr) (d : BitVec 6) (f : Wave → Wave) : Prop :=
  s.scalarReady [d] [] = true → exec i s = .next { s with w := { f s.w with spc := s.w.spc + 4 } }

end Sys2Proof.Claims

/-- R433, with R54, R135, R403, R416 to R418 and R186: SWRSR replaces the writable fields of each special register and
leaves the reserved bits zero; a read-only register ignores the write, and an unassigned number is ILLREG.  The named forms
do the same, SFLAGS and DBGCTL after every lane block. -/
def Sys2Proof.Claims.specialRegisterWrites : Prop :=
  ∀ (s : State) (d h l : BitVec 6), let n := 64 * h.toNat + l.toNat; let i := Instr.swrsr d h l; let x := s.rs d
    let tramp (w : Wave) : Wave := { w with trampbase := x &&& 0x00FFFFFFFFFFFFF8 }
    let flags (w : Wave) : Wave := { w with sflags := x &&& 0x3F }
    let ctl (old : Word64) : Word64 :=
      if x.getLsbD 1 = true ∧ x.extractLsb' 20 36 = 0#36
      then (x &&& 0x00FFFFFFFFFFFFFD) ||| (old &&& 2) else x &&& 0x00FFFFFFFFFFFFFF
    let dbg (w : Wave) : Wave := { w with sampled := w.wclk, dbgctl := ctl w.dbgctl }
    let line (w : Wave) : Wave := { w with deadline := x }
    (n = 0x020 → setsWave s i d tramp) ∧ (n = 0x021 → setsWave s i d (fun w => { w with trapbase := x &&& 0x00FFFFFFFFFFFE00 }))
    ∧ (n = 0x040 → setsWave s i d line) ∧ (n = 0x041 → setsWave s i d (fun w => { w with stagemargin := x &&& 0xFFFFFFFF }))
    ∧ (n = 0x050 → setsWave s i d dbg) ∧ (n = 0x060 → setsWave s i d flags)
    ∧ (n ∈ [0x000, 0x001, 0x002, 0x003, 0x004, 0x005, 0x006, 0x008, 0x009, 0x010, 0x011, 0x012, 0x013, 0x030, 0x031, 0x032,
        0x033, 0x042] → setsWave s i d id)
    ∧ (s.lane = false → n ∉ assignedSrs → exec i s = .next (s.trapS 0x03 0 0 false))
    ∧ setsWave s (.swrsrTrampbase d) d tramp ∧ setsWave s (.swrsrDeadline d) d line
    ∧ (s.w.lq = [] → setsWave s (.swrsrSflags d) d flags ∧ setsWave s (.swrsrDbgctl d) d dbg)

/-! ### Firmware calls, emulation, trampolines -/

/-- R454, R49 and R295: FWCALL parks the wave with PARKC 5 and queues the call at the cluster's control processor; an
instruction of an extension range parks it with PARKC 3 and gives firmware an EMU record at the instruction.  The state goes
to the frame; memory outside it stays. -/
def Sys2Proof.Claims.parkingForFirmware : Prop :=
  ∀ (s : State) (d a b : BitVec 6) (x : ExtensionKind) (pa k : Nat), let c := s.w.core.toNat / 192
    frameAt s pa k = true →
      (s.w.ccp = false → s.scalarReady [a, b] [d] = true → s.w.lq = [] → ∃ t, exec (.fwcall d a b) s = .next t
        ∧ t.w.residency = .parked ∧ t.w.parkc = .fwcall ∧ t.w.spc = s.w.spc ∧ (∀ r, t.rs r = s.rs r)
        ∧ (t.ccp c).calls = (s.ccp c).calls ++ [{ wave := s.w.id, dest := d, service := s.rs a, arg := s.rs b }]
        ∧ memOutside s t pa)
      ∧ ((s.ccp c).faults.length < 128 → ∃ t r, exec (.extensionInstruction x) s = .next t
        ∧ t.w.residency = .parked ∧ t.w.parkc = .emu ∧ t.w.spc = s.w.spc ∧ t.w.split = s.w.split ∧ (∀ r, t.rs r = s.rs r)
        ∧ t.w.v = s.w.v ∧ (t.ccp c).faults = (s.ccp c).faults ++ [r] ∧ r.code = 0x03 ∧ r.pc = s.pcNow
        ∧ r.frame = s.w.frame ∧ r.gen = s.w.gen ∧ memOutside s t pa)

namespace Sys2Proof.Claims

/-- The link word of the tool area stands in plain memory of the wave's frame, reachable at `pa`. -/
def linkAt (s : State) (pa k : Nat) : Bool :=
  decide (s.target (s.w.frame + 0xCFF8) = .self 0xCFF8) && reachesHbm s (s.w.frame.toNat + 0xCFF8) 8 .write pa k

/-- The wave's marks of a waiting loop end, as with every store (R101), and it goes to `pc`; the link word holds `x`, every
other byte of memory reads as before. -/
def linked (s t : State) (pa : Nat) (x pc : Word64) : Prop :=
  t.w = { s.w with spinf := false, spinLines := [], spinCount := 0, backward := false, spc := pc }
    ∧ (∀ j, j < 8 → t.cell (pa + j) = x.extractLsb' (8 * j) 8) ∧ (∀ y, y < pa ∨ pa + 8 ≤ y → t.cell y = s.cell y)

end Sys2Proof.Claims

/-- R135: TRAMPS with a free link goes to its table entry and saves PC + 1 in the link word; with a link held it is, once the
entry is loaded, TOOL with detail 6.  TRAMPS.RET with a link held goes behind the TRAMPS and clears the link word; with a free one it is ALIGN with
detail 2. -/
def Sys2Proof.Claims.scalarTrampolines : Prop :=
  ∀ (s s1 s2 : State) (i : BitVec 20) (l b : List Byte) (pa k : Nat), let link := s.w.frame + 0xCFF8; let e := ofBytes b
    let old := BitVec.ofNat 64 (ofBytes l)
    s.loadNow link 8 = .ok (l, s1) → s1.w = s.w →
      (s1.loadNow (s.w.trampbase + BitVec.ofNat 64 (8 * i.toNat)) 8 = .ok (b, s2) → s2.w = s.w →
        (linkAt s2 pa k = true → ofBytes l % 2 = 0 → e / 2 ^ 56 % 256 = 0 → e % 4 = 0 →
          (BitVec.ofNat 64 e ≠ 0 ∨ s2.inOwnHandler = false) →
          ∃ t, exec (.tramps i) s = .next t ∧ linked s2 t pa (s.w.spc + 1) (BitVec.ofNat 64 e))
        ∧ (ofBytes l % 2 = 1 → exec (.tramps i) s = .next (s2.trapS 0x15 6 0 false)))
      ∧ (linkAt s1 pa k = true → ofBytes l % 2 = 1 → ((old &&& ~~~3) + 4 ≠ 0 ∨ s1.inOwnHandler = false) →
          ∃ t, exec .trampsRet s = .next t ∧ linked s1 t pa 0 ((old &&& ~~~3) + 4))
      ∧ (ofBytes l % 2 = 0 → exec .trampsRet s = .next (s1.trapS 0x07 2 0 false))

/-- R456: a transfer to address 0 leaves the scalar stream at 0, where it ends; in the scalar stream's own handler it is a
nested fault, recorded as ALIGN with detail 2. -/
def Sys2Proof.Claims.transferToZeroInHandler : Prop :=
  ∀ (s : State) (a : BitVec 6), s.lane = false → onCore s = true → s.scalarReady [a] [] = true → s.rs a = 0 →
    (s.inOwnHandler = false → ∀ i, i ∈ [Instr.jr a, .ret a] → ∃ t, exec i s = .next t ∧ t.w.spc = 0 ∧ scalarFrame s t []
        ∧ mayIssue t.w false 0 = false)
    ∧ (s.inOwnHandler = true → ∀ i, i ∈ [Instr.jr a, .ret a] → ∃ t, exec i s = .next t
        ∧ haltedAt s t (scalarCause 0x07 2 true false) s.w.spc)

/-! ### Lane arithmetic -/

namespace Sys2Proof.Claims

/-- The fragment may execute a lane instruction with these operands on the lanes `act`: its registers lie below REGCNT, its
sources have no outstanding write, no matrix operation has still to collect its destinations, its latches are valid, and the
lines it references are in the core (R48, R78 to R81, R115, R273). -/
def laneReady (s : State) (u : LaneUse) (act : Word32) : Bool :=
  !u.illegal s.w.regcnt && !s.pendingV u act && !s.latchPending u act && !s.collecting u.dsts && !s.latchLost u
    && (s.absent u act).isEmpty

/-- The instruction completes, having referenced `u` on the lanes `act`: its effect leaves `t`, and the lines it referenced become
the latest used ones of the core (R79, R80; what that changes is a part of the statements about frames). -/
def completes (s : State) (i : Instr) (u : LaneUse) (act : Word32) (t : State) : Prop := exec i s = .next (t.useLines s u act)

/-- The operands of an instruction that names main-file sources `srcs`, and a destination where W is 0. -/
def useOf (a : LaneArgs) (srcs : List Src) : LaneUse := { srcs := srcs, runs := [], dsts := if a.w then [] else [a.vd.toNat] }

/-- The sidecar of each register of the result's run admits the result (R162). -/
def mayWrite (s : State) (a : LaneArgs) (act : Word32) (k : Nat) (tag : BitVec 16) : Bool :=
  a.w || act == 0 || act == 0xFFFFFFFF || (List.range k).all (fun i => sideTag (s.w.rx (a.vd.toNat + i)) == tag)

/-- The main file after a result: the words of `k` registers from vd in the active lanes, unless the destination is
discarded; every other word stays (R42). -/
def mainAfter (s t : State) (a : LaneArgs) (act : Word32) (k : Nat) (word : Nat → Nat → Word32) : Prop :=
  ∀ n L, L < 32 → t.w.rv n L =
    if a.w = false ∧ a.vd.toNat ≤ n ∧ n < a.vd.toNat + k ∧ act.getLsbD L = true then word (n - a.vd.toNat) L else s.w.rv n L

/-- The latches after a result: in an active lane each moves to the next and the result enters l0; in the others they stay
(R76). -/
def latchesAfter (s t : State) (act : Word32) (word : Nat → Word32) : Prop :=
  ∀ L, L < 32 → if act.getLsbD L = true
    then t.w.rl 0 L = word L ∧ ∀ n, n < 3 → t.w.rl (n + 1) L = s.w.rl n L
    else ∀ n, n < 4 → t.w.rl n L = s.w.rl n L

/-- The sidecars after a result of `k` registers in format `code`: the whole sidecar with all 32 lanes active, the code alone
otherwise; `scales` gives a microscaled result's scale bytes and which of them it writes (R162). -/
def sidesAfter (s t : State) (a : LaneArgs) (act : Word32) (k code : Nat) (tag : BitVec 16)
    (scales : Option (BitVec 64 × BitVec 64)) : Prop :=
  ∀ n, if a.w = true ∨ act = 0 ∨ n < a.vd.toNat ∨ a.vd.toNat + k ≤ n then t.w.rx n = s.w.rx n
    else sideCode (t.w.rx n) = code ∧ sideTag (t.w.rx n) = (if act = 0xFFFFFFFF then tag else sideTag (s.w.rx n))
      ∧ sideScales (t.w.rx n) = (match scales with
        | some (v, m) => if act = 0xFFFFFFFF then v &&& m else (sideScales (s.w.rx n) &&& ~~~m) ||| (v &&& m)
        | none => if act = 0xFFFFFFFF then 0 else sideScales (s.w.rx n))

/-- The fragment goes on: LPC past the instruction, the latch chain counted, the latches' valid bits moved where the
instruction writes one; every other entry of the split table stays (R77). -/
def fragmentNext (s t : State) (latch : Bool) : Prop :=
  let e := s.entry
  t.entry = { e with lpc := e.lpc + 3, fmask := if e.keeps then e.fmask else 0, unrun := false, entryWait := none,
                     itemWait := false, chain := if e.chain = 0 then (if latch then 7 else 0) else e.chain - 1,
                     latv := if latch = true ∧ e.first = true then (e.latv <<< 1) ||| 1 else e.latv }
    ∧ ∀ f, f ≠ s.frag → Table.find t.w.split f = Table.find s.w.split f

/-- Only the main file, sidecars, latches, their pending marks, SFLAGS, generators and the split table of the wave may
differ, and the latch numbers of returns on their way.  The scalar registers, masks, slots and seeds, the special registers,
memory and every other unit are as before. -/
def laneFrame (s t : State) : Prop :=
  t = { s with requests := t.requests, w := { s.w with
      v := t.w.v, pendV := t.w.pendV, x := t.w.x, l := t.w.l, sflags := t.w.sflags, gens := t.w.gens, split := t.w.split } }
    ∧ memSame s t ∧ (s.requests = [] → t.requests = [])

/-- Flags joined into SFLAGS (R186). -/
def flagsAfter (s t : State) (q : Sticky) : Prop := t.w.sflags = s.w.sflags ||| q.setWidth 64

/-- The flags of the active lanes, ORed. -/
def activeOr (act : Word32) (f : Nat → Sticky) : Sticky :=
  (List.range 32).foldl (fun q L => if act.getLsbD L then q ||| f L else q) 0

/-- What a result of one register leaves: the words, latches, sidecar, flags and the fragment's next instruction. -/
def laneEffect (s t : State) (a : LaneArgs) (act : Word32) (tag : BitVec 16) (code : Nat) (res : Nat → Word32 × Sticky) :
    Prop :=
  mainAfter s t a act 1 (fun _ L => (res L).1) ∧ latchesAfter s t act (fun L => (res L).1)
    ∧ sidesAfter s t a act 1 code tag none ∧ flagsAfter s t (activeOr act (fun L => (res L).2)) ∧ fragmentNext s t true
    ∧ t.w.gens = s.w.gens ∧ laneFrame s t

/-- A lane instruction with per-lane sources `srcs`, sources `wide` read in all lanes, and a result of one register: with
operands that are ready and tags that R167 and R162 admit, it completes with `res` in each active lane, format `code` and the
tag in the sidecar. -/
def wideResults (s : State) (i : Instr) (a : LaneArgs) (srcs wide : List Src) (tag : Option (BitVec 16)) (code : Nat)
    (res : Nat → Word32 × Sticky) : Prop :=
  let act := s.active a.mask
  let u : LaneUse := { srcs := srcs ++ wide, runs := wide.filterMap mainRegOf, dsts := if a.w then [] else [a.vd.toNat],
                       wide := wide }
  ∀ tg, laneReady s u act = true → tag = some tg → s.entry.first = true → mayWrite s a act 1 tg = true →
    ∃ t, completes s i u act t ∧ laneEffect s t a act tg code res

/-- The same where no source is read in all lanes. -/
def laneResults (s : State) (i : Instr) (a : LaneArgs) (srcs : List Src) (tag : Option (BitVec 16)) (code : Nat)
    (res : Nat → Word32 × Sticky) : Prop :=
  wideResults s i a srcs [] tag code res

/-- No source carries a tag: the result has tag 0 (R167). -/
def untagged (s : State) (srcs : List Src) : Option (BitVec 16) := if s.tagged srcs then none else some 0

/-- The sources carry one tag, which is the result's (R167). -/
def oneTag (s : State) (srcs : List Src) : Option (BitVec 16) :=
  let t := s.tagOf (srcs.headD .imm)
  if srcs.all (fun x => s.tagOf x == t) then some t else none

/-- A signed or unsigned 32-bit value, by the type's lowest bit (R195). -/
def valueOf (a : LaneArgs) (x : Word32) : Int := if a.ty.getLsbD 0 then x.toNat else x.toInt

/-- A number clamped to the range of `n` bits, with QC where it was clamped (R198). -/
def clamped (uns : Bool) (n : Nat) (x : Int) : Int × Sticky :=
  let lo : Int := if uns then 0 else -(2 ^ (n - 1))
  let hi : Int := if uns then 2 ^ n - 1 else 2 ^ (n - 1) - 1
  if x < lo then (lo, 0x20) else if hi < x then (hi, 0x20) else (x, 0)

/-- A lane word from a number. -/
def asWord (x : Int) : Word32 := BitVec.ofInt 32 x

/-- The conditions of R199, by their number. -/
def compares (k : Nat) (x y : Int) : Bool :=
  if k = 0 then x == y else if k = 1 then x != y else if k = 2 then decide (x < y) else if k = 3 then decide (x ≤ y)
  else if k = 4 then decide (y < x) else decide (y ≤ x)

/-- The rounding right shift (R197): half a unit added before the shift, nothing for a count of 0. -/
def roundedShift (x : Int) (c : Nat) : Int := if c = 0 then x else (x + 2 ^ (c - 1)) / 2 ^ c

/-- The two-source instruction `i` gives `f` of its sources in each active lane, by the tag rule `rule`. -/
def binary (s : State) (a : LaneArgs) (rule : State → List Src → Option (BitVec 16)) (i : LaneArgs → Instr)
    (f : Word32 → Word32 → Word32 × Sticky) : Prop :=
  laneResults s (i a) a [a.sa, a.sb] (rule s [a.sa, a.sb]) a.ty.toNat (fun L =>
    f (s.src a.ty.toNat a.imm a.sa L) (s.src a.ty.toNat a.imm a.sb L))

/-- The same of one source. -/
def unary (s : State) (a : LaneArgs) (rule : State → List Src → Option (BitVec 16)) (i : LaneArgs → Instr)
    (f : Word32 → Word32 × Sticky) : Prop :=
  laneResults s (i a) a [a.sa] (rule s [a.sa]) a.ty.toNat (fun L => f (s.src a.ty.toNat a.imm a.sa L))

/-- The same of three sources. -/
def ternary (s : State) (a : LaneArgs) (rule : State → List Src → Option (BitVec 16)) (i : LaneArgs → Instr)
    (f : Word32 → Word32 → Word32 → Word32 × Sticky) : Prop :=
  laneResults s (i a) a [a.sa, a.sb, a.sc] (rule s [a.sa, a.sb, a.sc]) a.ty.toNat (fun L =>
    f (s.src a.ty.toNat a.imm a.sa L) (s.src a.ty.toNat a.imm a.sb L) (s.src a.ty.toNat a.imm a.sc L))

/-- A word without flags. -/
def plain (x : Word32) : Word32 × Sticky := (x, 0)

/-- A number as a lane word, clamped. -/
def clampedWord (a : LaneArgs) (x : Int) : Word32 × Sticky :=
  let r := clamped (a.ty.getLsbD 0) 32 x
  (asWord r.1, r.2)

end Sys2Proof.Claims

/-- R195 to R199: the lane integer instructions, with R76, R77, R162, R167 and R186 for what each of them leaves. -/
def Sys2Proof.Claims.laneIntegerResults : Prop :=
  ∀ (s : State) (a : LaneArgs), let v := valueOf a
    (binary s a oneTag .vadd (fun x y => plain (x + y)) ∧ binary s a oneTag .vsub (fun x y => plain (x - y))
      ∧ binary s a untagged .vmul (fun x y => plain (asWord (x.toNat * y.toNat)))
      ∧ binary s a untagged .vmulh (fun x y => plain (asWord (v x * v y / 2 ^ 32)))
      ∧ ternary s a untagged .vmad (fun x y z => plain (asWord (x.toNat * y.toNat + z.toNat)))
      ∧ binary s a untagged .vand (fun x y => plain (x &&& y)) ∧ binary s a untagged .vor (fun x y => plain (x ||| y))
      ∧ binary s a untagged .vxor (fun x y => plain (x ^^^ y))
      ∧ binary s a untagged .vandn (fun x y => plain (x &&& ~~~y)))
    ∧ (binary s a untagged .vshl (fun x y => plain (if 32 ≤ y.toNat then 0 else asWord (x.toNat * 2 ^ y.toNat)))
      ∧ binary s a untagged .vshr (fun x y => plain (if 32 ≤ y.toNat then (if v x < 0 then 0xFFFFFFFF else 0)
          else asWord (v x / 2 ^ y.toNat)))
      ∧ binary s a untagged .vshrr (fun x y => plain (asWord (roundedShift (v x) y.toNat)))
      ∧ binary s a untagged .vshls (fun x y => clampedWord a (v x * 2 ^ (min y.toNat 64))))
    ∧ (binary s a untagged .vmin (fun x y => plain (asWord (min (v x) (v y))))
      ∧ binary s a untagged .vmax (fun x y => plain (asWord (max (v x) (v y))))
      ∧ unary s a untagged .vabs (fun x => if a.mods.getLsbD 0 then
          let r := clamped false 32 |x.toInt|
          (asWord r.1, r.2) else plain (asWord |x.toInt|))
      ∧ unary s a oneTag .vneg (fun x => if a.mods.getLsbD 0 then
          let r := clamped false 32 (-x.toInt)
          (asWord r.1, r.2) else plain (asWord (-x.toInt)))
      ∧ unary s a untagged .vpopc (fun x => plain (BitVec.ofNat 32 ((List.range 32).filter (fun i => x.getLsbD i)).length)))
    ∧ (binary s a untagged .vcmp (fun x y => plain (if compares (a.mods.toNat % 8) (v x) (v y) then 0xFFFFFFFF else 0))
      ∧ ternary s a untagged .vsel (fun x y z => plain (if z = 0 then y else x))
      ∧ binary s a untagged .vadds (fun x y => clampedWord a (v x + v y))
      ∧ binary s a untagged .vsubs (fun x y => clampedWord a (v x - v y)))
    ∧ (∃ lz : Word32 → Nat, (∀ x, lz x ≤ 32 ∧ (∀ i, i < lz x → x.getLsbD (31 - i) = false)
          ∧ (lz x < 32 → x.getLsbD (31 - lz x) = true))
      ∧ unary s a untagged .vclz (fun x => plain (BitVec.ofNat 32 (lz x))))

namespace Sys2Proof.Claims

/-- A 16-bit element by the type's sign (R200). -/
def halfOf (a : LaneArgs) (x : Word32) (p : Nat) : Int :=
  let h := x.extractLsb' (16 * p) 16
  if a.ty.getLsbD 0 then h.toNat else h.toInt

/-- A packed result: a number for each of the two elements, wrapped to 16 bits, with the flags of both. -/
def halves (f : Nat → Int × Sticky) : Word32 × Sticky :=
  ((BitVec.ofInt 16 (f 1).1 ++ BitVec.ofInt 16 (f 0).1), (f 0).2 ||| (f 1).2)

/-- A packed two-source instruction: `f` of the elements, wrapped. -/
def packs (s : State) (a : LaneArgs) (rule : State → List Src → Option (BitVec 16)) (i : LaneArgs → Instr)
    (f : Int → Int → Int × Sticky) : Prop :=
  binary s a rule i (fun x y => halves (fun p => f (halfOf a x p) (halfOf a y p)))

end Sys2Proof.Claims

/-- R200 and R201: the packed 16-bit instructions, each element on its own, and the pairwise dot product into 32 bits. -/
def Sys2Proof.Claims.packedResults : Prop :=
  ∀ (s : State) (a : LaneArgs), let uns := a.ty.getLsbD 0
    packs s a oneTag .vpadd (fun x y => (x + y, 0)) ∧ packs s a oneTag .vpsub (fun x y => (x - y, 0))
    ∧ packs s a untagged .vpmul (fun x y => (x * y, 0)) ∧ packs s a untagged .vpmin (fun x y => (min x y, 0))
    ∧ packs s a untagged .vpmax (fun x y => (max x y, 0))
    ∧ packs s a untagged .vpadds (fun x y => clamped uns 16 (x + y))
    ∧ packs s a untagged .vpsubs (fun x y => clamped uns 16 (x - y))
    ∧ packs s a untagged .vpcmp (fun x y => (if compares (a.mods.toNat % 8) x y then -1 else 0, 0))
    ∧ binary s a untagged .vpshrr (fun x y => halves (fun p =>
        (roundedShift (halfOf a x p) (y.extractLsb' (16 * p) 16).toNat, 0)))
    ∧ laneResults s (.vpmad2 a) a [a.sa, a.sb, a.sc] (untagged s [a.sa, a.sb, a.sc]) uns.toNat (fun L =>
        let x := s.src a.ty.toNat a.imm a.sa L; let y := s.src a.ty.toNat a.imm a.sb L
        let t := valueOf a (s.src uns.toNat a.imm a.sc L) + halfOf a x 0 * halfOf a y 0 + halfOf a x 1 * halfOf a y 1
        if a.mods.getLsbD 0 then clampedWord a t else plain (asWord t))

namespace Sys2Proof.Claims

/-- Element `p` of a lane word of floating-point type `ty`. -/
def lanePart (a : LaneArgs) (x : Word32) (p : Nat) : Nat := x.toNat / 2 ^ (32 / epl a.ty.toNat * p) % 2 ^ (32 / epl a.ty.toNat)

/-- A result formed element by element: each element of the word is `f` of the number of the element, and the flags are ORed. -/
def byElements (a : LaneArgs) (f : Nat → Nat × Sticky) : Word32 × Sticky :=
  (BitVec.ofNat 32 ((List.range (epl a.ty.toNat)).foldr (fun p n => (f p).1 % 2 ^ (32 / epl a.ty.toNat) + 2 ^ (32 / epl a.ty.toNat) * n) 0),
   (List.range (epl a.ty.toNat)).foldl (fun q p => q ||| (f p).2) 0)

/-- A floating-point instruction of two sources, element by element. -/
def floatBinary (s : State) (a : LaneArgs) (rule : State → List Src → Option (BitVec 16)) (i : LaneArgs → Instr)
    (f : Nat → Nat → Nat × Sticky) : Prop :=
  binary s a rule i (fun x y => byElements a (fun p => f (lanePart a x p) (lanePart a y p)))

/-- A floating-point instruction of one source, element by element. -/
def floatUnary (s : State) (a : LaneArgs) (rule : State → List Src → Option (BitVec 16)) (i : LaneArgs → Instr)
    (f : Nat → Nat × Sticky) : Prop :=
  unary s a rule i (fun x => byElements a (fun p => f (lanePart a x p)))

/-- The tag rule of VFMUL and VFMA: linear where one factor is uniform, tag-free otherwise (R167). -/
def productTag (s : State) (x y : Src) (c : List Src) : Option (BitVec 16) :=
  if uniformSrc x then oneTag s (y :: c) else if uniformSrc y then oneTag s (x :: c) else untagged s (x :: y :: c)

end Sys2Proof.Claims

/-- R202 to R205 and R207: the floating-point instructions act element by element on the exact values of their elements, flushed
under FZ, with one rounding; a special function gives what R206 bounds (its approximation is a free value, log entry 8). -/
def Sys2Proof.Claims.laneFloatResults : Prop :=
  ∀ (s : State) (a : LaneArgs), a.ty = 0x8 ∨ a.ty = 0x9 ∨ a.ty = 0xA →
    let c := a.ty.toNat; let fz := fmtFZ s.entry.fmtc; let m := rmOfRnd s.entry.fmtc (a.mods.toNat % 8)
    let val (x : Nat) : Fv := decodeFloat c (flushSource fz c x)
    let round (r : Fv × Sticky) : Nat × Sticky := roundArith c m fz r
    let sfu (op : Nat) (x : Nat) : Nat × Sticky := sfuElement op c fz x
    (floatBinary s a oneTag .vfadd (fun x y => round (fAdd m.isRd (val x) (val y)))
      ∧ floatBinary s a oneTag .vfsub (fun x y => round (fAdd m.isRd (val x) (fNeg (val y))))
      ∧ floatBinary s a (fun s _ => productTag s a.sa a.sb []) .vfmul (fun x y => round (fMul (val x) (val y)))
      ∧ floatBinary s a untagged .vfdiv (fun x y => round (fDiv (val x) (val y)))
      ∧ ternary s a (fun s _ => productTag s a.sa a.sb [a.sc]) .vfma (fun x y z => byElements a (fun p =>
          round (fFma m.isRd (val (lanePart a x p)) (val (lanePart a y p)) (val (lanePart a z p))))))
    ∧ (floatBinary s a untagged .vfmin (fun x y => (fMinMax false c fz x y, 0))
      ∧ floatBinary s a untagged .vfmax (fun x y => (fMinMax true c fz x y, 0))
      ∧ floatUnary s a untagged .vfabs (fsignElement false c fz) ∧ floatUnary s a oneTag .vfneg (fsignElement true c fz)
      ∧ laneResults s (.vfcmp a) a [a.sa, a.sb] (untagged s [a.sa, a.sb]) (if a.ty = 8 then 1 else 3) (fun L =>
          byElements a (fun p => (if fCondition (a.mods.toNat % 8) (val (lanePart a (s.src c a.imm a.sa L) p))
            (val (lanePart a (s.src c a.imm a.sb L) p)) then 2 ^ (32 / epl c) - 1 else 0, 0))))
    ∧ (floatUnary s a untagged .vrcp (sfu 0x080) ∧ floatUnary s a untagged .vrsq (sfu 0x081)
      ∧ floatUnary s a untagged .vexp2 (sfu 0x083) ∧ floatUnary s a untagged .vlog2 (sfu 0x084)
      ∧ floatUnary s a untagged .vsin (sfu 0x085) ∧ floatUnary s a untagged .vcos (sfu 0x086)
      ∧ floatUnary s a untagged .vtanh (sfu 0x087) ∧ floatUnary s a untagged .vsqrt (fun x => sqrtElement c m fz x))

namespace Sys2Proof.Claims

/-- The value of a finite number; none of a NaN or an infinity. -/
def ratOf : Fv → Option Rat
  | .fin neg n d => some ((if neg then -(n : Rat) else n) / d)
  | _ => none

/-- A finite number with a divisor. -/
def wellFormed : Fv → Bool
  | .fin _ _ d => d != 0
  | _ => false

end Sys2Proof.Claims

/-- R203 and R204 on one element: sums, products and quotients of numbers are exact before the rounding; a NaN operand gives a NaN
without a flag; ∞ − ∞, 0 × ∞, ∞ / ∞ and 0 / 0 are invalid; a number divided by zero is an infinity with DZ; VFABS and VFNEG
change the sign bit alone of what is no NaN; VFMIN and VFMAX give one of their operands, −0 below +0. -/
def Sys2Proof.Claims.floatElements : Prop :=
  (∀ (a b c : Fv) (rd : Bool) (x y z : Rat), wellFormed a = true → wellFormed b = true → wellFormed c = true →
    ratOf a = some x → ratOf b = some y → ratOf c = some z →
      ratOf (fAdd rd a b).1 = some (x + y) ∧ ratOf (fMul a b).1 = some (x * y)
      ∧ (y ≠ 0 → ratOf (fDiv a b).1 = some (x / y)) ∧ ratOf (fFma rd a b c).1 = some (x * y + z)
      ∧ (y = 0 → x ≠ 0 → fDiv a b = (.inf (a.isNeg != b.isNeg), 0x02)) ∧ (y = 0 → x = 0 → fDiv a b = (.nan, 0x01))
      ∧ (x = 0 → ∀ n, fMul a (.inf n) = (.nan, 0x01) ∧ fMul (.inf n) a = (.nan, 0x01)))
  ∧ (∀ (a : Fv) (rd n : Bool), fAdd rd .nan a = (.nan, 0) ∧ fAdd rd a .nan = (.nan, 0) ∧ fMul .nan a = (.nan, 0)
      ∧ fDiv a .nan = (.nan, 0) ∧ fAdd rd (.inf n) (.inf !n) = (.nan, 0x01) ∧ fDiv (.inf n) (.inf rd) = (.nan, 0x01))
  ∧ (∀ (code x : Nat) (fz : Bool), let w := 32 / epl code; let y := flushSource fz code x
      code = 8 ∨ code = 9 ∨ code = 10 → x < 2 ^ w → decodeFloat code y ≠ .nan →
        fsignElement false code fz x = (y % 2 ^ (w - 1), 0)
        ∧ fsignElement true code fz x = ((y + 2 ^ (w - 1)) % 2 ^ w, 0))
  ∧ (∀ (code x y : Nat) (fz : Bool), let p := flushSource fz code x; let q := flushSource fz code y
      let low := fMinMax false code fz x y; let high := fMinMax true code fz x y
      code = 8 ∨ code = 9 ∨ code = 10 → x < 2 ^ (32 / epl code) → y < 2 ^ (32 / epl code) →
        (∀ u v, ratOf (decodeFloat code p) = some u → ratOf (decodeFloat code q) = some v →
          (u < v → low = p ∧ high = q) ∧ (v < u → low = q ∧ high = p)
          ∧ (u = v → (decodeFloat code p).isNeg = true → low = p) ∧ (u = v → (decodeFloat code q).isNeg = true → low = q)
          ∧ (u = v → (decodeFloat code p).isNeg = false → high = p) ∧ (u = v → (decodeFloat code q).isNeg = false → high = q))
        ∧ (∀ n, decodeFloat code q ≠ .nan → decodeFloat code p = .inf n →
          fMinMax (!n) code fz x y = p ∧ fMinMax (!n) code fz y x = p ∧ fMinMax n code fz x y = q ∧ fMinMax n code fz y x = q)
        ∧ (decodeFloat code p = .nan ∨ decodeFloat code q = .nan → low = canonicalNan code ∧ high = canonicalNan code))

namespace Sys2Proof.Claims

/-- R207's table: what a special function gives at −∞, −0, +0 and +∞, with its flags (NV 1, DZ 2). -/
def specialValues (code op : Nat) : List (Nat × Sticky) :=
  let f := floatFormat code
  let zero (n : Bool) := signed f n 0
  let one (n : Bool) := signed f n (f.bias * 2 ^ f.manBits)
  let inf (n : Bool) := signed f n (f.maxMag + 1)
  let nan := canonicalNan code
  match op with
  | 0x080 => [(zero true, 0), (inf true, 2), (inf false, 2), (zero false, 0)]
  | 0x081 => [(nan, 1), (inf true, 2), (inf false, 2), (zero false, 0)]
  | 0x083 => [(zero false, 0), (one false, 0), (one false, 0), (inf false, 0)]
  | 0x084 => [(nan, 1), (inf true, 2), (inf true, 2), (inf false, 0)]
  | 0x085 => [(nan, 1), (zero true, 0), (zero false, 0), (nan, 1)]
  | 0x086 => [(nan, 1), (one false, 0), (one false, 0), (nan, 1)]
  | _ => [(one true, 0), (zero true, 0), (zero false, 0), (one false, 0)]

end Sys2Proof.Claims

/-- R206 and R207 on one element of a special function: the fixed values at the infinities, the zeros and a NaN; elsewhere, the exact
value `v` standing for itself (the reciprocal, and the power of two of a whole number, said in full), a result without overflow lies
within the table's bound of `v`, or is `v` correctly rounded to nearest where the table says so. -/
def Sys2Proof.Claims.specialFunctions : Prop :=
  ∀ (code op : Nat) (fz : Bool), code = 8 ∨ code = 9 ∨ code = 10 → op ∈ [0x080, 0x081, 0x083, 0x084, 0x085, 0x086, 0x087] →
    let f := floatFormat code
    let ends := [signed f true (f.maxMag + 1), signed f true 0, signed f false 0, signed f false (f.maxMag + 1)]
    ends.map (sfuElement op code fz) = specialValues code op
    ∧ (∀ x, decodeFloat code x = .nan → sfuElement op code fz x = (canonicalNan code, 0))
    ∧ (∀ x v, let r := sfuElement op code false x
        sfuValue op code (decodeFloat code x) = .about v → r.2 &&& 0x04 = 0 →
          ((sfuBound op code).1 ≠ 0 → withinBound op code v r.1 = true)
          ∧ ((sfuBound op code).1 = 0 → ∃ n d e, v = .fin n d e ∧ r.1 = (roundFinite code .rne false true n d e).1))
    ∧ (∀ x q, ratOf (decodeFloat code x) = some q → q ≠ 0 →
        (∃ v, sfuValue 0x080 code (decodeFloat code x) = .about v ∧ ratOf v = some (1 / q))
        ∧ (∀ n : Nat, n ≤ 400 →
          (q = n → ∃ v, sfuValue 0x083 code (decodeFloat code x) = .about v ∧ ratOf v = some (2 ^ n))
          ∧ (q = -n → ∃ v, sfuValue 0x083 code (decodeFloat code x) = .about v ∧ ratOf v = some (1 / 2 ^ n))))

/-! ### Masks, moves, cross-lane instructions -/

namespace Sys2Proof.Claims

/-- Mask register `d` takes the bits of `x` in the lanes `act`; every other mask, and every other part of the machine but the
fragment's own entry, stays (R143). -/
def maskAfter (s t : State) (d : Nat) (act x : Word32) : Prop :=
  t.w.rm d = (s.w.rm d &&& ~~~act) ||| (x &&& act) ∧ (∀ n, n ≠ d → t.w.rm n = s.w.rm n) ∧ fragmentNext s t false
    ∧ t = { s with w := { s.w with m := t.w.m, split := t.w.split } } ∧ memSame s t

/-- Only the fragment's entry moves on. -/
def onlyNext (s t : State) : Prop :=
  fragmentNext s t false ∧ t = { s with w := { s.w with split := t.w.split } } ∧ memSame s t

/-- The scalar register `d` alone takes `x`, and the fragment goes on. -/
def scalarFromLane (s t : State) (d : BitVec 6) (x : Word64) : Prop :=
  setsOnly s t d x ∧ fragmentNext s t false
    ∧ t = { s with w := { s.w with sreg := t.w.sreg, pendS := t.w.pendS, split := t.w.split } } ∧ memSame s t

end Sys2Proof.Claims

/-- R143 and R53: the mask instructions write the active lanes' bits of their mask, MCNT counts them into the scalar window
unless no lane is active, and VNOP does nothing. -/
def Sys2Proof.Claims.maskInstructions : Prop :=
  ∀ (s : State) (a : LaneArgs), let act := s.active a.mask; let d := a.vd.toNat % 16
    let x := s.w.rm (maskNo a.sa); let y := s.w.rm (maskNo a.sb)
    let sets (i : Instr) (v : Word32) : Prop := ∃ t, exec i s = .next t ∧ maskAfter s t d act v
    (sets (.mand a) (x &&& y) ∧ sets (.mor a) (x ||| y) ∧ sets (.mxor a) (x ^^^ y) ∧ sets (.mandn a) (x &&& ~~~y)
      ∧ sets (.mnot a) (~~~x) ∧ sets (.mmov a) x)
    ∧ (∃ t, exec (.mcnt a) s = .next t ∧ (act = 0 → onlyNext s t)
        ∧ (act ≠ 0 → scalarFromLane s t (BitVec.ofNat 6 (48 + a.vd.toNat % 8))
          (BitVec.ofNat 64 ((List.range 32).filter (fun L => (x &&& act).getLsbD L)).length)))
    ∧ (let u : LaneUse := { srcs := [a.sa], runs := [], dsts := [] }
      laneReady s u act = true → ∃ t v, completes s (.mset a) u act t
        ∧ maskAfter s t d act v ∧ ∀ L, L < 32 → v.getLsbD L = (s.src a.ty.toNat a.imm a.sa L != 0))
    ∧ (∃ t, exec (.vnop a) s = .next t ∧ onlyNext s t)

/-- R102, R103 and R437: VMOV to a register, with the whole sidecar, and to an operand slot; VLID's identities; VRDSR gives every
active lane one half of the special register, in format n32. -/
def Sys2Proof.Claims.movesAndIdentities : Prop :=
  ∀ (s : State) (a : LaneArgs), let act := s.active a.mask; let x (L : Nat) := s.src a.ty.toNat a.imm a.sa L
    let k := a.mods.toNat % 8; let n := (a.imm.extractLsb' 0 12).toNat
    let who (L : Nat) : Nat := if k = 0 then L else if k = 1 then L / 4 else if k = 2 then L % 4
      else if k = 3 then s.w.widx else if k = 4 then s.w.widx * 32 + L else s.w.core.toNat
    (a.mods.getLsbD 0 = false → a.mods.getLsbD 1 = false → unary s a untagged .vmov plain)
    ∧ (a.mods.getLsbD 0 = true → a.mods.getLsbD 1 = false → act ≠ 0 → s.entry.first = true →
        let u : LaneUse := { srcs := [a.sa], runs := [], dsts := [a.vd.toNat] }
        laneReady s u act = true → ∃ t, completes s (.vmov a) u act t
          ∧ mainAfter s t { a with w := false } act 1 (fun _ => x) ∧ latchesAfter s t act x ∧ fragmentNext s t true
          ∧ t.w.rx a.vd.toNat = (match a.sa with
            | .reg r => s.w.rx r.toNat
            | _ => 0)
          ∧ (∀ r, r ≠ a.vd.toNat → t.w.rx r = s.w.rx r) ∧ t.w.sflags = s.w.sflags ∧ laneFrame s t)
    ∧ (a.mods.getLsbD 1 = true → s.tagged [a.sa] = false → s.entry.first = true →
        let u : LaneUse := { srcs := [a.sa], runs := [], dsts := [], slots := [a.vd.toNat % 16] }
        laneReady s u act = true → ∃ t, completes s (.vmov a) u act t
          ∧ (∀ r L, L < 32 → t.w.ro r L = if r = a.vd.toNat % 16 ∧ act.getLsbD L = true then x L else s.w.ro r L)
          ∧ latchesAfter s t act x ∧ fragmentNext s t true ∧ t.w.v = s.w.v ∧ t.w.x = s.w.x
          ∧ laneFrame { s with w := { s.w with o := t.w.o } } t)
    ∧ laneResults s (.vlid a) a [] (some 0) a.ty.toNat (fun L => plain (BitVec.ofNat 32 (who L) + a.imm))
    ∧ (∀ v, s.readSr n = some v → s.entry.first = true → mayWrite s a act 1 0 = true → laneReady s (useOf a []) act = true →
        ∃ t, completes s (.vrdsr a) (useOf a []) act t
          ∧ laneEffect { s with w := { s.w with lastPtc := if n = 0 then v else s.w.lastPtc } } t a act 0 1
            (fun _ => plain (if a.mods.getLsbD 0 then v.extractLsb' 32 32 else v.extractLsb' 0 32)))

namespace Sys2Proof.Claims

/-- Elements of all lanes in a format. -/
def laneCount (code : Nat) : Nat := 32 * epl code

/-- Element `e` of a source, bits 7:6 of a six-bit element ignored (R144). -/
def elementOfSrc (s : State) (a : LaneArgs) (x : Src) (e : Nat) : Nat :=
  let code := a.ty.toNat
  let w := containerBits code
  (s.src code a.imm x (e / epl code)).toNat / 2 ^ (w * (e % epl code)) % 2 ^ w % 2 ^ elementBits code

/-- The word of lane `L` whose elements are `f` of their numbers. -/
def wordFrom (code : Nat) (f : Nat → Nat) (L : Nat) : Word32 × Sticky :=
  let w := containerBits code
  plain (BitVec.ofNat 32 ((List.range (epl code)).foldr (fun p n => f (L * epl code + p) % 2 ^ w + 2 ^ w * n) 0))

/-- The exact sum of the active lanes' values below lane `n` (R213, R214). -/
def activeSum (s : State) (a : LaneArgs) (n : Nat) : Int :=
  ((List.range n).map (fun L => if (s.active a.mask).getLsbD L then
    (let x := s.src a.ty.toNat a.imm a.sa L
     if a.ty = 1 then (x.toNat : Int) else x.toInt) else 0)).foldl (· + ·) 0

/-- A sum as a lane word: clamped with QC, or wrapped (R213). -/
def sumWord (a : LaneArgs) (t : Int) : Word32 × Sticky :=
  if a.mods.getLsbD 3 then
    (let r := clamped (a.ty == 1) 32 t
     (asWord r.1, r.2))
  else plain (asWord t)

end Sys2Proof.Claims

/-- R208 to R215: slides, shuffles and broadcasts by element, reductions and scans over the active lanes, the ballot; inactive
lanes enter reductions as the operation's identity, and with no active lane a reduction or a ballot writes nothing.  A scan's
active lane raises the flags of its inclusive prefix (log entry 81). -/
def Obligations.CrossLaneResults : Prop :=
  ∀ (s : State) (a : LaneArgs), let c := a.ty.toNat; let n := laneCount c; let act := s.active a.mask
    let el (x : Src) (e : Int) : Nat := elementOfSrc s a x e.toNat
    let fill := a.mods.toNat % 4; let op := a.mods.toNat % 8; let k := s.uniformInt a a.sb
    let wide (x : List Src) : Option (BitVec 16) := untagged s x
    wideResults s (.vslide a) a [a.sb] (if fill = 1 then [a.sa, a.sc] else [a.sa])
      (wide ([a.sb] ++ if fill = 1 then [a.sa, a.sc] else [a.sa])) c (wordFrom c (fun e =>
        let j : Int := e + k
        if 0 ≤ j ∧ j < n then el a.sa j
        else if fill = 1 ∧ n ≤ j ∧ j < 2 * n then el a.sc (j - n)
        else if fill = 1 ∧ -(n : Int) ≤ j ∧ j < 0 then el a.sc (j + n)
        else if fill = 2 then el a.sa (if j < 0 then 0 else (n : Int) - 1) else 0))
    ∧ wideResults s (.vshuf a) a [a.sb] [a.sa] (wide [a.sb, a.sa]) c (wordFrom c (fun e =>
        let i : Nat := match a.sb with
          | .small v => v.toNat
          | x => elementOfSrc s a x e
        if i < n then elementOfSrc s a a.sa i else 0))
    ∧ wideResults s (.vbcast a) a [a.sb] [a.sa] (wide [a.sb, a.sa]) c (wordFrom c (fun _ =>
        let i := (k % 2 ^ 32).toNat
        if i < n then elementOfSrc s a a.sa i else 0))
    ∧ (act = 0 → laneReady s (useOf a [a.sa]) act = true → ∀ i, i ∈ [Instr.vred a, .vballot a] →
        ∃ t, exec i s = .next t ∧ onlyNext s t)
    ∧ (act ≠ 0 → wideResults s (.vballot a) a [a.sa] [] (wide [a.sa]) 1 (fun _ => plain ((List.range 32).foldl (fun b L =>
        if act.getLsbD L = true ∧ s.src c a.imm a.sa L ≠ 0 then b ||| (1#32 <<< L) else b) 0)))
    ∧ (a.ty ≠ 8 → op = 0 → act ≠ 0 →
        wideResults s (.vred a) a [a.sa] [] (wide [a.sa]) c (fun _ => sumWord a (activeSum s a 32))
        ∧ wideResults s (.vscan a) a [a.sa] [] (wide [a.sa]) c (fun L =>
          let r := sumWord a (activeSum s a (L + 1))
          if a.mods.getLsbD 4 then (if L = 0 then 0 else (sumWord a (activeSum s a L)).1, r.2) else r))
    ∧ (a.ty = 8 ∨ op ≠ 0 → act ≠ 0 →
        let f := combineF op c (rmOfFmt s.entry.fmtc) (fmtFZ s.entry.fmtc)
        let ts : List Flagged := (List.range 32).map (fun L =>
          (if act.getLsbD L then s.src c a.imm a.sa L else redIdentity op c, 0))
        let lv := redLevel f
        let up := [1, 2, 4, 8, 16].foldl (fun l d => scanLevel f d l) ts
        wideResults s (.vred a) a [a.sa] [] (wide [a.sa]) c (fun _ => (lv (lv (lv (lv (lv ts))))).headD (0, 0))
        ∧ wideResults s (.vscan a) a [a.sa] [] (wide [a.sa]) c (fun L =>
          let r := (up[L]?).getD (0, 0)
          if a.mods.getLsbD 4 then (((((redIdentity op c, 0) :: up.take 31)[L]?).getD (0, 0)).1, r.2) else r))

/-! ### Lane control -/

namespace Sys2Proof.Claims

/-- The fragment stands in the split table. -/
def hasEntry (s : State) : Bool := (Table.find s.w.split s.frag).isSome

/-- The word address of a lane branch's target, and of its regang where it names one (R136). -/
def branchTarget (p imm : BitVec 32) : Int := p.toNat + 3 * (imm.extractLsb' 0 16).toInt
def branchRegang (p imm : BitVec 32) : Option Int :=
  if imm.extractLsb' 16 16 = 0 then none else some (p.toNat + 3 * (imm.extractLsb' 16 16).toInt)

/-- A branch that the lanes `m` of the fragment take may be made: none takes it; or its target, and where it diverges its
regang too, lie in the block's region, the fragment is no handler, two split entries are free, and the core's split-entry cache has
room for them (R117 to R119, R124). -/
def branchReady (s : State) (imm : BitVec 32) (m : Word32) : Bool :=
  let e := s.entry
  hasEntry s && (m == 0 || (inRegion (branchTarget e.lpc imm)
    && (e.lmask &&& ~~~m == 0 || (e.state != .handler && ((branchRegang e.lpc imm).map inRegion).getD true
      && (freePair s.w.split).isSome && decide (s.w.splitCache.length ≤ 14)))))

/-- The split table after a branch (R118, R119): the fragment goes on, or goes to the target, or waits as the parent of two
parts in free entries, which take the lanes that branch and the others.  `call` marks a call's link. -/
def branched (s t : State) (imm : BitVec 32) (m : Word32) (call : Bool) : Prop :=
  let e := s.entry
  let tgt := BitVec.ofInt 32 (branchTarget e.lpc imm)
  let link (x : SplitEntry) : Prop := if call then x.clink = e.lpc + 3 ∧ x.clv = true else x.clink = e.clink ∧ x.clv = e.clv
  (m = 0 → t.entry.lpc = e.lpc + 3 ∧ t.entry.lmask = e.lmask ∧ ∀ f, f ≠ s.frag → Table.find t.w.split f = Table.find s.w.split f)
  ∧ (m ≠ 0 → e.lmask &&& ~~~m = 0 → t.entry.lpc = tgt ∧ t.entry.lmask = e.lmask ∧ link t.entry
      ∧ ∀ f, f ≠ s.frag → Table.find t.w.split f = Table.find s.w.split f)
  ∧ (m ≠ 0 → e.lmask &&& ~~~m ≠ 0 → ∃ k l p x y, freePair s.w.split = some (k, l) ∧ Table.find t.w.split s.frag = some p
      ∧ Table.find t.w.split k = some x ∧ Table.find t.w.split l = some y
      ∧ p.state = .waiting ∧ p.lmask = 0 ∧ p.npart = 2
      ∧ p.lpc = ((branchRegang e.lpc imm).map (fun r => BitVec.ofInt 32 r + 3)).getD 0xFFFFFFFF
      ∧ x.state = .live ∧ x.lmask = m ∧ x.lpc = tgt ∧ x.parent = BitVec.ofNat 5 s.frag ∧ link x
      ∧ y.state = .live ∧ y.lmask = e.lmask &&& ~~~m ∧ y.lpc = e.lpc + 3 ∧ y.parent = BitVec.ofNat 5 s.frag
      ∧ x.rga = ((branchRegang e.lpc imm).map (BitVec.ofInt 32)).getD 0xFFFFFFFF ∧ y.rga = x.rga
      ∧ ∀ f, f ≠ s.frag → f ≠ k → f ≠ l → Table.find t.w.split f = Table.find s.w.split f)

/-- Only the split table of the wave may differ. -/
def splitFrame (s t : State) : Prop := t = { s with w := { s.w with split := t.w.split } } ∧ memSame s t

/-- Only the split table of the wave may differ, and which of its entries the core holds: those now in use lead (R117). -/
def entryFrame (s t : State) : Prop := splitFrame { s with w := { s.w with splitCache := t.w.splitCache } } t

/-- The frame of a branch: the core holds other split entries only where the fragment has split. -/
def branchFrame (s t : State) (m : Word32) : Prop :=
  entryFrame s t ∧ (m = 0 ∨ s.entry.lmask &&& ~~~m = 0 → t.w.splitCache = s.w.splitCache)

end Sys2Proof.Claims

/-- R118, R119 and R136 to R139: VBR under its predicate, VBRC on its condition words, and VCALL, which also gives the
lanes that take it the address behind the call, in vd and the latch; VRET goes to the call link or to a register's
address. -/
def Sys2Proof.Claims.laneBranches : Prop :=
  ∀ (s : State) (a : LaneArgs), let act := s.active a.mask; let e := s.entry
    let m := (List.range 32).foldl (fun b L =>
      if act.getLsbD L = true ∧ ((s.src a.ty.toNat a.imm a.sa L = 0) ↔ a.mods.getLsbD 0 = true) then b ||| (1#32 <<< L) else b) 0
    (branchReady s a.imm act = true → ∃ t, exec (.vbr a) s = .next t ∧ branched s t a.imm act false ∧ branchFrame s t act)
    ∧ (let u : LaneUse := { srcs := [a.sa], runs := [], dsts := [] }
      branchReady s a.imm m = true → laneReady s u act = true → ∃ t, completes s (.vbrc a) u act t ∧ branched s t a.imm m false ∧ branchFrame s t m)
    ∧ (branchReady s a.imm act = true → e.state ≠ .handler → mayWrite s a act 1 0 = true →
        laneReady s (useOf a []) act = true → ∃ t, completes s (.vcall a) (useOf a []) act t ∧ branched s t a.imm act true
          ∧ mainAfter s t a act 1 (fun _ _ => e.lpc + 3) ∧ latchesAfter s t act (fun _ => e.lpc + 3)
          ∧ sidesAfter s t a act 1 a.ty.toNat 0 none ∧ laneFrame { s with w := { s.w with splitCache := t.w.splitCache } } t
          ∧ (act = 0 ∨ e.lmask &&& ~~~act = 0 → t.w.splitCache = s.w.splitCache))
    ∧ (e.state ≠ .handler → a.sa = .reg 0 → e.clv = true → ∃ t, exec (.vret a) s = .next t ∧ t.entry.lpc = e.clink
        ∧ t.entry.clv = false ∧ t.entry.lmask = e.lmask ∧ splitFrame s t)
    ∧ (let u : LaneUse := { srcs := [a.sa], runs := [], dsts := [] }
      e.state ≠ .handler → a.sa ≠ .reg 0 → laneReady s u act = true → ∃ t, completes s (.vret a) u act t ∧ t.entry.lpc = s.src a.ty.toNat a.imm a.sa ((lanesOf e.lmask).headD 0)
          ∧ t.entry.clv = false ∧ t.entry.lmask = e.lmask ∧ splitFrame s t)

/-- R107 and R121 to R123: a fragment that reaches its regang address leaves its lanes to its parent, one that ends leaves
none; the last part of a waiting parent, whose entry the core holds, makes it live again; elsewhere REGANG only goes on.  When the last entry of the
table is freed the lane block completes. -/
def Sys2Proof.Claims.regangAndEnd : Prop :=
  ∀ (s : State) (a : LaneArgs) (p : SplitEntry), let e := s.entry; let q := e.parent.toNat
    let arrives : Prop := e.rga = e.lpc ∧ e.rga ≠ 0xFFFFFFFF ∧ q ≠ s.frag
    let leaves (t : State) (lanes : Word32) (latv : BitVec 4) : Prop :=
      Table.find t.w.split s.frag = none
      ∧ (∀ f, f ≠ s.frag → f ≠ q → Table.find t.w.split f = Table.find s.w.split f)
      ∧ ∃ r, Table.find t.w.split q = some r ∧ r.lmask = lanes ∧ r.npart = p.npart - 1 ∧ r.latv = latv ∧ r.lpc = p.lpc
        ∧ (p.npart = 1 → r.state = .live) ∧ (p.npart ≠ 1 → r.state = .waiting)
    (¬ arrives → ∃ t, exec (.regang a) s = .next t ∧ onlyNext s t)
    ∧ (hasEntry s = true → e.state ≠ .handler → Table.find s.w.split q = some p → q ≠ s.frag → p.state = .waiting →
        p.npart ≠ 0 → s.w.splitCache.contains q = true → s.w.splitCache.length ≤ 16 →
        (arrives → p.lmask ||| e.lmask ≠ 0 → ∃ t, exec (.regang a) s = .next t ∧ entryFrame s t
          ∧ leaves t (p.lmask ||| e.lmask) (p.latv &&& e.latv))
        ∧ (p.lmask ≠ 0 ∨ p.npart ≠ 1 → ∃ t, exec (.lend a) s = .next t ∧ entryFrame s t ∧ leaves t p.lmask p.latv))
    ∧ (e.state ≠ .handler → s.w.split = [(s.frag, e)] → q = s.frag → ∃ t, exec (.lend a) s = .next t
        ∧ t.w.split = [] ∧ t.w.lq = s.w.lq.tail ∧ t.w.lqhead = (s.w.lqhead + 1) % 8
        ∧ t = { s with w := { s.w with split := [], lq := t.w.lq, lqhead := t.w.lqhead } })

/-- R125 and R140: with enough items of its launch, or without WAIT, ITEMNEXT takes them into its requesting lanes, lowest
lane first, clears those lanes' bits of its mask and takes the items from the queue; other lanes keep their words. -/
def Sys2Proof.Claims.itemNext : Prop :=
  ∀ (s : State) (a : LaneArgs), let act := s.active a.mask; let d := (a.imm.extractLsb' 0 4).toNat; let g := s.w.origin.toNat
    let r := (List.range 32).filter (fun L => (act &&& s.w.rm d).getLsbD L)
    let mine := ((s.core g).items.filter (fun x => x.1 == s.w.lid)).map (·.2)
    let got := r.zip mine
    let lanes := (got.map (·.1)).foldl (fun b L => b ||| (1#32 <<< L)) 0
    let u : LaneUse := { srcs := [], runs := [], dsts := [a.vd.toNat] }
    laneReady s u act = true → (a.mods.getLsbD 0 = false ∨ r.length ≤ mine.length) →
    (s.entry.itemWait = true ∨ act = 0 ∨ act = 0xFFFFFFFF ∨ sideTag (s.w.rx a.vd.toNat) = 0) →
      ∃ t, completes s (.itemnext a) u act t
        ∧ (∀ n L, L < 32 → t.w.rv n L =
            if n = a.vd.toNat then ((got.find? (fun x => x.1 == L)).map (·.2)).getD (s.w.rv n L) else s.w.rv n L)
        ∧ t.w.rm d = s.w.rm d &&& ~~~lanes ∧ (∀ n, n ≠ d → t.w.rm n = s.w.rm n)
        ∧ ((t.core g).items.filter (fun x => x.1 == s.w.lid)).map (·.2) = mine.drop got.length
        ∧ (t.core g).items.filter (fun x => x.1 != s.w.lid) = (s.core g).items.filter (fun x => x.1 != s.w.lid)
        ∧ t.entry.lpc = s.entry.lpc + 3 ∧ t.entry.lmask = s.entry.lmask ∧ (∀ x, t.rs x = s.rs x) ∧ memSame s t

/-! ### Lane traps and trampolines -/

namespace Sys2Proof.Claims

/-- The lane vector entry of a code, 256 bytes behind the scalar ones, is the bytes `b`, read without effect on the wave and naming
the wave's region (R403). -/
def laneVector (s : State) (code : Nat) (b : List Byte) (s1 : State) : Prop :=
  scalarVector s (32 + code) b s1 ∧ validVector (ofBytes b) = true ∧ ofBytes b / 2 ^ 34 % 2 ^ 22 = s.w.lbase.toNat

/-- TRAPCAUSE of a lane trap of class L: the code, the detail, SW, the fragment's entry and LANE (R404). -/
def laneCause (s : State) (code detail : Nat) (sw : Bool) : Word64 :=
  BitVec.ofNat 64 (code + 256 * detail + 2 ^ 34 * sw.toNat + 2 ^ 35 * s.frag + 2 ^ 40)

/-- The lane handler is entered for the lanes `m` of the fragment (R124, R403 to R405, R409): all of them turn its entry
into the handler fragment, some of them move to a free entry; the scalar stream and every register stay. -/
def laneEntered (s t : State) (cause : Word64) (m : Word32) (b : List Byte) : Prop :=
  let e := s.entry
  let h := BitVec.ofNat 32 ((ofBytes b - s.w.lbase.toNat * 2 ^ 34) / 4)
  t.w.trapcause = cause ∧ t.w.trappc = s.w.laneAddr e.lpc ∧ t.w.trapaddr = 0 ∧ t.w.trapmask = m.setWidth 64
    ∧ t.w.inhandler = true ∧ t.w.spc = s.w.spc ∧ t.w.v = s.w.v ∧ t.w.m = s.w.m ∧ (∀ r, t.rs r = s.rs r)
    ∧ (m = e.lmask → ∃ x, Table.find t.w.split s.frag = some x ∧ x.state = .handler ∧ x.lpc = h ∧ x.lmask = e.lmask)
    ∧ (m ≠ e.lmask → ∀ k, freeEntry s.w = some k → k ≠ s.frag → ∃ x y, Table.find t.w.split k = some x
        ∧ Table.find t.w.split s.frag = some y ∧ x.state = .handler ∧ x.lpc = h ∧ x.lmask = m
        ∧ y.lmask = e.lmask &&& ~~~m ∧ y.lpc = e.lpc)

/-- The fragment may take a lane trap on some of its lanes: it is in the table, no handler runs, no trace is kept, and no lane
awaits a replay; the wave is on a core. -/
def laneTrapReady (s : State) : Bool :=
  s.lane && onCore s && hasEntry s && !s.w.inhandler && !s.w.dbgctl.getLsbD 4 && s.entry.fmask == 0 && !s.entry.keeps
    && s.entry.parent.toNat == s.frag && decide (s.frag < 32)

end Sys2Proof.Claims

/-- R435, R436 and R52: VTRAP, VBRK and the tool codes raise their trap on the active lanes, with no active lane they only
go on, and VBRK under BRKH halts the block. -/
def Sys2Proof.Claims.laneTraps : Prop :=
  ∀ (s s1 : State) (a : LaneArgs) (n : BitVec 3) (b : List Byte), let act := s.active a.mask
    let code := a.imm.toNat % 256; let tag := a.imm.toNat % 2 ^ 16
    (act = 0 → ∀ i, i ∈ [Instr.vtrap a, .vbrk a, .vtool n a] → ∃ t, exec i s = .next t ∧ onlyNext s t)
    ∧ (laneTrapReady s = true → act ≠ 0 →
        (laneVector s (code % 32) b s1 → ∃ t, exec (.vtrap a) s = .next t
          ∧ laneEntered s t (laneCause s code (a.imm.toNat / 256) true) act b)
        ∧ (laneVector s 0x0C b s1 → s.w.dbgctl.getLsbD 3 = false → ∃ t, exec (.vbrk a) s = .next t
          ∧ laneEntered s t (laneCause s 0x0C tag false) act b)
        ∧ (laneVector s 0x15 b s1 → ∃ t, exec (.vtool n a) s = .next t
          ∧ laneEntered s t (laneCause s 0x15 n.toNat false) act b)
        ∧ (s.w.dbgctl.getLsbD 3 = true → ∃ t, exec (.vbrk a) s = .next t
          ∧ haltedAt s t (laneCause s 0x0C tag false) (s.w.laneAddr s.entry.lpc)))

/-- R48, R78, R167 and R194: the faults of an element-wise lane instruction in their order: a register at or above REGCNT is
ILLREG over the fragment's lanes; a latch that is not valid is LATCHLOST over them; a tagged source is ROTTAG over the active
lanes. -/
def Sys2Proof.Claims.laneFaultOrder : Prop :=
  ∀ (s : State) (a : LaneArgs) (i : Instr), let act := s.active a.mask
    let u : LaneUse := { srcs := [a.sa, a.sb], runs := [], dsts := if a.w then [] else [a.vd.toNat] }
    i ∈ [Instr.vmul a, .vmulh a, .vand a, .vor a, .vxor a, .vandn a, .vshl a, .vshr a, .vmin a, .vmax a, .vcmp a, .vshrr a,
      .vadds a, .vsubs a, .vshls a, .vpmul a, .vpadds a, .vpsubs a, .vpmin a, .vpmax a, .vpshrr a, .vpcmp a, .vfdiv a, .vfmin a,
      .vfmax a, .vfcmp a] → s.lane = true →
      (u.illegal s.w.regcnt = true → exec i s = .next (s.trapL 0x03 0 0 s.entry.lmask false))
      ∧ (u.illegal s.w.regcnt = false → s.pendingV u act = false → s.latchPending u act = false → s.collecting u.dsts = false →
          s.latchLost u = true →
          exec i s = .next (s.trapL 0x04 0 0 s.entry.lmask false))
      ∧ (laneReady s u act = true → act ≠ 0 → s.tagged [a.sa, a.sb] = true → exec i s = .next (s.trapL 0x08 0 0 act false))
      ∧ (u.illegal s.w.regcnt = false → s.pendingV u act = true → exec i s = .next { s with stalled := true })

/-- R141, R142 and R409: VTRAMP takes the fragment to its table entry and remembers where it was; VTRET goes back there, to
the VTRAMP or behind it; from a lane handler it goes back to the trapped instruction, or behind it, and the handler is
over.  A return that leaves the block's region is ALIGN with detail 1 (R66), and one to a TRAPPC that is not word-aligned ALIGN
with detail 0 (R32). -/
def Sys2Proof.Claims.laneTrampolines : Prop :=
  ∀ (s s1 : State) (a : LaneArgs) (b : List Byte) (h : Handler), let e := s.entry; let n := ofBytes b
    let skip := a.mods.getLsbD 0; let past : Int := if skip then 3 else 0
    let p : Int := ((s.w.trappc.toNat : Int) - s.w.lbase.toNat * 2 ^ 34) / 4 + past
    (e.state ≠ .handler → e.tlv = false →
      s.loadNow (s.w.trampbase + BitVec.ofNat 64 (8 * (a.imm.extractLsb' 0 20).toNat)) 8 = .ok (b, s1) →
      s1.w = s.w → s1.frag = s.frag →
      n / 2 ^ 56 % 256 = 0 → n % 4 = 0 → n / 2 ^ 34 % 2 ^ 22 = s.w.lbase.toNat → ∃ t, exec (.vtramp a) s = .next t
        ∧ t.entry.lpc = BitVec.ofNat 32 (n % 2 ^ 34 / 4) ∧ t.entry.tlink = e.lpc ∧ t.entry.tlv = true
        ∧ t.entry.lmask = e.lmask ∧ splitFrame s1 t)
    ∧ (e.state ≠ .handler → e.tlv = true → e.tlink.toNat + past < 2 ^ 32 → ∃ t, exec (.vtret a) s = .next t
        ∧ t.entry.lpc = BitVec.ofInt 32 (e.tlink.toNat + past) ∧ t.entry.tlv = false ∧ t.entry.lmask = e.lmask
        ∧ splitFrame s t)
    ∧ (e.state ≠ .handler → e.tlv = true → 2 ^ 32 ≤ e.tlink.toNat + past →
        exec (.vtret a) s = .next (s.trapL 0x07 1 0 e.lmask false))
    ∧ (e.state = .handler → s.w.trapcause.getLsbD 33 = false → s.w.trappc.extractLsb' 0 2 ≠ 0 →
        exec (.vtret a) s = .next (s.trapL 0x07 0 0 e.lmask false))
    ∧ (e.state = .handler → s.w.trapcause.getLsbD 33 = false → s.w.trappc.extractLsb' 0 2 = 0 → (p < 0 ∨ 2 ^ 32 ≤ p) →
        exec (.vtret a) s = .next (s.trapL 0x07 1 0 e.lmask false))
    ∧ (e.state = .handler → s.w.trapcause.getLsbD 33 = false → s.w.haltlatch = false → s.w.handler = some h →
        s.w.trappc.extractLsb' 0 2 = 0 → 0 ≤ p → p < 2 ^ 32 →
        ∃ t, exec (.vtret a) s = .next t ∧ t.entry.state = .live ∧ t.entry.lpc = BitVec.ofInt 32 p
          ∧ t.entry.lmask = e.lmask ∧ t.w.inhandler = false ∧ t.w.handler = none
          ∧ t.entry.fmask = (if skip = true ∨ h.stop = false then 0 else s.w.trapmask.setWidth 32 &&& e.lmask)
          ∧ splitFrame { s with w := { s.w with inhandler := false, handler := none } } t)

/-! ### Conversions, rotation, tags -/

namespace Sys2Proof.Claims

/-- What a result of `k` registers leaves: words, latches, sidecars, flags, generators after `n` draws where the instruction
rounds stochastically, and the fragment's next instruction. -/
def runEffect (s t : State) (a : LaneArgs) (act : Word32) (k code : Nat) (tag : BitVec 16) (word : Nat → Nat → Word32)
    (scales : Option (BitVec 64 × BitVec 64)) (q : Sticky) (st : Bool) (n : Nat) : Prop :=
  mainAfter s t a act k word ∧ latchesAfter s t act (word 0) ∧ sidesAfter s t a act k code tag scales ∧ flagsAfter s t q
    ∧ fragmentNext s t true ∧ laneFrame s t
    ∧ ∀ L, L < 32 → Sparse.get t.w.gens L =
        if st = true ∧ act.getLsbD L = true then drawMany n (Sparse.get s.w.gens L) else Sparse.get s.w.gens L

/-- A conversion completes with its result where R170 to R179 admit it, and traps otherwise, FMTERR before ROTTAG, on the
active lanes (R171). -/
def runResults (s : State) (i : Instr) (a : LaneArgs) (u : LaneUse) (k code : Nat) (fmtOk : Bool) (tag : Option (BitVec 16))
    (word : Nat → Nat → Word32) (scales : Option (BitVec 64 × BitVec 64)) (q : Sticky) (st : Bool) (n : Nat) : Prop :=
  let act := s.active a.mask
  laneReady s u act = true → s.entry.first = true →
    (∀ tg, act = 0 ∨ fmtOk = true → tag = some tg → mayWrite s a act k tg = true →
      ∃ t, completes s i u act t ∧ runEffect s t a act k code tg word scales q st n)
    ∧ (act ≠ 0 → fmtOk = false → exec i s = .next (s.trapL 0x09 0 0 act false))
    ∧ (act ≠ 0 → fmtOk = true → tag = none → exec i s = .next (s.trapL 0x08 0 0 act false))

/-- The words of a run, and the flags of its active lanes, from its elements in order, `n` to a lane (R144, R186). -/
def elementsWord (code : Nat) (es : List (Nat × Sticky)) (r L : Nat) : Word32 :=
  let w := containerBits code
  BitVec.ofNat 32 ((((es.map (·.1)).drop ((r * 32 + L) * epl code)).take (epl code)).foldr (fun e m => e % 2 ^ w + 2 ^ w * m) 0)
def elementsFlags (n : Nat) (act : Word32) (es : List (Nat × Sticky)) : Sticky :=
  (es.zipIdx.map (fun p => if act.getLsbD (p.2 / n % 32) then p.1.2 else 0)).foldl (· ||| ·) 0

/-- The destination registers of a run. -/
def runDst (a : LaneArgs) (k : Nat) : List Nat := if a.w then [] else (List.range k).map (fun i => a.vd.toNat + i)

end Sys2Proof.Claims

/-- R175 to R177: VCVT element by element within a lane, keeping the source's tag; VCVTN from a run into one register and VCVTW
from one register into a run, plain or through a rotation, whose tag is the seed's on the way in and must be on the way out. -/
def Sys2Proof.Claims.formatConversions : Prop :=
  ∀ (s : State) (a : LaneArgs), let ty := a.ty.toNat; let c := cvCode a; let act := s.active a.mask; let st := s.cvStoch a
    let fz := fmtFZ s.entry.fmtc; let sat := s.cvSat a; let z := s.seed a; let r := regNo a.sa; let kn := epl c / epl ty
    let one : List (Nat × Sticky) := (List.range 32).flatMap (fun L => ((s.roundings a st (epl ty) L).zipIdx).map (fun p =>
      convertElement ty c p.1 sat fz (elementOf (containerBits ty) (s.src ty a.imm a.sa L) p.2)))
    let rms := (List.range 32).flatMap (s.roundings a st (epl c))
    let narrow : List (Nat × Sticky) :=
      if cvR a then (rms.zip (rotateBlocks (seedS z) (seedN z) ((s.runElements r kn ty).map (plainValue ty fz)))).map (fun p =>
        rotatedInto c p.1 sat fz p.2)
      else (rms.zip (s.runElements r kn ty)).map (fun p => convertElement ty c p.1 sat fz p.2)
    let kw := epl ty / epl c
    let wide : List (Nat × Sticky) :=
      if cvR a then (unrotateBlocks (seedS z) (seedN z) ((s.runElements r 1 ty).map (plainValue ty fz))).map
        (valueInto c (s.cvRm a) sat fz)
      else (s.runElements r 1 ty).map (convertElement ty c (s.cvRm a) sat fz)
    let seedTag := seedTagOf z
    runResults s (.vcvt a) a { srcs := [a.sa], runs := [], dsts := runDst a 1 } 1 c true (some (s.tagOf a.sa))
      (elementsWord c one) none (elementsFlags (epl ty) act one) st (epl ty)
    ∧ runResults s (.vcvtn a) a { srcs := [], runs := (List.range kn).map (fun i => r + i), dsts := runDst a 1 } 1 c
      (!cvR a || blocksOk c 1 (seedN z) act)
      (if cvR a then (if s.runTag r kn = some 0 then some seedTag else none) else s.runTag r kn)
      (elementsWord c narrow) none (elementsFlags (epl c) act narrow) st (epl c)
    ∧ runResults s (.vcvtw a) a { srcs := [], runs := [r], dsts := runDst a kw } kw c
      (!cvR a || blocksOk c kw (seedN z) act)
      (if s.tagOf a.sa = 0 ∧ cvR a = false then some 0
        else if s.tagOf a.sa ≠ 0 ∧ cvR a = true ∧ s.tagOf a.sa = seedTag then some 0 else none)
      (elementsWord c wide) none (elementsFlags (epl c) act wide) false 0

/-- R178 and R183: quantisation into a microscaled format, block by block of 32 elements, with the block scales in the sidecar,
and the sum of two microscaled registers; into an asymmetric format, with a parameter word for each group in vd + 1. -/
def Sys2Proof.Claims.quantisation : Prop :=
  ∀ (s : State) (a : LaneArgs), let ty := a.ty.toNat; let c := cvCode a; let n := epl c; let act := s.active a.mask
    let st := s.cvStoch a; let fz := fmtFZ s.entry.fmtc; let z := s.seed a; let r := regNo a.sa; let k := n / epl ty
    let rms := (List.range 32).flatMap (s.roundings a st n)
    let xs := (s.runElements r k ty).map (plainValue ty fz)
    let ys := if cvR a then (rotateBlocks (seedS z) (seedN z) xs).map (·.1) else xs
    let sums := ((s.mxValues r c).zip (s.mxValues (regNo a.sb) c)).map (fun p => (fAdd false p.1 p.2).1)
    let words (bs : List (Nat × List Nat × Sticky)) : Nat → Nat → Word32 :=
      elementsWord c (bs.flatMap (fun b => b.2.1.map (fun e => (e, (0 : Sticky)))))
    let flags (bs : List (Nat × List Nat × Sticky)) : Sticky :=
      (bs.zipIdx.map (fun p => if blockActive c 32 p.2 act then p.1.2.2 else 0)).foldl (· ||| ·) 0
    let mx (i : Instr) (u : LaneUse) (ok : Bool) (tag : Option (BitVec 16)) (vs : List Fv) : Prop :=
      runResults s i a u 1 c ok tag (words (mxBlocks c rms vs))
        (some (scaleWord ((mxBlocks c rms vs).map (·.1)), scaleMask c act)) (flags (mxBlocks c rms vs)) st n
    let g := fmtGroup s.entry.fmtc
    let qs := ((chunks g (xs.length / g) rms).zip (chunks g (xs.length / g) xs)).map (fun p =>
      qiQuantise (if c = 0x17 then 4 else 8) p.1 p.2)
    let live := (List.range qs.length).filter (fun j => blockActive c g j act)
    let u2 : LaneUse := { srcs := [], runs := (List.range k).map (fun i => r + i), dsts := runDst a 2 }
    (c < 0x17 → mx (.vqnt a) { srcs := [], runs := (List.range k).map (fun i => r + i), dsts := runDst a 1 }
      (blocksOk c 1 32 act && (!cvR a || blocksOk c 1 (seedN z) act))
      (if cvR a then (if s.runTag r k = some 0 then some (seedTagOf z) else none) else s.runTag r k) ys)
    ∧ mx (.vmxadd a) { srcs := [], runs := [r, regNo a.sb], dsts := runDst a 1 }
      (sideCode (s.w.rx r) == c && sideCode (s.w.rx (regNo a.sb)) == c && blocksOk c 1 32 act)
      (oneTag s [a.sa, a.sb]) sums
    ∧ (0x17 ≤ c → cvR a = false → act ≠ 0 → s.entry.first = true → a.w = false →
        laneReady s u2 act = true → blocksOk c 1 g act = true → ∀ tg, s.runTag r k = some tg → mayWrite s a act 1 tg = true →
        ∃ t, completes s (.vqnt a) u2 act t ∧ fragmentNext s t true ∧ laneFrame s t
          ∧ (∀ m L, L < 32 → m ≠ a.vd.toNat + 1 → t.w.rv m L = if m = a.vd.toNat ∧ act.getLsbD L = true
              then elementsWord c (qs.flatMap (fun q => q.2.1.map (fun e => (e, (0 : Sticky))))) 0 L else s.w.rv m L)
          ∧ (live ≠ [] → ∀ L, L < 32 → t.w.rv (a.vd.toNat + 1) L =
              if live.contains L = true ∨ qs.length ≤ L then ((qs[L]?).map (·.1)).getD 0 else s.w.rv (a.vd.toNat + 1) L)
          ∧ (live ≠ [] → sideCode (t.w.rx (a.vd.toNat + 1)) = 1 ∧ sideTag (t.w.rx (a.vd.toNat + 1)) = 0
              ∧ (act = 0xFFFFFFFF → sideScales (t.w.rx (a.vd.toNat + 1)) = 0)))

/-- R166, R179, R181: widening out of a microscaled or an asymmetric format, through an inverse rotation where asked; scaling by a
power of two, of values or of block scales.  ROTTAG for a tagged parameter register, and six-bit elements copied with their words
whole when block scales are scaled, are the model's choice (log entries 85 and 86). -/
def Sys2Proof.Claims.dequantisation : Prop :=
  ∀ (s : State) (a : LaneArgs), let ty := a.ty.toNat; let c := cvCode a; let act := s.active a.mask
    let fz := fmtFZ s.entry.fmtc; let z := s.seed a; let r := regNo a.sa; let k := epl c / epl ty
    let qi := decide (0x17 ≤ c); let g := fmtGroup s.entry.fmtc
    let vs : List Fv := if qi then
        (s.runElements r 1 c).zipIdx.map (fun p => qiValue (s.src 1 a.imm a.sb (p.2 / g)) p.1)
      else if cvR a then unrotateBlocks (seedS z) (seedN z) (s.mxValues r c) else s.mxValues r c
    let out := vs.map (valueInto ty (s.cvRm a) (s.cvSat a) fz)
    let scaled : List (Nat × Sticky) := (s.srcElements a a.sa ty).map (fun x =>
      valueInto ty (s.cvRm a) (s.cvSat a) fz ((plainValue ty fz x).scale (sclClamp (s.sclK a))))
    let sc := sideScales (s.w.rx r)
    let bs := (List.range (epl c)).map (fun j => sclScale (bits sc.toNat (8 * j + 7) (8 * j)) (s.sclK a))
    let zeroed (L : Nat) : Bool := (List.range (epl c)).any (fun j =>
      (blockLanes c 32 j).getLsbD L && (bs[j]?.getD (0, false, 0)).2.1)
    runResults s (.vdqnt a) a
      { srcs := if qi then [a.sb] else [], runs := r :: (if qi then (mainRegOf a.sb).toList else []), dsts := runDst a k } k ty
      (sideCode (s.w.rx r) == c && blocksOk ty k (if qi then g else if cvR a then seedN z else 32) act)
      (if qi = true ∧ (s.tagOf a.sb ≠ 0 ∨ s.tagOf a.sa ≠ 0) then none else s.widenTag a)
      (elementsWord ty out) none (elementsFlags (epl ty) act out) false 0
    ∧ (c = 0 → runResults s (.vscl a) a { srcs := [a.sa], runs := [], dsts := runDst a 1 } 1 ty true (some (s.tagOf a.sa))
        (elementsWord ty scaled) none (elementsFlags (epl ty) act scaled) false 0)
    ∧ (c ≠ 0 → runResults s (.vscl a) a { srcs := [a.sa], runs := [], dsts := runDst a 1 } 1 c
        (sideCode (s.w.rx r) == c && blocksOk c 1 32 act) (some (s.tagOf a.sa))
        (fun _ L => if zeroed L then 0 else s.src 1 a.imm a.sa L)
        (some (scaleWord (bs.map (·.1)), scaleMask c act))
        ((bs.zipIdx.map (fun p => if blockActive c 32 p.2 act then p.1.2.2 else 0)).foldl (· ||| ·) 0) false 0)

/-- R180, R182 and R184: rotation of a register's blocks and back, under the seed's tag; VTAG sets, clears and reads a tag and
writes the fragment's format register; VMXSCL reads and writes block scales, and gives the register its format with no lane active
too. -/
def Sys2Proof.Claims.rotationAndTags : Prop :=
  ∀ (s : State) (a : LaneArgs), let ty := a.ty.toNat; let c := cvCode a; let act := s.active a.mask
    let fz := fmtFZ s.entry.fmtc; let z := s.seed a; let r := regNo a.sa; let k := s.rotRun a; let tg := seedTagOf z
    let d := a.vd.toNat
    let xs := (s.runElements r k ty).map (plainValue ty fz)
    let fwd := (rotateBlocks (seedS z) (seedN z) xs).map (rotatedInto ty (s.cvRm a) (fmtSAT s.entry.fmtc) fz)
    let inv := (unrotateBlocks (seedS z) (seedN z) xs).map (fun v => rotatedInto ty (s.cvRm a) (fmtSAT s.entry.fmtc) fz (v, 0))
    let u : LaneUse := { srcs := [], runs := (List.range k).map (fun i => r + i), dsts := (List.range k).map (fun i => d + i) }
    let tagUse : LaneUse := { srcs := [], runs := [], dsts := [d] }
    let getUse : LaneUse := { srcs := [], runs := [r], dsts := [] }
    let putUse : LaneUse := { srcs := [a.sa], runs := (mainRegOf a.sa).toList, dsts := [d] }
    let retag (i : Instr) (x : BitVec 16) : Prop := laneReady s tagUse act = true → ∃ t, completes s i tagUse act t ∧ fragmentNext s t false
      ∧ (act = 0 → t.w.x = s.w.x)
      ∧ (act ≠ 0 → sideTag (t.w.rx d) = x ∧ sideCode (t.w.rx d) = sideCode (s.w.rx d)
          ∧ sideScales (t.w.rx d) = sideScales (s.w.rx d) ∧ ∀ n, n ≠ d → t.w.rx n = s.w.rx n)
      ∧ t = { s with w := { s.w with x := t.w.x, split := t.w.split } } ∧ memSame s t
    runResults s (.vrot a) a u k ty (blocksOk ty k (seedN z) act) (if s.runTag r k = some 0 then some tg else none)
      (elementsWord ty fwd) none (elementsFlags (epl ty) act fwd) false 0
    ∧ runResults s (.virot a) a u k ty (blocksOk ty k (seedN z) act) (if s.runTag r k = some tg then some 0 else none)
      (elementsWord ty inv) none (elementsFlags (epl ty) act inv) false 0
    ∧ retag (.vtagSet a) tg ∧ retag (.vtagClr a) 0
    ∧ (laneReady s getUse act = true → ∃ t, completes s (.vtagGet a) getUse act t
        ∧ (act = 0 → onlyNext s t)
        ∧ (act ≠ 0 → scalarFromLane s t (48 + a.vd.setWidth 6) ((s.tagOf a.sa).setWidth 64)))
    ∧ (∃ t, exec (.vtagFmt a) s = .next t
        ∧ fragmentNext (s.setEntry { s.entry with fmtc := writeFmt s.entry.fmtc a.imm }) t false ∧ splitFrame s t)
    ∧ runResults s (.vmxsclGet a) a { srcs := [], runs := [r], dsts := runDst a 1 } 1 1 true (some 0)
      (fun _ L => if L < 8 then ((sideScales (s.w.rx r)).extractLsb' (8 * L) 8).setWidth 32 else 0) none 0 false 0
    ∧ (laneReady s putUse act = true →
        (blocksOk c 1 32 act = true → ∃ t, completes s (.vmxsclPut a) putUse act t ∧ fragmentNext s t false
          ∧ sideCode (t.w.rx d) = c ∧ sideTag (t.w.rx d) = sideTag (s.w.rx d)
          ∧ (∀ j, j < epl c → (sideScales (t.w.rx d)).extractLsb' (8 * j) 8 =
              if blockActive c 32 j act then ((s.src 1 a.imm a.sa j).setWidth 8) else (sideScales (s.w.rx d)).extractLsb' (8 * j) 8)
          ∧ (∀ n, n ≠ d → t.w.rx n = s.w.rx n) ∧ t = { s with w := { s.w with x := t.w.x, split := t.w.split } })
        ∧ (blocksOk c 1 32 act = false → exec (.vmxsclPut a) s = .next (s.trapL 0x09 0 0 act false)))

namespace Sys2Proof.Claims

/-- The integer formats i32 to n4 (R44): their widths, the signed ones even, and the whole number that an element stands for
(R149). -/
def wholeBits (code : Nat) : Nat := [32, 32, 16, 16, 8, 8, 4, 4].getD code 0
def wholeOf (code x : Nat) : Int :=
  let y := x % 2 ^ wholeBits code
  if code % 2 = 0 ∧ 2 ^ (wholeBits code - 1) ≤ y then (y : Int) - 2 ^ wholeBits code else y
def leastWhole (code : Nat) : Int := if code % 2 = 0 then -2 ^ (wholeBits code - 1) else 0
def greatestWhole (code : Nat) : Int := if code % 2 = 0 then 2 ^ (wholeBits code - 1) - 1 else 2 ^ wholeBits code - 1

/-- The bits of a whole number modulo 2^N, and of it clamped to the format, with QC where it was. -/
def wrapWhole (code : Nat) (z : Int) : Nat := (z % 2 ^ wholeBits code).toNat
def clampWhole (code : Nat) (z : Int) : Nat × Sticky :=
  if z < leastWhole code then (wrapWhole code (leastWhole code), 0x20)
  else if greatestWhole code < z then (wrapWhole code (greatestWhole code), 0x20) else (wrapWhole code z, 0)

end Sys2Proof.Claims

/-- R149 to R151 on one element of VCVT, VCVTN or VCVTW: an integer goes into an integer format wrapped, or clamped under SAT; a
number goes into an integer format exactly where it is whole and in range, clamped beyond it, and in between to a neighbour by the
mode; a NaN and the infinities as the table has it; and a number that the target encodes keeps its value, in every mode. -/
def Sys2Proof.Claims.conversionElements : Prop :=
  ∀ (src tgt x : Nat) (m : Rm), src < 16 →
    (src < 8 → tgt < 8 → ∀ fz, let z := wholeOf src x
      convertElement src tgt m false fz x = (wrapWhole tgt z, 0) ∧ convertElement src tgt m true fz x = clampWhole tgt z)
    ∧ (8 ≤ src → tgt < 8 → ∀ sat, let y := convertElement src tgt m sat false x
      (∀ z : Int, ratOf (decodeFloat src x) = some (z : Rat) → y = clampWhole tgt z)
      ∧ (∀ v, ratOf (decodeFloat src x) = some v → leastWhole tgt ≤ v → v ≤ greatestWhole tgt → (∀ z : Int, v ≠ z) →
          let n : Rat := wholeOf tgt y.1
          y.2 = 0x10 ∧ n - v < 1 ∧ v - n < 1 ∧ (m = .rne → n - v ≤ 1 / 2 ∧ v - n ≤ 1 / 2) ∧ (m = .ru → v < n) ∧ (m = .rd → n < v)
            ∧ (m = .rz → if v < 0 then v < n else n < v))
      ∧ (decodeFloat src x = .nan → y = (0, 0x01))
      ∧ (∀ n, decodeFloat src x = .inf n → y = (wrapWhole tgt (if n then leastWhole tgt else greatestWhole tgt), 0x01)))
    ∧ (8 ≤ tgt → tgt < 16 → ∀ y v sat, let f := floatFormat tgt
      y < 2 ^ (1 + f.expBits + f.manBits) → ratOf (decodeFloat tgt y) = some v → v ≠ 0 →
        (8 ≤ src → ratOf (decodeFloat src x) = some v → convertElement src tgt m sat false x = (y, 0))
        ∧ (src < 8 → ((wholeOf src x : Int) : Rat) = v → convertElement src tgt m sat false x = (y, 0)))

/-! ### Lane memory -/

namespace Sys2Proof.Claims

/-- An access that reaches local HBM at once, its translation cached at the home, by a wave in no waiting loop. -/
def homeHit (s : State) (va n : Nat) (acc : Acc) (pa k : Nat) : Bool :=
  reachesHbm s va n acc pa k && (tlbFind (s.die (homeDie va)).tlb s.w.asid va).isSome && !s.w.spinf

/-- The cached translations that serve some addresses do not overlap at them: the one that serves an address serves every other of
them that lies in its page. -/
def pagesAgree (s : State) (asid : BitVec 16) (among : Nat → Prop) : Prop :=
  ∀ x y p, among x → among y → homeDie x = homeDie y → tlbFind (s.die (homeDie x)).tlb asid x = some p → p.base ≤ y →
    y < p.base + p.size → tlbFind (s.die (homeDie x)).tlb asid y = some p

/-- The addresses of the lanes `act`. -/
def ofLanes (act : Word32) (va : Nat → Nat) : Nat → Prop := fun x => ∃ L, L < 32 ∧ act.getLsbD L = true ∧ va L = x

/-- The lanes `act` load `n` bytes each from local HBM at `pa`. -/
def lanesHit (s : State) (act : Word32) (addr : Nat → Addr) (n : Nat) (va pa k : Nat → Nat) : Prop :=
  pagesAgree s s.w.asid (ofLanes act va) ∧ ∀ L, L < 32 → act.getLsbD L = true → (addr L).toNat % n = 0 ∧ s.target (addr L) = .global (va L)
    ∧ homeHit s (va L) n .read (pa L) (k L) = true ∧ uncached s (va L) = true

/-- A word from `n` bytes of memory, sign-extended or not (R307). -/
def laneLoaded (s : State) (pa n : Nat) (sgn : Bool) : Word32 × Sticky := plain ((loaded s pa n sgn).setWidth 32)

/-- A lane load `i` of `n` bytes at `addr`, from registers `srcs`, completes in every active lane (R307). -/
def laneLoads (s : State) (i : Instr) (a : LaneArgs) (srcs : List Src) (n : Nat) (sgn : Bool) (addr : Nat → Addr) : Prop :=
  let act := s.active a.mask
  ∀ va pa k, laneReady s (useOf a srcs) act = true →
    s.tagged srcs = false → s.entry.first = true → mayWrite s a act 1 0 = true → lanesHit s act addr n va pa k →
      ∃ t, completes s i (useOf a srcs) act t
        ∧ laneEffect (passing s t) t a act 0 a.ty.toNat (fun L => laneLoaded s (pa L) n sgn)

/-- A base: a lane-block constant, or zero (R306). -/
def baseOf (s : State) (x : Src) : Word64 :=
  match x with
  | .konst n => s.w.rk n.toNat
  | _ => 0

/-- The address of a lane of VLD and VST, and of VGTH and VSCT (R308, R309). -/
def rowAddr (s : State) (a : LaneArgs) (L : Nat) : Addr :=
  baseOf s a.sa + BitVec.ofInt 64 a.imm.toInt + BitVec.ofNat 64 (4 * L)
def gatherAddr (s : State) (a : LaneArgs) (L : Nat) : Addr :=
  baseOf s a.sb + BitVec.ofInt 64 (s.src 0 a.imm a.sa L).toInt + BitVec.ofInt 64 a.imm.toInt

/-- Size and sign of the SZ field of a load (R309): word, unsigned and signed half, unsigned and signed byte. -/
def szOf (z : Nat) : Nat × Bool :=
  if z = 0 then (4, false) else if z = 1 then (2, false) else if z = 2 then (2, true) else if z = 3 then (1, false) else (1, true)

/-- The stash bytes of lane `L` stand where the core's launch has its lines, none of them waiting for a fill or chord bytes of an
earlier access of the wave that is still on its way (R313). -/
def stashReady (s : State) (g off n : Nat) : Bool :=
  (s.core g).holds s.w.lid && !s.earlyStash g off n && (List.range n).all (fun i =>
    ((s.core g).covers s.w.lid (off + i)).isNone || maskBit (s.core g).valid ((s.stash s.w.lid).1 + off + i))

/-- The number in `n` bytes of a core's stash. -/
def stashNumber (s : State) (g off n : Nat) : Nat :=
  ofBytes ((List.range n).map (fun i => Sparse.get (s.core g).store ((s.stash s.w.lid).1 + off + i)))

/-- A stash word of a lane (R250). -/
def wordOf (s : State) (a : LaneArgs) (L : Nat) : Word32 := s.src 0 a.imm a.sa L + a.imm

/-- The state `s` with the lines that a wave in a waiting loop has loaded as `t` lists them (R101). -/
def listing (s t : State) : State := { s with w := { s.w with spinLines := t.w.spinLines } }

end Sys2Proof.Claims

/-- R307 to R309 and R250: the lane loads from local HBM and from the stash fill the active lanes, sign- or zero-extended, and
write the latch and the sidecar as every result does; a last-use VLD or VGTH takes the same words into its registers. -/
def Sys2Proof.Claims.laneLoadResults : Prop :=
  ∀ (s : State) (a : LaneArgs), let act := s.active a.mask; let z := szOf (a.mods.toNat % 8)
    (a.mods.getLsbD 5 = false → laneLoads s (.vld a) a [] 4 false (rowAddr s a)
      ∧ laneLoads s (.vgth a) a [a.sa] z.1 z.2 (gatherAddr s a))
    ∧ (∀ (g off : Nat → Nat) (path : Nat → Bool), laneReady s (useOf a [a.sa]) act = true →
        s.tagged [a.sa] = false → s.entry.first = true → mayWrite s a act 1 0 = true →
        (∀ L, L < 32 → act.getLsbD L = true → (wordOf s a L).toNat % z.1 = 0
          ∧ s.stashTarget (wordOf s a L).toNat (a.mods.getLsbD 3) = .stash (g L) (off L) (path L)
          ∧ stashReady s (g L) (off L) z.1 = true) →
        ∃ t, completes s (.vlds a) (useOf a [a.sa]) act t ∧ laneEffect (listing s t) t a act 0 a.ty.toNat (fun L =>
          let x := BitVec.ofNat (8 * z.1) (stashNumber s (g L) (off L) z.1)
          plain (if z.2 then BitVec.ofInt 32 x.toInt else BitVec.ofNat 32 x.toNat)))
    ∧ (∀ (va pa k : Nat → Nat) L, a.mods.getLsbD 5 = true → act = 1#32 <<< L → L < 32 → s.entry.first = true → mayWrite s a act 1 0 = true →
        (laneReady s (useOf a []) act = true →
          lanesHit s act (rowAddr s a) 4 va pa k → ∃ t, completes s (.vld a) (useOf a []) act t ∧ fragmentNext s t true
            ∧ mainAfter s t a act 1 (fun _ L => (laneLoaded s (pa L) 4 false).1))
        ∧ (laneReady s (useOf a [a.sa]) act = true →
          s.tagged [a.sa] = false → lanesHit s act (gatherAddr s a) z.1 va pa k →
          ∃ t, completes s (.vgth a) (useOf a [a.sa]) act t ∧ fragmentNext s t true
            ∧ mainAfter s t a act 1 (fun _ L => (laneLoaded s (pa L) z.1 z.2).1)))

namespace Sys2Proof.Claims

/-- The lanes `act` store `n` bytes each to local HBM at `pa`. -/
def lanesStore (s : State) (act : Word32) (addr : Nat → Addr) (n : Nat) (va pa k : Nat → Nat) : Prop :=
  act ≠ 0 ∧ pagesAgree s s.w.asid (ofLanes act va) ∧ ∀ L, L < 32 → act.getLsbD L = true → (addr L).toNat % n = 0
    ∧ s.target (addr L) = .global (va L) ∧ homeHit s (va L) n .write (pa L) (k L) = true

/-- Memory after the lanes' stores of the low `n` bytes of `x`: a byte that no later active lane writes has its lane's value,
and a byte that no active lane writes reads as before (R308, R309). -/
def memStored (s t : State) (act : Word32) (n : Nat) (pa : Nat → Nat) (x : Nat → Word32) : Prop :=
  (∀ L j, L < 32 → act.getLsbD L = true → j < n →
      (∀ K, L < K → K < 32 → act.getLsbD K = true → pa L + j < pa K ∨ pa K + n ≤ pa L + j) →
      t.cell (pa L + j) = (x L).extractLsb' (8 * j) 8)
    ∧ ∀ y, (∀ L, L < 32 → act.getLsbD L = true → y < pa L ∨ pa L + n ≤ y) → t.cell y = s.cell y

/-- The wave after a fragment's store (R101, R113): its marks of a waiting loop end, and the fragment goes on; every register
stays. -/
def storedWave (s t : State) : Prop :=
  t.w = { s.w with spinf := false, spinLines := [], spinCount := 0, split := t.w.split }
    ∧ fragmentNext (s.setEntry { s.entry with backward := false }) t false

/-- The size of the SZ field of a store. -/
def storeSz (z : Nat) : Nat := if z = 0 then 4 else if z = 1 then 2 else 1

end Sys2Proof.Claims

/-- R307 to R309 and R250: the lane stores to local HBM and to the stash write each active lane's low bytes, the highest lane
last; every other byte stays, and so does every register.  With no active lane they only go on. -/
def Sys2Proof.Claims.laneStoreResults : Prop :=
  ∀ (s : State) (a : LaneArgs), let act := s.active a.mask; let n := storeSz (a.mods.toNat % 4)
    let use (x : List Src) : LaneUse := { srcs := x, runs := [], dsts := [] }
    (∀ (va pa k : Nat → Nat), s.entry.first = true → laneReady s (use [a.sb]) act = true → lanesStore s act (rowAddr s a) 4 va pa k →
        (∀ L K, pa L + 4 * K = pa K + 4 * L ∧ k L = k K) → (∀ L, act.getLsbD L = true → s.overtakes (va L) 64 = false) →
        ∃ t, completes s (.vst a) (use [a.sb]) act t ∧ storedWave s t ∧ memStored s t act 4 pa (fun L => s.src 0 a.imm a.sb L))
    ∧ (∀ (va pa k : Nat → Nat), s.entry.first = true → laneReady s (use [a.sa, a.sc]) act = true → s.tagged [a.sa] = false →
        lanesStore s act (gatherAddr s a) n va pa k →
        ∃ t, completes s (.vsct a) (use [a.sa, a.sc]) act t ∧ storedWave s t ∧ memStored s t act n pa (fun L => s.src 0 a.imm a.sc L))
    ∧ (∀ (g off : Nat → Nat) (path : Nat → Bool), s.entry.first = true → laneReady s (use [a.sa, a.sb]) act = true → act ≠ 0 → s.directory = [] →
        (∀ L, L < 32 → act.getLsbD L = true → (wordOf s a L).toNat % n = 0
          ∧ s.stashTarget (wordOf s a L).toNat (a.mods.getLsbD 2) = .stash (g L) (off L) (path L)
          ∧ (s.core (g L)).holds s.w.lid = true ∧ s.earlyStash (g L) (off L) n = false ∧ (s.pair (g L / 2)).queue = []) →
        let base := (s.stash s.w.lid).1
        ∃ t, completes s (.vsts a) (use [a.sa, a.sb]) act t ∧ memSame s t ∧ (∀ r, t.rs r = s.rs r) ∧ t.w.v = s.w.v
          ∧ t.entry.lpc = s.entry.lpc + 3
          ∧ (∀ L j, L < 32 → act.getLsbD L = true → j < n →
              (∀ K, L < K → K < 32 → act.getLsbD K = true → g K ≠ g L ∨ off L + j < off K ∨ off K + n ≤ off L + j) →
              Sparse.get (t.core (g L)).store (base + off L + j) = (s.src 0 a.imm a.sb L).extractLsb' (8 * j) 8)
          ∧ (∀ c y, (∀ L, L < 32 → act.getLsbD L = true → g L ≠ c ∨ y < base + off L ∨ base + off L + n ≤ y) →
              Sparse.get (t.core c).store y = Sparse.get (s.core c).store y))
    ∧ (act = 0 →
        (laneReady s (use [a.sb]) act = true → ∃ t, exec (.vst a) s = .next t ∧ onlyNext s t)
        ∧ (laneReady s (use [a.sa, a.sc]) act = true → ∃ t, exec (.vsct a) s = .next t ∧ onlyNext s t)
        ∧ (laneReady s (use [a.sa, a.sb]) act = true → ∃ t, exec (.vsts a) s = .next t ∧ onlyNext s t))

namespace Sys2Proof.Claims

/-- A row of a live chord on the wave's ORIGIN core that R251 and R249 admit: within the chord, in a format that a row may
use, a microscaled one with whole blocks active and its companion's scales in the stash; a scale byte that lies in the stash beyond
the companion chord's length is read and written as the stash holds it, the model's choice (log entry 54). -/
def rowReady (s : State) (a : LaneArgs) (act : Word32) (c : Chord) : Bool :=
  let o := rowOffset a s
  act != 0 && (s.core s.w.origin.toNat).chord s.w.lid (a.imm.toNat % 32) == some c && o % 128 == 0
    && decide (o + 128 ≤ c.len) && !rowFormatBad s c && (!c.mx || (blocksOk c.fmt 1 32 act
      && (blocksOf c.fmt act).all (fun j => (companion s c).all (fun d => decide (scaleOffset d c o j < (s.stash s.w.lid).2)))))

end Sys2Proof.Claims

/-- R251 and R252: VLDC loads a chord's row with the chord's format and tag, and its blocks' scales; VSTS.row stores one whose
format and tag match; VPFT changes no register and no byte of memory, and where an
earlier request of its core is on its way to the home it sends one of its own behind it (R386). -/
def Sys2Proof.Claims.chordRows : Prop :=
  ∀ (s : State) (a : LaneArgs) (c : Chord), let act := s.active a.mask; let g := s.w.origin.toNat; let o := rowOffset a s
    let base := (s.stash s.w.lid).1; let x := s.w.rx (regNo a.sb)
    let use (y : Src) : LaneUse := { srcs := [y], runs := [], dsts := [] }
    (s.entry.first = true → laneReady s (useOf a []) act = true →
      rowReady s a act c = true → mayWrite s a act 1 c.tag = true → stashReady s g (c.soff + o) 128 = true →
      (c.mx = true → ∀ d, companion s c = some d → ∀ j, j < 8 → stashReady s g (scaleOffset d c o j) 1 = true) →
      ∃ t, completes s (.vldc a) (useOf a []) act t ∧ fragmentNext s t true ∧ laneFrame (listing s t) t
        ∧ mainAfter s t a act 1 (fun _ L => BitVec.ofNat 32 (stashNumber s g (c.soff + o + 4 * L) 4))
        ∧ (c.mx = false → sidesAfter s t a act 1 c.fmt c.tag none)
        ∧ (c.mx = true → a.w = false → ∀ d, companion s c = some d → ∀ j, j < epl c.fmt → blockActive c.fmt 32 j act = true →
            (sideScales (t.w.rx a.vd.toNat)).extractLsb' (8 * j) 8
              = Sparse.get (s.core g).store (base + scaleOffset d c o j)))
    ∧ (s.entry.first = true → laneReady s (use a.sb) act = true → rowReady s a act c = true →
      (sideCode x = c.fmt → sideTag x = c.tag → c.mx = false → (s.pair (g / 2)).queue = [] → (s.core g).holds s.w.lid = true →
        s.earlyStash g (c.soff + o) 128 = false →
        s.directory = [] →
        ∃ t, completes s (.vstsRow a) (use a.sb) act t ∧ memSame s t ∧ (∀ r, t.rs r = s.rs r) ∧ t.w.v = s.w.v ∧ t.w.x = s.w.x
          ∧ t.entry.lpc = s.entry.lpc + 3
          ∧ (∀ L j, L < 32 → j < 4 → Sparse.get (t.core g).store (base + (c.soff + o) + 4 * L + j)
              = if act.getLsbD L = true then (s.w.rv (regNo a.sb) L).extractLsb' (8 * j) 8
                else Sparse.get (s.core g).store (base + (c.soff + o) + 4 * L + j))
          ∧ (∀ y, y < base + (c.soff + o) ∨ base + (c.soff + o) + 128 ≤ y →
              Sparse.get (t.core g).store y = Sparse.get (s.core g).store y))
      ∧ (sideCode x ≠ c.fmt → exec (.vstsRow a) s = .next (s.trapL 0x09 0 0 act false))
      ∧ (sideCode x = c.fmt → sideTag x ≠ c.tag → exec (.vstsRow a) s = .next (s.trapL 0x08 0 0 act false)))
    ∧ (laneReady s (use a.sa) act = true →
      ((act ≠ 0 → s.tagged [a.sa] = false) → (∀ l, s.launch s.w.lid = some l → l.capture = false) →
        ∃ t, completes s (.vpft a) (use a.sa) act t ∧ memSame s t ∧ fragmentNext s t false
          ∧ t.w = { s.w with split := t.w.split, pendcnt := t.w.pendcnt } ∧ (s.requests = [] → t.w.pendcnt = s.w.pendcnt))
      ∧ (act ≠ 0 → s.tagged [a.sa] = true → exec (.vpft a) s = .next (s.trapL 0x08 0 0 act false)))

namespace Sys2Proof.Claims

/-- The parts of the active blocks of a packed-block instruction lie in local HBM: part `x` of `n` bytes at `pa x`. -/
def partsHit (s : State) (a : LaneArgs) (blocks : List Nat) (acc : Acc) (pa k : Addr → Nat) : Prop :=
  (blockAddr a s 0).toNat % 4 = 0
    ∧ pagesAgree s s.w.asid (fun x => ∃ b, b ∈ blocks ∧ ∃ p, p ∈ blockParts a s b ∧ s.target p.1 = .global x) ∧ ∀ b, b ∈ blocks → ∀ p, p ∈ blockParts a s b → ∃ va, s.target p.1 = .global va
    ∧ homeHit s va p.2 acc (pa p.1) (k p.1) = true ∧ (acc = .read → uncached s va = true)

/-- The bytes of a list of parts in order. -/
def partBytes (s : State) (pa : Addr → Nat) (l : List (Addr × Nat)) : List Byte :=
  l.flatMap (fun p => (List.range p.2).map (fun i => s.cell (pa p.1 + i)))

end Sys2Proof.Claims

/-- R310, R145 and R293: VLDB unpacks each active block's image into its lanes, with the block's scale where the format has
one; VSTB packs each active block's lanes and writes the image and the scale; the data is 4-byte aligned, only whole blocks may be
active, and VSTB's register must hold the format. -/
def Sys2Proof.Claims.packedBlocks : Prop :=
  ∀ (s : State) (a : LaneArgs) (pa k : Addr → Nat), let act := s.active a.mask; let code := blockFmt a
    let blocks := (List.range (epl code)).filter (fun b => blockActive code 32 b act)
    let per := 32 / epl code; let n := blockBytes code
    let uL : LaneUse := { srcs := [], runs := [], dsts := [a.vd.toNat] }
    let uS : LaneUse := { srcs := [a.sc], runs := [], dsts := [] }
    let r := regNo a.sc
    let image (b : Nat) : List Byte :=
      toBytes n (packBlock code ((List.range per).foldr (fun i x => (s.w.rv r (per * b + i)).toNat + 2 ^ 32 * x) 0))
        ++ [(sideScales (s.w.rx r)).extractLsb' (8 * b) 8]
    (blocksOk code 1 32 act = true → s.entry.first = true → act ≠ 0 →
      (laneReady s uL act = true → a.w = false → mayWrite s a act 1 0 = true → partsHit s a blocks .read pa k →
        ∃ t, completes s (.vldb a) uL act t ∧ fragmentNext s t false ∧ laneFrame (passing s t) t ∧ t.w.l = s.w.l
          ∧ (∀ m L, L < 32 → m ≠ a.vd.toNat ∨ act.getLsbD L = false → t.w.rv m L = s.w.rv m L)
          ∧ (∀ b i, b ∈ blocks → i < per → t.w.rv a.vd.toNat (per * b + i) = BitVec.ofNat 32
              (unpackBlock code (ofBytes ((partBytes s pa (blockParts a s b)).take n)) / 2 ^ (32 * i)))
          ∧ (isMxCode code = true → ∀ b, b ∈ blocks → (sideScales (t.w.rx a.vd.toNat)).extractLsb' (8 * b) 8
              = ((partBytes s pa (blockParts a s b)).drop n).headD 0))
      ∧ (laneReady s uS act = true → sideCode (s.w.rx r) = code → partsHit s a blocks .write pa k →
        (∀ b p c q, b ∈ blocks → p ∈ blockParts a s b → c ∈ blocks → q ∈ blockParts a s c → (b, p) ≠ (c, q) →
          pa p.1 + p.2 ≤ pa q.1 ∨ pa q.1 + q.2 ≤ pa p.1) →
        ∃ t, completes s (.vstb a) uS act t ∧ storedWave s t
          ∧ (∀ b, b ∈ blocks → partBytes t pa (blockParts a s b)
              = (image b).take (((blockParts a s b).map (·.2)).foldl (· + ·) 0))
          ∧ (∀ y, (∀ b p, b ∈ blocks → p ∈ blockParts a s b → y < pa p.1 ∨ pa p.1 + p.2 ≤ y) → t.cell y = s.cell y))
      ∧ (laneReady s uS act = true → sideCode (s.w.rx r) ≠ code → partsHit s a blocks .write pa k →
          exec (.vstb a) s = .next (s.trapL 0x09 0 0 act false)))

/-! ### Atomics -/

namespace Sys2Proof.Claims

/-- What lane `L` finds, and what all lanes leave, at the word of lane `L`: the lanes on that word one after another, lowest
first (R339). -/
def wordSeen (s : State) (act : Word32) (n : Nat) (pa : Nat → Nat) (f : Nat → Nat → Option Nat) (L upTo : Nat) : Nat :=
  (((List.range upTo).filter (fun K => act.getLsbD K && pa K == pa L)).foldl (fun x K => (f K x).getD x) (memNumber s (pa L) n))

end Sys2Proof.Claims

/-- R339 and R330: VATOM and VATOMR perform their operation on local HBM once for each active lane, lowest first, atomically;
VATOMR returns what each lane found, in one register or in a pair.  No other byte of memory changes. -/
def Sys2Proof.Claims.atomics : Prop :=
  ∀ (s : State) (a : LaneArgs) (va pa k : Nat → Nat), let act := s.active a.mask; let n := atomBytes a
    let op := a.mods.toNat % 16
    let f (L old : Nat) : Option Nat :=
      atomicOp a.mods.toNat a.ty.toNat n old (atomData a s L) (if op = 7 then atomCmp a s L else 0)
    let ready (ret : Bool) : Prop := laneReady s (atomUse a ret) act = true ∧ s.tagged (atomUse a ret).srcs = false
    let leaves (t : State) : Prop :=
      (∀ L, L < 32 → act.getLsbD L = true → memNumber t (pa L) n = wordSeen s act n pa f L 32 % 2 ^ (8 * n))
      ∧ ∀ y, (∀ L, L < 32 → act.getLsbD L = true → y < pa L ∨ pa L + n ≤ y) → t.cell y = s.cell y
    s.entry.first = true → op ≤ 8 → pagesAgree s s.w.asid (ofLanes act va) → (∀ L x y, f L x = some y → x < 2 ^ (8 * n) → y < 2 ^ (8 * n)) →
    (∀ L, L < 32 → act.getLsbD L = true → (atomAddr a s L).toNat % n = 0 ∧ decodeAddr (s.pbase s.w) (atomAddr a s L) = .global (va L)
      ∧ homeHit s (va L) n .write (pa L) (k L) = true
      ∧ ∀ K, K < 32 → act.getLsbD K = true → pa K = pa L ∨ pa K + n ≤ pa L ∨ pa L + n ≤ pa K) →
      (ready false → ∃ t, completes s (.vatom a) (atomUse a false) act t ∧ leaves t ∧ fragmentNext s t false
        ∧ t.w = { s.w with split := t.w.split })
      ∧ (ready true → mayWrite s a act (if a.mods.getLsbD 4 then 2 else 1) 0 = true →
        ∃ t, completes s (.vatomr a) (atomUse a true) act t ∧ leaves t ∧ fragmentNext s t true
        ∧ mainAfter s t a act (if a.mods.getLsbD 4 then 2 else 1) (fun r L => BitVec.ofNat 32 (wordSeen s act n pa f L L / 2 ^ (32 * r)))
        ∧ latchesAfter s t act (fun L => BitVec.ofNat 32 (wordSeen s act n pa f L L)) ∧ t.w.sflags = s.w.sflags
        ∧ (∀ r, t.rs r = s.rs r))

/-- R339's operations and R330's order of a value, on the words of one lane: ADD modulo the size, MIN and MAX signed for i32 and
unsigned for n32, AND, OR and XOR bit by bit, SWAP, CAS where the old value equals the compare value, LOAD; of the floating
formats ADD, MIN and MAX, each element on its own, ADD rounded to nearest without flushing. -/
def Sys2Proof.Claims.atomicOperations : Prop :=
  ∀ (mods ty n old data cmp : Nat), n = 4 ∨ n = 8 → old < 2 ^ (8 * n) → data < 2 ^ (8 * n) →
    let op := mods % 16; let r := atomicOp mods ty n old data cmp; let w := 32 / epl ty
    let v (x : Nat) : Int := if ty = 0 then (BitVec.ofNat (8 * n) x).toInt else x
    let el (x p : Nat) : Nat := x / 2 ^ (w * p) % 2 ^ w
    (ty < 2 →
      (op = 0 → r = some ((old + data) % 2 ^ (8 * n)))
      ∧ (op = 1 → ∃ y, r = some y ∧ (y = old ∨ y = data) ∧ v y ≤ v old ∧ v y ≤ v data)
      ∧ (op = 2 → ∃ y, r = some y ∧ (y = old ∨ y = data) ∧ v old ≤ v y ∧ v data ≤ v y)
      ∧ (op = 3 → ∃ y, r = some y ∧ ∀ i, y.testBit i = (old.testBit i && data.testBit i))
      ∧ (op = 4 → ∃ y, r = some y ∧ ∀ i, y.testBit i = (old.testBit i || data.testBit i))
      ∧ (op = 5 → ∃ y, r = some y ∧ ∀ i, y.testBit i = (old.testBit i != data.testBit i)))
    ∧ (op = 6 → r = some data) ∧ (op = 7 → r = if old = cmp then some data else none) ∧ (op = 8 → r = none)
    ∧ (ty = 8 ∨ ty = 9 ∨ ty = 10 → n = 4 →
      (op = 0 → ∃ y, r = some y ∧ y < 2 ^ 32 ∧ ∀ p, p < epl ty → el y p
          = (roundArith ty .rne false (fAdd false (decodeFloat ty (el old p)) (decodeFloat ty (el data p)))).1 % 2 ^ w)
      ∧ (op = 1 → ∃ y, r = some y ∧ y < 2 ^ 32 ∧ ∀ p, p < epl ty → el y p = fMinMax false ty false (el old p) (el data p) % 2 ^ w)
      ∧ (op = 2 → ∃ y, r = some y ∧ y < 2 ^ 32 ∧ ∀ p, p < epl ty → el y p = fMinMax true ty false (el old p) (el data p) % 2 ^ w))

/-! ### Matrix pairs -/

namespace Sys2Proof.Claims

/-- The registers that a matrix instruction reads and writes in all 32 lanes. -/
def runsOf (runs dsts : List Nat) : LaneUse := { srcs := [], runs := runs, dsts := dsts }

/-- An instruction that takes a queue entry may do so (R80, R255, R257, R273): a lane is active, the pair's queue has room, no
word of the runs it reads has an outstanding write, no queued operation has still to collect a register it writes, their lines are
in the core where the runs exist, and the registers and the tile it names exist. -/
def matReady (s : State) (a : LaneArgs) (named : List Nat) (u : LaneUse) (tile : Bool) : Bool :=
  named.all (fun n => decide (n < s.w.regcnt)) && (!tile || decide (a.vd.toNat < s.tileCount)) && s.active a.mask != 0
    && decide ((s.pair s.myPair).queue.length < 16) && !s.pendingV u (s.active a.mask) && !s.collecting u.dsts
    && (u.illegal s.w.regcnt || (s.absent u 0xFFFFFFFF).isEmpty)

/-- The entry `o` is one more at the end of the pair's queue (R255, R275): it names its wave, frame, generation, tile and
identifier, has landed nothing, and counts as one pending return of the frame.  No register value, no byte of memory, no
other queue changes, and the fragment goes on. -/
def takesEntry (s t : State) (a : LaneArgs) (o : MatOp) (kind : MatKind) : Prop :=
  (t.pair s.myPair).queue = (s.pair s.myPair).queue ++ [o] ∧ (∀ q, q ≠ s.myPair → t.pair q = s.pair q)
    ∧ o.kind = kind ∧ o.leader = s.w.core ∧ o.wave = s.w.id ∧ o.frame = s.w.frame ∧ o.gen = s.w.gen ∧ o.pc = s.pcNow
    ∧ o.fmtc = s.entry.fmtc ∧ o.tile = a.vd.toNat ∧ o.tid = a.imm.setWidth 16 ∧ o.batch = none ∧ o.col = 0 ∧ o.collected = false
    ∧ o.done = false ∧ o.cancelled = false ∧ t.w.pendcnt = s.w.pendcnt + 1
    ∧ t.w.v = s.w.v ∧ t.w.m = s.w.m ∧ t.w.sflags = s.w.sflags ∧ (∀ r, t.rs r = s.rs r) ∧ memSame s t
    ∧ fragmentNext s t false

/-- The words of `k` registers from `r`, as a list by register and lane. -/
def runWordsAre (s : State) (l : List (BitVec 32)) (r k : Nat) : Prop :=
  ∀ i L, i < k → L < 32 → l[32 * i + L]? = some (s.w.rv (r + i) L)

/-- The matrix word of an MMA: a lane-block constant. -/
def matrixWord (s : State) (a : LaneArgs) : BitVec 64 := baseOf s a.sb

/-- The checks of R278 in order up to MEMFAULT: the pair, the matrix word, the runs and tiles, the B range. -/
def mmaRanges (s : State) (a : LaneArgs) : Bool :=
  let fa := fmtA s.entry.fmtc
  let fb := fmtB s.entry.fmtc
  let w := matrixWord s a
  let asym := matClass fa fb == some .asym
  let size := (s.stash s.w.lid).2
  !s.pairBad && !mwBad w fb asym && !s.runBad (regNo a.sa) (aRegs fa)
    && (!asym || !s.runBad (regNo a.sc) (paramRegs s.entry.fmtc)) && decide (a.vd.toNat + mwNT w ≤ s.tileCount)
    && decide (mwB w + 16 * mwNT w * columnBytes fb ≤ size)
    && (!asym || decide (mwP w + 16 * mwNT w * (64 / groupSize s.entry.fmtc) * 4 ≤ size))

/-- The formats agree (R258, R259, R261, R262): a class, the run's sidecars in A's format, B's chord in B's, SAT for integers
only. -/
def mmaFormats (s : State) (a : LaneArgs) : Bool :=
  let fa := fmtA s.entry.fmtc
  let fb := fmtB s.entry.fmtc
  let w := matrixWord s a
  let cls := matClass fa fb
  let asym := cls == some .asym
  let nb := 16 * mwNT w * columnBytes fb
  cls.isSome && (!asym || decide (bits s.entry.fmtc.toNat 21 20 < 2))
    && (List.range (aRegs fa)).all (fun i => sideCode (s.w.rx (regNo a.sa + i)) == fa)
    && !s.bFormatBad fb (mwB w) nb && (regNo a.sc != 0) == asym
    && (!asym || !s.pFormatBad (mwP w) (16 * mwNT w * (64 / groupSize s.entry.fmtc) * 4))
    && (!a.mods.getLsbD 0 || cls == some .int)

/-- The tag of the A run, the tag of B's chord, and the seed of the format register. -/
def tagA (s : State) (a : LaneArgs) : BitVec 16 := sideTag (s.w.rx (regNo a.sa))
def tagB (s : State) (a : LaneArgs) : BitVec 16 :=
  let w := matrixWord s a
  ((s.chordMeeting (mwB w) (16 * mwNT w * columnBytes (fmtB s.entry.fmtc))).map Chord.tag).getD 0
def mmaTags (s : State) (a : LaneArgs) : Bool :=
  let cls := matClass (fmtA s.entry.fmtc) (fmtB s.entry.fmtc)
  let z := Sparse.get s.w.z (fmtSEED s.entry.fmtc)
  (List.range (aRegs (fmtA s.entry.fmtc))).all (fun i => sideTag (s.w.rx (regNo a.sa + i)) == tagA s a)
    && tagA s a == tagB s a
    && (tagA s a == 0 || ((cls == some .half || cls == some .narrow) && seedTagOf z == tagA s a))

/-- The first registers of the runs that an MMA names. -/
def runHeads (a : LaneArgs) : List Nat := regNo a.sa :: if regNo a.sc = 0 then [] else [regNo a.sc]

/-- The registers and the tile that a matrix instruction names exist (R48). -/
def matNames (s : State) (a : LaneArgs) : Prop :=
  (∀ n, n ∈ runHeads a → n < s.w.regcnt) ∧ a.vd.toNat < s.tileCount

/-- MMA or MMAZ at issue (R278). -/
def mmaIssues (s : State) (a : LaneArgs) (i : Instr) (kind : MatKind) : Prop :=
  let fa := fmtA s.entry.fmtc
  let asym := matClass fa (fmtB s.entry.fmtc) == some .asym
  let np := if asym then paramRegs s.entry.fmtc else 0
  let r := regNo a.sa
  let act := s.active a.mask
  let z := Sparse.get s.w.z (fmtSEED s.entry.fmtc)
  let u := runsOf (runOf r (aRegs fa) ++ runOf (regNo a.sc) np) []
  matReady s a (runHeads a) u true = true →
    (mmaRanges s a = true → mmaFormats s a = true → mmaTags s a = true → ∃ t o, completes s i u 0xFFFFFFFF t
      ∧ takesEntry s t a o kind ∧ t.w.x = s.w.x ∧ o.word = matrixWord s a ∧ o.sat = a.mods.getLsbD 0 ∧ o.hold = a.h
      ∧ runWordsAre s o.aWords r (aRegs fa) ∧ runWordsAre s o.pWords (regNo a.sc) np
      ∧ o.sides = (List.range (aRegs fa)).map (fun i => s.w.rx (r + i))
      ∧ o.shift = (if tagA s a = 0 then 0 else if seedN z = 64 then 6 else 5))
    ∧ (s.pairBad = true → exec i s = .next (s.trapL 0x03 5 0 act false))
    ∧ (s.pairBad = false → mwBad (matrixWord s a) (fmtB s.entry.fmtc) asym = true →
        exec i s = .next (s.trapL 0x03 3 0 act false))
    ∧ (mmaRanges s a = true → mmaFormats s a = false → exec i s = .next (s.trapL 0x09 0 0 act false))
    ∧ (mmaRanges s a = true → mmaFormats s a = true → mmaTags s a = false → exec i s = .next (s.trapL 0x08 0 0 act false))

end Sys2Proof.Claims

/-- R278, R279, R282, R253, R255, R257, R273: the instructions that take a queue entry.  MMA and MMAZ capture their runs, the
matrix word and the rotation shift, or trap in the stated order; MACC.in captures its untagged run; MACC.out and MACCZ leave
their run's values pending with result sidecars; MSTAMP names a 64-byte aligned address.  With no lane active nothing is taken;
with a full queue the fragment waits.  That MSTAMP too is ILLREG where the block's pair is not there for it is the model's reading
(log entry 77), and FMTERR for a parameter register named outside the asymmetric class its choice (log entry 69). -/
def Sys2Proof.Claims.matrixIssue : Prop :=
  ∀ (s : State) (a : LaneArgs), let r := regNo a.sa; let act := s.active a.mask
    mmaIssues s a (.mma a) .mma ∧ mmaIssues s a (.mmaz a) .mmaz
    ∧ (matReady s a [r] (runsOf [] (runOf r 32)) true = true → s.pairBad = false → s.runBad r 32 = false →
        ∀ i k, (i, k) ∈ [(Instr.maccOut a, MatKind.out), (.maccz a, .outz)] →
          ∃ t o, completes s i (runsOf [] (runOf r 32)) 0xFFFFFFFF t
          ∧ takesEntry s t a o k ∧ o.run = r
          ∧ (∀ j L, j < 32 → L < 32 → Sparse.get t.w.pendV (32 * (r + j) + L) = BitVec.ofNat 64 o.seq)
          ∧ (∀ n, t.w.rx n = if r ≤ n ∧ n < r + 32 then mkSide a.ty.toNat 0 0 else s.w.rx n))
    ∧ (matReady s a [r] (runsOf (runOf r 32) []) true = true → s.pairBad = false → s.runBad r 32 = false →
        ((∀ n, n < 32 → sideTag (s.w.rx (r + n)) = 0) →
          ∃ t o, completes s (.maccIn a) (runsOf (runOf r 32) []) 0xFFFFFFFF t ∧ takesEntry s t a o .in_
          ∧ runWordsAre s o.aWords r 32 ∧ t.w.x = s.w.x)
        ∧ (∀ n, n < 32 → sideTag (s.w.rx (r + n)) ≠ 0 → exec (.maccIn a) s = .next (s.trapL 0x08 0 0 act false)))
    ∧ (matReady s a [] (runsOf [] []) false = true →
        (s.pairBad = false → ∃ t o, exec (.mstamp a) s = .next t ∧ takesEntry s t a o .stamp
          ∧ o.addr = baseOf s a.sa &&& 0xFFFFFFFFFFFFFFC0 ∧ t.w.x = s.w.x)
        ∧ (s.pairBad = true → exec (.mstamp a) s = .next (s.trapL 0x03 5 0 act false)))
    ∧ (act = 0 → (matNames s a → ∀ i, i ∈ [Instr.mma a, .mmaz a, .maccOut a, .maccIn a, .maccz a, .mstamp a] →
          ∃ t, exec i s = .next t ∧ onlyNext s t)
        ∧ ∃ t, exec (.mfence a) s = .next t ∧ onlyNext s t)
    ∧ (act ≠ 0 → matNames s a → 16 ≤ (s.pair s.myPair).queue.length →
        ∀ i, i ∈ [Instr.mma a, .mmaz a, .maccOut a, .maccIn a, .maccz a, .mstamp a] → exec i s = .next { s with stalled := true })

/-- R270, R280 and R281: MFENCE puts every operation of the wave that is in no batch yet into one, numbered with the package time it
writes to the scalar window; MWAIT goes on when at most n batches of the wave, or no batch numbered at or below its constant,
are outstanding, and waits otherwise.  Where the block's pair is not there for the wave both are ILLREG with detail 5 (R95, R253; log
entry 77). -/
def Sys2Proof.Claims.matrixBatches : Prop :=
  ∀ (s : State) (a : LaneArgs), let act := s.active a.mask
    let now := if (s.ptcOf s.w.core.toNat).toNat < s.w.lastPtc.toNat then s.w.lastPtc else s.ptcOf s.w.core.toNat
    let mine (o : MatOp) : Bool := o.wave == s.w.id && o.batch.isNone
    let outstanding := ((s.pairs.flatMap (fun p => p.2.queue)).filter (fun o => o.wave == s.w.id)).filterMap (·.batch)
    (act ≠ 0 → s.pairBad = true → exec (.mfence a) s = .next (s.trapL 0x03 5 0 act false)
        ∧ exec (.mwait a) s = .next (s.trapL 0x03 5 0 act false))
    ∧ (act ≠ 0 → s.pairBad = false → ∃ t, exec (.mfence a) s = .next t ∧ setsOnly s t (BitVec.ofNat 6 (48 + a.vd.toNat % 8)) now
        ∧ (∀ q, (t.pair q).queue = (s.pair q).queue.map (fun o => if mine o then { o with batch := some (s.w.batches, now) } else o))
        ∧ t.w.batches = s.w.batches + 1 ∧ t.w.lastPtc = now ∧ t.w.v = s.w.v ∧ t.w.x = s.w.x ∧ t.w.m = s.w.m ∧ memSame s t
        ∧ fragmentNext s t false)
    ∧ (∀ n, a.sa = .konst n → (act = 0 ∨ s.pairBad = false) →
        (act = 0 ∨ (∀ b, b ∈ outstanding → (s.w.rk n.toNat).toNat < b.2.toNat) → ∃ t, exec (.mwait a) s = .next t ∧ onlyNext s t)
        ∧ (act ≠ 0 → (∃ b, b ∈ outstanding ∧ b.2.toNat ≤ (s.w.rk n.toNat).toNat) →
            exec (.mwait a) s = .next { s with stalled := true }))
    ∧ ((∀ n, a.sa ≠ .konst n) → (act = 0 ∨ s.pairBad = false) →
        (act = 0 ∨ outstanding.eraseDups.length ≤ a.imm.toNat % 16 → ∃ t, exec (.mwait a) s = .next t ∧ onlyNext s t)
        ∧ (act ≠ 0 → a.imm.toNat % 16 < outstanding.eraseDups.length → exec (.mwait a) s = .next { s with stalled := true }))

namespace Sys2Proof.Claims

/-- The head operation of the pair that the input names is ready to run, its launch's tiles in both cores. -/
def headIs (s : State) (o : MatOp) (rest : List MatOp) (kinds : List MatKind) : Prop :=
  (s.pair s.input.pair).queue = o :: rest ∧ o.kind ∈ kinds ∧ o.done = false ∧ o.cancelled = false ∧ o.stalled = false
    ∧ s.tilesHere o = true

/-- Word (m, c) of an operation's tile pair (R263, R279): rows 0 to 31 on the leader, the others on the follower. -/
def tileWord (s : State) (o : MatOp) (tile m c : Nat) : Word32 :=
  Sparse.get (s.core (if m < 32 then o.leader.toNat else partner o.leader.toNat)).tiles (tileKey tile (m % 32) c)

/-- The other tiles of every core, every register and every byte of memory stay; only the head entry of the queue changes. -/
def tilesOnly (s t : State) (o : MatOp) (n : Nat) (head : MatOp) (rest : List MatOp) : Prop :=
  (t.pair s.input.pair).queue = head :: rest ∧ (∀ g k, k < o.tile * 512 ∨ (o.tile + n) * 512 ≤ k →
      Sparse.get (t.core g).tiles k = Sparse.get (s.core g).tiles k)
    ∧ (∀ g, g ≠ o.leader.toNat → g ≠ partner o.leader.toNat → t.core g = s.core g) ∧ t.w = s.w ∧ t.others = s.others
    ∧ memSame s t

/-- A column's ranges of the leader's stash hold their bytes. -/
def columnReady (s : State) (o : MatOp) (j : Nat) : Bool :=
  (o.ranges s j).all (fun r => (s.core o.leader.toNat).holds o.lid && (List.range r.2).all (fun i =>
    ((s.core o.leader.toNat).covers o.lid (r.1 + i)).isNone
      || maskBit (s.core o.leader.toNat).valid ((s.stash o.lid).1 + r.1 + i)))

/-- The column as it stands in the stash. -/
def columnAt (s : State) (o : MatOp) (j : Nat) : Column :=
  o.columnOf ((o.ranges s j).map (fun r => (List.range r.2).map (fun i =>
    Sparse.get (s.core o.leader.toNat).store ((s.stash o.lid).1 + r.1 + i))))

end Sys2Proof.Claims

/-- R256, R263 to R265, R269, R278 and R279: the operation at the head of a queue.  MMA and MMAZ give every word (m, j) of their tile
pairs the step of row m and column j, and leave the image of their A run in the leader's collector, held where H says so; MACC.in copies its run into the tile pair; MACC.out reads the tile pair out, and MACCZ
then makes it zero. -/
def Sys2Proof.Claims.matrixExecution : Prop :=
  ∀ (s : State) (o : MatOp) (rest : List MatOp), let n := mwNT o.word
    (headIs s o rest [.mma, .mmaz] → o.col = 0 → (∀ j, j < 16 * n → columnReady s o j = true) → ∃ t h,
      exec .matrixOpExecute s = .next t ∧ tilesOnly s t o n h rest ∧ h.done = true ∧ h.col = 16 * n ∧ h.kind = o.kind
        ∧ (o.collected = false → (t.core o.leader.toNat).collector.map (fun x => (x.run, x.aWords, x.held)) =
            some (o.run, o.aWords, o.hold))
        ∧ ∀ m j, m < 64 → j < 16 * n → tileWord t o (o.tile + j / 16) m (j % 16)
            = o.step m (columnAt s o j) (tileWord s o (o.tile + j / 16) m (j % 16)))
    ∧ (headIs s o rest [.in_] → o.aWords.length = 1024 → ∃ t h, exec .matrixOpExecute s = .next t ∧ tilesOnly s t o 1 h rest
        ∧ h.done = true ∧ ∀ m c, m < 64 → c < 16 → some (tileWord t o o.tile m c) = o.aWords[16 * m + c]?)
    ∧ (headIs s o rest [.out, .outz] → ∃ t h, exec .matrixOpExecute s = .next t ∧ tilesOnly s t o 1 h rest ∧ h.done = true
        ∧ (∀ m c, m < 64 → c < 16 → h.aWords[16 * m + c]? = some (tileWord s o o.tile m c))
        ∧ ∀ m c, m < 64 → c < 16 → tileWord t o o.tile m c = if o.kind = .outz then 0 else tileWord s o o.tile m c)
    ∧ ((s.pair s.input.pair).queue = [] → exec .matrixOpExecute s = .next s ∧ exec .matrixOpRetire s = .next s
        ∧ exec .stampRecordWrite s = .next s)

namespace Sys2Proof.Claims

/-- A return has made the lines of the main file that it reaches the latest used ones of its wave's core (R88). -/
def landing (t : State) (lines : List FrameLine) : State := lines.foldl (fun s x => s.landLine t.w x) t

end Sys2Proof.Claims

/-- R268, R271, R275, R276 and R282: the head operation that has landed or is cancelled leaves the queue, and its pending
return arrives; MACC.out and MACCZ fill the lanes for which they are the youngest write; a stamped operation counts in its
stamp entry.  MSTAMP's record is stored, its stamp entry freed and the lost counter cleared. -/
def Sys2Proof.Claims.matrixRetirement : Prop :=
  ∀ (s s1 : State) (o : MatOp) (rest : List MatOp), let q := s.input.pair
    (s.pair q).queue = o :: rest → s.w.id = o.wave → s.w.hasFrame o.asid o.frame = true → s.w.gen = o.gen →
      s.w.residency ≠ .retired → s.w.swapped = false → s.landHeld o.asid o.frame o.gen = false →
      ((o.done = true ∨ o.cancelled = true) → ∃ t, exec .matrixOpRetire s = .next (landing t
          (if (o.kind = .out ∨ o.kind = .outz) ∧ o.cancelled = false then (runOf o.run 32).map .main else []))
        ∧ (t.pair q).queue = rest
        ∧ t.w.pendcnt = s.w.pendcnt - 1 ∧ (∀ r, t.rs r = s.rs r) ∧ t.w.x = s.w.x ∧ memSame s t
        ∧ (∀ k, Sparse.get t.w.v k =
            if (o.kind = .out ∨ o.kind = .outz) ∧ o.cancelled = false ∧ 32 * o.run ≤ k ∧ k < 32 * o.run + 1024
                ∧ Sparse.get s.w.pendV k = BitVec.ofNat 64 o.seq
            then (o.aWords[k - 32 * o.run]?).getD 0 else Sparse.get s.w.v k)
        ∧ ((o.tid = 0 ∨ o.kind = .stamp) → (t.pair q).stamps = (s.pair q).stamps)
        ∧ (o.tid ≠ 0 → o.kind ≠ .stamp → (s.pair q).stamps = [] → ∃ x, (t.pair q).stamps = [x] ∧ x.frame = o.frame
            ∧ x.gen = o.gen ∧ x.tid = o.tid ∧ x.nops = 1 ∧ x.cancel = o.cancelled ∧ x.fault = o.faulted))
      ∧ (o.done = false → o.cancelled = false → exec .matrixOpRetire s = .next s)
      ∧ (o.kind = .stamp → o.cancelled = false → o.stalled = false → o.addr.toNat < 2 ^ 56 →
        s.behind o.leader.toNat (homeDie o.addr.toNat) = false →
        coreWrite s o.leader.toNat o.lid o.asid o.addr.toNat (stampBytes o ((s.pair q).stamps.find? (fun x =>
          x.frame == o.frame && x.gen == o.gen && x.tid == o.tid)) (s.pair q).lost) = .ok s1 → s1.pairs = s.pairs → s1.w = s.w →
        ∃ t, exec .stampRecordWrite s = .next t ∧ (t.pair q).queue = rest ∧ (t.pair q).lost = 0
          ∧ (∀ x, x ∈ (t.pair q).stamps → ¬ (x.frame = o.frame ∧ x.gen = o.gen ∧ x.tid = o.tid))
          ∧ t.w.pendcnt = s.w.pendcnt - 1 ∧ t.mem = s1.mem ∧ (∀ r, t.rs r = s.rs r))

namespace Sys2Proof.Claims

/-- The bits of an element of a matrix class in its container (R144): half, the integers, by the format's code. -/
def elementWidth (code : Nat) : Nat := if code = 9 ∨ code = 10 then 16 else wholeBits code

/-- Element `k` of row `m` of A, 64 elements to a row from the words of the run in order, and of a column of B (R259, R261). -/
def rowElement (o : MatOp) (m k : Nat) : Nat :=
  let w := elementWidth (fmtA o.fmtc)
  (o.aWords[(64 * m + k) / (32 / w)]?.getD 0).toNat / 2 ^ (w * ((64 * m + k) % (32 / w))) % 2 ^ w
def columnElement (o : MatOp) (c : Column) (k : Nat) : Nat :=
  let w := elementWidth (fmtB o.fmtc)
  c.data / 2 ^ (w * k) % 2 ^ w

end Sys2Proof.Claims

/-- R264 and R265 on one word: of the integer formats, the exact sum of the 64 products of a row and a column and of the word there,
zero for MMAZ, clamped to 32 bits under SAT and wrapped otherwise; of fp16 and bf16, the canonical NaN where an element of the row
or of the column is a NaN. -/
def Sys2Proof.Claims.matrixSteps : Prop :=
  ∀ (o : MatOp) (m : Nat) (c : Column) (old : Word32), let fa := fmtA o.fmtc; let fb := fmtB o.fmtc
    let t : Int := ((List.range 64).map (fun k => wholeOf fa (rowElement o m k) * wholeOf fb (columnElement o c k))).sum
      + (if o.kind = .mmaz then 0 else old.toInt)
    (4 ≤ fa → fa < 8 → 4 ≤ fb → fb < 8 → o.step m c old = BitVec.ofInt 32
      (if o.sat = false then t else if t < -2 ^ 31 then -2 ^ 31 else if 2 ^ 31 - 1 < t then 2 ^ 31 - 1 else t))
    ∧ (fa = 9 ∨ fa = 10 → fb = 9 ∨ fb = 10 → (∃ k, k < 64 ∧ (decodeFloat fa (rowElement o m k) = .nan
        ∨ decodeFloat fb (columnElement o c k) = .nan)) → o.step m c old = 0x7FC00000)

/-! ### Copy engines, requests, homes -/

namespace Sys2Proof.Claims

/-- An engine's access to `n` bytes inside one sector at `va` reaches local HBM at `pa` under key slot `k`: its path is up, its
translation cached, the block registered by no core and under no move lock, and its sectors pass their check. -/
def engineHits (s : State) (e : Nat) (q : EngineCmd) (va n : Nat) (acc : Acc) (pa k : Nat) : Bool :=
  s.reaches (e / 64) (homeDie va) && (tlbFind (s.die (homeDie va)).tlb q.asid va).isSome
    && (match translate s q.asid va acc with
      | .ok (x, _) => x == (pa, k)
      | .error _ => false)
    && decide (va % 64 + n ≤ 64) && decide (pa % 64 + n ≤ 64) && decide (pa + n ≤ 0x8000000000)
    && (s.badSector pa n k).isNone && (Table.find s.directory (pa / 512)).isNone && (s.die (bits pa 38 37)).locks.isEmpty
    && (match s.launch q.lid with
      | some l => !l.capture
      | none => true)

/-- The head command is a linear CPY of `n` bytes, plain and without overlap (R347, R350). -/
def linearCopy (q : EngineCmd) (n : Nat) : Bool :=
  let d := q.desc
  q.kind == 0 && dN d 0 == n && dN d 1 == 1 && dN d 2 == 1 && decide (0 < n) && !dLu d && !dInjOn d && q.pos == 0
    && decide (dSrc d + n ≤ 2 ^ 56) && decide (dDst d + n ≤ 2 ^ 56)
    && (decide (dSrc d + n ≤ dDst d) || decide (dDst d + n ≤ dSrc d))

/-- The wave that issued something stands in focus, with the frame and generation it had then, and its state not in
its frame (R88). -/
def issuerHere (s : State) (asid : BitVec 16) (frame : BitVec 64) (gen : BitVec 16) : Bool :=
  s.w.hasFrame asid frame && s.w.gen == gen && s.w.residency != .retired && !s.w.swapped

/-- No wave has the frame in that generation any more. -/
def issuerGone (s : State) (asid : BitVec 16) (frame : BitVec 64) (gen : BitVec 16) : Bool :=
  s.waves.all (fun w => !(w.hasFrame asid frame && w.gen == gen))

end Sys2Proof.Claims

/-- R342, R347, R350, R351, R357: the head command of an engine runs.  Cancelled, it ends with CANCEL, its extents overlapping,
with OVERLAP, and writes nothing; a linear CPY inside one sector of local HBM copies its bytes, changes no other, and ends with
OK; run in part, it copies its first bytes and goes on later (that a run may end after any byte is log 51); a command that is stalled, ended or waits for its seed does not move. -/
def Sys2Proof.Claims.engineCommands : Prop :=
  ∀ (s : State) (q : EngineCmd) (rest : List EngineCmd), let e := s.input.engine
    s.engine e = q :: rest →
      (q.runnable = false → exec .engineCommandStart s = .next s)
      ∧ (q.runnable = true → q.pos = 0 → q.cancel = true → ∃ h, exec .engineCommandStart s = .next (s.setEngine e (h :: rest))
          ∧ h.outcome = some 0x06 ∧ h.pos = 0 ∧ h.seq = q.seq ∧ h.crc = if q.kind = 3 then q.seed.getD 0 else 0)
      ∧ (q.runnable = true → q.pos = 0 → q.cancel = false → q.overlaps = true →
          ∃ h, exec .engineCommandStart s = .next (s.setEngine e (h :: rest))
          ∧ h.outcome = some 0x02 ∧ h.pos = 0 ∧ h.seq = q.seq ∧ h.crc = if q.kind = 3 then q.seed.getD 0 else 0)
      ∧ (∀ n ps pd ks kd, q.runnable = true → q.cancel = false → linearCopy q n = true →
          pagesAgree s q.asid (fun x => x = dSrc q.desc ∨ x = dDst q.desc) →
          engineHits s e q (dSrc q.desc) n .read ps ks = true → engineHits s e q (dDst q.desc) n .write pd kd = true →
          let m := if s.input.k = 0 then n else min n s.input.k
          ∃ t h, exec .engineCommandStart s = .next t ∧ t.engine e = h :: rest ∧ h.pos = m
            ∧ h.outcome = (if m = n then some 0x00 else none) ∧ (m = n → h.crc = 0)
            ∧ (∀ j, j < m → t.cell (pd + j) = s.cell (ps + j))
            ∧ (∀ y, y < pd ∨ pd + m ≤ y → t.cell y = s.cell y) ∧ (∀ r, t.rs r = s.rs r) ∧ t.w.v = s.w.v)

/-- R351, R354, R355, R359 and R88: a command that has ended leaves its engine and writes its whole completion slot, with STATE 2,
in the issuer's frame or nowhere when its generation is gone, counted in DROPCNT; a command chained to it takes its running
value, cancelled unless the code is 0; with EVQ a record goes to the issuer's control processor, and while that queue is full
the slot returns and the command stays until its record, with the time of its completion, has gone.  A return whose frame
cannot be written waits.  EVENT_RECORD_READ takes the oldest record. -/
def Sys2Proof.Claims.engineCompletions : Prop :=
  (∀ (s : State) (q : EngineCmd) (rest : List EngineCmd) (code : BitVec 8), let e := s.input.engine
    let c := q.core.toNat / 192; let n := bits q.ctl.toNat 3 0
    let slotWritten (t : State) : Prop := slotState (t.w.cslot n) = 2 ∧ slotCode (t.w.cslot n) = code.toNat
      ∧ slotEng (t.w.cslot n) = e % 256 ∧ slotSeq (t.w.cslot n) = q.slotSeq ∧ slotCrc (t.w.cslot n) = q.crc
      ∧ (t.w.cslot n).extractLsb' 64 32 = BitVec.ofNat 32 q.pos ∧ (∀ k, k ≠ n → t.w.cslot k = s.w.cslot k)
      ∧ t.w.pendcnt = s.w.pendcnt - 1 ∧ (∀ r, t.rs r = s.rs r) ∧ memSame s t
      ∧ ∀ r, r ∈ rest → r.seed = none → r.pred = q.seq → ∃ x, x ∈ t.engine e ∧ x.seq = r.seq ∧ x.seed = some q.crc
          ∧ x.cancel = (code != 0)
    let seeded : Prop := ∀ r, r ∈ q :: rest → r.seed.isSome = true
    let recordOf (r : EventRecord) : Prop := r.code = code ∧ r.crc = q.crc ∧ r.done = BitVec.ofNat 32 q.pos ∧ r.seq = q.slotSeq
      ∧ r.slot = BitVec.ofNat 8 n ∧ r.engid = BitVec.ofNat 8 e ∧ r.wave = q.waveid
    let ptc := (s.die (e / 64)).ptc
    let held := s.landHeld q.asid q.frame q.gen
    let room : Prop := dEvq q.desc = false ∨ (s.ccp c).events.length < 256
    s.engine e = q :: rest →
      (q.outcome = none → exec .engineCompletion s = .next s)
      ∧ (q.outcome = some code → ¬ room →
        (q.returned = true → exec .engineCompletion s = .next s)
        ∧ (q.returned = false → held = false → issuerHere s q.asid q.frame q.gen = true →
          ∃ t, exec .engineCompletion s = .next t ∧ slotWritten t ∧ (t.ccp c).events = (s.ccp c).events
          ∧ (seeded → t.engine e = { q with returned := true, endTime := ptc } :: rest)))
      ∧ (q.outcome = some code → q.returned = false → held = true → exec .engineCompletion s = .next s)
      ∧ (q.outcome = some code → room → q.returned = true → dEvq q.desc = true →
          ∃ t r, exec .engineCompletion s = .next t ∧ t.engine e = rest ∧ (t.ccp c).events = (s.ccp c).events ++ [r]
            ∧ recordOf r ∧ r.time = q.endTime ∧ t.w = s.w ∧ memSame s t)
      ∧ (q.outcome = some code → room → q.returned = false → held = false →
        (issuerHere s q.asid q.frame q.gen = true → ∃ t, exec .engineCompletion s = .next t ∧ slotWritten t
          ∧ (seeded → t.engine e = rest)
          ∧ (dEvq q.desc = false → (t.ccp c).events = (s.ccp c).events)
          ∧ (dEvq q.desc = true → ∃ r, (t.ccp c).events = (s.ccp c).events ++ [r] ∧ recordOf r ∧ r.time = ptc))
        ∧ (∀ l, issuerGone s q.asid q.frame q.gen = true → s.launches = [l] → l.lid = q.lid →
          ∃ t, exec .engineCompletion s = .next t ∧ t.launches = [{ l with drops := l.drops + 1 }] ∧ memSame s t)))
  ∧ (∀ s : State, let p := s.ccp s.input.ccp
      (p.events = [] → exec .eventRecordRead s = .next s)
      ∧ (∀ r l, p.events = r :: l → exec .eventRecordRead s = .next (s.setCcp s.input.ccp { p with events := l })))

namespace Sys2Proof.Claims

/-- The request that the input names is on its way with none before it, alone in its packet and inside one line, towards local
HBM whose sectors pass their check. -/
def inFlight (s : State) (r : Request) : Prop :=
  s.request s.input.index = some r ∧ r.stage = .sent ∧ s.servable r = true ∧ s.requests.filter r.packed = [r] ∧ 0 < r.size
    ∧ r.pa + r.size ≤ 0x8000000000 ∧ s.badSector r.pa r.size r.key = none
    ∧ r.pa % 128 = r.addr.toNat % 128 ∧ r.pa % 128 + r.size ≤ 128

/-- Nothing holds a write at the request's place: no owner of its block, no move lock, and the bytes lie in one block. -/
def freePlace (s : State) (r : Request) : Bool :=
  (Table.find s.directory (r.pa / 512)).isNone && decide (r.pa % 512 + r.size ≤ 512)
    && (s.die (bits r.pa 38 37)).locks.isEmpty

/-- The bytes outside the request's read as before, and so do the registers. -/
def onlyThere (s t : State) (r : Request) : Prop :=
  (∀ y, y < r.pa ∨ r.pa + r.size ≤ y → t.cell y = s.cell y) ∧ (∀ x, t.rs x = s.rs x) ∧ t.w.v = s.w.v

end Sys2Proof.Claims

/-- R297, R236, R321, R329, R330 and R390: at its home a load is answered with the current bytes, those that an owning core
publishes too; a store writes its bytes; an atomic is answered with what it finds and leaves its result.  No other byte
changes (a last-use load also drops its line, R299).  Over a link that is down none is served: the bridge answers LINKDOWN. -/
def Obligations.HomeServices : Prop :=
  ∀ (s : State) (r : Request), inFlight s r →
    let done (t : State) (v : Nat) : Prop := t.request s.input.index = some { r with stage := .answered (BitVec.ofNat 64 v) }
    let lost : State := s.setRequest { r with stage := .failed 0x12 }
    let answers (i : Instr) (u : Hint) : Prop := ∃ t, exec i s = .next t ∧ done t (memNumber s r.pa r.size)
      ∧ (u.lu = false → memSame s t) ∧ t.mem = s.mem ∧ (∀ x, t.rs x = s.rs x) ∧ t.w.v = s.w.v
    (∀ u, r.kind = .load u → r.size ≤ 8 →
      (s.arrives r = true → answers .homeRead u
        ∧ ((Table.find s.directory (r.pa / 512)).isSome = true → answers .forwardedRead u))
      ∧ (s.arrives r = false → exec .homeRead s = .next lost)
      ∧ (Table.find s.directory (r.pa / 512) = none → exec .forwardedRead s = .next s))
    ∧ (∀ ep, r.kind = .store ep →
      (s.arrives r = true → freePlace s r = true → ∃ t, exec .homeWrite s = .next t ∧ done t 0 ∧ onlyThere s t r
        ∧ ∀ j, j < r.size → t.cell (r.pa + j) = r.data.extractLsb' (8 * j) 8)
      ∧ (s.arrives r = false → exec .homeWrite s = .next lost))
    ∧ (∀ m ret, r.kind = .atomic m ret →
      (s.arrives r = true → freePlace s r = true → r.size ≤ 8 → let old := memNumber s r.pa r.size
        ∃ t, exec .atomicPerform s = .next t ∧ done t old ∧ onlyThere s t r
          ∧ memNumber t r.pa r.size = (match atomicOp m.toNat r.type.toNat r.size old r.data.toNat r.cmp.toNat with
            | some x => x % 2 ^ (8 * r.size)
            | none => old))
      ∧ (s.arrives r = false → exec .atomicPerform s = .next lost))

namespace Sys2Proof.Claims

/-- The trap that a request's failure leaves for the wave's next boundary (R390, R477). -/
def lateTrapOf (r : Request) (code : BitVec 8) : TrapInfo :=
  { code := code, detail := 0, addr := r.addr, lanes := if r.frag.isSome then r.lanes else 0, pc := r.pc, frag := r.frag,
    sw := false, nr := true, stop := true }

/-- The requests of the instruction of a request are of one wave's frame, and none of them is a prefetch. -/
def oneIssuer (s : State) (r : Request) : Prop :=
  ∀ q, q ∈ s.requests → r.beside q = true → q.asid = r.asid ∧ q.frame = r.frame ∧ q.prefetch = false

/-- The value that a return of `n` bytes gives a register (R304). -/
def returned (v : BitVec 64) (n : Nat) (sgn : Bool) : Word64 :=
  let x := BitVec.ofNat (8 * n) v.toNat
  if sgn then BitVec.ofInt 64 x.toInt else BitVec.ofNat 64 x.toNat

end Sys2Proof.Claims

/-- R88, R116, R390 and R477: a return writes its register where it is that register's youngest write, and is counted out of
PENDCNT; of a gone generation it is counted in DROPCNT; one whose frame cannot be written waits.  Requests of one instruction that failed, or are unanswered 1,000,000
ticks after their issue, leave their registers as they were and the wave one wave-stop trap on their lanes that is not resumable,
once the fate of every access of the instruction is known; a reply after the time-out is discarded. -/
def Obligations.ReturnsAndFailures : Prop :=
  ∀ (s : State) (r : Request), s.request s.input.index = some r →
    let comes : Prop := s.expired r = false ∧ s.wayUp (homeDie r.addr.toNat) (s.dieOf r.core.toNat) = true
      ∧ s.landHeld r.asid r.frame r.gen = false
    let here : Prop := issuerHere s r.asid r.frame r.gen = true
    let alone : Prop := s.requests.filter r.replied = [r]
    let stopped (rs : List Request) (code : BitVec 8) (t : State) : Prop := ∃ x, t.w.heldTraps = s.w.heldTraps ++ [x]
      ∧ x.code = code ∧ x.nr = true ∧ x.stop = true ∧ x.frag = r.frag
      ∧ (∀ L, L < 32 → x.lanes.getLsbD L = (r.frag.isSome && rs.any (fun q => q.lanes.getLsbD L)))
      ∧ (rs = [r] → x = lateTrapOf r code) ∧ t.w.wait = none ∧ (∀ x, t.rs x = s.rs x) ∧ t.w.v = s.w.v ∧ memSame s t
    (∀ v, r.stage = .answered v → comes → here → alone → ∃ t, exec .returnArrival s = .next (landing t r.lines)
      ∧ (∀ x, x ∈ t.requests ↔ x ∈ s.requests ∧ x.seq ≠ r.seq) ∧ t.w.pendcnt = s.w.pendcnt - 1 ∧ memSame s t
      ∧ (∀ d n sgn, r.dest = .scalar d n sgn → n ∈ [1, 2, 4, 8] → t.w.v = s.w.v ∧ ∀ k, Sparse.get t.w.sreg k =
          if k = d.toNat ∧ Sparse.get s.w.pendS k = BitVec.ofNat 64 r.seq then returned v n sgn else Sparse.get s.w.sreg k)
      ∧ (∀ m L n sgn, r.dest = .lane m L n sgn → n ∈ [1, 2, 4] → m < 256 → L < 32 → (∀ x, t.rs x = s.rs x) ∧ ∀ k,
          Sparse.get t.w.v k = if k = 32 * m + L ∧ Sparse.get s.w.pendV k = BitVec.ofNat 64 r.seq
            then (returned v n sgn).setWidth 32 else Sparse.get s.w.v k))
    ∧ (∀ v l, r.stage = .answered v → comes → alone → issuerGone s r.asid r.frame r.gen = true → s.launches = [l] → l.lid = r.lid →
        ∃ t, exec .returnArrival s = .next t ∧ t.launches = [{ l with drops := l.drops + 1 }] ∧ memSame s t)
    ∧ (∀ code, r.stage = .failed code → comes →
        (s.allKnown r = false → exec .returnArrival s = .next s)
        ∧ (s.allKnown r = true → here → oneIssuer s r → s.w.inhandler = false → ∃ t, exec .returnArrival s = .next t
          ∧ stopped (s.requests.filter (fun q => r.beside q && q.stage == r.stage)) code t))
    ∧ (r.stage = .sent →
        (s.expired r = true → here → oneIssuer s r → s.w.inhandler = false → ∃ t, exec .requestTimeout s = .next t
          ∧ let rs := s.requests.filter (fun q => r.beside q && (q.stage != .timedOut && q.stage != .late) && s.expired q)
            stopped rs 0x12 t ∧ (rs = [r] → t.request s.input.index = some { r with stage := .timedOut }))
        ∧ (s.expired r = false → exec .requestTimeout s = .next s))
    ∧ (s.landHeld r.asid r.frame r.gen = true → exec .returnArrival s = .next s)
    ∧ (s.expired r = true → (∀ v, r.stage = .answered v → exec .returnArrival s = .next s))
    ∧ (r.stage = .late → exec .lateReplyDiscard s
        = .next { s with requests := s.requests.filter (fun x => x.seq != r.seq) })
    ∧ (r.stage ≠ .late → exec .lateReplyDiscard s = .next s)

/-- R231, R235, R237, R290 and R425: a fill that ends leaves every valid byte of the line as it was and no line of another
number touched; the home registers the owner of a direct chord's published block; a recall brings the owner's published bytes
to memory and ends the registration, after a fill that it meets; a walk caches the translation it finds, and a cached one
becomes the latest used; the first touch of a granule by a captured launch
adds it to the capture. -/
def Obligations.MemorySideSteps : Prop :=
  (∀ s : State, let g := s.input.core; let line := s.input.line; let x := (s.input.lid, line)
    (x ∉ (s.core g).filling → exec .stashFill s = .next s)
    ∧ (s.holdsAt g s.input.lid (line * 128 - (s.stash s.input.lid).1) 128 = false → exec .stashFill s = .next s)
    ∧ (x ∈ (s.core g).filling → s.holdsAt g s.input.lid (line * 128 - (s.stash s.input.lid).1) 128 = true →
        s.capturing s.input.lid = false → ∃ t, exec .stashFill s = .next t ∧ t.mem = s.mem ∧ t.w = s.w
      ∧ ((t.core g).filling = (s.core g).filling.filter (fun l => l != x) ∨ (t.core g).filling = (s.core g).filling)
      ∧ ((∀ a, a / 128 = line → ((s.core g).covers s.input.lid (a - (s.stash s.input.lid).1)).isSome = true →
            maskBit (t.core g).valid a = true) → (t.core g).filling = (s.core g).filling.filter (fun l => l != x))
      ∧ (∀ a, maskBit (s.core g).valid a = true →
          maskBit (t.core g).valid a = true ∧ Sparse.get (t.core g).store a = Sparse.get (s.core g).store a)
      ∧ (∀ a, a / 128 ≠ line → maskBit (t.core g).valid a = maskBit (s.core g).valid a
          ∧ Sparse.get (t.core g).store a = Sparse.get (s.core g).store a)))
  ∧ (∀ (s s1 : State) (l : Launch) (k : Nat) (c : Chord) (pa key : Nat), let g := s.input.core; let a := s.input.line * 128
    let base := l.stashBase + c.soff; let va := c.gbase + (a - base)
    (s.core g).chords = [((l.lid, k), c)] → s.launch l.lid = some l → c.direct = true → base ≤ a → a < base + c.len →
      s.holdsLine g l.lid s.input.line = true →
      (Sparse.get (s.core g).pub s.input.line = 0 →
        exec .directoryRegistration s = .next s)
      ∧ (Sparse.get (s.core g).pub s.input.line ≠ 0 → translate s l.asid va .write = .ok ((pa, key), s1) →
        s1.directory = s.directory → pa < 0x8000000000 → Table.find s.directory (pa / 512) = none →
        exec .directoryRegistration s = .next { s1 with
          directory := Table.put s1.directory (pa / 512)
            { core := BitVec.ofNat 13 g, addr := a - va % 512, cover := c.cover l.stashBase (a - va % 512),
              key := key } }))
  ∧ (∀ (s : State) (o : Owner), let b := s.input.addr.toNat / 512
    (Table.find s.directory b = none → exec .recall s = .next s)
    ∧ (s.recallHeld (512 * b) 512 = true → exec .recall s = .next s)
    ∧ (s.directory = [(b, o)] → s.recallHeld (512 * b) 512 = false → (∀ i, i < 8 → s.sectorOk (8 * b + i) o.key = true) →
        ∃ t, exec .recall s = .next t ∧ t.directory = [] ∧ memSame s t
      ∧ (∀ i, i < 512 → o.cover.getLsbD i = true → maskBit (s.core o.core.toNat).pub (o.addr + i) = true →
          Sparse.get t.mem (512 * b + i) = Sparse.get (s.core o.core.toNat).store (o.addr + i)) ∧ t.w = s.w))
  ∧ (∀ (s : State) (p : TlbEntry), let a := s.input.asid; let va := s.input.va.toNat; let h := homeDie va
    let acc : Acc := if s.input.fetch then .fetch else if s.input.write then .write else .read
    (tlbFind (s.die h).tlb a va = none →
      (badTable s a va = none → walk s a va = .ok p → permits p.leaf acc = true → ∃ t, exec .pageWalk s = .next t
        ∧ (t.die h).tlb = (p :: (s.die h).tlb).take 16384 ∧ t.w = s.w ∧ memSame s t)
      ∧ ((badTable s a va).isSome = true ∨ (∃ f, walk s a va = .error f) → exec .pageWalk s = .next s))
    ∧ (tlbFind (s.die h).tlb a va = some p →
      (permits p.leaf acc = true → exec .pageWalk s =
        .next (s.setDie h { s.die h with tlb := p :: (s.die h).tlb.filter (fun x => x != p) }))
      ∧ (permits p.leaf acc = false → exec .pageWalk s = .next s)))
  ∧ (∀ (s s1 s2 : State) (l : Launch) (b img : List Byte), let g := s.input.va.toNat / 131072
    let used := 0x1200 + 131136 * l.captured.length
    s.launch s.input.lid = some l →
      (l.capture = false ∨ l.capOver = true ∨ g ∈ l.captured → exec .captureFirstTouch s = .next s)
      ∧ (l.capture = true → l.capOver = false → g ∉ l.captured → captureExempt s l g = false →
        readRange s 0 l.asid (l.f 0x70 8) 8 = .ok (b, s1) → used + 131136 ≤ ofBytes b →
        readRange s 0 l.asid (131072 * g) 131072 = .ok (img, s2) → ∃ t x, exec .captureFirstTouch s = .next t
          ∧ t.launch s.input.lid = some x ∧ x.captured = l.captured ++ [g] ∧ x.capUsed = BitVec.ofNat 64 (used + 131136)
          ∧ x.capOver = false ∧ (∀ r, t.rs r = s.rs r)))

/-! ### The life of a launch -/

namespace Sys2Proof.Claims

/-- A place in memory that no core registers. -/
def unowned (s : State) (pa : Nat) : Bool := (Table.find s.directory (pa / 512)).isNone

/-- What a cluster offers a launch, the most free places first, then the lower number. -/
def betterCluster (s : State) (l : Launch) (c d : Nat) : Prop :=
  (s.freePlaces l d).length < (s.freePlaces l c).length ∨ ((s.freePlaces l d).length = (s.freePlaces l c).length ∧ c ≤ d)

/-- The base die of a permitted cluster. -/
def dieUnder (s : State) (c : Nat) : Nat := (clusterDie s.fw.diemap c).getD 0

/-- Free places of a launch on a base die's permitted clusters. -/
def dieRoom (s : State) (l : Launch) (b : Nat) : Nat :=
  (((permitted s l).filter (fun c => dieUnder s c == b)).map (fun c => (s.freePlaces l c).length)).foldl (· + ·) 0

/-- The launch named by the input, not ending, in a phase. -/
def launchIs (s : State) (l : Launch) (p : Phase) : Prop := s.launch s.input.lid = some l ∧ l.phase = p ∧ l.ending = false

/-- A frame of a wave to be: its translation is cached and writable at `pa`, in local HBM under no move lock, and no core
registers a block. -/
def freshFrame (s : State) (asid : BitVec 16) (va pa : Nat) : Bool :=
  s.directory.isEmpty && (s.die (bits pa 38 37)).locks.isEmpty && decide (pa + 65536 ≤ 0x8000000000) && decide (pa % 65536 = 0)
    && (tlbFind (s.die (homeDie va)).tlb asid va).isSome && (match translate s asid va .write with
      | .ok (x, _) => x.1 == pa
      | .error _ => false)

/-- The scalar registers of a wave at creation (R371). -/
def firstS (l : Launch) (b : Block) (w : Wave) : Prop :=
  let g := l.f 0x40 4; let h := l.f 0x44 2
  ∀ k, Sparse.get w.sreg k =
    if k = 1 then BitVec.ofNat 64 (l.f 0x28 8)
    else if k = 2 then BitVec.ofNat 64 (b.created * 2 ^ 56 + b.blk * 2 ^ 32 + l.lid.toNat)
    else if k = 3 then BitVec.ofNat 64 (b.blk % g) else if k = 4 then BitVec.ofNat 64 (b.blk / g % h)
    else if k = 5 then BitVec.ofNat 64 (b.blk / (g * h)) else if k = 6 then BitVec.ofNat 64 b.created
    else if k = 7 then l.lid.setWidth 64 else 0

end Sys2Proof.Claims

/-- R364 and R365: when the head slot's last byte is the expected sequence value, its record becomes a launch whose identifier
names the queue and the records parsed before it; ACK takes the value, the head and the value advance, and no other byte of
memory changes; any other value is ignored, and so is every record while READY is 0 (R444). -/
def Sys2Proof.Claims.launchRecords : Prop :=
  ∀ (s s1 : State) (q : Queue) (b : List Byte), let n := s.input.slot; let a := q.slotAddr
    Table.find s.queues n = some q → n < 64 → readLocal s 0 a 256 0 = .ok (b, s1) → unowned s (a + 254) = true →
      (s.fw.ready = false ∨ (b.getD 255 0).toNat ≠ q.expect → exec .launchRecordParse s = .next s)
      ∧ (s.fw.ready = true → (b.getD 255 0).toNat = q.expect → ∃ t l, exec .launchRecordParse s = .next t ∧ t.launches = s.launches ++ [l]
        ∧ l.record = BitVec.ofNat 2048 (ofBytes b) ∧ l.queue = some n ∧ l.parent = none ∧ l.phase = .parsed ∧ l.depth = 0
        ∧ l.lid.toNat = n * 2 ^ 25 + (Sparse.get s.parsed n).toNat ∧ Sparse.get t.parsed n = Sparse.get s.parsed n + 1
        ∧ Table.find t.queues n = some { q with head := (q.head + 1) % 2 ^ q.k, expect := q.expect % 255 + 1 }
        ∧ t.cell (a + 254) = BitVec.ofNat 8 q.expect ∧ (∀ y, y ≠ a + 254 → t.cell y = s.cell y) ∧ t.w = s.w)

namespace Sys2Proof.Claims

/-- A field of a record, by offset and size (R363). -/
def fieldOf (l : Launch) (off n : Nat) : Nat := l.record.toNat / 2 ^ (8 * off) % 2 ^ (8 * n)

/-- A record breaks a limit of R363 (status 1 of R367); CAPTURE without a buffer does too (R424). -/
def breaksRecord (l : Launch) : Prop :=
  let f := fieldOf l
  let blocks := f 0x40 4 * f 0x44 2 * f 0x46 2
  f 0x5C 4 ≠ 0 ∨ f 0x78 134 ≠ 0 ∨ 16 ≤ f 0x5A 1 ∨ 4 ≤ f 0x5B 1 ∨ f 0x54 2 % 4096 ≠ 0 ∨ 27 ≤ f 0x57 1 / 8 ∨ 27 ≤ f 0x56 2 / 64 % 32
    ∨ f 0x56 1 / 16 % 4 = 3 ∨ 4 < f 0x53 1 ∨ (f 0x53 1 ≤ 0 ∧ f 0x60 4 ≠ 0) ∨ (f 0x53 1 ≤ 1 ∧ f 0x64 4 ≠ 0)
    ∨ (f 0x53 1 ≤ 2 ∧ f 0x68 4 ≠ 0) ∨ (f 0x53 1 ≤ 3 ∧ f 0x6C 4 ≠ 0) ∨ blocks = 0
    ∨ 16777215 < blocks ∨ f 0x48 2 = 0 ∨ 256 < f 0x48 2 ∨ f 0x4A 1 = 0 ∨ 192 < f 0x4A 1 ∨ f 0x48 2 < f 0x4A 1 ∨ 2 < f 0x4B 1
    ∨ 7 < f 0x4C 1 ∨ f 0x50 2 = 0 ∨ 256 < f 0x50 2 ∨ 32 < f 0x52 1 ∨ f 0x58 2 = 0
    ∨ f 0 8 % 4 ≠ 0 ∨ 2 ^ 56 ≤ f 0 8 ∨ f 0x38 8 % 32 ≠ 0 ∨ 2 ^ 56 ≤ f 0x38 8 ∨ f 0x20 8 % 512 ≠ 0 ∨ 2 ^ 56 ≤ f 0x20 8
    ∨ (f 0x5B 1 % 2 = 1 ∧ f 0x70 8 = 0)

/-- A descriptor's bytes fail R85 for a record, or can never hold what its class needs (status 2 of R367). -/
def breaksPool (l : Launch) (b : List Byte) : Prop :=
  let f := fieldOf l
  let p (off n : Nat) : Nat := ofBytes ((b.drop off).take n)
  p 0x18 8 < p 0x10 8 ∨ p 8 4 = 0 ∨ p 0 8 % 131072 ≠ 0 ∨ (f 0x4E 1 ≠ 0 ∧ p 0x28 8 = 0)
    ∨ (f 0x4B 1 = 1 ∧ (2 * p 8 4 < f 0x48 2 ∨ p 0x10 8 < f 0x50 2 * f 0x48 2)) ∨ (f 0x4B 1 = 2 ∧ p 0x10 8 < f 0x50 2)

/-- The granule counts break R218 (status 3). -/
def breaksPartition (l : Launch) : Prop :=
  let a := fieldOf l 0x4D 1; let b := fieldOf l 0x4E 1; let c := fieldOf l 0x4F 1
  a < 4 ∨ 8 < b ∨ c = 0 ∨ 4 < c ∨ 32 < a + b + c ∨ a + b + c < 5

/-- A concurrent grid exceeds the permitted clusters' places or its pool (R370, status 4). -/
def breaksConcurrent (s : State) (l : Launch) (b : List Byte) : Prop :=
  let f := fieldOf l
  let blocks := f 0x40 4 * f 0x44 2 * f 0x46 2
  let p (off n : Nat) : Nat := ofBytes ((b.drop off).take n)
  f 0x4B 1 = 0 ∧ ((permitted s l).length * (192 / l.stride) < blocks ∨ 2 * p 8 4 < f 0x48 2 * blocks
    ∨ p 0x10 8 < f 0x50 2 * f 0x48 2 * blocks)

end Sys2Proof.Claims

/-- R363, R367, R85, R218 and R370: admission's checks in their order.  A record that breaks a field's limits has status 1 and is
the only one that has; then a pool that fails R85 or cannot hold what the class needs has status 2, a partition outside its limits
3, a concurrent grid without room 4, a pool that serves another live launch 5; one that passes all has status 0. -/
def Sys2Proof.Claims.recordChecks : Prop :=
  ∀ (s : State) (l : Launch),
    (breaksRecord l → checkRecord s l none = .ok (1, none, s))
    ∧ (¬ breaksRecord l → (∀ p t, checkRecord s l none ≠ .ok (1, p, t))
      ∧ (2 ^ 56 ≤ fieldOf l 0x30 8 → ∃ t, checkRecord s l none = .ok (2, none, t))
      ∧ ∀ b t, fieldOf l 0x30 8 < 2 ^ 56 → readRange s 0 l.asid (fieldOf l 0x30 8) 48 = .ok (b, t) →
        (breaksPool l b → checkRecord s l none = .ok (2, none, t))
        ∧ (¬ breaksPool l b →
          (breaksPartition l → checkRecord s l none = .ok (3, none, t))
          ∧ (¬ breaksPartition l → breaksConcurrent t l b → checkRecord s l none = .ok (4, none, t))
          ∧ (¬ breaksPartition l → ¬ breaksConcurrent t l b →
            ((∃ q, t.pool l.asid l.poolDesc = some q ∧ q.launch ≠ none) → checkRecord s l none = .ok (5, none, t))
            ∧ ((∀ q, t.pool l.asid l.poolDesc = some q → q.launch = none) → ∃ p, checkRecord s l none = .ok (0, some p, t)
              ∧ p.pbase.toNat = ofBytes (b.take 8) ∧ p.npages = ofBytes ((b.drop 8).take 4)))))

/-- R366 and R367: admission takes the eligible launch of the highest priority; a record that fails a check ends with that
check's status and one whose dependence failed with 6, and no wave runs; a page fault on its pool's descriptor waits for
firmware; one that passes is admitted under the address space's clusters, and its pool serves it. -/
def Sys2Proof.Claims.launchAdmission : Prop :=
  ∀ (s : State),
    (s.nextAdmitted = none → exec .launchAdmission s = .next s)
    ∧ (∀ l, s.nextAdmitted = some l → l ∈ s.launches ∧ s.eligible l = true
        ∧ ∀ m, m ∈ s.launches → s.eligible m = true → m.prio ≤ l.prio)
    ∧ (∀ l f va pa, s.nextAdmitted = some l → checkRecord s l none = .error (.page f va pa) →
        (s.ccp 0).faults.length < 128 → ∃ t r, exec .launchAdmission s = .next t
          ∧ (t.ccp 0).faults = (s.ccp 0).faults ++ [r] ∧ r.vaddr = va ∧ r.who = .launch l.lid ∧ t.launches = s.launches
          ∧ t.w = s.w ∧ t.others = s.others)
    ∧ (∀ l st p s1, s.nextAdmitted = some l → checkRecord s l none = .ok (st, p, s1) → s1.launch l.lid = some l →
        (st ≠ 0 → ∃ t, exec .launchAdmission s = .next t
          ∧ t.launch l.lid = some { l with ending := true, status := BitVec.ofNat 8 st } ∧ t.blocks = s1.blocks
          ∧ t.others = s1.others ∧ memSame s1 t)
        ∧ (st = 0 → l.deps.any (fun d => s1.statusOf d != 0) = true → ∃ t, exec .launchAdmission s = .next t
          ∧ t.launch l.lid = some { l with ending := true, status := 6 } ∧ t.blocks = s1.blocks ∧ t.others = s1.others
          ∧ memSame s1 t)
        ∧ (st = 0 → l.deps.any (fun d => s1.statusOf d != 0) = false → l.capture = false → l.cls ≠ 0 →
          ∃ t pool q, p = some pool ∧ exec .launchAdmission s = .next t
            ∧ t.launch l.lid = some { l with phase := .admitted, admittedAt := s1.now,
                                             mask := ((Table.find s1.fw.asids l.asid.toNat).map (·.clusters)).getD 0 }
            ∧ t.pool l.asid l.poolDesc = some q ∧ q.launch = some l.lid ∧ q.pbase = pool.pbase ∧ q.rused = 0
            ∧ q.rbud = pool.rbud ∧ q.rres = pool.rres ∧ t.blocks = s1.blocks))

/-- R369 and R370: the next block of an admitted launch goes to the permitted base die with the most free places, the lowest of
equals; there to the cluster with the most, the lowest of equals; and to its lowest free place. -/
def Sys2Proof.Claims.blockPlacement : Prop :=
  ∀ (s : State) (l : Launch), launchIs s l .admitted → l.nextBlock < l.blocks →
    ((∃ c, c ∈ permitted s l ∧ s.freePlaces l c ≠ []) →
      ∃ t b, exec .blockPlacement s = .next t ∧ t.blocks = s.blocks ++ [b] ∧ b.lid = s.input.lid ∧ b.blk = l.nextBlock
        ∧ b.created = 0 ∧ b.cluster ∈ permitted s l ∧ b.place ∈ s.freePlaces l b.cluster
        ∧ (∀ p, p ∈ s.freePlaces l b.cluster → b.place ≤ p)
        ∧ (∀ c, c ∈ permitted s l → dieUnder s c = dieUnder s b.cluster → betterCluster s l b.cluster c)
        ∧ (∀ c, c ∈ permitted s l → let x := dieRoom s l (dieUnder s c); let y := dieRoom s l (dieUnder s b.cluster)
            x < y ∨ (x = y ∧ dieUnder s b.cluster ≤ dieUnder s c))
        ∧ t.launch s.input.lid = some { l with nextBlock := l.nextBlock + 1 } ∧ t.w = s.w ∧ t.others = s.others
        ∧ t.mem = s.mem)
    ∧ ((∀ c, c ∈ permitted s l → s.freePlaces l c = []) → exec .blockPlacement s = .next s)

/-- R64, R86, R371 and R372: a wave is created in the free slot least recently freed, with its generation moved on, on the core
that its index gives; s1 to s7, m0, FMTW, SPC, REGCNT and the bases hold what the launch gives them, every other register
zero (of a launch without a stage table; with one, the wave's budget is read as StageInstruction says, R417); with no free slot,
or the budget exceeded, creation waits. -/
def Sys2Proof.Claims.waveCreation : Prop :=
  ∀ (s : State) (l : Launch) (b : Block), launchIs s l .admitted → s.block s.input.lid s.input.blk = some b →
    (s.creatable l b = 0 → exec .waveCreation s = .next s)
    ∧ (∀ p, s.pool l.asid l.poolDesc = some p → (p.freeSlots = [] ∨ (l.cls ≠ 0 ∧ p.rbud.toNat < p.rused.toNat + l.regs)) →
        b.created < l.wpb → exec .waveCreation s = .next s)
    ∧ (∀ p slot x rest pa, s.pool l.asid l.poolDesc = some p → s.creatable l b = 1 → p.freeSlots = (slot, x) :: rest →
        freshFrame s l.asid (p.frame slot).toNat pa = true → l.capture = false → l.cls ≠ 0 → l.f 0x18 8 = 0 →
        (∀ w, w ∈ s.waves → w.id ≠ s.nextWave) → s.requests = [] →
        s.reaches (s.dieOf (BitVec.ofNat 13 (b.cluster * 192 + b.place * l.stride + b.created % l.cpb)).toNat)
          (homeDie (p.frame slot).toNat) = true →
        ∃ t w, exec .waveCreation s = .next t ∧ t.wave s.nextWave = some w ∧ t.nextWave = s.nextWave + 1
          ∧ w.id = s.nextWave ∧ w.frame = p.frame slot ∧ w.gen = x.gen + 1 ∧ w.lid = l.lid ∧ w.blk = b.blk
          ∧ w.widx = b.created ∧ w.asid = l.asid ∧ w.depth = l.depth ∧ w.residency = .ready ∧ w.place = .origin
          ∧ w.origin = BitVec.ofNat 13 (b.cluster * 192 + b.place * l.stride + b.created % l.cpb) ∧ w.core = w.origin
          ∧ w.waveid = BitVec.ofNat 64 (b.created * 2 ^ 56 + b.blk * 2 ^ 32 + l.lid.toNat) ∧ firstS l b w
          ∧ (∀ n, w.rm n = if n = 0 then 0xFFFFFFFF else 0) ∧ (∀ r L, w.rv r L = 0) ∧ (∀ r, w.rx r = 0)
          ∧ w.fmtw.toNat = l.f 0x54 4 ∧ w.spc.toNat = l.f 0 8 ∧ w.regcnt = l.regs ∧ w.poolptr = l.poolDesc
          ∧ w.trampbase.toNat = l.f 8 8 % 2 ^ 56 / 8 * 8 ∧ w.trapbase.toNat = l.f 0x20 8 ∧ w.lq = [] ∧ w.split = []
          ∧ (∃ q, t.pool l.asid l.poolDesc = some q ∧ q.rused = p.rused + BitVec.ofNat 64 l.regs
              ∧ Table.find q.slots slot = some { x with gen := x.gen + 1, live := true })
          ∧ t.block s.input.lid s.input.blk = some { b with created := b.created + 1 })

/-- R239 and R371: a block starts on a core of its place once its waves are created and the core's active bank is its
launch's; without chords in its list nothing else changes, and a parameter block that fails its checks ends the launch with
status 1.  It ends there when its last wave has retired; on its last core its place is free. -/
def Obligations.BlockStartAndEnd : Prop :=
  ∀ (s : State) (l : Launch) (b : Block), let g := s.input.core
    launchIs s l .admitted → s.block s.input.lid s.input.blk = some b →
      (s.startable l b g = false → exec .blockStart s = .next s)
      ∧ (s.startable l b g = true → l.f 0x52 1 = 0 → ∃ t, exec .blockStart s = .next t
          ∧ t.block s.input.lid s.input.blk = some { b with started := b.started ++ [g] } ∧ t.cores = s.cores ∧ t.w = s.w
          ∧ t.others = s.others ∧ t.mem = s.mem)
      ∧ (∀ s1, s.startable l b g = true → setChords g l (List.range (min 32 (l.f 0x52 1))) s = .ok (false, s1) →
          s1.launch s.input.lid = some l → ∃ t, exec .blockStart s = .next t
          ∧ t.launch s.input.lid = some { l with ending := true, status := 1 })
      ∧ (s.endable l b g = false → exec .blockEnd s = .next s)
      ∧ (s.endable l b g = true → (s.core g).chordsOf l.lid = [] → ∃ t, exec .blockEnd s = .next t ∧ t.cores = s.cores
          ∧ t.w = s.w ∧ t.others = s.others ∧ t.mem = s.mem
          ∧ ((∀ c, c ∈ coreSet l b → c ≠ g → c ∈ b.ended) →
              t.blocks = s.blocks.filter (fun x => !(x.lid == l.lid && x.blk == b.blk)))
          ∧ ((∃ c, c ∈ coreSet l b ∧ c ≠ g ∧ c ∉ b.ended) →
              t.block s.input.lid s.input.blk = some { b with ended := b.ended ++ [g] }))

namespace Sys2Proof.Claims

/-- The wave that moves has reached the end of its scalar stream and nothing of it is left to run (R107, R456). -/
def finished (s : State) : Bool := s.w.atEnd && s.w.id != 0 && s.w.id == s.input.wave

end Sys2Proof.Claims

/-- R86, R87, R375 and R456: a wave at the end of its scalar stream waits for its children as LJOIN 0 waits; with none live it
retires: its slot is free with its generation moved on, its registers are credited to the pool, its block counts one wave more
retired, and its core's entry is free. -/
def Sys2Proof.Claims.waveRetirement : Prop :=
  ∀ (s : State), finished s = true →
    (s.childless s.w.id = false → s.w.inChain = false → s.w.place = .origin → ∃ t, exec .waveRetirement s = .next t
      ∧ t.w.residency = .waiting ∧ t.w.wait = some (.join 0) ∧ (∀ r, t.rs r = s.rs r) ∧ memSame s t)
    ∧ (∀ p x b, s.childless s.w.id = true → s.pool s.w.asid s.w.poolptr = some p → Table.find p.slots s.w.slot = some x →
        s.block s.w.lid s.w.blk = some b → growers s p = [] →
        ∃ t, exec .waveRetirement s = .next t ∧ t.w.id = 0 ∧ t.w.residency = .retired
          ∧ (t.core s.w.core.toNat).activeWaves.contains s.w.id = false
          ∧ (∃ c, t.block s.w.lid s.w.blk = some c ∧ c.retired = b.retired + 1 ∧ c.created = b.created)
          ∧ (∃ q, t.pool s.w.asid s.w.poolptr = some q ∧ q.rused = p.rused - BitVec.ofNat 64 s.w.regcnt
              ∧ Table.find q.slots s.w.slot = some { x with gen := x.gen + 1, live := false, freed := s.now }))

namespace Sys2Proof.Claims

/-- The launch named by the input has drained (R368), holds nothing on a core, and its COMPL is valid. -/
def completing (s : State) (l : Launch) : Bool :=
  s.drained l && !s.awaits (.launch l.lid) && l.complOk && !(l.capture && !l.capOver) && s.launch s.input.lid == some l
    && s.waves.all (fun w => !(w.id != 0 && w.lid == l.lid)) && s.cores.all (fun p => (p.2.chordsOf l.lid).isEmpty)

/-- A completion record (R368). -/
def recordBytes (l : Launch) (time : Nat) : List Byte :=
  toBytes 4 l.status.toNat ++ toBytes 4 l.lid.toNat ++ toBytes 8 time ++ toBytes 8 l.drops.toNat ++ toBytes 8 0

/-- A range of `n` bytes in one line at `va`, written from base die 0, reaches local HBM at `pa` (R297). -/
def lineHits (s : State) (asid : BitVec 16) (va n pa : Nat) : Bool :=
  s.reaches 0 (homeDie va) && (tlbFind (s.die (homeDie va)).tlb asid va).isSome
    && (match translate s asid va .write with
      | .ok (x, _) => x.1 == pa && (s.badSector pa n x.2).isNone
      | .error _ => false)
    && decide (va % 128 + n ≤ 128) && decide (pa % 128 + n ≤ 128) && decide (pa + n ≤ 0x8000000000)
    && (Table.find s.directory (pa / 512)).isNone && (s.die (bits pa 38 37)).locks.isEmpty

end Sys2Proof.Claims

/-- R363, R364 and R368: a launch whose waves have retired and whose commands, operations and children are done writes its
32-byte record at COMPL; its status is kept, it is live no more, its pool serves it no more, and with IRQ its queue's vector is
raised; a launch not drained does not complete.  A launch whose COMPL is not valid ends as dropped. -/
def Sys2Proof.Claims.gridCompletion : Prop :=
  ∀ (s : State) (l : Launch), s.launch s.input.lid = some l →
    (s.drained l = false → exec .gridCompletion s = .next s)
    ∧ (∀ pa, completing s l = true → lineHits s l.asid l.compl 32 pa = true → ∃ t, exec .gridCompletion s = .next t
        ∧ (∀ j, j < 32 → t.cell (pa + j) = (recordBytes l (s.die 0).ptc.toNat).getD j 0)
        ∧ t.launch s.input.lid = none
        ∧ t.statusOf l.lid = l.status ∧ (∀ p, p ∈ t.pools → p.launch ≠ some l.lid) ∧ (∀ b, b ∈ t.blocks → b.lid ≠ l.lid)
        ∧ (∀ q, l.queue = some q → l.f 0x5B 1 / 2 % 2 = 1 → t.msix = s.msix ++ [q]) ∧ t.lost = s.lost)
    ∧ (s.drained l = true → s.awaits (.launch l.lid) = false →
        l.complOk = false → l.capture = false → s.waves.all (fun w => !(w.id != 0 && w.lid == l.lid)) = true →
        s.cores.all (fun p => (p.2.chordsOf l.lid).isEmpty) = true →
        ∃ t, exec .gridCompletion s = .next t ∧ t.lost = s.lost ++ [(l.lid, l.status)] ∧ t.statusOf l.lid = l.status
          ∧ t.msix = s.msix)

/-- R374 and R94: a launch stalled for 1,000,000 ticks gets BARFAULT as a wave-stop trap for every wave of it that waits at a
barrier, and only for those; before that time nothing happens.  In POOLDEADLOCK firmware raises the budget to admit the oldest
request, or fails the youngest, which becomes ready. -/
def Sys2Proof.Claims.launchDetectors : Prop :=
  ∀ (s : State) (l : Launch), s.launch s.input.lid = some l →
    (l.stalledAt = none → exec .launchStall s = .next s)
    ∧ (∀ x, l.stalledAt = some x → (s.die 0).ptc.toNat < x.toNat + 1000000 → exec .launchStall s = .next s)
    ∧ (∀ x, l.stalledAt = some x → s.stallHolds l = true → x.toNat + 1000000 ≤ (s.die 0).ptc.toNat →
        (s.waves.map (·.id)).Nodup → (∀ w, w ∈ s.waves → w.lid = l.lid → w.inhandler = false) →
        ∃ t, exec .launchStall s = .next t ∧ t.mem = s.mem
          ∧ ∀ w, w ∈ s.waves → w.id ≠ 0 →
              (w.lid = l.lid → w.atBarrier = true → ∃ v h, t.wave w.id = some v ∧ v.wait = none
                ∧ v.heldTraps = w.heldTraps ++ [h] ∧ h.code = 0x13 ∧ h.stop = true ∧ h.pc = w.spc ∧ v.sreg = w.sreg)
              ∧ ((w.lid ≠ l.lid ∨ w.atBarrier = false) → t.wave w.id = some w))
    ∧ (s.deadlocked l = false → exec .pooldeadlock s = .next s)
    ∧ (∀ p age id need, s.deadlocked l = true → s.pool l.asid l.poolDesc = some p → growers s p = [(age, id, need)] →
        p.rres.toNat - p.rbud.toNat < need → s.w.id = id → s.others.all (fun w => w.id != id) = true →
        ∃ t, exec .pooldeadlock s = .next t ∧ t.w.wait = none ∧ (∃ n, t.w.progress = some (.grow n true))
          ∧ (s.w.residency = .waiting → t.w.residency = .ready) ∧ t.w.regcnt = s.w.regcnt ∧ t.pools = s.pools
          ∧ t.others = s.others ∧ t.mem = s.mem)
    ∧ (∀ p age id need, s.deadlocked l = true → s.pool l.asid l.poolDesc = some p → growers s p = [(age, id, need)] →
        need ≤ p.rres.toNat - p.rbud.toNat → ∃ t q, exec .pooldeadlock s = .next t ∧ t.pool l.asid l.poolDesc = some q
          ∧ q.rbud.toNat = min p.rres.toNat (p.rbud.toNat + (need + 1023) / 1024 * 1024))

/-! ### Residency -/

namespace Sys2Proof.Claims

/-- The wave of a device step is the one in focus. -/
def here (s : State) : Prop := s.w.id = s.input.wave ∧ s.w.id ≠ 0

/-- The wave keeps its lane registers, sidecars, masks, seeds and queue, and memory keeps its bytes. -/
def sameContext (s t : State) : Prop :=
  (∀ r, t.rs r = s.rs r) ∧ t.w.v = s.w.v ∧ t.w.x = s.w.x ∧ t.w.m = s.w.m ∧ t.w.z = s.w.z ∧ t.w.spc = s.w.spc ∧ t.w.lq = s.w.lq
    ∧ memSame s t

/-- No stage budget is read as the wave is activated: there is no stage table, or none is due (R417). -/
def noBudget (s : State) : Bool := s.w.stagetab == 0 || (s.w.residency == .ready && !(s.w.fresh && s.w.budgetDue))

/-- The wave's state stands with the device, or its frame can be read (R72). -/
def frameReads (s : State) : Bool :=
  !s.w.swapped || (match reload s s.w with
    | .ok _ => true
    | .error _ => false)

/-- The wave's registers are those that its frame holds (R72). -/
def readAfresh (s t : State) : Prop :=
  ∀ w u, reload s s.w = .ok (w, u) →
    t.w.sreg = w.sreg ∧ t.w.v = w.v ∧ t.w.x = w.x ∧ t.w.m = w.m ∧ t.w.spc = w.spc ∧ t.w.fmtw = w.fmtw
      ∧ t.w.regcnt = w.regcnt ∧ memSame s t

/-- The wave that moves, on another core. -/
def movedTo (s : State) (g : Nat) : State := { s with w := { s.w with core := BitVec.ofNat 13 g } }

end Sys2Proof.Claims

/-- R72, R73, R84, R325 and R398: a ready wave, next in turn, takes a free entry of its core's active bank and is active, its
state read afresh where its frame holds it; its thresholds are set afresh where R325 asks for it; one that is not the next, or whose clock is behind, waits.  A wave that has
held its entry for 65,536 cycles while another waits, and a wave ordered off its core, leave it at a boundary outside a latch
chain, ready and with its latches invalid. -/
def Obligations.WaveActivation : Prop :=
  ∀ (s : State), here s → let g := s.w.core.toNat
    (s.activable s.w = false → exec .waveActivation s = .next s)
    ∧ (s.activable s.w = true → noBudget s = true → frameReads s = true →
        let fresh := s.w.fresh || s.w.residency == .swapped
        ∃ t, exec .waveActivation s = .next t ∧ t.w.residency = .active
          ∧ (t.core g).activeWaves = (s.core g).activeWaves ++ [s.w.id] ∧ t.w.since = s.now ∧ t.w.fresh = false
          ∧ t.w.swapped = false ∧ (s.w.swapped = false → sameContext s t) ∧ (s.w.swapped = true → readAfresh s t)
          ∧ (fresh = true → t.w.tp = plusSkew (s.ptcOf g) s.fw.skewPkg ∧ t.w.td = plusSkew (s.ptcOf g) s.fw.skewDom)
          ∧ (fresh = false → t.w.tp = s.w.tp ∧ t.w.td = s.w.td))
    ∧ (s.now < s.w.since + 65536 → exec .entryHoldExpiry s = .next s)
    ∧ (s.w.residency = .active → (s.core g).activeWaves.contains s.w.id = true → s.w.switching = false →
        s.w.since + 65536 ≤ s.now → s.waitingFor g s.w.lid ≠ [] → s.w.place = .origin →
        (s.w.inChain = false → s.w.wait = none → ∃ t, exec .entryHoldExpiry s = .next t ∧ t.w.residency = .ready
          ∧ (t.core g).activeWaves.contains s.w.id = false ∧ sameContext s t
          ∧ ∀ f e, Table.find t.w.split f = some e → e.latv = 0)
        ∧ (s.w.inChain = true → exec .entryHoldExpiry s = .next { s with w := { s.w with switching := true } }))
    ∧ ((s.w.switching = false ∨ s.w.inChain = true) → exec .voluntarySwitch s = .next s)
    ∧ (s.w.residency = .active → s.w.switching = true → s.w.inChain = false → s.w.place = .origin → s.w.wait = none →
        ∃ t, exec .voluntarySwitch s = .next t ∧ t.w.residency = .ready ∧ t.w.switching = false
          ∧ (t.core g).activeWaves.contains s.w.id = false ∧ sameContext s t
          ∧ ∀ f e, Table.find t.w.split f = some e → e.latv = 0)

namespace Sys2Proof.Claims

/-- The preload has nothing to save of the shadow banks' previous launches (R126, R225). -/
def nothingSaved (s : State) (l : Launch) (g : Nat) : Prop :=
  ∀ p, (s.core g).shadow = some p → p ≠ l.lid → (s.core g).savedBytes p = []

/-- Nothing of a launch departs on a core, and the launch that is to take it has no accumulator tiles and has been there. -/
def easyArrival (s : State) (l : Launch) (g : Nat) : Bool :=
  let c := s.core g
  c.active.isSome || c.spill.isSome || (l.accGran == 0 && c.zeroed.contains l.lid)

/-- The core's banks hold the same; only its shadow bank's preload differs. -/
def preloadedOn (c : Core) (s t : State) (g : Nat) (l : Launch) : Prop :=
  (t.core g).shadow = some l.lid ∧ (t.core g).preloaded = true ∧ (t.core g).active = c.active
    ∧ (t.core g).activeWaves = c.activeWaves ∧ (t.core g).store = c.store ∧ (t.core g).chords = c.chords
    ∧ (t.core g).shadowWaves = ((s.runnable g l.lid).take 32).map (·.id)

/-- The preloaded launch may take the pair's banks and find nothing to write back or zero there, its switch due; its register-cache
partition has room for what the cores hold (R80). -/
def switchReady (s : State) (q : Nat) (l : Launch) : Prop :=
  s.mayTake q l = true ∧ s.switchDue q = true ∧ ∀ g, g ∈ [2 * q, 2 * q + 1] → s.awaits (.spill g) = false
    ∧ easyArrival s l g = true ∧ (s.cache g).rc.length ≤ 128 * recField l.record 0x4D 1

/-- The preloaded bank of a core is the active one, and the launch that held it departs (R90). -/
def switchedOn (s t : State) (g : Nat) (l : Launch) : Prop :=
  (t.core g).active = some l.lid ∧ (t.core g).shadow = (s.core g).active ∧ (t.core g).preloaded = false
    ∧ (t.core g).switched = s.now ∧ (t.core g).spill = (s.core g).active

end Sys2Proof.Claims

/-- R90, R91, R219, R254 and R373: the next launch in rotation is preloaded in both shadow banks of a pair, the state of its waves
read from their frames; at a switch that is due it takes both active banks, its preloaded wave is active, and the departing
launch's lines depart; a slice that is over orders the switch.  The spill engine saves the departing launch's wave in its frame,
swapped, and is done.  A switch not due, not preloaded, or not for the head of the rotation does not happen. -/
def Obligations.BankSwitches : Prop :=
  ∀ (s : State) (l : Launch), let q := s.input.pair; let a := 2 * q; let b := 2 * q + 1
    (s.rotationOf q = [] → exec .shadowBankPreload s = .next s ∧ exec .sliceExpiry s = .next s)
    ∧ (∀ rest, s.rotationOf q = l :: rest → (s.core a).preloaded = false → (s.core a).departing = [] →
        (s.core b).departing = [] → nothingSaved s l a → nothingSaved s l b → (∀ g, g ∈ [a, b] → ∀ w, w ∈ s.runnable g l.lid → w.residency = .ready) →
        ∃ t, exec .shadowBankPreload s = .next t ∧ preloadedOn (s.core a) s t a l ∧ preloadedOn (s.core b) s t b l
          ∧ (t.pair q).rotation = (s.rotating q).map (·.lid) ∧ t.w = s.w ∧ t.others = s.others ∧ t.mem = s.mem)
    ∧ (∀ rest w u, s.rotationOf q = l :: rest → (s.core a).preloaded = false → (s.core a).departing = [] →
        (s.core b).departing = [] → nothingSaved s l a → nothingSaved s l b → s.runnable a l.lid = [s.w] → s.runnable b l.lid = [] → s.w.residency = .swapped →
        s.w.swapped = true → reload s s.w = .ok (w, u) → ∃ t, exec .shadowBankPreload s = .next t ∧ preloadedOn (s.core a) s t a l
          ∧ t.w.residency = .ready ∧ t.w.fresh = true ∧ t.w.swapped = false ∧ readAfresh s t)
    ∧ (∀ x, (s.core a).active = some x → s.launch x = some l → s.rotationOf q ≠ [] →
        ((s.core a).switched + 65536 * (l.prio + 1) ≤ s.now → ∃ t, exec .sliceExpiry s = .next t ∧ (t.pair q).due = true
          ∧ t.cores = s.cores ∧ t.w = s.w ∧ t.mem = s.mem)
        ∧ (s.now < (s.core a).switched + 65536 * (l.prio + 1) → s.busyPair q = true →
            (∀ m, m ∈ s.rotationOf q → m.prio ≤ l.prio) → exec .sliceExpiry s = .next s))
    ∧ ((s.core a).preloaded = false → exec .shadowBankSwitch s = .next s)
    ∧ (∀ x, (s.core a).shadow = some x → s.launch x = some l → s.switchDue q = false → exec .shadowBankSwitch s = .next s)
    ∧ (∀ x, (s.core a).shadow = some x → s.launch x = some l → (s.rotationOf q).head?.map (·.lid) ≠ some x →
        exec .shadowBankSwitch s = .next s)
    ∧ (∀ x, (s.core a).shadow = some x → s.launch x = some l → switchReady s q l → (s.core b).shadowWaves = [] →
        ((s.core a).shadowWaves = [] → ∃ t, exec .shadowBankSwitch s = .next t ∧ (t.pair q).due = false ∧ t.mem = s.mem
          ∧ ∀ g, g ∈ [a, b] → switchedOn s t g l ∧ (t.core g).activeWaves = [])
        ∧ ((s.core a).shadowWaves = [s.w.id] → s.others = [] → s.w.id ≠ 0 → s.waitingFor a x = [s.w] →
          s.w.residency = .ready → s.w.lid = x → s.w.core.toNat = a → s.clockReached s.w a = true → s.w.swapped = false →
          noBudget s = true → ∃ t, exec .shadowBankSwitch s = .next t ∧ (t.pair q).due = false ∧ sameContext s t
            ∧ t.w.residency = .active ∧ (t.core a).activeWaves = [s.w.id] ∧ (t.core b).activeWaves = []
            ∧ ∀ g, g ∈ [a, b] → switchedOn s t g l))
    ∧ ((s.core s.input.core).spill = none → exec .spillWriteback s = .next s)
    ∧ (∀ x pa key, let g := s.input.core; (s.core g).spill = some x → s.launch x = some l → s.awaits (.spill g) = false →
        (s.pair (g / 2)).queue = [] → l.accGran = 0 → (s.core g).chordsOf x = [] → (s.core g).active = none →
        s.others.all (fun w => w.lid != x || w.core.toNat != g) = true →
        s.w.lid = x → s.w.core.toNat = g → s.w.id ≠ 0 → s.w.place = .origin → s.w.residency = .ready →
        frameAt s pa key = true → ∃ t, exec .spillWriteback s = .next t ∧ (t.core g).spill = none
          ∧ (t.core g).departing = [] ∧ t.w.residency = .swapped ∧ t.w.swapped = true ∧ memOutside s t pa
          ∧ (∀ r, t.rs r = s.rs r) ∧ t.w.v = s.w.v)

/-- R79, R80, R83, R117: a fill of an absent line of an active wave's frame lists it as the latest used of its kind and changes
nothing a program sees; one of a line that is present does nothing; a frame whose page is not mapped parks the wave with a
CTXFAULT record.  A 17th split entry sends the least recently used one to the frame. -/
def Sys2Proof.Claims.frameFills : Prop :=
  ∀ (s : State), here s → let g := s.w.core.toNat; let n := s.input.index
    let missing (i : Instr) (off : Nat) : Prop :=
      (∀ f va pa, framePlace s s.w = .error (.page f va pa) → s.w.place = .origin → g < 192 →
          ∃ t r, exec i s = .next t ∧ t.w.residency = .parked ∧ t.w.parkc = .ctxFault ∧ (t.ccp 0).faults = (s.ccp 0).faults ++ [r]
            ∧ r.code = 0x01 ∧ r.vaddr = s.w.frame + BitVec.ofNat 64 (off / 128 * 128) ∧ t.w.v = s.w.v)
    let fills (i : Instr) (x : FrameLine) : Prop :=
      (s.present s.w x = true → ∃ t, exec i s = .next t ∧ t.caches = s.caches ∧ t.w = s.w ∧ t.mem = s.mem)
      ∧ (s.present s.w x = false → (s.victimHeld s.w x = false → missing i x.offset)
        ∧ ∀ pa key u, framePlace s s.w = .ok ((pa, key), u) → s.badSector (pa + x.offset) 128 key = none →
            ((s.cache g).list x).length < s.lineRoom s.w x → ∃ t, exec i s = .next t ∧ sameContext s t
              ∧ t.w.residency = .active ∧ (t.cache g).list x = (frameLine s.w x.offset, false) :: (s.cache g).list x)
    s.w.residency = .active → (s.ccp 0).faults.length < 128 →
      (n < 256 → n < s.w.regcnt → fills .registerCacheFill (.main n))
      ∧ (256 ≤ n → n < 288 → 8 * (n - 256) < s.w.regcnt → fills .registerCacheFill (.main n))
      ∧ (n < 16 → fills .operandFileFill (.operand n))
      ∧ (n < 32 → s.w.splitCache.contains n = true → exec .splitEntryFill s = .next s)
      ∧ (n < 32 → s.w.splitCache.contains n = false → missing .splitEntryFill (0x9D00 + 32 * n)
        ∧ ∀ pa key u, framePlace s s.w = .ok ((pa, key), u) → s.badSector (pa + 0x9D00 + 32 * n) 32 key = none →
          (s.w.splitCache.length < 16 → ∃ t, exec .splitEntryFill s = .next t ∧ t.w.splitCache = n :: s.w.splitCache
            ∧ sameContext s t ∧ t.w.residency = .active)
          ∧ (s.w.splitCache.length = 16 → s.w.splitCache.all (fun y => decide (y < 32)) = true → frameAt s pa key = true →
            ∃ t, exec .splitEntryFill s = .next t ∧ t.w.splitCache = n :: s.w.splitCache.dropLast ∧ memOutside s t pa
              ∧ (∀ r, t.rs r = s.rs r) ∧ t.w.v = s.w.v ∧ t.w.split = s.w.split))

/-- R96 and R398: the oldest wave in transit to a core's die takes a free landing slot of the core and is active there; a wave
bound for home is placed on its origin core; a wave with no free slot waits.  A wave that has held its slot for 65,536 cycles
while another is bound for the die, whatever that one waits for, gives it up, its state in its frame (that this waits for the end
of a latch chain is log 47). -/
def Sys2Proof.Claims.landingSlots : Prop :=
  ∀ (s : State), here s → let g := s.input.core
    (s.w.place = .transit → s.w.canRun = true → s.w.target = none → ∃ t, exec .landingSlotAcquire s = .next t
        ∧ t.w.place = .origin ∧ t.w.core = s.w.origin ∧ t.w.fresh = true ∧ sameContext s t)
    ∧ (∀ x, s.w.target = some x → s.freeLanding g = none → exec .landingSlotAcquire s = .next s)
    ∧ (∀ x k, s.w.place = .transit → s.w.canRun = true → s.w.target = some x →
        s.freeLanding g = some k → g < 4224 → s.dieOf g = s.dieOf x.toNat → (s.bound (s.dieOf g)).head? = some s.w →
        s.clockReached s.w g = true → noBudget s = true → frameReads (movedTo s g) = true →
        ∃ t, exec .landingSlotAcquire s = .next t ∧ t.w.place = .landing k ∧ t.w.core = BitVec.ofNat 13 g
          ∧ t.w.target = none ∧ t.w.residency = .active ∧ (t.core g).landing = (s.core g).landing ++ [s.w.id]
          ∧ (s.w.swapped = false → sameContext s t) ∧ (s.w.swapped = true → readAfresh (movedTo s g) t))
    ∧ (s.now < s.w.since + 65536 → exec .landingSlotExpiry s = .next s)
    ∧ (s.wanted (s.dieOf s.w.core.toNat) s.w.id = false → exec .landingSlotExpiry s = .next s)
    ∧ (∀ k, s.w.place = .landing k → s.w.residency = .active → s.w.switching = false → s.w.since + 65536 ≤ s.now →
        s.wanted (s.dieOf s.w.core.toNat) s.w.id = true → s.w.inChain = true →
        exec .landingSlotExpiry s = .next { s with w := { s.w with switching := true } })
    ∧ (∀ k pa key, s.w.place = .landing k → s.w.residency = .active → s.w.switching = false → s.w.since + 65536 ≤ s.now →
        s.wanted (s.dieOf s.w.core.toNat) s.w.id = true → s.w.inChain = false → frameAt s pa key = true →
        ∃ t, exec .landingSlotExpiry s = .next t ∧ t.w.place = .transit ∧ t.w.target = some s.w.core
          ∧ t.w.residency = .swapped ∧ t.w.swapped = true ∧ t.w.fresh = true ∧ t.w.wait = s.w.wait ∧ (∀ r, t.rs r = s.rs r) ∧ t.w.v = s.w.v ∧ memOutside s t pa)

/-! ### What comes due in a wave -/

/-- R106: a lane block that has yet to start gets a root fragment with m0's lanes at its address and its format, the latches
invalid; with m0 zero it completes at once, its K block gone. -/
def Sys2Proof.Claims.laneBlockStart : Prop :=
  ∀ (s : State) (b : LaneBlock) (rest : List LaneBlock), here s → s.w.residency = .active → s.w.lq = b :: rest →
    (b.started = true → exec .laneBlockStart s = .next s)
    ∧ (b.started = false → s.w.rm 0 ≠ 0 → ∃ t e, exec .laneBlockStart s = .next t ∧ t.w.split = [(0, e)]
        ∧ t.w.lq = { b with started := true } :: rest ∧ e.lmask = s.w.rm 0 ∧ e.fmtc = b.fmt ∧ e.state = .live
        ∧ e.rga = 0xFFFFFFFF ∧ e.parent = 0 ∧ e.chain = 0 ∧ e.latv = 0 ∧ e.clv = false ∧ e.tlv = false ∧ e.npart = 0
        ∧ (b.pc.toNat < 2 ^ 56 → b.pc.toNat % 4 = 0 → t.w.laneAddr e.lpc = b.pc) ∧ t.w.v = s.w.v
        ∧ (∀ r, t.rs r = s.rs r) ∧ memSame s t)
    ∧ (b.started = false → s.w.rm 0 = 0 → ∃ t, exec .laneBlockStart s = .next t ∧ t.w.split = [] ∧ t.w.lq = rest
        ∧ t.w.lqhead = (s.w.lqhead + 1) % 8 ∧ t.w.v = s.w.v ∧ (∀ r, t.rs r = s.rs r) ∧ memSame s t)

/-- R101, R112 and R379: a SPIN wait ends when its time has come and not before; a stream ready for 64 cycles without issuing
gets the boost; a grid barrier's waiter that its unit did not record reads PHASE again and is ready when it has changed. -/
def Sys2Proof.Claims.selectorAndWaits : Prop :=
  ∀ (s : State), here s →
    (∀ x, s.w.wait = some (.spin x) → (s.now < x → exec .spinWaitEnd s = .next s)
      ∧ (x ≤ s.now → ∃ t, exec .spinWaitEnd s = .next t ∧ t.w.wait = none ∧ t.w.progress = none ∧ t.w.spinCount = 0
          ∧ (s.w.residency = .waiting → t.w.residency = .ready) ∧ sameContext s t))
    ∧ (s.input.index = 0 → mayIssue s.w false 0 = true →
        (s.w.age + 64 ≤ s.now → exec .issueBoost s = .next { s with w := { s.w with boost := true } })
        ∧ (s.now < s.w.age + 64 → exec .issueBoost s = .next s))
    ∧ (∀ f e, s.input.index = f + 1 → mayIssue s.w true f = true → Table.find s.w.split f = some e →
        (e.age + 64 ≤ s.now → ∃ t, exec .issueBoost s = .next t ∧ Table.find t.w.split f = some { e with boost := true }
          ∧ (∀ k, k ≠ f → Table.find t.w.split k = Table.find s.w.split k) ∧ sameContext s t)
        ∧ (s.now < e.age + 64 → exec .issueBoost s = .next s))
    ∧ (∀ a p o s1, s.w.wait = some (.grid a p) → s.unrecorded s.w = true →
        gridObject s a.toNat = .ok (some o, s1) → s1.w = s.w →
        (gridField o.bytes 8 = p → exec .gwaitPollExpiry s = .next s1)
        ∧ (gridField o.bytes 8 ≠ p → ∃ t, exec .gwaitPollExpiry s = .next t ∧ t.w.wait = none
            ∧ t.w.progress = some (.grid a p) ∧ (s.w.residency = .waiting → t.w.residency = .ready)))

namespace Sys2Proof.Claims

/-- ILLREG, detail 2, of fragment `f`, a wave-stop trap over its lanes (R120). -/
def starvedTrap (e : SplitEntry) (pc : Addr) (f : Nat) : TrapInfo :=
  { code := 0x03, detail := 2, addr := 0, lanes := e.lmask, pc := pc, frag := some f, sw := false, nr := false, stop := true,
    part := !e.first }

/-- No two split entries are free, every live fragment waits for some, and fragment `f` has waited longest (R120). -/
def waitsLongest (w : Wave) (f k : Nat) (e : SplitEntry) : Prop :=
  (freePair w.split).isNone = true ∧ Table.find w.split f = some e ∧ (f, e) ∈ w.split ∧ e.state ≠ .waiting
    ∧ e.entryWait = some k
    ∧ ∀ g x, (g, x) ∈ w.split → x.state ≠ .waiting → ∃ j, x.entryWait = some j ∧ (g = f ∨ k < j)

/-- A timer's trap, of class S, before the next scalar instruction (R416, R417). -/
def timerOf (code : BitVec 8) (detail : BitVec 24) (pc : Addr) : TrapInfo :=
  { code := code, detail := detail, addr := 0, lanes := 0, pc := pc, frag := none, sw := false, nr := false, stop := false }

end Sys2Proof.Claims

/-- R120, R413 and R416 to R418: what comes due in a wave.  With every live fragment waiting for split entries, ILLREG detail 2
is raised as a wave-stop trap over the oldest one's lanes; a halt latched for 1,000,000 ticks is recorded at once, with the running
stream's own program counter; a deadline that has passed disarms and raises TIMER, a stage over its budget sets FIRED and
raises STAGEOVER, each held while a handler runs; a sample that is due is taken.  Before their time nothing happens. -/
def Obligations.WaveTimers : Prop :=
  ∀ (s : State), here s →
    (∀ f k e h0, s.w.residency = .active → waitsLongest s.w f k e → s.w.inhandler = true → s.w.handler = some h0 → h0.frag ≠ some f →
        ∃ t h, exec .splitTableExhaustion s = .next t ∧ t.w.heldTraps = s.w.heldTraps ++ [h] ∧ h.code = 0x03
          ∧ h.detail = 2 ∧ h.lanes = e.lmask ∧ h.stop = true ∧ h.frag = some f ∧ memSame s t)
    ∧ (∀ f k e, s.w.residency = .active → waitsLongest s.w f k e → s.w.inhandler = false → ∃ u, exec .splitTableExhaustion s = .next (takeTrap u (starvedTrap e u.pcNow f))
          ∧ u.frag = f ∧ u.lane = true ∧ u.w.spc = s.w.spc ∧ u.w.v = s.w.v ∧ memSame s u)
    ∧ (s.w.split.any (fun p => p.2.state != .waiting && p.2.entryWait.isNone) = true →
        exec .splitTableExhaustion s = .next s)
    ∧ ((freePair s.w.split).isSome = true → exec .splitTableExhaustion s = .next s)
    ∧ (s.w.haltlatch = false → exec .haltLatchTimeout s = .next s)
    ∧ (∀ l pa key, s.w.swapped = false → frameAt s pa key = true → s.w.haltlatch = true → s.w.haltAt + 1000000 ≤ (s.ptcOf s.w.core.toNat).toNat → s.w.handler.bind (·.frag) = none →
        s.launch s.w.lid = some l → l.debugger = true → Table.find s.fw.traces s.w.asid.toNat = none →
        ∃ t, exec .haltLatchTimeout s = .next t ∧ t.w.trapcause = (BitVec.ofNat 64 (0x0E + s.w.haltInfo.toNat * 256) ||| haltedBit)
          ∧ t.w.trappc = s.w.spc ∧ t.w.trapmask = 0 ∧ t.w.haltlatch = false ∧ t.w.residency = .parked
          ∧ t.w.parkc = .debugHalt ∧ t.w.swapped = true ∧ (∀ r, t.rs r = s.rs r) ∧ memOutside s t pa)
    ∧ (timerDue s = false → exec .deadlineExpiry s = .next s)
    ∧ (s.w.residency = .active → timerDue s = true → s.w.inhandler = true → ∃ t h, exec .deadlineExpiry s = .next t
        ∧ t.w.deadline = 0 ∧ t.w.heldTraps = s.w.heldTraps ++ [h] ∧ h.code = 0x0B ∧ h.stop = false ∧ sameContext s t)
    ∧ (s.w.residency = .active → timerDue s = true → s.w.inhandler = false → ∃ u, exec .deadlineExpiry s
        = .next (takeTrap u (timerOf 0x0B 0 s.w.spc)) ∧ u.w.deadline = 0 ∧ sameContext s u)
    ∧ (stageDue s.w = false → exec .stageBudgetExpiry s = .next s)
    ∧ (s.w.residency = .active → stageDue s.w = true → s.w.inhandler = true → ∃ t h, exec .stageBudgetExpiry s = .next t
        ∧ t.w.stagecnt.getLsbD 63 = true ∧ t.w.heldTraps = s.w.heldTraps ++ [h] ∧ h.code = 0x0A
        ∧ h.detail = s.w.stage.setWidth 24 ∧ sameContext s t)
    ∧ (s.w.residency = .active → stageDue s.w = true → s.w.inhandler = false → ∃ u, exec .stageBudgetExpiry s
        = .next (takeTrap u (timerOf 0x0A (s.w.stage.setWidth 24) s.w.spc)) ∧ u.w.stagecnt.getLsbD 63 = true ∧ sameContext s u)
    ∧ (sampleDue s.w = false → exec .sampleTimerExpiry s = .next s)
    ∧ (s.w.residency = .active → sampleDue s.w = true → Table.find s.fw.traces s.w.asid.toNat = none →
        ∃ t, exec .sampleTimerExpiry s = .next t ∧ t.w.sampled = s.w.wclk ∧ sampleDue t.w = false ∧ sameContext s t)

/-! ### Firmware -/

namespace Sys2Proof.Claims

/-- The code of each command (R441). -/
def commandCode : List (Instr × Nat) :=
  [(.query, 0x0001), (.resetWarm, 0x0002), (.resetFull, 0x0002), (.asidset, 0x0010), (.asidclr, 0x0011), (.inval, 0x0012),
   (.partition, 0x0013), (.keyload, 0x0014), (.keyclr, 0x0015), (.pgmove, 0x0016), (.queuecfg, 0x0020), (.kill, 0x0021),
   (.poolres, 0x0030), (.poolrel, 0x0031), (.domain, 0x0040), (.exportEntry, 0x0041), (.trace, 0x0050), (.dbgattach, 0x0060),
   (.dbghalt, 0x0061), (.dbgresume, 0x0062), (.dbgdetach, 0x0063), (.attest, 0x0070), (.patch, 0x0071), (.powercap, 0x0080),
   (.powerstat, 0x0081)]

/-- The slot at the head of the command ring. -/
def theCommand (s : State) : CommandSlot := Table.getD s.fw.slots s.fw.cmdHead CommandSlot.empty

/-- OPC and the two reserved bytes after it (R439). -/
def codeGiven (s : State) : Nat := ((theCommand s).body.extractLsb' 0 32).toNat

/-- Firmware takes the command at the head: READY, the BAR up, the expected sequence value there, no reset and no page move
under way (R438 to R440). -/
def commandOffered (s : State) : Bool :=
  s.fw.ready && s.fw.barUp && !s.fw.warm && s.dies.all (fun d => d.2.locks.isEmpty)
    && (theCommand s).seq.toNat == s.fw.cmdExpect

/-- That command is `i`, its reserved bytes zero. -/
def commandReady (s : State) (i : Instr) : Bool := commandOffered s && commandCode.contains (i, codeGiven s)

/-- A command is answered at the head of the ring (R439): STATUS, its TAG, the result and DONE; the head and the expected value
advance. -/
def answersAs (s t : State) (tag : BitVec 32) (st : Nat) (result : List (BitVec 64)) : Prop :=
  Table.find t.fw.responses s.fw.cmdHead
      = some { status := BitVec.ofNat 32 st, tag := tag, result := result, done := BitVec.ofNat 8 s.fw.cmdExpect }
    ∧ t.fw.cmdHead = (s.fw.cmdHead + 1) % 16 ∧ t.fw.cmdExpect = s.fw.cmdExpect % 255 + 1

/-- With the TAG of the slot at the head. -/
def answers (s t : State) (st : Nat) (result : List (BitVec 64)) : Prop :=
  answersAs s t ((theCommand s).body.extractLsb' 32 32) st result

/-- Waves, memory, cores, dies and launches are as before. -/
def onlyFw (s t : State) : Prop :=
  t.w = s.w ∧ t.others = s.others ∧ t.mem = s.mem ∧ t.cores = s.cores ∧ t.dies = s.dies ∧ t.launches = s.launches

/-- A command that firmware takes is answered, and touches nothing beyond firmware's state. -/
def replies (i : Instr) (s : State) (st : Nat) (result : List (BitVec 64)) (p : State → Prop) : Prop :=
  commandReady s i = true → ∃ t, exec i s = .next t ∧ answers s t st result ∧ onlyFw s t ∧ p t

/-- A command refused: nothing but the answer changes. -/
def refuses (i : Instr) (s : State) (st : Nat) : Prop :=
  replies i s st [] (fun t => t.fw.asids = s.fw.asids ∧ t.fw.keys = s.fw.keys ∧ t.fw.exports = s.fw.exports
    ∧ t.fw.traces = s.fw.traces ∧ t.fw.cap = s.fw.cap ∧ t.fw.feat0 = s.fw.feat0 ∧ t.fw.feat2 = s.fw.feat2
    ∧ t.fw.fwrev = s.fw.fwrev ∧ t.fw.pkg = s.fw.pkg ∧ t.queues = s.queues ∧ t.pools = s.pools ∧ t.blocks = s.blocks)

/-- The commands that one execution answers. -/
def isCommand (i : Instr) : Prop :=
  i ∈ [Instr.query, .powerstat, .powercap, .resetFull, .asidset, .asidclr, .inval, .partition, .keyload,
       .keyclr, .queuecfg, .kill, .poolres, .poolrel, .domain, .exportEntry, .trace, .dbgattach, .dbghalt, .dbgresume,
       .dbgdetach, .attest, .patch]

end Sys2Proof.Claims

/-- R439 to R441, R451 and R452: no command is taken before READY, without its sequence value, under another code, or while an
earlier one runs; a code that firmware does not list, or a reserved byte set, ends with status 1; QUERY, POWERSTAT and POWERCAP
answer what the manual lists (in the model's layout: log 22), a cap outside 600 W to 1,800 W with status 1 (R452); INVAL drops
every cached translation of the range and no other. -/
def Sys2Proof.Claims.firmwareCommands : Prop :=
  (∀ (s : State) (i : Instr), isCommand i → commandReady s i = false → exec i s = .next s)
  ∧ (∀ s : State, let n := s.input.watts; let two (a b : Nat) : BitVec 64 := BitVec.ofNat 64 (a + b * 2 ^ 32)
    let listed := (commandCode.map (·.2)).contains (codeGiven s)
    ((commandOffered s = false ∨ listed = true) → exec .invalidCommand s = .next s)
    ∧ (commandOffered s = true → listed = false → ∃ t, exec .invalidCommand s = .next t ∧ answers s t 1 [] ∧ onlyFw s t
        ∧ t.fw.cap = s.fw.cap)
    ∧ replies .query s 0 ([two s.fw.fwrev.toNat s.fw.romrev.toNat, BitVec.ofNat 64 s.fw.form.toNat, s.fw.diemap, s.fw.feat0,
          s.fw.feat1, s.fw.feat2, s.fw.feat3, BitVec.ofNat 64 s.fw.downMask, (s.die 0).corrected, (s.die 1).corrected,
          (s.die 2).corrected, (s.die 3).corrected, two s.fw.pkg.toNat s.usedClusters]
          ++ s.lost.map (fun x => two x.1.toNat x.2.toNat) ++ s.fw.publicKeys) (fun t => t.fw.cap = s.fw.cap)
    ∧ (∃ a b c, replies .powerstat s 0 [s.pstate.setWidth 64, BitVec.ofNat 64 s.fw.cap, a, b, c, BitVec.ofNat 64 s.fw.clock]
        (fun t => t.fw.cap = s.fw.cap))
    ∧ (600 ≤ n → n ≤ 1800 → replies .powercap s 0 [] (fun t => t.fw.cap = n))
    ∧ ((n < 600 ∨ 1800 < n) → refuses .powercap s 1)
    ∧ (commandReady s .inval = true → ∃ t, exec .inval s = .next t ∧ answers s t 0 [] ∧ t.w = s.w ∧ t.mem = s.mem
        ∧ ∀ d e, e ∈ (t.die d).tlb ↔
        e ∈ (s.die d).tlb ∧ ¬(e.asid = s.input.asid ∧ e.base < s.input.va.toNat + s.input.len.toNat
          ∧ s.input.va.toNat < e.base + e.size)))

/-- R287, R301, R441 and R442: ASIDSET registers a 64 KiB-aligned table of local memory with every cluster allowed; PARTITION
narrows the clusters; ASIDCLR unregisters; KEYLOAD and KEYCLR load and clear slots 1 to 63.  A live launch or leaf in the way is
answered 2; a bad argument 1 and what is not there 5 are statuses that R441 does not list here (log 64). -/
def Sys2Proof.Claims.addressSpaceCommands : Prop :=
  ∀ (s : State), let n := s.input.asid.toNat; let a := s.input.addr; let k := s.input.slot
    let bad := s.input.asid = 0 ∨ a.toNat % 65536 ≠ 0 ∨ 0x8000000000 ≤ a.toNat
    (bad → refuses .asidset s 1)
    ∧ (¬bad → s.liveAsid s.input.asid = true → refuses .asidset s 2)
    ∧ (¬bad → s.liveAsid s.input.asid = false → replies .asidset s 0 [] (fun t =>
        Table.find t.fw.asids n = some { top := a, clusters := 0x3FFFFF }
          ∧ ∀ m, m ≠ n → Table.find t.fw.asids m = Table.find s.fw.asids m))
    ∧ (Table.find s.fw.asids n = none → refuses .asidclr s 5 ∧ (s.input.mask.toNat < 2 ^ 22 → refuses .partition s 5))
    ∧ (∀ x, Table.find s.fw.asids n = some x →
        (s.liveAsid s.input.asid = true → refuses .asidclr s 2)
        ∧ (s.liveAsid s.input.asid = false → replies .asidclr s 0 [] (fun t => Table.find t.fw.asids n = none
          ∧ ∀ m, m ≠ n → Table.find t.fw.asids m = Table.find s.fw.asids m))
        ∧ (s.input.mask.toNat < 2 ^ 22 → replies .partition s 0 [] (fun t =>
            Table.find t.fw.asids n = some { top := x.top, clusters := s.input.mask.setWidth 22 })))
    ∧ (2 ^ 22 ≤ s.input.mask.toNat → refuses .partition s 1)
    ∧ ((k < 1 ∨ 63 < k) → refuses .keyload s 1 ∧ refuses .keyclr s 1)
    ∧ (1 ≤ k → k ≤ 63 → s.keyInUse k = true →
        refuses .keyload s 2 ∧ (Table.find s.fw.keys k ≠ none → refuses .keyclr s 2))
    ∧ (1 ≤ k → k ≤ 63 → s.keyInUse k = false →
        replies .keyload s 0 [] (fun t => Table.find t.fw.keys k = some (s.input.xts ++ s.input.tagKey)
          ∧ ∀ m, m ≠ k → Table.find t.fw.keys m = Table.find s.fw.keys m)
        ∧ (Table.find s.fw.keys k ≠ none → replies .keyclr s 0 [] (fun t => Table.find t.fw.keys k = none)))
    ∧ (1 ≤ k → k ≤ 63 → Table.find s.fw.keys k = none → refuses .keyclr s 5)

namespace Sys2Proof.Claims

/-- PGMOVE's page and frame: a 128 KiB page mapped by `e` to local memory, a frame of the same home, aligned and disjoint, the
leaf's place in neither, and no block of memory registered by a core; memory in its canonical form. -/
def movable (s : State) (e : TlbEntry) (new : Nat) : Bool :=
  let old := pteAddr e.leaf; let p := leafPlace s s.input.asid e.base
  commandReady s .pgmove && s.directory.isEmpty && Memory.wf s && e.size == 131072 && isLocal old && isLocal new && new % 131072 == 0
    && bits new 38 37 == homeDie e.base && (decide (old + 131072 ≤ new) || decide (new + 131072 ≤ old))
    && (decide (p + 8 ≤ new) || decide (new + 131072 ≤ p)) && (decide (p + 8 ≤ old) || decide (old + 131072 ≤ p))
    && decide (p % 8 = 0)

end Sys2Proof.Claims

/-- R296, R440 and R441: PGMOVE copies the page's bytes to the new frame, rewrites the leaf's ADDR, drops the page's cached translations, and
changes no other byte; a frame of another home, an address that is not aligned or a 1 GiB page is answered 1, a page that is
not mapped 5 (statuses that R441 does not list: log 64).  Left after its first two steps, the page's writes are held by a move
lock: that one command may be two executions is the model's (log 23). -/
def Obligations.PageMoves : Prop :=
  ∀ (s : State) (e : TlbEntry), let new := s.input.addr.toNat; let old := pteAddr e.leaf; let va := s.input.va.toNat
    (commandReady s .pgmove = true → (∃ f, walk s s.input.asid va = .error f) → refuses .pgmove s 5)
    ∧ (commandReady s .pgmove = true → walk s s.input.asid va = .ok e →
        (e.size = 2 ^ 30 ∨ new % e.size ≠ 0 ∨ 0x8000000000 ≤ new ∨ bits new 38 37 ≠ homeDie e.base) → refuses .pgmove s 1)
    ∧ (walk s s.input.asid va = .ok e → movable s e new = true →
        (s.input.write = true → ∃ t, exec .pgmove s = .next t ∧ (t.die (homeDie e.base)).locks = [(old, 131072)]
          ∧ t.mem = s.mem ∧ t.w = s.w ∧ t.fw = s.fw)
        ∧ (s.input.write = false → ∃ t, exec .pgmove s = .next t ∧ t.w = s.w
          ∧ (∀ j, j < 131072 → Sparse.get t.limbo (new + j) = 0
              ∧ (Sparse.get s.limbo (old + j) = 0 → t.cell (new + j) = s.cell (old + j)))
          ∧ pteAddr (t.cell64 (leafPlace s s.input.asid e.base)) = new
          ∧ (∀ y, (y < new ∨ new + 131072 ≤ y) → (y < leafPlace s s.input.asid e.base ∨ leafPlace s s.input.asid e.base + 8 ≤ y) →
              t.cell y = s.cell y)
          ∧ tlbFind (t.die (homeDie e.base)).tlb s.input.asid e.base = none ∧ (t.die (homeDie e.base)).locks = []
          ∧ ((s.badSector old 131072 (pteKey e.leaf)).isNone = true → answers s t 0 [])
          ∧ ((s.badSector old 131072 (pteKey e.leaf)).isSome = true → answers s t 7 [])))

namespace Sys2Proof.Claims

/-- What QUEUECFG refuses (R365). -/
def badRing (s : State) : Prop :=
  64 ≤ s.input.slot ∨ s.input.k < 4 ∨ 12 < s.input.k ∨ s.input.addr.toNat % 256 ≠ 0
    ∨ 2 ^ 37 < s.input.addr.toNat + 256 * 2 ^ s.input.k

end Sys2Proof.Claims

/-- R365, R367, R412, R414, R439 and R441: QUEUECFG sets a queue's ring with head 0 and expected value 1; KILL ends a live launch with
status 7; POOLRES supplies a pool's frames and POOLREL takes them back, not while a launch names the pool; DBGATTACH and
DBGDETACH set and clear the debugger of a launch; DBGHALT records kind 4 in a block's waves, with origin 0 (log 24); DBGRESUME clears
HALTED and lets them go on, the halt's origin from its trapping instruction.  A bad argument is answered 1 and what is not there
5, statuses that R441 does not list here (log 64). -/
def Obligations.LaunchCommands : Prop :=
  ∀ (s : State), let lid := s.input.lid; let a := s.input.asid; let d := s.input.va
    (badRing s → refuses .queuecfg s 1)
    ∧ (¬badRing s → s.launches.any (fun l => l.queue == some s.input.slot && l.phase == .parsed) = true → refuses .queuecfg s 2)
    ∧ (¬badRing s → s.launches.any (fun l => l.queue == some s.input.slot && l.phase == .parsed) = false →
        replies .queuecfg s 0 [] (fun t => Table.find t.queues s.input.slot
          = some { ring := s.input.addr.setWidth 48, k := s.input.k, head := 0, expect := 1 } ∧ t.parsed = s.parsed))
    ∧ (s.launch lid = none → ∀ i, i ∈ [Instr.kill, .dbgattach, .dbgdetach, .dbghalt, .dbgresume] → refuses i s 5)
    ∧ (∀ l, commandReady s .kill = true → s.launch lid = some l → l.ending = false → ∃ t, exec .kill s = .next t ∧ answers s t 0 []
        ∧ t.launch lid = some { l with ending := true, status := 7 } ∧ t.mem = s.mem
        ∧ (s.w.lid = lid → s.w.trapcause.getLsbD 41 = false → t.w.residency = .retired ∧ t.w.sreg = s.w.sreg)
        ∧ (s.w.lid ≠ lid → t.w = s.w))
    ∧ (Table.find s.fw.asids a.toNat = none → refuses .poolres s 5)
    ∧ (Table.find s.fw.asids a.toNat ≠ none → framesOk s s.input.frames = true → d.toNat < 2 ^ 56 →
        replies .poolres s 0 [] (fun t => ∃ p, t.pool a d = some p ∧ p.reserve = s.input.frames))
    ∧ (s.pool a d = none → refuses .poolrel s 5)
    ∧ (∀ p, s.pool a d = some p →
        (s.launches.any (fun l => l.phase != .completed && l.asid == a && l.poolDesc == d) = true → refuses .poolrel s 2)
        ∧ (s.launches.any (fun l => l.phase != .completed && l.asid == a && l.poolDesc == d) = false →
            replies .poolrel s 0 [] (fun t => t.pool a d = some { p with reserve := [], taken := [] })))
    ∧ (∀ l, commandReady s .dbgattach = true → s.launch lid = some l → ∃ t, exec .dbgattach s = .next t ∧ answers s t 0 []
        ∧ t.launch lid = some { l with debugger := true } ∧ t.w = s.w ∧ t.mem = s.mem)
    ∧ (∀ l, commandReady s .dbgdetach = true → s.launch lid = some l → l.debugger = true → s.blocks.any (fun b => b.lid == lid && b.halted) = false →
        ∃ t, exec .dbgdetach s = .next t ∧ answers s t 0 [] ∧ t.launch lid = some { l with debugger := false } ∧ t.w = s.w
          ∧ t.mem = s.mem)
    ∧ (∀ l b, s.launch lid = some l → l.debugger = true → s.block lid s.input.blk = some b → s.w.lid = lid →
        s.w.blk = b.blk → Table.find s.fw.traces s.w.asid.toNat = none → s.w.id ≠ 0 → s.others = [] →
        (∀ pa key, commandReady s .dbghalt = true → s.w.residency = .active → s.w.trapcause.getLsbD 41 = false → s.w.swapped = false → frameAt s pa key = true → ∃ t, exec .dbghalt s = .next t ∧ answers s t 0 []
          ∧ t.w.trapcause = BitVec.ofNat 64 (0x0E + 256 * (4 * 65536)) ||| 0x0000020000000000 ∧ t.w.trappc = s.w.spc
          ∧ t.w.residency = .parked ∧ t.w.parkc = .debugHalt ∧ t.w.swapped = true ∧ (∀ r, t.rs r = s.rs r)
          ∧ memOutside s t pa)
        ∧ (∀ w u, commandReady s .dbgresume = true → s.w.place = .origin → s.w.residency = .parked → s.w.parkc = .debugHalt → s.w.wait = none → b.halted = true →
          s.w.trapcause.getLsbD 41 = true → s.w.swapped = true → reload s s.w = .ok (w, u) →
          ∃ t, exec .dbgresume s = .next t ∧ answers s t 0 [] ∧ t.w.residency = .ready ∧ t.w.parkc = .none
            ∧ t.w.trapcause.getLsbD 41 = false ∧ t.w.haltlatch = false ∧ t.w.sreg = w.sreg
            ∧ t.w.spc = (if w.trapcause.extractLsb' 0 8 = 0x0E ∨ w.trapcause.getLsbD 40 = true then w.spc else w.trappc)
            ∧ t.w.v = w.v ∧ t.w.swapped = false))

/-- R392, R422, R439 to R441, R447 and R449: DOMAIN and EXPORT set the package's number and an entry of its export table, TRACE registers a
ring of 2^k records with k from 6 to 20, k 0 unregisters it; ATTEST writes a report that begins with the host's nonce and holds
both signatures; PATCH installs nothing while a launch lives or when the image, one of its two signatures or its version is
refused, and otherwise new FEAT0 and FEAT2 words.  EXPORT's status 1 for an entry with a reserved bit is R392's; the other
statuses 1 and 5 of DOMAIN, EXPORT, TRACE and ATTEST are ones that R441 does not list (log 64). -/
def Obligations.ServiceCommands : Prop :=
  ∀ (s : State), let n := s.input.index; let k := s.input.k; let v := s.input.va.toNat
    let a := s.input.addr.toNat
    (1024 ≤ n → refuses .domain s 1)
    ∧ (n < 1024 → s.live = true → refuses .domain s 2)
    ∧ (n < 1024 → s.live = false → replies .domain s 0 [] (fun t => t.fw.pkg.toNat = n ∧ t.fw.reference = s.input.reference
        ∧ t.fw.port = s.input.port ∧ t.fw.domain = true ∧ t.fw.skewDom = BitVec.allOnes 64))
    ∧ ((16 ≤ n ∨ s.input.entry &&& 0x00FFFF80FFFFFFFF ≠ 0) → refuses .exportEntry s 1)
    ∧ (n < 16 → s.input.entry &&& 0x00FFFF80FFFFFFFF = 0 → replies .exportEntry s 0 [] (fun t =>
        ∀ m, Sparse.get t.fw.exports m = if m = n then s.input.entry else Sparse.get s.fw.exports m))
    ∧ (Table.find s.fw.asids s.input.asid.toNat = none → refuses .trace s 5)
    ∧ (Table.find s.fw.asids s.input.asid.toNat ≠ none →
        (k = 0 → replies .trace s 0 [] (fun t => Table.find t.fw.traces s.input.asid.toNat = none))
        ∧ (k ≠ 0 → (k < 6 ∨ 20 < k ∨ v % 4096 ≠ 0 ∨ 2 ^ 56 ≤ v) → refuses .trace s 1)
        ∧ (6 ≤ k → k ≤ 20 → v % 4096 = 0 → v < 2 ^ 56 → replies .trace s 0 [] (fun t =>
            Table.find t.fw.traces s.input.asid.toNat = some (s.input.va, k))))
    ∧ ((a % 4096 ≠ 0 ∨ 0x8000000000 ≤ a) → refuses .attest s 1)
    ∧ (commandReady s .attest = true → a % 4096 = 0 → a < 0x8000000000 → s.directory = [] → ∃ t, exec .attest s = .next t ∧ answers s t 0 []
        ∧ (∀ j, j < 32 → t.cell (a + j) = s.input.nonce.extractLsb' (8 * j) 8)
        ∧ (∀ j, j < 16 → t.cell (a + 0x20 + j) = s.fw.serial.extractLsb' (8 * j) 8)
        ∧ (∀ j, 0xE2D ≤ j → j < 4096 → t.cell (a + j) = 0) ∧ (∀ y, y < a ∨ a + 4096 ≤ y → t.cell y = s.cell y)
        ∧ t.w = s.w)
    ∧ (s.live = true → refuses .patch s 2)
    ∧ (s.live = false → s.input.len.toNat ≤ 0x400000 + 0xD6D → patchImage s a s.input.len.toNat = none → refuses .patch s 1)
    ∧ (∀ b, let f (off w : Nat) : Nat := ofBytes ((b.drop off).take w)
        s.live = false → s.input.len.toNat ≤ 0x400000 + 0xD6D → patchImage s a s.input.len.toNat = some b →
        (patchOk b = false → refuses .patch s 1)
        ∧ (patchOk b = true →
            let st := if !patchSigned b then 3 else if f 4 4 < s.fw.svnMin.toNat then 4 else 0
            replies .patch s st [] (fun t =>
              (st ≠ 0 → t.fw.feat0 = s.fw.feat0 ∧ t.fw.feat2 = s.fw.feat2 ∧ t.fw.fwrev = s.fw.fwrev
                ∧ t.fw.patchHash = s.fw.patchHash)
              ∧ (st = 0 → bits t.fw.feat0.toNat 29 16 = f 0x10 8 ∧ t.fw.feat2.toNat = f 0x18 8
                ∧ bits t.fw.feat0.toNat 13 0 = bits s.fw.feat0.toNat 13 0 ∧ t.fw.patchHash = sha384 b))))

namespace Sys2Proof.Claims

/-- The launches end with status 7, and READY is clear (R444). -/
def stopped (t : State) : Prop :=
  t.fw.ready = false ∧ ∀ lid l, t.launch lid = some l → l.ending = true

end Sys2Proof.Claims

/-- R28, R438, R443 to R445: each step of bring-up is recorded in STEP; the third zeroes local memory, the fifth leaves the
copies of the time counter within SKEWPKG of one another, the last sets READY; a failure stops it with FAIL, its STEP and the
failing die.  A warm reset waits for the launches it ends and then clears queues, address spaces, keys, pools and trace rings; a
full reset is answered, discards the patches (FEAT0 and FEAT2 read zero then: log 13) and makes bring-up due; the supplies'
removal leaves nothing (memory reads zero after it: log 6).  Memory of the host and of other packages stays. -/
def Obligations.BringUpAndResets : Prop :=
  ∀ (s : State), let n := if s.fw.step.toNat < 6 then s.fw.step.toNat + 1 else 1
    let stepOfCode (c : BitVec 4) : Nat := [0, 1, 2, 2, 3, 4, 5].getD c.toNat 0
    ((s.fw.due = false ∨ s.live = true) → exec .bringUp s = .next s)
    ∧ (s.fw.due = true → s.live = false → s.input.fail = none → ∃ t, exec .bringUp s = .next t ∧ t.fw.step.toNat = n
        ∧ t.fw.diemap = s.fw.diemap ∧ (∀ y, 0x8000000000 ≤ y → Sparse.get t.mem y = Sparse.get s.mem y)
        ∧ (n = 1 → t.fw.ready = false ∧ t.fw.fail = false ∧ t.fw.asids = [] ∧ t.fw.keys = [] ∧ t.queues = [] ∧ t.pools = []
            ∧ t.launches = [] ∧ t.w.id = 0 ∧ t.mem = s.mem)
        ∧ (n = 3 → ∀ y, y < 0x8000000000 → Sparse.get t.mem y = 0)
        ∧ (n = 5 → t.fw.skewPkg.toNat ≤ 2 ∧ ∀ b, b < 4 → ((t.die b).ptc - (s.die 0).ptc).toNat ≤ t.fw.skewPkg.toNat)
        ∧ (n = 6 → t.fw.ready = true ∧ t.fw.due = false ∧ t.fw.cmdHead = 0 ∧ t.fw.cmdExpect = 1 ∧ t.mem = s.mem)
        ∧ (n ≠ 6 → t.fw.due = true))
    ∧ (∀ x, s.fw.due = true → s.live = false → s.input.fail = some x →
        (stepOfCode x.step ≠ n → exec .bringUp s = .next s)
        ∧ (stepOfCode x.step = n → ∃ t, exec .bringUp s = .next t ∧ (s.fw.ready = false → t.fw.ready = false)
          ∧ t.fw.fail = true ∧ t.fw.failcode = x.step ∧ t.fw.step.toNat = n ∧ t.fw.due = false
          ∧ (x.step = 5 → t.fw.faildie = x.die ∧ t.fw.failb = 0xF) ∧ (x.step ≠ 5 → t.fw.faildie = 0xF ∧ t.fw.failb = x.die)))
    ∧ (let may := if s.fw.warm then s.fw.ready && s.fw.barUp else commandReady s .resetWarm
       let tag := if s.fw.warm then s.fw.warmTag else (theCommand s).body.extractLsb' 32 32
      (may = false → exec .resetWarm s = .next s)
      ∧ (may = true → s.live = true → ∃ t, exec .resetWarm s = .next t ∧ t.fw.warm = true ∧ t.fw.warmTag = tag
        ∧ t.fw.responses = s.fw.responses ∧ t.mem = s.mem ∧ ∀ lid l, t.launch lid = some l → l.ending = true)
      ∧ (may = true → s.live = false → ∃ t, exec .resetWarm s = .next t ∧ answersAs s t tag 0 []
        ∧ t.fw.warm = false ∧ t.queues = [] ∧ t.parsed = [] ∧ t.pools = [] ∧ t.fw.asids = [] ∧ t.fw.keys = [] ∧ t.fw.traces = []
        ∧ (∀ g, (t.core g).retained = []) ∧ t.mem = s.mem ∧ t.dies = s.dies ∧ t.fw.feat0 = s.fw.feat0))
    ∧ (commandReady s .resetFull = true → ∃ t, exec .resetFull s = .next t ∧ answers s t 0 [] ∧ stopped t ∧ t.fw.due = true
        ∧ t.fw.feat0 = 0 ∧ t.fw.feat2 = 0 ∧ t.fw.fwrev = s.fw.romrev ∧ t.mem = s.mem)
    ∧ (∃ t, exec .supplyRemoval s = .next t ∧ t.fw.ready = false ∧ t.fw.barUp = false ∧ t.fw.step = 0 ∧ t.launches = []
        ∧ t.cores = [] ∧ (∀ y, y < 0x8000000000 → t.cell y = 0))
    ∧ (s.fw.supplied = true → exec .hostLinkTraining s = .next { s with fw := { s.fw with barUp := true } })
    ∧ (s.input.die < 4 → ∃ t, exec .baseDieHbmLoss s = .next t ∧ stopped t ∧ (t.die s.input.die).hbmLost = true
        ∧ t.mem = s.mem)

namespace Sys2Proof.Claims

/-- The oldest record of a control processor, of one that keeps no further records, and the queue after it. -/
def oldestRecord (s : State) (r : FaultRecord) (rest : List FaultRecord) : Prop :=
  (s.ccp s.input.ccp).faults = r :: rest ∧ (s.ccp s.input.ccp).held = []

/-- A parked wave that firmware lets go on: with the state `w`, ready, to be activated afresh (R72, R73). -/
def resumes (w : Wave) (t : State) : Prop :=
  t.w.residency = .ready ∧ t.w.parkc = .none ∧ t.w.fresh = true ∧ t.w.v = w.v ∧ t.w.x = w.x ∧ t.w.id = w.id
    ∧ t.w.swapped = false

/-- The wave in focus is parked for a cause with no halt and no wait of its own; its state is `w`, read afresh where its frame
holds it, and the machine after that is `u` (R72). -/
def parkedFor (s : State) (c : ParkCause) (w : Wave) (u : State) : Prop :=
  s.w.residency = .parked ∧ s.w.parkc = c ∧ s.w.wait = none ∧ s.w.place = .origin ∧ s.w.halted = false ∧ w.halted = false
    ∧ s.w.id ≠ 0 ∧ w.inhandler = false ∧ ((s.w.swapped = false ∧ w = s.w ∧ u = s) ∨ (s.w.swapped = true ∧ reload s s.w = .ok (w, u)))

/-- What the services return (R454). -/
def serviceTable (u : State) (service : Nat) (w : Wave) (x : Word64) : Prop :=
  (service = 0 → x = u.fw.fwrev.setWidth 64)
  ∧ (service = 1 → x.extractLsb' 0 4 = u.pstate ∧ x.extractLsb' 4 12 = 0 ∧ x.extractLsb' 16 16 = BitVec.ofNat 16 u.fw.cap
      ∧ x.extractLsb' 32 32 = BitVec.ofNat 32 (if u.fw.hot then 550 else (4400 - 275 * min u.fw.slow 8) / 4))
  ∧ (service = 2 → x = (u.die (u.dieOf w.core.toNat)).corrected)
  ∧ (2 < service → x = BitVec.allOnes 64)

end Sys2Proof.Claims

/-- R49, R74, R83, R294, R295, R454 and R459: a served page fault leaves its queue and its wave is ready, its state read from its
frame; until its page is mapped the record stays the oldest; a fatal one, as every walk error is, leaves it a MEMFAULT at the
faulting instruction.  An emulation record without a routine delivers ILLOP; a firmware call's service writes the result of the
manual's table and the wave goes on after it. -/
def Obligations.FaultService : Prop :=
  ∀ (s : State), let c := s.input.ccp
    ((s.ccp c).faults = [] → exec .faultRecordService s = .next s ∧ exec .emuHandler s = .next s)
    ∧ ((s.ccp c).calls = [] → exec .fwcallService s = .next s)
    ∧ (∀ r rest f, oldestRecord s r rest → r.code ≠ 0x03 → r.code ≠ 0x07 → s.input.action = .map [] →
        walk s r.asid (s.recordVa r) = .error f → exec .faultRecordService s = .next s)
    ∧ (∀ r rest w u, oldestRecord s r rest → r.access ≠ 5 → r.who = .wave s.w.id → parkedFor s .page w u →
        (r.code = 0x02 → s.input.action = .map [] → (∃ p, walk s r.asid (s.recordVa r) = .ok p) →
          (s.die (homeDie (s.recordVa r))).tlb = [] → ∃ t, exec .faultRecordService s = .next t
          ∧ (t.ccp c).faults = rest ∧ resumes w t ∧ memSame s t ∧ t.w.heldTraps = s.w.heldTraps)
        ∧ ((r.code = 0x07 ∨ (r.code = 0x02 ∧ s.input.action = .fatal)) → ∃ t h, exec .faultRecordService s = .next t
          ∧ (t.ccp c).faults = rest ∧ resumes w t ∧ memSame s t ∧ t.w.heldTraps = h :: s.w.heldTraps ∧ h.code = 0x06 ∧ h.addr = r.vaddr ∧ h.pc = r.pc
          ∧ h.frag = r.frag ∧ h.stop = false))
    ∧ (∀ r rest b x w u, oldestRecord s r rest → r.code = 0x03 → r.who = .wave s.w.id → s.w.id ≠ 0 → r.frag = none →
        s.fw.feat0 = 0 → fetch { s.setCcp c ((s.ccp c).without 0) with lane := false } r.pc 4 = .ok (b, x) →
        parkedFor x .emu w u → ∃ t h, exec .emuHandler s = .next t ∧ (t.ccp c).faults = rest ∧ resumes w t
          ∧ t.w.heldTraps = h :: s.w.heldTraps ∧ h.code = 0x01 ∧ h.pc = r.pc ∧ h.frag = none ∧ h.stop = false)
    ∧ (∀ k rest w u, (s.ccp c).calls = k :: rest → k.wave = s.w.id → parkedFor s .fwcall w u →
        ∃ t, exec .fwcallService s = .next t
        ∧ (t.ccp c).calls = rest ∧ resumes w t ∧ t.w.spc = w.spc + 4 ∧ memSame s t
        ∧ (k.dest ≠ 0 → serviceTable u k.service.toNat w (t.rs k.dest))
        ∧ ∀ x, x ≠ k.dest → x ≠ 0 → t.rs x = Sparse.get w.sreg x.toNat)

/-- R388, R389, R395 to R397: a CRC error that a retrain clears changes nothing; a link that goes down stays down, and a base-die
link takes READY and the launches with it; an exchange sets what a copy has still to slew, the first after DOMAIN steps every
copy by the offset while no launch runs; SKEWPKG is published while the copies lie within it, and a bound whose exchanges have
failed for 1 ms reads all ones, SKEWDOM with the package's.  That exchanges run without READY, and that no bound is published
while the copies lie further apart, is log 67. -/
def Sys2Proof.Claims.linksAndTime : Prop :=
  ∀ (s : State), let off := exchangeOffset s.input; let n := s.input.index
    (s.input.retrained = true → exec .linkCrcError s = .next s)
    ∧ (∀ i, (i = Instr.linkDown ∨ (i = Instr.linkCrcError ∧ s.input.retrained = false)) → ∃ t, exec i s = .next t
        ∧ s.input.link ∈ t.fw.down ∧ (∀ l, l ∈ s.fw.down → l ∈ t.fw.down) ∧ t.mem = s.mem
        ∧ (∀ k, s.input.link = .base k → stopped t)
        ∧ (∀ p, s.input.link = .port p → t.fw.ready = s.fw.ready ∧ t.launches = s.launches ∧ t.w = s.w))
    ∧ (s.fw.step ≠ 6 → exec .timeAlignmentExchange s = .next s)
    ∧ (s.fw.step = 6 → n < 3 → s.fw.down = [] → ∃ t, exec .timeAlignmentExchange s = .next t
        ∧ (t.die (n + 1)).slew = off ∧ (t.die (n + 1)).ptc = (s.die (n + 1)).ptc ∧ t.w = s.w
        ∧ ((∀ a b, a < 4 → b < 4 → (s.die a).ptc.toNat ≤ (s.die b).ptc.toNat + 2) → t.fw.skewPkg.toNat ≤ 2
            ∧ ∀ a b, a < 4 → b < 4 → (s.die a).ptc.toNat ≤ (s.die b).ptc.toNat + t.fw.skewPkg.toNat)
        ∧ ((∃ a b, a < 4 ∧ b < 4 ∧ (s.die b).ptc.toNat + 2 < (s.die a).ptc.toNat) → t.fw.skewPkg = s.fw.skewPkg))
    ∧ (s.fw.domain = false → 3 ≤ n → exec .timeAlignmentExchange s = .next s)
    ∧ (s.fw.joining = true → s.fw.reference = false → 3 ≤ n → s.launches.any (fun l => l.phase == .admitted) = true →
        exec .timeAlignmentExchange s = .next s)
    ∧ (s.fw.step = 6 → 3 ≤ n → s.fw.down = [] → s.fw.domain = true → s.fw.reference = false → s.fw.joining = true →
        s.launches.any (fun l => l.phase == .admitted) = false →
        ∃ t, exec .timeAlignmentExchange s = .next t ∧ (∀ b, b < 4 → (t.die b).ptc = (s.die b).ptc - BitVec.ofInt 64 off
          ∧ (t.die b).rdc = [] ∧ (t.die b).remote = []) ∧ t.fw.joining = false ∧ t.w = s.w)
    ∧ (s.fw.step = 6 → 3 ≤ n → s.fw.down = [] → s.fw.domain = true → (s.fw.reference = true ∨ s.fw.joining = false) →
        ∃ t, exec .timeAlignmentExchange s = .next t ∧ (s.fw.reference = false → (t.die 0).slew = off)
          ∧ t.fw.skewDom.toNat ≤ 50 ∧ t.w = s.w)
    ∧ (s.fw.downAt = [] → s.input.reference = false → exec .skewBoundLoss s = .next s)
    ∧ (∃ t, exec .skewBoundLoss s = .next t ∧ t.w = s.w ∧ t.mem = s.mem
        ∧ (∀ k x, k < 3 → (alignLink k, x) ∈ s.fw.downAt → x + 1000000 < s.now →
            t.fw.skewPkg = BitVec.allOnes 64 ∧ t.fw.skewDom = BitVec.allOnes 64)
        ∧ (∀ x, (LinkId.port s.fw.port, x) ∈ s.fw.downAt → x + 1000000 < s.now → t.fw.skewDom = BitVec.allOnes 64)
        ∧ ((∀ p, p ∈ s.fw.downAt → s.now ≤ p.2 + 1000000) → t.fw.skewPkg = s.fw.skewPkg))

/-- R31, R450 to R453 and R455: a load above the cap lowers the clock by one step of 68.75 MHz, down to eight, and one at or below
it raises it by one (the manual names no way up: log 105); 1 ms after a cap is set no average exceeds it (log 15); a peak limits
the core rails until their average is within its share; above 100 °C the clock is 550 MHz until the hottest die is below it, and
above 110 °C the device trips: READY clears, live launches end, FAILCODE reads 7 and FAILB names the base die.  PSTATE reads
THERMAL before IDLE, IDLE before CAPPED, CAPPED before ACTIVE, an order of the model's (log 66). -/
def Sys2Proof.Claims.powerAndTemperature : Prop :=
  ∀ (s : State), let n := s.input.watts; let a := s.input.amps; let temp := s.input.temp
    let load := [s.input.t1, s.input.t2, s.input.t3]
    let sum := s.input.t1.toNat + s.input.t2.toNat + s.input.t3.toNat; let cap := min s.fw.cap (s.fw.boardCap.getD s.fw.cap)
    (∃ t, exec .powerCapThrottle s = .next t ∧ t.w = s.w ∧ t.mem = s.mem
        ∧ (cap < sum → t.fw.slow = min 8 (s.fw.slow + 1)) ∧ (sum ≤ cap → t.fw.slow = s.fw.slow - 1 ∧ t.fw.average = load)
        ∧ (s.now ≤ s.fw.capAt + 1000000 → t.fw.average = load)
        ∧ (s.fw.capAt + 1000000 < s.now → (t.fw.average.map (·.toNat)).sum ≤ cap))
    ∧ ((3600 ≤ a ∨ (s.input.longPeak = true ∧ 3222 < a)) →
        exec .coreRailPeakLimit s = .next { s with fw := { s.fw with railLimit := true } })
    ∧ (a < 3600 → s.input.longPeak = false → s.fw.railLimit = false → exec .coreRailPeakLimit s = .next s)
    ∧ (100 < temp → exec .thermalThrottle s = .next { s with fw := { s.fw with hot := true } }
        ∧ exec .thermalExit s = .next s)
    ∧ (temp < 100 → exec .thermalExit s = .next { s with fw := { s.fw with hot := false } }
        ∧ exec .thermalThrottle s = .next s)
    ∧ (110 < temp → ∃ t, exec .thermalTrip s = .next t ∧ stopped t ∧ t.fw.failcode = 7 ∧ t.fw.hot = true ∧ t.mem = s.mem
        ∧ (s.input.die < 4 → t.fw.failb.toNat = s.input.die) ∧ (4 ≤ s.input.die → t.fw.failb = 0xF))
    ∧ (temp ≤ 110 → exec .thermalTrip s = .next s)
    ∧ (s.fw.form = true → exec .boardPowerLimit s = .next { s with fw := { s.fw with boardCap := some n, capAt := s.now } })
    ∧ (s.fw.form = false → exec .boardPowerLimit s = .next s)
    ∧ (s.fw.hot = true → s.fw.clock = 550 ∧ s.pstate = 3)
    ∧ (s.fw.hot = false → s.fw.step = 6 → s.live = false → s.pstate = 2)
    ∧ (s.fw.hot = false → s.live = true → s.pstate = (if s.fw.slow = 0 then 0 else 1))

namespace Sys2Proof.Claims

/-- Bytes at a place of local HBM with no owner, under no lock, whose sectors pass their check. -/
def plainPlace (s : State) (pa n k : Nat) : Bool :=
  decide (0 < n) && decide (pa % 512 + n ≤ 512) && decide (pa + n ≤ 0x8000000000) && (s.badSector pa n k).isNone
    && (Table.find s.directory (pa / 512)).isNone && (s.die (bits pa 38 37)).locks.isEmpty

/-- What an access from outside does at a place: a read answers its bytes, a write stores them, an atomic answers what it finds and
leaves its result. -/
def outsideDone (i : Instr) (s : State) (pa : Nat) : Prop :=
  (∀ n, s.input.access = .read n → ∃ t, exec i s = .next t ∧ t.replyError = false
      ∧ t.reply = (List.range n).map (fun j => (s.cell (pa + j), false)) ∧ memSame s t ∧ t.w = s.w)
  ∧ (∀ b, s.input.access = .write b → ∃ t, exec i s = .next t ∧ t.replyError = false ∧ t.reply = []
      ∧ (∀ j, j < b.length → t.cell (pa + j) = b.getD j 0) ∧ (∀ y, y < pa ∨ pa + b.length ≤ y → t.cell y = s.cell y)
      ∧ ∀ r, t.rs r = s.rs r)
  ∧ (∀ m ty n data cmp, s.input.access = .atomic m ty n data cmp → n ≤ 8 → let old := memNumber s pa n
      ∃ t, exec i s = .next t ∧ t.replyError = false ∧ t.reply = (toBytes n old).map (fun b => (b, false))
        ∧ memNumber t pa n = (match atomicOp m.toNat ty.toNat n old data.toNat cmp.toNat with
          | some x => x % 2 ^ (8 * n)
          | none => old)
        ∧ (∀ y, y < pa ∨ pa + n ≤ y → t.cell y = s.cell y) ∧ ∀ r, t.rs r = s.rs r)

/-- A byte of a slot of the command ring (R439). -/
def slotByteOf (f : Fw) (k o : Nat) : Byte :=
  let c := Table.getD f.slots k CommandSlot.empty
  if o = 0xFF then c.seq else c.body.extractLsb' (8 * o) 8

/-- What the host reads in the BAR (R438, R439): FWSTAT, a slot's own bytes, STATUS, TAG and DONE of an answered one, or zeros. -/
def barReads (s : State) (a : Nat) (l : List (Byte × Bool)) : Prop :=
  ∀ i, i < l.length → let o := a + i; let k := (o - 0x1000) / 256; let j := o % 256; let x := l.getD i (0, true)
    x.2 = false ∧ (o < 8 → x.1 = s.fwstat.extractLsb' (8 * o) 8) ∧ (8 ≤ o → o < 0x1000 → x.1 = 0) ∧ (0x2000 ≤ o → x.1 = 0)
      ∧ (0x1000 ≤ o → o < 0x2000 → ((j < 0x80 ∨ j = 0xFF) → x.1 = slotByteOf s.fw k j)
        ∧ (∀ r, Table.find s.fw.responses k = some r →
          (0x80 ≤ j → j < 0x84 → x.1 = r.status.extractLsb' (8 * (j - 0x80)) 8)
          ∧ (0x84 ≤ j → j < 0x88 → x.1 = r.tag.extractLsb' (8 * (j - 0x84)) 8) ∧ (j = 0xFE → x.1 = r.done)))

/-- A byte that the host has written in the BAR: one of its own fields of a slot, while READY is 1, or nothing (R438, R439). -/
def barWritten (s t : State) (a : Nat) (b : Byte) : Prop :=
  let k := (a - 0x1000) / 256; let o := a % 256
  let own := s.fw.ready = true ∧ 0x1000 ≤ a ∧ a < 0x2000 ∧ (o < 0x80 ∨ o = 0xFF)
  (¬ own → t.fw = s.fw) ∧ (own → t.fw.responses = s.fw.responses ∧ t.fw.cmdHead = s.fw.cmdHead
    ∧ ∀ m j, (j < 0x80 ∨ j = 0xFF) → slotByteOf t.fw m j = if m = k ∧ j = o then b else slotByteOf s.fw m j)

end Sys2Proof.Claims

/-- R303, R328, R390, R392, R438 and R439: the host's access at a device address, and another package's through an export entry,
reads, writes or updates memory at its home; an address outside local memory, a lost path, an entry that is not valid or a write to a
read-only segment is answered with an error, and memory is unchanged.  In the BAR the host reads FWSTAT, the command ring's slots and zeros, and
writes its own fields of a slot while READY is 1 (that an atomic there is answered with an error is log 94). -/
def Obligations.OutsideAccesses : Prop :=
  ∀ (s : State), let a := s.input.addr.toNat; let k := s.input.slot; let n := accessLen s.input.access
    s.fw.supplied = true →
      (s.input.bar = true →
        (s.fw.barUp = false → exec .hostMemoryAccess s = .next { s with reply := [], replyError := true })
        ∧ (s.fw.barUp = true → (∀ m, s.input.access = .read m → ∃ l, exec .hostMemoryAccess s
              = .next { s with reply := l, replyError := false } ∧ l.length = m ∧ barReads s a l)
          ∧ (∀ b, s.input.access = .write [b] → ∃ t, exec .hostMemoryAccess s = .next t ∧ t.replyError = false ∧ t.reply = []
            ∧ t.mem = s.mem ∧ t.w = s.w ∧ barWritten s t a b)))
      ∧ (s.input.bar = false →
      ((2 ^ 39 < a + n ∨ s.reaches 0 (bits a 38 37) = false ∨ s.keyLoaded k = false) →
        exec .hostMemoryAccess s = .next { s with reply := [], replyError := true })
      ∧ (plainPlace s a n k = true → s.reaches 0 (bits a 38 37) = true → s.keyLoaded k = true → outsideDone .hostMemoryAccess s a))
      ∧ (isPackage a = true → s.remote (s.input.port.toNat / 4) a = .error → s.fw.down.contains (.port s.input.port) = false →
          exec .remoteAccessTarget s = .next { s with reply := [], replyError := true })
      ∧ (∀ pa key w, isPackage a = true → s.remote (s.input.port.toNat / 4) a = .here pa key w → s.fw.down.contains (.port s.input.port) = false →
          (plainPlace s pa n key = true → s.reaches (s.input.port.toNat / 4) (bits pa 38 37) = true → w = true →
            outsideDone .remoteAccessTarget s pa)
          ∧ (w = false → (∀ b, s.input.access ≠ .read b) →
            exec .remoteAccessTarget s = .next { s with reply := [], replyError := true }))

/-! ### Encodings, steps, the whole machine -/

/-- The manual's worked words decode to the instructions they stand for, one or two of every family; a word with a field that
must be zero set, or of a permanently illegal opcode, is illegal. -/
def Obligations.DecodeWords : Prop :=
  decodeScalar 0x0C50BFFD 0 = .addi 5 2 (BitVec.ofInt 14 (-3)) ∧ decodeScalar 0x08310500 0 = .add 3 4 5
    ∧ decodeScalar 0x08209809 0 = .shli 2 2 24
    ∧ decodeScalar 0x0448D159 0x0C70389A = .longImmediatePrefix 0x048D159 0x0C70389A
    ∧ decodeScalar 0x38310008 0 = .sldW 3 4 8 ∧ decodeScalar 0x5051BFF8 0 = .sstD 5 6 (BitVec.ofInt 14 (-8))
    ∧ decodeScalar 0x54400010 0 = .call 16 ∧ decodeScalar 0x58313FFE 0 = .beq 3 4 (BitVec.ofInt 14 (-2))
    ∧ decodeScalar 0x700FC002 0 = .ret 63 ∧ decodeScalar 0x74810000 0 = .lrun 8 4 0 ∧ decodeScalar 0x78310501 0 = .fmt 3 4 5
    ∧ decodeScalar 0x7C510600 0 = .chset 5 4 6 ∧ decodeScalar 0x80518703 0 = .cpyc 5 6 7
    ∧ decodeScalar 0x84001300 0 = .phase 2 3 ∧ decodeScalar 0x84518703 0 = .barw 5 6 7
    ∧ decodeScalar 0x88518000 0 = .ctxgrow 5 6 ∧ decodeScalar 0x8C518702 0 = .itempush 5 6 7
    ∧ decodeScalar 0x90014701 0 = .trap 5 7 ∧ decodeScalar 0x90503006 0 = .srdsr 5 0 0x30
    ∧ decodeScalar 0xF8000005 0 = .tramps 5
    ∧ decodeLane 0x18C2801102804E0000000000 = .vfma { LaneArgs.zero with
        vd := 10, sa := .reg 4, sb := .slot 2, sc := .latch 1, mask := 3, ty := 8 }
    ∧ decodeLane 0x10C500100805008100000000 = .vpmad2 { LaneArgs.zero with
        vd := 20, sa := .reg 4, sb := .reg 8, sc := .reg 20, ty := 2, mods := 1 }
    ∧ decodeLane 0x28CA00200000020100000912 = .vqnt { LaneArgs.zero with vd := 40, sa := .reg 8, ty := 8, mods := 1, imm := 0x912 }
    ∧ decodeLane 0x3003002BC102C08100000000 = .vslide { LaneArgs.zero with
        vd := 12, sa := .reg 10, sb := .small 1, sc := .reg 11, ty := 2, mods := 1 }
    ∧ decodeLane 0x340100140600080000000000 = .mand { LaneArgs.zero with vd := 4, sa := .reg 5, sb := .reg 6, mask := 2 }
    ∧ decodeLane 0x4081C0170100000800000000 = .vgth { LaneArgs.zero with vd := 7, sa := .reg 5, sb := .konst 1, mods := 8 }
    ∧ decodeLane 0x42C1C0170101804403000000 = .vatomr { LaneArgs.zero with
        vd := 7, sa := .reg 5, sb := .konst 1, sc := .reg 6, ty := 1, mods := 4, imm := 0x03000000 }
    ∧ decodeLane 0x500110830100000000000007 = .mma { LaneArgs.zero with
        vd := 4, h := true, sa := .reg 32, sb := .konst 1, imm := 7 }
    ∧ decodeLane 0x600000000000040000040003 = .vbr { LaneArgs.zero with mask := 1, imm := 0x00040003 }
    ∧ decodeLane 0x7040C0000000000000000000 = .vlid { LaneArgs.zero with vd := 3 }
    ∧ decodeLane 0xFC80000000003C0000000000 = .vtool 0 { LaneArgs.zero with mask := 15 }
    ∧ decodeScalar 0x84518101 0 = .illegalInstruction (.scalar 0x84518101)
    ∧ decodeLane 0 = .illegalInstruction (.lane 0)
    ∧ decodeScalar 0xC0000000 0 = .extensionInstruction (.scalar 0xC0000000)

/-- A step of the agenda's stream runs the instruction that its bytes decode to: a scalar word, a long-immediate pair or a
lane word; and around it come the latest use of the fragment's split entry, the undo log where debug mode keeps it, the
selector's record, single step and time. -/
def Obligations.StepRunsDecoded : Prop :=
  ∀ (s v : State) (w : Nat) (lane : Bool) (f : Nat) (d : Bool) (rest : List Pick),
    s.agenda = .issue w lane f d :: rest → State.focus { s with agenda := rest } w = some v →
    let u : State := { v with lane := lane, frag := f, defer := d, stalled := false }
    let r := u.refers
    boundary u = .go →
      (∀ i x, fetchInstr r = .ok (i, x) → step s = runInstr i x
        ∧ ∀ t, exec i x = .next t → logs x t = false → step s = .next (afterIssue x t))
      ∧ (∀ b x, lane = false → fetch r r.w.spc 4 = .ok (b, x) → ofBytes b / 2 ^ 26 ≠ 1 →
          fetchInstr r = .ok (decodeScalar (BitVec.ofNat 32 (ofBytes b)) 0, x))
      ∧ (∀ b x c y, lane = false → fetch r r.w.spc 4 = .ok (b, x) → ofBytes b / 2 ^ 26 = 1 →
          fetch x (x.w.spc + 4) 4 = .ok (c, y) →
          fetchInstr r = .ok (decodeScalar (BitVec.ofNat 32 (ofBytes b)) (BitVec.ofNat 32 (ofBytes c)), y))
      ∧ (∀ b x, lane = true → fetch r (r.w.laneAddr r.entry.lpc) 12 = .ok (b, x) →
          fetchInstr r = .ok (decodeLane (BitVec.ofNat 96 (ofBytes b)), x))

/-- Every well-formed instruction that has an encoding is what its encoding decodes to, with every operand at every value;
and every word that decodes to a well-formed instruction is that instruction's encoding: no two words have one meaning. -/
def Obligations.EncodeDecode : Prop :=
  (∀ (i : Instr) (c : Code), i.wf = true → encode i = some c → decodeCode c = i)
  ∧ (∀ w : BitVec 96, (decodeLane w).wf = true → encode (decodeLane w) = some (.lane w))
  ∧ (∀ w next : BitVec 32, (decodeScalar w next).wf = true →
      encode (decodeScalar w next) = some (if fieldMajor w = 1 then .pair w next else .scalar w))

/-- A step keeps memory in its canonical form: addresses strictly rising, and no entry equal to what an unlisted address
reads as; so equal memories are equal data. -/
def Obligations.MemoryCanonical : Prop := ∀ s t : State, Memory.wf s = true → step s = .next t → Memory.wf t = true

/-- From every state a step goes on: no instruction, event or command of the manual ends in a fault or a refusal. -/
def Obligations.EveryStepGoesOn : Prop := (∀ s : State, ∃ t, step s = .next t) ∧ ∀ (i : Instr) (s : State), ∃ t, exec i s = .next t

/-- What the manual gives for reset (R395, R397, R438 and R443): FWSTAT with READY, FAIL, STEP and FAILCODE 0 and both die
fields 0xF, no wave, launch or queue, the copies of the time counter at 0, and SKEWDOM all ones; memory is in its
canonical form and lists nothing (what an unlisted byte reads as is the model's choice, log entry 6). -/
def Obligations.ResetState : Prop :=
  let s := State.reset
  s.fwstat.extractLsb' 0 32 = 0xFF00 ∧ s.w.id = 0 ∧ s.w.residency = .retired ∧ s.others = [] ∧ s.launches = [] ∧ s.queues = []
    ∧ s.pools = [] ∧ s.requests = [] ∧ s.fw.asids = [] ∧ s.fw.keys = [] ∧ (∀ b, (s.die b).ptc = 0)
    ∧ s.fw.skewDom = BitVec.allOnes 64 ∧ s.fw.cmdHead = 0 ∧ s.fw.cmdExpect = 1 ∧ s.mem = [] ∧ (∀ y, s.cell y = 0)
    ∧ Memory.wf s = true

/-! ### Completions of commands and of the device's own steps -/

/-- R439: a command that firmware takes, other than PGMOVE and a warm RESET, is answered whatever its arguments are: its slot takes a status, the request's TAG and
DONE, and the ring's head and expected value advance.  R392, R396, R422, R447 and R449: DOMAIN, EXPORT and TRACE with arguments
of the manual's form change what it says and nothing else; ATTEST writes its report; PATCH is answered by its image. -/
def Obligations.CommandsAreAnswered : Prop :=
  ∀ (s : State), let n := s.input.index; let k := s.input.k; let a := s.input.addr.toNat
    let asid := s.input.asid.toNat; let v := s.input.va
    (∀ i, isCommand i → commandReady s i = true → ∃ t st result, exec i s = .next t ∧ answers s t st result)
    ∧ (commandReady s .domain = true → n < 1024 → s.live = false → exec .domain s = .next (State.respond { s with fw := { s.fw with
        pkg := BitVec.ofNat 10 n, reference := s.input.reference, port := s.input.port, joining := !s.input.reference,
        domain := true, skewDom := BitVec.allOnes 64 } } 0 []))
    ∧ (commandReady s .exportEntry = true → n < 16 → s.input.entry &&& 0x00FFFF80FFFFFFFF = 0 → exec .exportEntry s = .next (State.respond { s with fw := { s.fw with
        exports := Sparse.set s.fw.exports n s.input.entry } } 0 []))
    ∧ (commandReady s .trace = true → (Table.find s.fw.asids asid).isSome = true → 6 ≤ k → k ≤ 20 → v.toNat % 4096 = 0 → v.toNat < 2 ^ 56 →
        exec .trace s = .next (State.respond { s with fw := { s.fw with traces := Table.put s.fw.traces asid (v, k) } } 0 []))
    ∧ (commandReady s .trace = true → (Table.find s.fw.asids asid).isSome = true → k = 0 →
        exec .trace s = .next (State.respond { s with fw := { s.fw with traces := Table.erase s.fw.traces asid } } 0 []))
    ∧ (commandReady s .attest = true → a % 4096 = 0 → a < 0x8000000000 → ∃ t, exec .attest s = .next t ∧ answers s t 0 [] ∧ t.w = s.w ∧ t.others = s.others
        ∧ t.launches = s.launches ∧ t.fw.asids = s.fw.asids ∧ t.fw.keys = s.fw.keys
        ∧ ∀ j, j < 32 → Sparse.get t.mem (a + j) = s.input.nonce.extractLsb' (8 * j) 8)
    ∧ (commandReady s .patch = true → ∃ t st, exec .patch s = .next t ∧ answers s t st [] ∧ onlyFw s t ∧ st ≤ 4 ∧ (st = 2 ↔ s.live = true)
        ∧ (st ≠ 0 → t.fw.feat0 = s.fw.feat0 ∧ t.fw.feat2 = s.fw.feat2 ∧ t.fw.fwrev = s.fw.fwrev)
        ∧ ∀ b, s.live = false → s.input.len.toNat ≤ 0x400000 + 0xD6D → patchImage s a s.input.len.toNat = some b →
            (st = 1 ↔ patchOk b = false))

/-- R375 and R456: a wave at the end of its scalar stream whose children have completed leaves the machine, and so does one that
its launch's end has stopped (R368).  R368: a launch that has drained, with nothing of it left on a core, writes its record and
completes, or is dropped where COMPL is not valid.  R374: a stalled launch's wave at a barrier takes BARFAULT.  R94: a
deadlocked pool's budget is raised for the oldest request, or the youngest fails.  R425: a capture whose buffer is full ends. -/
def Obligations.DeviceStepsComplete : Prop :=
  (∀ s : State, s.w.id = s.input.wave → s.w.id ≠ 0 → s.childless s.w.id = true → (s.w.atEnd = true ∨ s.w.residency = .retired) →
    ∃ t, exec .waveRetirement s = .next t ∧ t.w.id = 0 ∧ t.w.residency = .retired
      ∧ (t.core s.w.core.toNat).activeWaves.contains s.w.id = false
      ∧ (t.core s.w.core.toNat).landing.contains s.w.id = false)
  ∧ (∀ (s : State) (l : Launch), s.launch s.input.lid = some l → s.drained l = true → s.awaits (.launch l.lid) = false →
      l.capture = false → s.waves.all (fun w => !(w.id != 0 && w.lid == l.lid)) = true →
      s.cores.all (fun p => (p.2.chordsOf l.lid).isEmpty) = true →
      (l.complOk = false → ∃ t, exec .gridCompletion s = .next t ∧ t.launch s.input.lid = none
        ∧ t.lost = s.lost ++ [(l.lid, l.status)] ∧ memSame s t)
      ∧ (∀ u, l.complOk = true → writeRange s 0 l.asid l.compl (recordBytes l (s.die 0).ptc.toNat) = .ok u →
        ∃ t, exec .gridCompletion s = .next t ∧ t.launch s.input.lid = none ∧ t.statusOf l.lid = l.status
          ∧ t.lost = u.lost ∧ memSame u t))
  ∧ (∀ (s : State) (l : Launch) (x : BitVec 64), s.launch s.input.lid = some l → l.stalledAt = some x →
      s.stallHolds l = true → x.toNat + 1000000 ≤ (s.die 0).ptc.toNat → s.w.id ≠ 0 →
      (s.waves.map (·.id)).Nodup → (∀ w, w ∈ s.waves → w.lid = l.lid → w.inhandler = false) →
      ∃ t v, exec .launchStall s = .next t ∧ t.launch s.input.lid = some { l with stalledAt := none } ∧ t.mem = s.mem
        ∧ t.wave s.w.id = some v
        ∧ (s.w.lid = l.lid → s.w.atBarrier = true → ∃ h, v.heldTraps = s.w.heldTraps ++ [h] ∧ h.code = 0x13 ∧ h.detail = 2
          ∧ h.stop = true ∧ h.pc = s.w.spc ∧ v.wait = none ∧ v.sreg = s.w.sreg)
        ∧ ((s.w.lid ≠ l.lid ∨ s.w.atBarrier = false) → v = s.w))
  ∧ (∀ (s : State) (l : Launch) (p : Pool) (g rest : List (Nat × Nat × Nat)) (o y : Nat × Nat × Nat),
      s.launch s.input.lid = some l → s.deadlocked l = true → s.pool l.asid l.poolDesc = some p → growers s p = g →
      g = o :: rest → g.getLast? = some y →
      (o.2.2 ≤ p.rres.toNat - p.rbud.toNat → ∃ t q, exec .pooldeadlock s = .next t ∧ t.pool l.asid l.poolDesc = some q
        ∧ q.rbud.toNat = min p.rres.toNat (p.rbud.toNat + (o.2.2 + 1023) / 1024 * 1024))
      ∧ (p.rres.toNat - p.rbud.toNat < o.2.2 → ∃ t, exec .pooldeadlock s = .next t ∧ t.pools = s.pools ∧ t.mem = s.mem
        ∧ (s.w.id ≠ y.2.1 → t.w = s.w)
        ∧ (∀ n f, s.w.id = y.2.1 → s.w.wait = some (.grow n f) → t.w.wait = none ∧ t.w.progress = some (.grow n true)
          ∧ t.w.regcnt = s.w.regcnt ∧ ∀ r, t.rs r = s.rs r)))
  ∧ (∀ (s s1 : State) (l : Launch) (b : List Byte), let g := s.input.va.toNat / 131072
      s.launch s.input.lid = some l → l.capture = true → l.capOver = false → g ∉ l.captured → captureExempt s l g = false →
      readRange s 0 l.asid (l.f 0x70 8) 8 = .ok (b, s1) → ofBytes b < 0x1200 + 131136 * (l.captured.length + 1) →
      Table.find s.fw.traces s.w.asid.toNat = none → ∃ t, exec .captureFirstTouch s = .next t
        ∧ t.launch s.input.lid = some { l with capOver := true } ∧ ∀ r, t.rs r = s.rs r)

/-! ### Statements of several parts -/

/-- Results, completion and frame of the scalar integer and unary instructions. -/
def Obligations.ScalarIntegerResults : Prop :=
  scalarIntegerResults ∧ scalarUnary

/-- Scalar branches, calls and indirect transfers, backward branches under SPINF, and transfers to address 0. -/
def Obligations.ScalarControlFlow : Prop :=
  scalarBranches ∧ indirectTransfers ∧ spinBackwardBranches ∧ transferToZeroInHandler

/-- LRUN, LWAIT, SPIN, NOP, and the format register and seed instructions. -/
def Obligations.LaneQueueFormatAndSeeds : Prop :=
  laneBlockQueue ∧ formatAndSeeds

/-- Scalar loads and stores: the value, the bytes, the frame, and where they trap. -/
def Obligations.ScalarLoadsAndStores : Prop :=
  scalarLoads ∧ scalarStores ∧ scalarAccessTraps

/-- CHSET, CHREL, CHKEY, CHTAG and CHFILL. -/
def Obligations.ChordInstructions : Prop :=
  chordSetAndRelease ∧ chordFields

/-- Copy instructions enqueue a command and take a completion slot; EWAIT and EPOLL observe slots. -/
def Obligations.CopyInstructionsAndWaits : Prop :=
  copyIssue ∧ engineWaits

/-- Block barriers and grid barriers: arrival, completion, waiting. -/
def Obligations.BlockAndGridBarriers : Prop :=
  blockBarriers ∧ gridBarriers

/-- CTXGROW, CTXSHRINK, MIGRATE and YIELD. -/
def Obligations.ContextMigrationAndYield : Prop :=
  contextSizes ∧ migrationAndYield

/-- LAUNCH, LJOIN and ITEMPUSH. -/
def Obligations.ChildGridsAndItems : Prop :=
  launchInstruction ∧ joinInstruction ∧ itemPush

/-- Taking a scalar trap, a nested fault, and halting a block. -/
def Obligations.ScalarTrapsAndHalts : Prop :=
  trapEntry ∧ nestedFault ∧ haltingABlock

/-- What SRDSR answers and SWRSR replaces in every special register. -/
def Obligations.SpecialRegisters : Prop :=
  specialRegisterReads ∧ specialRegisterWrites

/-- STAGE, FWCALL and instructions of an extension range. -/
def Obligations.StageAndFirmwareParking : Prop :=
  stageInstruction ∧ parkingForFirmware

/-- Scalar and lane trampolines and their returns. -/
def Obligations.Trampolines : Prop :=
  scalarTrampolines ∧ laneTrampolines

/-- Lane integer and packed instructions, lane by lane, with latch, sidecar, flags and frame. -/
def Obligations.LaneIntegerResults : Prop :=
  laneIntegerResults ∧ packedResults

/-- Lane floating-point instructions, element by element. -/
def Obligations.LaneFloatResults : Prop :=
  laneFloatResults ∧ floatElements ∧ specialFunctions

/-- Mask instructions, moves and identities. -/
def Obligations.MaskMoveAndIdentity : Prop :=
  maskInstructions ∧ movesAndIdentities

/-- Lane branches, calls and returns, REGANG and END, ITEMNEXT. -/
def Obligations.LaneControlFlow : Prop :=
  laneBranches ∧ regangAndEnd ∧ itemNext

/-- VTRAP, VBRK, VTOOL, and the order of the faults of a lane instruction. -/
def Obligations.LaneTrapsAndFaultOrder : Prop :=
  laneTraps ∧ laneFaultOrder

/-- VCVT, VCVTN and VCVTW, with and without rotation. -/
def Obligations.FormatConversions : Prop :=
  formatConversions ∧ conversionElements

/-- Quantisation, dequantisation, rotation, tags and block scales. -/
def Obligations.QuantisationAndRotation : Prop :=
  quantisation ∧ dequantisation ∧ rotationAndTags

/-- Lane loads and stores to local memory and to the stash. -/
def Obligations.LaneLoadsAndStores : Prop :=
  laneLoadResults ∧ laneStoreResults

/-- Chord rows and packed blocks. -/
def Obligations.ChordRowsAndPackedBlocks : Prop :=
  chordRows ∧ packedBlocks

/-- VATOM and VATOMR act once for each active lane, lowest first. -/
def Obligations.LaneAtomics : Prop :=
  atomics ∧ atomicOperations

/-- Matrix instructions take queue entries; MFENCE and MWAIT number and await batches. -/
def Obligations.MatrixIssueAndBatches : Prop :=
  matrixIssue ∧ matrixBatches

/-- The head of a matrix queue executes and retires. -/
def Obligations.MatrixExecutionAndRetirement : Prop :=
  matrixExecution ∧ matrixRetirement ∧ matrixSteps

/-- Copy engines run and complete their commands. -/
def Obligations.CopyEngines : Prop :=
  engineCommands ∧ engineCompletions

/-- Launch records are parsed and launches admitted or ended with a status. -/
def Obligations.LaunchRecordsAndAdmission : Prop :=
  launchRecords ∧ recordChecks ∧ launchAdmission

/-- Blocks are placed and waves created with their initial registers. -/
def Obligations.PlacementAndWaveCreation : Prop :=
  blockPlacement ∧ waveCreation

/-- Waves retire, grids complete, and stalled launches are detected. -/
def Obligations.RetirementAndCompletion : Prop :=
  waveRetirement ∧ gridCompletion ∧ launchDetectors

/-- Frame fills and landing slots. -/
def Obligations.FramesAndLandingSlots : Prop :=
  frameFills ∧ landingSlots

/-- Lane blocks start; selector boosts and waits end. -/
def Obligations.LaneBlockStartAndWaits : Prop :=
  laneBlockStart ∧ selectorAndWaits

/-- Firmware queries, caps, invalidation and address-space commands. -/
def Obligations.QueriesAndAddressSpaces : Prop :=
  firmwareCommands ∧ addressSpaceCommands

/-- Links, package time, power and temperature. -/
def Obligations.LinksTimePowerAndHeat : Prop :=
  linksAndTime ∧ powerAndTemperature
end

