-- ==== Sys2Proof/Laws/Sparse.lean ====
section
/-! SUPPORT. The laws of the two containers: read after write, writes to other keys, and the canonical form kept. -/

namespace Sys2Proof.Machine

/-! ### Reads after writes -/

@[simp] theorem Sparse.get_nil {w : Nat} (a : Nat) : Sparse.get ([] : Sparse w) a = 0 := rfl

@[simp] theorem Sparse.get_erase_same {w : Nat} (m : Sparse w) (a : Nat) : Sparse.get (Sparse.erase m a) a = 0 := by
  induction m with
  | nil => rfl
  | cons c m ih =>
    obtain ⟨k, v⟩ := c
    by_cases h : a = k <;> simp_all [Sparse.erase, Sparse.get]

theorem Sparse.get_erase_other {w : Nat} (m : Sparse w) {a b : Nat} (h : b ≠ a) :
    Sparse.get (Sparse.erase m a) b = Sparse.get m b := by
  induction m with
  | nil => rfl
  | cons c m ih =>
    obtain ⟨k, v⟩ := c
    by_cases hk : a = k
    · subst hk; simp [Sparse.erase, Sparse.get, h, ih]
    · simp [Sparse.erase, Sparse.get, hk, ih]

theorem Sparse.get_insert_same {w : Nat} (m : Sparse w) (a : Nat) (x : BitVec w) :
    Sparse.get (Sparse.insert (Sparse.erase m a) a x) a = x := by
  induction m with
  | nil => simp [Sparse.erase, Sparse.insert, Sparse.get]
  | cons c m ih =>
    obtain ⟨k, v⟩ := c
    by_cases hk : a = k
    · simpa [Sparse.erase, hk] using ih
    · by_cases hl : a < k <;> simp [Sparse.erase, Sparse.insert, Sparse.get, hk, hl, ih]

theorem Sparse.get_insert_other {w : Nat} (m : Sparse w) {a b : Nat} (x : BitVec w) (h : b ≠ a) :
    Sparse.get (Sparse.insert m a x) b = Sparse.get m b := by
  induction m with
  | nil => simp [Sparse.insert, Sparse.get, h]
  | cons c m ih =>
    obtain ⟨k, v⟩ := c
    by_cases hl : a < k <;> simp [Sparse.insert, Sparse.get, hl, h, ih]

/-- A key that has been written reads as what was written. -/
@[simp] theorem Sparse.get_set_same {w : Nat} (m : Sparse w) (a : Nat) (x : BitVec w) :
    Sparse.get (Sparse.set m a x) a = x := by
  by_cases hx : x = 0#w
  · simp [Sparse.set, hx]
  · simp [Sparse.set, hx, Sparse.get_insert_same]

/-- A write leaves every other key alone. -/
theorem Sparse.get_set_other {w : Nat} (m : Sparse w) {a b : Nat} (x : BitVec w) (h : b ≠ a) :
    Sparse.get (Sparse.set m a x) b = Sparse.get m b := by
  by_cases hx : x = 0#w <;> simp [Sparse.set, hx, Sparse.get_erase_other _ h, Sparse.get_insert_other _ _ h]

theorem Sparse.get_set {w : Nat} (m : Sparse w) (a b : Nat) (x : BitVec w) :
    Sparse.get (Sparse.set m a x) b = if b = a then x else Sparse.get m b := by
  by_cases h : b = a
  · simp [h]
  · simp [h, Sparse.get_set_other m x h]

/-- A key outside a written range reads as before. -/
theorem Sparse.get_setList_other {w : Nat} (l : List (BitVec w)) (m : Sparse w) (a : Nat) {b : Nat}
    (h : b < a ∨ a + l.length ≤ b) : Sparse.get (Sparse.setList m a l) b = Sparse.get m b := by
  induction l generalizing m a with
  | nil => rfl
  | cons x l ih =>
    simp only [List.length_cons] at h
    rw [Sparse.setList, ih _ _ (by omega), Sparse.get_set_other _ _ (by omega)]

/-- A key inside a written range reads as what was written there. -/
theorem Sparse.get_setList_same {w : Nat} (l : List (BitVec w)) (m : Sparse w) (a i : Nat) (h : i < l.length) :
    Sparse.get (Sparse.setList m a l) (a + i) = l[i] := by
  induction l generalizing m a i with
  | nil => simp at h
  | cons x l ih =>
    cases i with
    | zero => simp [Sparse.setList, Sparse.get_setList_other l (Sparse.set m a x) (a + 1) (b := a) (by omega)]
    | succ i =>
      have := ih (Sparse.set m a x) (a + 1) i (by simpa using h)
      simpa [Sparse.setList, Nat.add_assoc, Nat.add_comm 1 i] using this

/-- What was written is read back. -/
theorem Sparse.getList_setList {w : Nat} (l : List (BitVec w)) (m : Sparse w) (a : Nat) :
    Sparse.getList (Sparse.setList m a l) a l.length = l := by
  induction l generalizing m a with
  | nil => rfl
  | cons x l ih =>
    simp only [Sparse.setList, List.length_cons, Sparse.getList, ih]
    rw [Sparse.get_setList_other l _ _ (by omega), Sparse.get_set_same]

/-! ### The canonical form -/

theorem Sparse.wfFrom_mono {w : Nat} (m : Sparse w) {b c : Nat} (h : b ≤ c) (hm : Sparse.wfFrom c m = true) :
    Sparse.wfFrom b m = true := by
  cases m with
  | nil => rfl
  | cons x m =>
    obtain ⟨k, v⟩ := x
    simp only [Sparse.wfFrom, Bool.and_eq_true, decide_eq_true_eq] at hm ⊢
    exact ⟨⟨by omega, hm.1.2⟩, hm.2⟩

theorem Sparse.wfFrom_filter {w : Nat} (f : Nat × BitVec w → Bool) (m : Sparse w) (b : Nat)
    (hm : Sparse.wfFrom b m = true) : Sparse.wfFrom b (m.filter f) = true := by
  induction m generalizing b with
  | nil => rfl
  | cons x m ih =>
    obtain ⟨k, v⟩ := x
    simp only [Sparse.wfFrom, Bool.and_eq_true, decide_eq_true_eq] at hm
    by_cases h : f (k, v)
    · simpa [h, Sparse.wfFrom, ih _ hm.2] using hm.1
    · simp only [h, Bool.false_eq_true, not_false_eq_true, List.filter_cons_of_neg]
      exact ih _ (Sparse.wfFrom_mono m (by omega) hm.2)

theorem Sparse.erase_eq_filter {w : Nat} (m : Sparse w) (a : Nat) :
    Sparse.erase m a = m.filter (fun c => c.1 != a) := by
  induction m with
  | nil => rfl
  | cons x m ih =>
    obtain ⟨k, v⟩ := x
    by_cases h : a = k
    · subst h; simp [Sparse.erase, ih]
    · have : k ≠ a := fun e => h e.symm
      simp [Sparse.erase, h, this, ih]

theorem Sparse.wfFrom_insert {w : Nat} (m : Sparse w) (a : Nat) (x : BitVec w) (hx : ¬x = 0#w) (b : Nat) (hb : b ≤ a)
    (hm : Sparse.wfFrom b (Sparse.erase m a) = true) : Sparse.wfFrom b (Sparse.insert (Sparse.erase m a) a x) = true := by
  induction m generalizing b with
  | nil => simp [Sparse.erase, Sparse.insert, Sparse.wfFrom, hb, hx]
  | cons c m ih =>
    obtain ⟨k, v⟩ := c
    by_cases hk : a = k
    · simp only [Sparse.erase, hk, if_true] at hm ⊢
      subst hk
      exact ih b hb hm
    · simp only [Sparse.erase, hk, if_false, Sparse.wfFrom, Bool.and_eq_true, decide_eq_true_eq] at hm ⊢
      by_cases hl : a < k
      · have hv := hm.1.2
        simp only [bne_iff_ne, ne_eq] at hv
        simp [Sparse.insert, hl, Sparse.wfFrom, hb, hx, hm.2]
        exact hv
      · simp only [Sparse.insert, hl, if_false, Sparse.wfFrom, Bool.and_eq_true, decide_eq_true_eq]
        exact ⟨hm.1, ih (k + 1) (by omega) hm.2⟩

theorem Sparse.wf_erase {w : Nat} (m : Sparse w) (a : Nat) (hm : Sparse.wf m = true) : Sparse.wf (Sparse.erase m a) = true := by
  rw [Sparse.erase_eq_filter]; exact Sparse.wfFrom_filter _ m 0 hm

/-- A write keeps the canonical form. -/
theorem Sparse.wf_set {w : Nat} (m : Sparse w) (a : Nat) (x : BitVec w) (hm : Sparse.wf m = true) :
    Sparse.wf (Sparse.set m a x) = true := by
  by_cases hx : x = 0#w
  · simpa [Sparse.set, hx] using Sparse.wf_erase m a hm
  · simpa [Sparse.set, hx, Sparse.wf] using Sparse.wfFrom_insert m a x hx 0 (by omega) (Sparse.wf_erase m a hm)

/-- So does a write of several words. -/
theorem Sparse.wf_setList {w : Nat} (l : List (BitVec w)) (m : Sparse w) (a : Nat) (hm : Sparse.wf m = true) :
    Sparse.wf (Sparse.setList m a l) = true := by
  induction l generalizing m a with
  | nil => exact hm
  | cons x l ih => exact ih _ _ (Sparse.wf_set m a x hm)

/-- So does every choice of entries. -/
theorem Sparse.wf_filter {w : Nat} (f : Nat × BitVec w → Bool) (m : Sparse w) (hm : Sparse.wf m = true) :
    Sparse.wf (m.filter f) = true := Sparse.wfFrom_filter f m 0 hm

theorem Sparse.wf_clear {w : Nat} (m : Sparse w) (a n : Nat) (hm : Sparse.wf m = true) :
    Sparse.wf (Sparse.clear m a n) = true := Sparse.wf_filter _ m hm

theorem Sparse.wf_range {w : Nat} (m : Sparse w) (a n : Nat) (hm : Sparse.wf m = true) :
    Sparse.wf (Sparse.range m a n) = true := Sparse.wf_filter _ m hm

/-! ### Tables -/

@[simp] theorem Table.find_nil {α : Type} (a : Nat) : Table.find ([] : Table α) a = none := rfl

@[simp] theorem Table.find_put_same {α : Type} (m : Table α) (a : Nat) (x : α) : Table.find (Table.put m a x) a = some x := by
  induction m with
  | nil => simp [Table.put, Table.find]
  | cons c m ih =>
    obtain ⟨k, v⟩ := c
    by_cases hl : a < k
    · simp [Table.put, Table.find, hl]
    · by_cases hk : a = k <;> simp [Table.put, Table.find, hl, hk, ih]

theorem Table.find_put_other {α : Type} (m : Table α) {a b : Nat} (x : α) (h : b ≠ a) :
    Table.find (Table.put m a x) b = Table.find m b := by
  induction m with
  | nil => simp [Table.put, Table.find, h]
  | cons c m ih =>
    obtain ⟨k, v⟩ := c
    by_cases hl : a < k
    · simp [Table.put, Table.find, hl, h]
    · by_cases hk : a = k
      · subst hk; simp [Table.put, Table.find, h]
      · simp [Table.put, Table.find, hl, hk, ih]

@[simp] theorem Table.getD_put_same {α : Type} (m : Table α) (a : Nat) (x d : α) : Table.getD (Table.put m a x) a d = x := by
  simp [Table.getD]

theorem Table.getD_put_other {α : Type} (m : Table α) {a b : Nat} (x d : α) (h : b ≠ a) :
    Table.getD (Table.put m a x) b d = Table.getD m b d := by
  simp [Table.getD, Table.find_put_other m x h]

end Sys2Proof.Machine
end

