-- ==== Sys2Proof/Laws/State.lean ====
section
/-! SUPPORT. What each update of the state leaves in each field: one lemma for each field of each update, so that no proof
unfolds a record update. -/

namespace Sys2Proof.Machine

variable (s : State)

/-! ### `State.onW` -/

@[simp] theorem State.onW_w (f : Wave → Wave) : (s.onW f).w = f s.w := rfl
@[simp] theorem State.onW_others (f : Wave → Wave) : (s.onW f).others = s.others := rfl
@[simp] theorem State.onW_lane (f : Wave → Wave) : (s.onW f).lane = s.lane := rfl
@[simp] theorem State.onW_frag (f : Wave → Wave) : (s.onW f).frag = s.frag := rfl
@[simp] theorem State.onW_stalled (f : Wave → Wave) : (s.onW f).stalled = s.stalled := rfl
@[simp] theorem State.onW_agenda (f : Wave → Wave) : (s.onW f).agenda = s.agenda := rfl
@[simp] theorem State.onW_input (f : Wave → Wave) : (s.onW f).input = s.input := rfl
@[simp] theorem State.onW_now (f : Wave → Wave) : (s.onW f).now = s.now := rfl
@[simp] theorem State.onW_seq (f : Wave → Wave) : (s.onW f).seq = s.seq := rfl
@[simp] theorem State.onW_free (f : Wave → Wave) : (s.onW f).free = s.free := rfl
@[simp] theorem State.onW_defer (f : Wave → Wave) : (s.onW f).defer = s.defer := rfl
@[simp] theorem State.onW_nextWave (f : Wave → Wave) : (s.onW f).nextWave = s.nextWave := rfl
@[simp] theorem State.onW_mem (f : Wave → Wave) : (s.onW f).mem = s.mem := rfl
@[simp] theorem State.onW_hbm (f : Wave → Wave) : (s.onW f).hbm = s.hbm := rfl
@[simp] theorem State.onW_limbo (f : Wave → Wave) : (s.onW f).limbo = s.limbo := rfl
@[simp] theorem State.onW_peers (f : Wave → Wave) : (s.onW f).peers = s.peers := rfl
@[simp] theorem State.onW_keyed (f : Wave → Wave) : (s.onW f).keyed = s.keyed := rfl
@[simp] theorem State.onW_poison (f : Wave → Wave) : (s.onW f).poison = s.poison := rfl
@[simp] theorem State.onW_cores (f : Wave → Wave) : (s.onW f).cores = s.cores := rfl
@[simp] theorem State.onW_caches (f : Wave → Wave) : (s.onW f).caches = s.caches := rfl
@[simp] theorem State.onW_dies (f : Wave → Wave) : (s.onW f).dies = s.dies := rfl
@[simp] theorem State.onW_directory (f : Wave → Wave) : (s.onW f).directory = s.directory := rfl
@[simp] theorem State.onW_waiters (f : Wave → Wave) : (s.onW f).waiters = s.waiters := rfl
@[simp] theorem State.onW_requests (f : Wave → Wave) : (s.onW f).requests = s.requests := rfl
@[simp] theorem State.onW_ccps (f : Wave → Wave) : (s.onW f).ccps = s.ccps := rfl
@[simp] theorem State.onW_launches (f : Wave → Wave) : (s.onW f).launches = s.launches := rfl
@[simp] theorem State.onW_statuses (f : Wave → Wave) : (s.onW f).statuses = s.statuses := rfl
@[simp] theorem State.onW_lost (f : Wave → Wave) : (s.onW f).lost = s.lost := rfl
@[simp] theorem State.onW_children (f : Wave → Wave) : (s.onW f).children = s.children := rfl
@[simp] theorem State.onW_parsed (f : Wave → Wave) : (s.onW f).parsed = s.parsed := rfl
@[simp] theorem State.onW_queues (f : Wave → Wave) : (s.onW f).queues = s.queues := rfl
@[simp] theorem State.onW_pools (f : Wave → Wave) : (s.onW f).pools = s.pools := rfl
@[simp] theorem State.onW_blocks (f : Wave → Wave) : (s.onW f).blocks = s.blocks := rfl
@[simp] theorem State.onW_engines (f : Wave → Wave) : (s.onW f).engines = s.engines := rfl
@[simp] theorem State.onW_pairs (f : Wave → Wave) : (s.onW f).pairs = s.pairs := rfl
@[simp] theorem State.onW_fw (f : Wave → Wave) : (s.onW f).fw = s.fw := rfl
@[simp] theorem State.onW_msix (f : Wave → Wave) : (s.onW f).msix = s.msix := rfl
@[simp] theorem State.onW_reply (f : Wave → Wave) : (s.onW f).reply = s.reply := rfl
@[simp] theorem State.onW_replyError (f : Wave → Wave) : (s.onW f).replyError = s.replyError := rfl

/-! ### `State.mapOthers` -/

@[simp] theorem State.mapOthers_w (f : Wave → Wave) : (s.mapOthers f).w = s.w := rfl
@[simp] theorem State.mapOthers_others (f : Wave → Wave) : (s.mapOthers f).others = s.others.map f := rfl
@[simp] theorem State.mapOthers_lane (f : Wave → Wave) : (s.mapOthers f).lane = s.lane := rfl
@[simp] theorem State.mapOthers_frag (f : Wave → Wave) : (s.mapOthers f).frag = s.frag := rfl
@[simp] theorem State.mapOthers_stalled (f : Wave → Wave) : (s.mapOthers f).stalled = s.stalled := rfl
@[simp] theorem State.mapOthers_agenda (f : Wave → Wave) : (s.mapOthers f).agenda = s.agenda := rfl
@[simp] theorem State.mapOthers_input (f : Wave → Wave) : (s.mapOthers f).input = s.input := rfl
@[simp] theorem State.mapOthers_now (f : Wave → Wave) : (s.mapOthers f).now = s.now := rfl
@[simp] theorem State.mapOthers_seq (f : Wave → Wave) : (s.mapOthers f).seq = s.seq := rfl
@[simp] theorem State.mapOthers_free (f : Wave → Wave) : (s.mapOthers f).free = s.free := rfl
@[simp] theorem State.mapOthers_defer (f : Wave → Wave) : (s.mapOthers f).defer = s.defer := rfl
@[simp] theorem State.mapOthers_nextWave (f : Wave → Wave) : (s.mapOthers f).nextWave = s.nextWave := rfl
@[simp] theorem State.mapOthers_mem (f : Wave → Wave) : (s.mapOthers f).mem = s.mem := rfl
@[simp] theorem State.mapOthers_hbm (f : Wave → Wave) : (s.mapOthers f).hbm = s.hbm := rfl
@[simp] theorem State.mapOthers_limbo (f : Wave → Wave) : (s.mapOthers f).limbo = s.limbo := rfl
@[simp] theorem State.mapOthers_peers (f : Wave → Wave) : (s.mapOthers f).peers = s.peers := rfl
@[simp] theorem State.mapOthers_keyed (f : Wave → Wave) : (s.mapOthers f).keyed = s.keyed := rfl
@[simp] theorem State.mapOthers_poison (f : Wave → Wave) : (s.mapOthers f).poison = s.poison := rfl
@[simp] theorem State.mapOthers_cores (f : Wave → Wave) : (s.mapOthers f).cores = s.cores := rfl
@[simp] theorem State.mapOthers_caches (f : Wave → Wave) : (s.mapOthers f).caches = s.caches := rfl
@[simp] theorem State.mapOthers_dies (f : Wave → Wave) : (s.mapOthers f).dies = s.dies := rfl
@[simp] theorem State.mapOthers_directory (f : Wave → Wave) : (s.mapOthers f).directory = s.directory := rfl
@[simp] theorem State.mapOthers_waiters (f : Wave → Wave) : (s.mapOthers f).waiters = s.waiters := rfl
@[simp] theorem State.mapOthers_requests (f : Wave → Wave) : (s.mapOthers f).requests = s.requests := rfl
@[simp] theorem State.mapOthers_ccps (f : Wave → Wave) : (s.mapOthers f).ccps = s.ccps := rfl
@[simp] theorem State.mapOthers_launches (f : Wave → Wave) : (s.mapOthers f).launches = s.launches := rfl
@[simp] theorem State.mapOthers_statuses (f : Wave → Wave) : (s.mapOthers f).statuses = s.statuses := rfl
@[simp] theorem State.mapOthers_lost (f : Wave → Wave) : (s.mapOthers f).lost = s.lost := rfl
@[simp] theorem State.mapOthers_children (f : Wave → Wave) : (s.mapOthers f).children = s.children := rfl
@[simp] theorem State.mapOthers_parsed (f : Wave → Wave) : (s.mapOthers f).parsed = s.parsed := rfl
@[simp] theorem State.mapOthers_queues (f : Wave → Wave) : (s.mapOthers f).queues = s.queues := rfl
@[simp] theorem State.mapOthers_pools (f : Wave → Wave) : (s.mapOthers f).pools = s.pools := rfl
@[simp] theorem State.mapOthers_blocks (f : Wave → Wave) : (s.mapOthers f).blocks = s.blocks := rfl
@[simp] theorem State.mapOthers_engines (f : Wave → Wave) : (s.mapOthers f).engines = s.engines := rfl
@[simp] theorem State.mapOthers_pairs (f : Wave → Wave) : (s.mapOthers f).pairs = s.pairs := rfl
@[simp] theorem State.mapOthers_fw (f : Wave → Wave) : (s.mapOthers f).fw = s.fw := rfl
@[simp] theorem State.mapOthers_msix (f : Wave → Wave) : (s.mapOthers f).msix = s.msix := rfl
@[simp] theorem State.mapOthers_reply (f : Wave → Wave) : (s.mapOthers f).reply = s.reply := rfl
@[simp] theorem State.mapOthers_replyError (f : Wave → Wave) : (s.mapOthers f).replyError = s.replyError := rfl

/-! ### `State.mapWaves` -/

@[simp] theorem State.mapWaves_w (f : Wave → Wave) : (s.mapWaves f).w = f s.w := rfl
@[simp] theorem State.mapWaves_others (f : Wave → Wave) : (s.mapWaves f).others = s.others.map f := rfl
@[simp] theorem State.mapWaves_lane (f : Wave → Wave) : (s.mapWaves f).lane = s.lane := rfl
@[simp] theorem State.mapWaves_frag (f : Wave → Wave) : (s.mapWaves f).frag = s.frag := rfl
@[simp] theorem State.mapWaves_stalled (f : Wave → Wave) : (s.mapWaves f).stalled = s.stalled := rfl
@[simp] theorem State.mapWaves_agenda (f : Wave → Wave) : (s.mapWaves f).agenda = s.agenda := rfl
@[simp] theorem State.mapWaves_input (f : Wave → Wave) : (s.mapWaves f).input = s.input := rfl
@[simp] theorem State.mapWaves_now (f : Wave → Wave) : (s.mapWaves f).now = s.now := rfl
@[simp] theorem State.mapWaves_seq (f : Wave → Wave) : (s.mapWaves f).seq = s.seq := rfl
@[simp] theorem State.mapWaves_free (f : Wave → Wave) : (s.mapWaves f).free = s.free := rfl
@[simp] theorem State.mapWaves_defer (f : Wave → Wave) : (s.mapWaves f).defer = s.defer := rfl
@[simp] theorem State.mapWaves_nextWave (f : Wave → Wave) : (s.mapWaves f).nextWave = s.nextWave := rfl
@[simp] theorem State.mapWaves_mem (f : Wave → Wave) : (s.mapWaves f).mem = s.mem := rfl
@[simp] theorem State.mapWaves_hbm (f : Wave → Wave) : (s.mapWaves f).hbm = s.hbm := rfl
@[simp] theorem State.mapWaves_limbo (f : Wave → Wave) : (s.mapWaves f).limbo = s.limbo := rfl
@[simp] theorem State.mapWaves_peers (f : Wave → Wave) : (s.mapWaves f).peers = s.peers := rfl
@[simp] theorem State.mapWaves_keyed (f : Wave → Wave) : (s.mapWaves f).keyed = s.keyed := rfl
@[simp] theorem State.mapWaves_poison (f : Wave → Wave) : (s.mapWaves f).poison = s.poison := rfl
@[simp] theorem State.mapWaves_cores (f : Wave → Wave) : (s.mapWaves f).cores = s.cores := rfl
@[simp] theorem State.mapWaves_caches (f : Wave → Wave) : (s.mapWaves f).caches = s.caches := rfl
@[simp] theorem State.mapWaves_dies (f : Wave → Wave) : (s.mapWaves f).dies = s.dies := rfl
@[simp] theorem State.mapWaves_directory (f : Wave → Wave) : (s.mapWaves f).directory = s.directory := rfl
@[simp] theorem State.mapWaves_waiters (f : Wave → Wave) : (s.mapWaves f).waiters = s.waiters := rfl
@[simp] theorem State.mapWaves_requests (f : Wave → Wave) : (s.mapWaves f).requests = s.requests := rfl
@[simp] theorem State.mapWaves_ccps (f : Wave → Wave) : (s.mapWaves f).ccps = s.ccps := rfl
@[simp] theorem State.mapWaves_launches (f : Wave → Wave) : (s.mapWaves f).launches = s.launches := rfl
@[simp] theorem State.mapWaves_statuses (f : Wave → Wave) : (s.mapWaves f).statuses = s.statuses := rfl
@[simp] theorem State.mapWaves_lost (f : Wave → Wave) : (s.mapWaves f).lost = s.lost := rfl
@[simp] theorem State.mapWaves_children (f : Wave → Wave) : (s.mapWaves f).children = s.children := rfl
@[simp] theorem State.mapWaves_parsed (f : Wave → Wave) : (s.mapWaves f).parsed = s.parsed := rfl
@[simp] theorem State.mapWaves_queues (f : Wave → Wave) : (s.mapWaves f).queues = s.queues := rfl
@[simp] theorem State.mapWaves_pools (f : Wave → Wave) : (s.mapWaves f).pools = s.pools := rfl
@[simp] theorem State.mapWaves_blocks (f : Wave → Wave) : (s.mapWaves f).blocks = s.blocks := rfl
@[simp] theorem State.mapWaves_engines (f : Wave → Wave) : (s.mapWaves f).engines = s.engines := rfl
@[simp] theorem State.mapWaves_pairs (f : Wave → Wave) : (s.mapWaves f).pairs = s.pairs := rfl
@[simp] theorem State.mapWaves_fw (f : Wave → Wave) : (s.mapWaves f).fw = s.fw := rfl
@[simp] theorem State.mapWaves_msix (f : Wave → Wave) : (s.mapWaves f).msix = s.msix := rfl
@[simp] theorem State.mapWaves_reply (f : Wave → Wave) : (s.mapWaves f).reply = s.reply := rfl
@[simp] theorem State.mapWaves_replyError (f : Wave → Wave) : (s.mapWaves f).replyError = s.replyError := rfl

/-! ### `State.stall` -/

@[simp] theorem State.stall_w : (s.stall).w = s.w := rfl
@[simp] theorem State.stall_others : (s.stall).others = s.others := rfl
@[simp] theorem State.stall_lane : (s.stall).lane = s.lane := rfl
@[simp] theorem State.stall_frag : (s.stall).frag = s.frag := rfl
@[simp] theorem State.stall_stalled : (s.stall).stalled = true := rfl
@[simp] theorem State.stall_agenda : (s.stall).agenda = s.agenda := rfl
@[simp] theorem State.stall_input : (s.stall).input = s.input := rfl
@[simp] theorem State.stall_now : (s.stall).now = s.now := rfl
@[simp] theorem State.stall_seq : (s.stall).seq = s.seq := rfl
@[simp] theorem State.stall_free : (s.stall).free = s.free := rfl
@[simp] theorem State.stall_defer : (s.stall).defer = s.defer := rfl
@[simp] theorem State.stall_nextWave : (s.stall).nextWave = s.nextWave := rfl
@[simp] theorem State.stall_mem : (s.stall).mem = s.mem := rfl
@[simp] theorem State.stall_hbm : (s.stall).hbm = s.hbm := rfl
@[simp] theorem State.stall_limbo : (s.stall).limbo = s.limbo := rfl
@[simp] theorem State.stall_peers : (s.stall).peers = s.peers := rfl
@[simp] theorem State.stall_keyed : (s.stall).keyed = s.keyed := rfl
@[simp] theorem State.stall_poison : (s.stall).poison = s.poison := rfl
@[simp] theorem State.stall_cores : (s.stall).cores = s.cores := rfl
@[simp] theorem State.stall_caches : (s.stall).caches = s.caches := rfl
@[simp] theorem State.stall_dies : (s.stall).dies = s.dies := rfl
@[simp] theorem State.stall_directory : (s.stall).directory = s.directory := rfl
@[simp] theorem State.stall_waiters : (s.stall).waiters = s.waiters := rfl
@[simp] theorem State.stall_requests : (s.stall).requests = s.requests := rfl
@[simp] theorem State.stall_ccps : (s.stall).ccps = s.ccps := rfl
@[simp] theorem State.stall_launches : (s.stall).launches = s.launches := rfl
@[simp] theorem State.stall_statuses : (s.stall).statuses = s.statuses := rfl
@[simp] theorem State.stall_lost : (s.stall).lost = s.lost := rfl
@[simp] theorem State.stall_children : (s.stall).children = s.children := rfl
@[simp] theorem State.stall_parsed : (s.stall).parsed = s.parsed := rfl
@[simp] theorem State.stall_queues : (s.stall).queues = s.queues := rfl
@[simp] theorem State.stall_pools : (s.stall).pools = s.pools := rfl
@[simp] theorem State.stall_blocks : (s.stall).blocks = s.blocks := rfl
@[simp] theorem State.stall_engines : (s.stall).engines = s.engines := rfl
@[simp] theorem State.stall_pairs : (s.stall).pairs = s.pairs := rfl
@[simp] theorem State.stall_fw : (s.stall).fw = s.fw := rfl
@[simp] theorem State.stall_msix : (s.stall).msix = s.msix := rfl
@[simp] theorem State.stall_reply : (s.stall).reply = s.reply := rfl
@[simp] theorem State.stall_replyError : (s.stall).replyError = s.replyError := rfl

/-! ### `State.spend` -/

@[simp] theorem State.spend_w : (s.spend).w = s.w := rfl
@[simp] theorem State.spend_others : (s.spend).others = s.others := rfl
@[simp] theorem State.spend_lane : (s.spend).lane = s.lane := rfl
@[simp] theorem State.spend_frag : (s.spend).frag = s.frag := rfl
@[simp] theorem State.spend_stalled : (s.spend).stalled = s.stalled := rfl
@[simp] theorem State.spend_agenda : (s.spend).agenda = s.agenda := rfl
@[simp] theorem State.spend_input : (s.spend).input = s.input := rfl
@[simp] theorem State.spend_now : (s.spend).now = s.now := rfl
@[simp] theorem State.spend_seq : (s.spend).seq = s.seq := rfl
@[simp] theorem State.spend_free : (s.spend).free = s.free + 1 := rfl
@[simp] theorem State.spend_defer : (s.spend).defer = s.defer := rfl
@[simp] theorem State.spend_nextWave : (s.spend).nextWave = s.nextWave := rfl
@[simp] theorem State.spend_mem : (s.spend).mem = s.mem := rfl
@[simp] theorem State.spend_hbm : (s.spend).hbm = s.hbm := rfl
@[simp] theorem State.spend_limbo : (s.spend).limbo = s.limbo := rfl
@[simp] theorem State.spend_peers : (s.spend).peers = s.peers := rfl
@[simp] theorem State.spend_keyed : (s.spend).keyed = s.keyed := rfl
@[simp] theorem State.spend_poison : (s.spend).poison = s.poison := rfl
@[simp] theorem State.spend_cores : (s.spend).cores = s.cores := rfl
@[simp] theorem State.spend_caches : (s.spend).caches = s.caches := rfl
@[simp] theorem State.spend_dies : (s.spend).dies = s.dies := rfl
@[simp] theorem State.spend_directory : (s.spend).directory = s.directory := rfl
@[simp] theorem State.spend_waiters : (s.spend).waiters = s.waiters := rfl
@[simp] theorem State.spend_requests : (s.spend).requests = s.requests := rfl
@[simp] theorem State.spend_ccps : (s.spend).ccps = s.ccps := rfl
@[simp] theorem State.spend_launches : (s.spend).launches = s.launches := rfl
@[simp] theorem State.spend_statuses : (s.spend).statuses = s.statuses := rfl
@[simp] theorem State.spend_lost : (s.spend).lost = s.lost := rfl
@[simp] theorem State.spend_children : (s.spend).children = s.children := rfl
@[simp] theorem State.spend_parsed : (s.spend).parsed = s.parsed := rfl
@[simp] theorem State.spend_queues : (s.spend).queues = s.queues := rfl
@[simp] theorem State.spend_pools : (s.spend).pools = s.pools := rfl
@[simp] theorem State.spend_blocks : (s.spend).blocks = s.blocks := rfl
@[simp] theorem State.spend_engines : (s.spend).engines = s.engines := rfl
@[simp] theorem State.spend_pairs : (s.spend).pairs = s.pairs := rfl
@[simp] theorem State.spend_fw : (s.spend).fw = s.fw := rfl
@[simp] theorem State.spend_msix : (s.spend).msix = s.msix := rfl
@[simp] theorem State.spend_reply : (s.spend).reply = s.reply := rfl
@[simp] theorem State.spend_replyError : (s.spend).replyError = s.replyError := rfl

/-! ### `State.onLaunch` -/

@[simp] theorem State.onLaunch_w (lid : BitVec 32) (f : Launch → Launch) : (s.onLaunch lid f).w = s.w := rfl
@[simp] theorem State.onLaunch_others (lid : BitVec 32) (f : Launch → Launch) : (s.onLaunch lid f).others = s.others := rfl
@[simp] theorem State.onLaunch_lane (lid : BitVec 32) (f : Launch → Launch) : (s.onLaunch lid f).lane = s.lane := rfl
@[simp] theorem State.onLaunch_frag (lid : BitVec 32) (f : Launch → Launch) : (s.onLaunch lid f).frag = s.frag := rfl
@[simp] theorem State.onLaunch_stalled (lid : BitVec 32) (f : Launch → Launch) : (s.onLaunch lid f).stalled = s.stalled := rfl
@[simp] theorem State.onLaunch_agenda (lid : BitVec 32) (f : Launch → Launch) : (s.onLaunch lid f).agenda = s.agenda := rfl
@[simp] theorem State.onLaunch_input (lid : BitVec 32) (f : Launch → Launch) : (s.onLaunch lid f).input = s.input := rfl
@[simp] theorem State.onLaunch_now (lid : BitVec 32) (f : Launch → Launch) : (s.onLaunch lid f).now = s.now := rfl
@[simp] theorem State.onLaunch_seq (lid : BitVec 32) (f : Launch → Launch) : (s.onLaunch lid f).seq = s.seq := rfl
@[simp] theorem State.onLaunch_free (lid : BitVec 32) (f : Launch → Launch) : (s.onLaunch lid f).free = s.free := rfl
@[simp] theorem State.onLaunch_defer (lid : BitVec 32) (f : Launch → Launch) : (s.onLaunch lid f).defer = s.defer := rfl
@[simp] theorem State.onLaunch_nextWave (lid : BitVec 32) (f : Launch → Launch) : (s.onLaunch lid f).nextWave = s.nextWave := rfl
@[simp] theorem State.onLaunch_mem (lid : BitVec 32) (f : Launch → Launch) : (s.onLaunch lid f).mem = s.mem := rfl
@[simp] theorem State.onLaunch_hbm (lid : BitVec 32) (f : Launch → Launch) : (s.onLaunch lid f).hbm = s.hbm := rfl
@[simp] theorem State.onLaunch_limbo (lid : BitVec 32) (f : Launch → Launch) : (s.onLaunch lid f).limbo = s.limbo := rfl
@[simp] theorem State.onLaunch_peers (lid : BitVec 32) (f : Launch → Launch) : (s.onLaunch lid f).peers = s.peers := rfl
@[simp] theorem State.onLaunch_keyed (lid : BitVec 32) (f : Launch → Launch) : (s.onLaunch lid f).keyed = s.keyed := rfl
@[simp] theorem State.onLaunch_poison (lid : BitVec 32) (f : Launch → Launch) : (s.onLaunch lid f).poison = s.poison := rfl
@[simp] theorem State.onLaunch_cores (lid : BitVec 32) (f : Launch → Launch) : (s.onLaunch lid f).cores = s.cores := rfl
@[simp] theorem State.onLaunch_caches (lid : BitVec 32) (f : Launch → Launch) : (s.onLaunch lid f).caches = s.caches := rfl
@[simp] theorem State.onLaunch_dies (lid : BitVec 32) (f : Launch → Launch) : (s.onLaunch lid f).dies = s.dies := rfl
@[simp] theorem State.onLaunch_directory (lid : BitVec 32) (f : Launch → Launch) : (s.onLaunch lid f).directory = s.directory := rfl
@[simp] theorem State.onLaunch_waiters (lid : BitVec 32) (f : Launch → Launch) : (s.onLaunch lid f).waiters = s.waiters := rfl
@[simp] theorem State.onLaunch_requests (lid : BitVec 32) (f : Launch → Launch) : (s.onLaunch lid f).requests = s.requests := rfl
@[simp] theorem State.onLaunch_ccps (lid : BitVec 32) (f : Launch → Launch) : (s.onLaunch lid f).ccps = s.ccps := rfl
@[simp] theorem State.onLaunch_launches (lid : BitVec 32) (f : Launch → Launch) : (s.onLaunch lid f).launches = s.launches.map (fun l => if l.lid == lid then f l else l) := rfl
@[simp] theorem State.onLaunch_statuses (lid : BitVec 32) (f : Launch → Launch) : (s.onLaunch lid f).statuses = s.statuses := rfl
@[simp] theorem State.onLaunch_lost (lid : BitVec 32) (f : Launch → Launch) : (s.onLaunch lid f).lost = s.lost := rfl
@[simp] theorem State.onLaunch_children (lid : BitVec 32) (f : Launch → Launch) : (s.onLaunch lid f).children = s.children := rfl
@[simp] theorem State.onLaunch_parsed (lid : BitVec 32) (f : Launch → Launch) : (s.onLaunch lid f).parsed = s.parsed := rfl
@[simp] theorem State.onLaunch_queues (lid : BitVec 32) (f : Launch → Launch) : (s.onLaunch lid f).queues = s.queues := rfl
@[simp] theorem State.onLaunch_pools (lid : BitVec 32) (f : Launch → Launch) : (s.onLaunch lid f).pools = s.pools := rfl
@[simp] theorem State.onLaunch_blocks (lid : BitVec 32) (f : Launch → Launch) : (s.onLaunch lid f).blocks = s.blocks := rfl
@[simp] theorem State.onLaunch_engines (lid : BitVec 32) (f : Launch → Launch) : (s.onLaunch lid f).engines = s.engines := rfl
@[simp] theorem State.onLaunch_pairs (lid : BitVec 32) (f : Launch → Launch) : (s.onLaunch lid f).pairs = s.pairs := rfl
@[simp] theorem State.onLaunch_fw (lid : BitVec 32) (f : Launch → Launch) : (s.onLaunch lid f).fw = s.fw := rfl
@[simp] theorem State.onLaunch_msix (lid : BitVec 32) (f : Launch → Launch) : (s.onLaunch lid f).msix = s.msix := rfl
@[simp] theorem State.onLaunch_reply (lid : BitVec 32) (f : Launch → Launch) : (s.onLaunch lid f).reply = s.reply := rfl
@[simp] theorem State.onLaunch_replyError (lid : BitVec 32) (f : Launch → Launch) : (s.onLaunch lid f).replyError = s.replyError := rfl

/-! ### `State.onBlock` -/

@[simp] theorem State.onBlock_w (lid : BitVec 32) (b : Nat) (f : Block → Block) : (s.onBlock lid b f).w = s.w := rfl
@[simp] theorem State.onBlock_others (lid : BitVec 32) (b : Nat) (f : Block → Block) : (s.onBlock lid b f).others = s.others := rfl
@[simp] theorem State.onBlock_lane (lid : BitVec 32) (b : Nat) (f : Block → Block) : (s.onBlock lid b f).lane = s.lane := rfl
@[simp] theorem State.onBlock_frag (lid : BitVec 32) (b : Nat) (f : Block → Block) : (s.onBlock lid b f).frag = s.frag := rfl
@[simp] theorem State.onBlock_stalled (lid : BitVec 32) (b : Nat) (f : Block → Block) : (s.onBlock lid b f).stalled = s.stalled := rfl
@[simp] theorem State.onBlock_agenda (lid : BitVec 32) (b : Nat) (f : Block → Block) : (s.onBlock lid b f).agenda = s.agenda := rfl
@[simp] theorem State.onBlock_input (lid : BitVec 32) (b : Nat) (f : Block → Block) : (s.onBlock lid b f).input = s.input := rfl
@[simp] theorem State.onBlock_now (lid : BitVec 32) (b : Nat) (f : Block → Block) : (s.onBlock lid b f).now = s.now := rfl
@[simp] theorem State.onBlock_seq (lid : BitVec 32) (b : Nat) (f : Block → Block) : (s.onBlock lid b f).seq = s.seq := rfl
@[simp] theorem State.onBlock_free (lid : BitVec 32) (b : Nat) (f : Block → Block) : (s.onBlock lid b f).free = s.free := rfl
@[simp] theorem State.onBlock_defer (lid : BitVec 32) (b : Nat) (f : Block → Block) : (s.onBlock lid b f).defer = s.defer := rfl
@[simp] theorem State.onBlock_nextWave (lid : BitVec 32) (b : Nat) (f : Block → Block) : (s.onBlock lid b f).nextWave = s.nextWave := rfl
@[simp] theorem State.onBlock_mem (lid : BitVec 32) (b : Nat) (f : Block → Block) : (s.onBlock lid b f).mem = s.mem := rfl
@[simp] theorem State.onBlock_hbm (lid : BitVec 32) (b : Nat) (f : Block → Block) : (s.onBlock lid b f).hbm = s.hbm := rfl
@[simp] theorem State.onBlock_limbo (lid : BitVec 32) (b : Nat) (f : Block → Block) : (s.onBlock lid b f).limbo = s.limbo := rfl
@[simp] theorem State.onBlock_peers (lid : BitVec 32) (b : Nat) (f : Block → Block) : (s.onBlock lid b f).peers = s.peers := rfl
@[simp] theorem State.onBlock_keyed (lid : BitVec 32) (b : Nat) (f : Block → Block) : (s.onBlock lid b f).keyed = s.keyed := rfl
@[simp] theorem State.onBlock_poison (lid : BitVec 32) (b : Nat) (f : Block → Block) : (s.onBlock lid b f).poison = s.poison := rfl
@[simp] theorem State.onBlock_cores (lid : BitVec 32) (b : Nat) (f : Block → Block) : (s.onBlock lid b f).cores = s.cores := rfl
@[simp] theorem State.onBlock_caches (lid : BitVec 32) (b : Nat) (f : Block → Block) : (s.onBlock lid b f).caches = s.caches := rfl
@[simp] theorem State.onBlock_dies (lid : BitVec 32) (b : Nat) (f : Block → Block) : (s.onBlock lid b f).dies = s.dies := rfl
@[simp] theorem State.onBlock_directory (lid : BitVec 32) (b : Nat) (f : Block → Block) : (s.onBlock lid b f).directory = s.directory := rfl
@[simp] theorem State.onBlock_waiters (lid : BitVec 32) (b : Nat) (f : Block → Block) : (s.onBlock lid b f).waiters = s.waiters := rfl
@[simp] theorem State.onBlock_requests (lid : BitVec 32) (b : Nat) (f : Block → Block) : (s.onBlock lid b f).requests = s.requests := rfl
@[simp] theorem State.onBlock_ccps (lid : BitVec 32) (b : Nat) (f : Block → Block) : (s.onBlock lid b f).ccps = s.ccps := rfl
@[simp] theorem State.onBlock_launches (lid : BitVec 32) (b : Nat) (f : Block → Block) : (s.onBlock lid b f).launches = s.launches := rfl
@[simp] theorem State.onBlock_statuses (lid : BitVec 32) (b : Nat) (f : Block → Block) : (s.onBlock lid b f).statuses = s.statuses := rfl
@[simp] theorem State.onBlock_lost (lid : BitVec 32) (b : Nat) (f : Block → Block) : (s.onBlock lid b f).lost = s.lost := rfl
@[simp] theorem State.onBlock_children (lid : BitVec 32) (b : Nat) (f : Block → Block) : (s.onBlock lid b f).children = s.children := rfl
@[simp] theorem State.onBlock_parsed (lid : BitVec 32) (b : Nat) (f : Block → Block) : (s.onBlock lid b f).parsed = s.parsed := rfl
@[simp] theorem State.onBlock_queues (lid : BitVec 32) (b : Nat) (f : Block → Block) : (s.onBlock lid b f).queues = s.queues := rfl
@[simp] theorem State.onBlock_pools (lid : BitVec 32) (b : Nat) (f : Block → Block) : (s.onBlock lid b f).pools = s.pools := rfl
@[simp] theorem State.onBlock_blocks (lid : BitVec 32) (b : Nat) (f : Block → Block) : (s.onBlock lid b f).blocks = s.blocks.map (fun x => if x.lid == lid && x.blk == b then f x else x) := rfl
@[simp] theorem State.onBlock_engines (lid : BitVec 32) (b : Nat) (f : Block → Block) : (s.onBlock lid b f).engines = s.engines := rfl
@[simp] theorem State.onBlock_pairs (lid : BitVec 32) (b : Nat) (f : Block → Block) : (s.onBlock lid b f).pairs = s.pairs := rfl
@[simp] theorem State.onBlock_fw (lid : BitVec 32) (b : Nat) (f : Block → Block) : (s.onBlock lid b f).fw = s.fw := rfl
@[simp] theorem State.onBlock_msix (lid : BitVec 32) (b : Nat) (f : Block → Block) : (s.onBlock lid b f).msix = s.msix := rfl
@[simp] theorem State.onBlock_reply (lid : BitVec 32) (b : Nat) (f : Block → Block) : (s.onBlock lid b f).reply = s.reply := rfl
@[simp] theorem State.onBlock_replyError (lid : BitVec 32) (b : Nat) (f : Block → Block) : (s.onBlock lid b f).replyError = s.replyError := rfl

/-! ### `State.setCore` -/

@[simp] theorem State.setCore_w (g : Nat) (c : Core) : (s.setCore g c).w = s.w := rfl
@[simp] theorem State.setCore_others (g : Nat) (c : Core) : (s.setCore g c).others = s.others := rfl
@[simp] theorem State.setCore_lane (g : Nat) (c : Core) : (s.setCore g c).lane = s.lane := rfl
@[simp] theorem State.setCore_frag (g : Nat) (c : Core) : (s.setCore g c).frag = s.frag := rfl
@[simp] theorem State.setCore_stalled (g : Nat) (c : Core) : (s.setCore g c).stalled = s.stalled := rfl
@[simp] theorem State.setCore_agenda (g : Nat) (c : Core) : (s.setCore g c).agenda = s.agenda := rfl
@[simp] theorem State.setCore_input (g : Nat) (c : Core) : (s.setCore g c).input = s.input := rfl
@[simp] theorem State.setCore_now (g : Nat) (c : Core) : (s.setCore g c).now = s.now := rfl
@[simp] theorem State.setCore_seq (g : Nat) (c : Core) : (s.setCore g c).seq = s.seq := rfl
@[simp] theorem State.setCore_free (g : Nat) (c : Core) : (s.setCore g c).free = s.free := rfl
@[simp] theorem State.setCore_defer (g : Nat) (c : Core) : (s.setCore g c).defer = s.defer := rfl
@[simp] theorem State.setCore_nextWave (g : Nat) (c : Core) : (s.setCore g c).nextWave = s.nextWave := rfl
@[simp] theorem State.setCore_mem (g : Nat) (c : Core) : (s.setCore g c).mem = s.mem := rfl
@[simp] theorem State.setCore_hbm (g : Nat) (c : Core) : (s.setCore g c).hbm = s.hbm := rfl
@[simp] theorem State.setCore_limbo (g : Nat) (c : Core) : (s.setCore g c).limbo = s.limbo := rfl
@[simp] theorem State.setCore_peers (g : Nat) (c : Core) : (s.setCore g c).peers = s.peers := rfl
@[simp] theorem State.setCore_keyed (g : Nat) (c : Core) : (s.setCore g c).keyed = s.keyed := rfl
@[simp] theorem State.setCore_poison (g : Nat) (c : Core) : (s.setCore g c).poison = s.poison := rfl
@[simp] theorem State.setCore_cores (g : Nat) (c : Core) : (s.setCore g c).cores = Table.put s.cores g c := rfl
@[simp] theorem State.setCore_caches (g : Nat) (c : Core) : (s.setCore g c).caches = s.caches := rfl
@[simp] theorem State.setCore_dies (g : Nat) (c : Core) : (s.setCore g c).dies = s.dies := rfl
@[simp] theorem State.setCore_directory (g : Nat) (c : Core) : (s.setCore g c).directory = s.directory := rfl
@[simp] theorem State.setCore_waiters (g : Nat) (c : Core) : (s.setCore g c).waiters = s.waiters := rfl
@[simp] theorem State.setCore_requests (g : Nat) (c : Core) : (s.setCore g c).requests = s.requests := rfl
@[simp] theorem State.setCore_ccps (g : Nat) (c : Core) : (s.setCore g c).ccps = s.ccps := rfl
@[simp] theorem State.setCore_launches (g : Nat) (c : Core) : (s.setCore g c).launches = s.launches := rfl
@[simp] theorem State.setCore_statuses (g : Nat) (c : Core) : (s.setCore g c).statuses = s.statuses := rfl
@[simp] theorem State.setCore_lost (g : Nat) (c : Core) : (s.setCore g c).lost = s.lost := rfl
@[simp] theorem State.setCore_children (g : Nat) (c : Core) : (s.setCore g c).children = s.children := rfl
@[simp] theorem State.setCore_parsed (g : Nat) (c : Core) : (s.setCore g c).parsed = s.parsed := rfl
@[simp] theorem State.setCore_queues (g : Nat) (c : Core) : (s.setCore g c).queues = s.queues := rfl
@[simp] theorem State.setCore_pools (g : Nat) (c : Core) : (s.setCore g c).pools = s.pools := rfl
@[simp] theorem State.setCore_blocks (g : Nat) (c : Core) : (s.setCore g c).blocks = s.blocks := rfl
@[simp] theorem State.setCore_engines (g : Nat) (c : Core) : (s.setCore g c).engines = s.engines := rfl
@[simp] theorem State.setCore_pairs (g : Nat) (c : Core) : (s.setCore g c).pairs = s.pairs := rfl
@[simp] theorem State.setCore_fw (g : Nat) (c : Core) : (s.setCore g c).fw = s.fw := rfl
@[simp] theorem State.setCore_msix (g : Nat) (c : Core) : (s.setCore g c).msix = s.msix := rfl
@[simp] theorem State.setCore_reply (g : Nat) (c : Core) : (s.setCore g c).reply = s.reply := rfl
@[simp] theorem State.setCore_replyError (g : Nat) (c : Core) : (s.setCore g c).replyError = s.replyError := rfl

/-! ### `State.setDie` -/

@[simp] theorem State.setDie_w (b : Nat) (d : Die) : (s.setDie b d).w = s.w := rfl
@[simp] theorem State.setDie_others (b : Nat) (d : Die) : (s.setDie b d).others = s.others := rfl
@[simp] theorem State.setDie_lane (b : Nat) (d : Die) : (s.setDie b d).lane = s.lane := rfl
@[simp] theorem State.setDie_frag (b : Nat) (d : Die) : (s.setDie b d).frag = s.frag := rfl
@[simp] theorem State.setDie_stalled (b : Nat) (d : Die) : (s.setDie b d).stalled = s.stalled := rfl
@[simp] theorem State.setDie_agenda (b : Nat) (d : Die) : (s.setDie b d).agenda = s.agenda := rfl
@[simp] theorem State.setDie_input (b : Nat) (d : Die) : (s.setDie b d).input = s.input := rfl
@[simp] theorem State.setDie_now (b : Nat) (d : Die) : (s.setDie b d).now = s.now := rfl
@[simp] theorem State.setDie_seq (b : Nat) (d : Die) : (s.setDie b d).seq = s.seq := rfl
@[simp] theorem State.setDie_free (b : Nat) (d : Die) : (s.setDie b d).free = s.free := rfl
@[simp] theorem State.setDie_defer (b : Nat) (d : Die) : (s.setDie b d).defer = s.defer := rfl
@[simp] theorem State.setDie_nextWave (b : Nat) (d : Die) : (s.setDie b d).nextWave = s.nextWave := rfl
@[simp] theorem State.setDie_mem (b : Nat) (d : Die) : (s.setDie b d).mem = s.mem := rfl
@[simp] theorem State.setDie_hbm (b : Nat) (d : Die) : (s.setDie b d).hbm = s.hbm := rfl
@[simp] theorem State.setDie_limbo (b : Nat) (d : Die) : (s.setDie b d).limbo = s.limbo := rfl
@[simp] theorem State.setDie_peers (b : Nat) (d : Die) : (s.setDie b d).peers = s.peers := rfl
@[simp] theorem State.setDie_keyed (b : Nat) (d : Die) : (s.setDie b d).keyed = s.keyed := rfl
@[simp] theorem State.setDie_poison (b : Nat) (d : Die) : (s.setDie b d).poison = s.poison := rfl
@[simp] theorem State.setDie_cores (b : Nat) (d : Die) : (s.setDie b d).cores = s.cores := rfl
@[simp] theorem State.setDie_caches (b : Nat) (d : Die) : (s.setDie b d).caches = s.caches := rfl
@[simp] theorem State.setDie_dies (b : Nat) (d : Die) : (s.setDie b d).dies = Table.put s.dies b d := rfl
@[simp] theorem State.setDie_directory (b : Nat) (d : Die) : (s.setDie b d).directory = s.directory := rfl
@[simp] theorem State.setDie_waiters (b : Nat) (d : Die) : (s.setDie b d).waiters = s.waiters := rfl
@[simp] theorem State.setDie_requests (b : Nat) (d : Die) : (s.setDie b d).requests = s.requests := rfl
@[simp] theorem State.setDie_ccps (b : Nat) (d : Die) : (s.setDie b d).ccps = s.ccps := rfl
@[simp] theorem State.setDie_launches (b : Nat) (d : Die) : (s.setDie b d).launches = s.launches := rfl
@[simp] theorem State.setDie_statuses (b : Nat) (d : Die) : (s.setDie b d).statuses = s.statuses := rfl
@[simp] theorem State.setDie_lost (b : Nat) (d : Die) : (s.setDie b d).lost = s.lost := rfl
@[simp] theorem State.setDie_children (b : Nat) (d : Die) : (s.setDie b d).children = s.children := rfl
@[simp] theorem State.setDie_parsed (b : Nat) (d : Die) : (s.setDie b d).parsed = s.parsed := rfl
@[simp] theorem State.setDie_queues (b : Nat) (d : Die) : (s.setDie b d).queues = s.queues := rfl
@[simp] theorem State.setDie_pools (b : Nat) (d : Die) : (s.setDie b d).pools = s.pools := rfl
@[simp] theorem State.setDie_blocks (b : Nat) (d : Die) : (s.setDie b d).blocks = s.blocks := rfl
@[simp] theorem State.setDie_engines (b : Nat) (d : Die) : (s.setDie b d).engines = s.engines := rfl
@[simp] theorem State.setDie_pairs (b : Nat) (d : Die) : (s.setDie b d).pairs = s.pairs := rfl
@[simp] theorem State.setDie_fw (b : Nat) (d : Die) : (s.setDie b d).fw = s.fw := rfl
@[simp] theorem State.setDie_msix (b : Nat) (d : Die) : (s.setDie b d).msix = s.msix := rfl
@[simp] theorem State.setDie_reply (b : Nat) (d : Die) : (s.setDie b d).reply = s.reply := rfl
@[simp] theorem State.setDie_replyError (b : Nat) (d : Die) : (s.setDie b d).replyError = s.replyError := rfl

/-! ### `State.setCcp` -/

@[simp] theorem State.setCcp_w (c : Nat) (p : Ccp) : (s.setCcp c p).w = s.w := rfl
@[simp] theorem State.setCcp_others (c : Nat) (p : Ccp) : (s.setCcp c p).others = s.others := rfl
@[simp] theorem State.setCcp_lane (c : Nat) (p : Ccp) : (s.setCcp c p).lane = s.lane := rfl
@[simp] theorem State.setCcp_frag (c : Nat) (p : Ccp) : (s.setCcp c p).frag = s.frag := rfl
@[simp] theorem State.setCcp_stalled (c : Nat) (p : Ccp) : (s.setCcp c p).stalled = s.stalled := rfl
@[simp] theorem State.setCcp_agenda (c : Nat) (p : Ccp) : (s.setCcp c p).agenda = s.agenda := rfl
@[simp] theorem State.setCcp_input (c : Nat) (p : Ccp) : (s.setCcp c p).input = s.input := rfl
@[simp] theorem State.setCcp_now (c : Nat) (p : Ccp) : (s.setCcp c p).now = s.now := rfl
@[simp] theorem State.setCcp_seq (c : Nat) (p : Ccp) : (s.setCcp c p).seq = s.seq := rfl
@[simp] theorem State.setCcp_free (c : Nat) (p : Ccp) : (s.setCcp c p).free = s.free := rfl
@[simp] theorem State.setCcp_defer (c : Nat) (p : Ccp) : (s.setCcp c p).defer = s.defer := rfl
@[simp] theorem State.setCcp_nextWave (c : Nat) (p : Ccp) : (s.setCcp c p).nextWave = s.nextWave := rfl
@[simp] theorem State.setCcp_mem (c : Nat) (p : Ccp) : (s.setCcp c p).mem = s.mem := rfl
@[simp] theorem State.setCcp_hbm (c : Nat) (p : Ccp) : (s.setCcp c p).hbm = s.hbm := rfl
@[simp] theorem State.setCcp_limbo (c : Nat) (p : Ccp) : (s.setCcp c p).limbo = s.limbo := rfl
@[simp] theorem State.setCcp_peers (c : Nat) (p : Ccp) : (s.setCcp c p).peers = s.peers := rfl
@[simp] theorem State.setCcp_keyed (c : Nat) (p : Ccp) : (s.setCcp c p).keyed = s.keyed := rfl
@[simp] theorem State.setCcp_poison (c : Nat) (p : Ccp) : (s.setCcp c p).poison = s.poison := rfl
@[simp] theorem State.setCcp_cores (c : Nat) (p : Ccp) : (s.setCcp c p).cores = s.cores := rfl
@[simp] theorem State.setCcp_caches (c : Nat) (p : Ccp) : (s.setCcp c p).caches = s.caches := rfl
@[simp] theorem State.setCcp_dies (c : Nat) (p : Ccp) : (s.setCcp c p).dies = s.dies := rfl
@[simp] theorem State.setCcp_directory (c : Nat) (p : Ccp) : (s.setCcp c p).directory = s.directory := rfl
@[simp] theorem State.setCcp_waiters (c : Nat) (p : Ccp) : (s.setCcp c p).waiters = s.waiters := rfl
@[simp] theorem State.setCcp_requests (c : Nat) (p : Ccp) : (s.setCcp c p).requests = s.requests := rfl
@[simp] theorem State.setCcp_ccps (c : Nat) (p : Ccp) : (s.setCcp c p).ccps = Table.put s.ccps c p := rfl
@[simp] theorem State.setCcp_launches (c : Nat) (p : Ccp) : (s.setCcp c p).launches = s.launches := rfl
@[simp] theorem State.setCcp_statuses (c : Nat) (p : Ccp) : (s.setCcp c p).statuses = s.statuses := rfl
@[simp] theorem State.setCcp_lost (c : Nat) (p : Ccp) : (s.setCcp c p).lost = s.lost := rfl
@[simp] theorem State.setCcp_children (c : Nat) (p : Ccp) : (s.setCcp c p).children = s.children := rfl
@[simp] theorem State.setCcp_parsed (c : Nat) (p : Ccp) : (s.setCcp c p).parsed = s.parsed := rfl
@[simp] theorem State.setCcp_queues (c : Nat) (p : Ccp) : (s.setCcp c p).queues = s.queues := rfl
@[simp] theorem State.setCcp_pools (c : Nat) (p : Ccp) : (s.setCcp c p).pools = s.pools := rfl
@[simp] theorem State.setCcp_blocks (c : Nat) (p : Ccp) : (s.setCcp c p).blocks = s.blocks := rfl
@[simp] theorem State.setCcp_engines (c : Nat) (p : Ccp) : (s.setCcp c p).engines = s.engines := rfl
@[simp] theorem State.setCcp_pairs (c : Nat) (p : Ccp) : (s.setCcp c p).pairs = s.pairs := rfl
@[simp] theorem State.setCcp_fw (c : Nat) (p : Ccp) : (s.setCcp c p).fw = s.fw := rfl
@[simp] theorem State.setCcp_msix (c : Nat) (p : Ccp) : (s.setCcp c p).msix = s.msix := rfl
@[simp] theorem State.setCcp_reply (c : Nat) (p : Ccp) : (s.setCcp c p).reply = s.reply := rfl
@[simp] theorem State.setCcp_replyError (c : Nat) (p : Ccp) : (s.setCcp c p).replyError = s.replyError := rfl

/-! ### `State.setPair` -/

@[simp] theorem State.setPair_w (q : Nat) (p : Pair) : (s.setPair q p).w = s.w := rfl
@[simp] theorem State.setPair_others (q : Nat) (p : Pair) : (s.setPair q p).others = s.others := rfl
@[simp] theorem State.setPair_lane (q : Nat) (p : Pair) : (s.setPair q p).lane = s.lane := rfl
@[simp] theorem State.setPair_frag (q : Nat) (p : Pair) : (s.setPair q p).frag = s.frag := rfl
@[simp] theorem State.setPair_stalled (q : Nat) (p : Pair) : (s.setPair q p).stalled = s.stalled := rfl
@[simp] theorem State.setPair_agenda (q : Nat) (p : Pair) : (s.setPair q p).agenda = s.agenda := rfl
@[simp] theorem State.setPair_input (q : Nat) (p : Pair) : (s.setPair q p).input = s.input := rfl
@[simp] theorem State.setPair_now (q : Nat) (p : Pair) : (s.setPair q p).now = s.now := rfl
@[simp] theorem State.setPair_seq (q : Nat) (p : Pair) : (s.setPair q p).seq = s.seq := rfl
@[simp] theorem State.setPair_free (q : Nat) (p : Pair) : (s.setPair q p).free = s.free := rfl
@[simp] theorem State.setPair_defer (q : Nat) (p : Pair) : (s.setPair q p).defer = s.defer := rfl
@[simp] theorem State.setPair_nextWave (q : Nat) (p : Pair) : (s.setPair q p).nextWave = s.nextWave := rfl
@[simp] theorem State.setPair_mem (q : Nat) (p : Pair) : (s.setPair q p).mem = s.mem := rfl
@[simp] theorem State.setPair_hbm (q : Nat) (p : Pair) : (s.setPair q p).hbm = s.hbm := rfl
@[simp] theorem State.setPair_limbo (q : Nat) (p : Pair) : (s.setPair q p).limbo = s.limbo := rfl
@[simp] theorem State.setPair_peers (q : Nat) (p : Pair) : (s.setPair q p).peers = s.peers := rfl
@[simp] theorem State.setPair_keyed (q : Nat) (p : Pair) : (s.setPair q p).keyed = s.keyed := rfl
@[simp] theorem State.setPair_poison (q : Nat) (p : Pair) : (s.setPair q p).poison = s.poison := rfl
@[simp] theorem State.setPair_cores (q : Nat) (p : Pair) : (s.setPair q p).cores = s.cores := rfl
@[simp] theorem State.setPair_caches (q : Nat) (p : Pair) : (s.setPair q p).caches = s.caches := rfl
@[simp] theorem State.setPair_dies (q : Nat) (p : Pair) : (s.setPair q p).dies = s.dies := rfl
@[simp] theorem State.setPair_directory (q : Nat) (p : Pair) : (s.setPair q p).directory = s.directory := rfl
@[simp] theorem State.setPair_waiters (q : Nat) (p : Pair) : (s.setPair q p).waiters = s.waiters := rfl
@[simp] theorem State.setPair_requests (q : Nat) (p : Pair) : (s.setPair q p).requests = s.requests := rfl
@[simp] theorem State.setPair_ccps (q : Nat) (p : Pair) : (s.setPair q p).ccps = s.ccps := rfl
@[simp] theorem State.setPair_launches (q : Nat) (p : Pair) : (s.setPair q p).launches = s.launches := rfl
@[simp] theorem State.setPair_statuses (q : Nat) (p : Pair) : (s.setPair q p).statuses = s.statuses := rfl
@[simp] theorem State.setPair_lost (q : Nat) (p : Pair) : (s.setPair q p).lost = s.lost := rfl
@[simp] theorem State.setPair_children (q : Nat) (p : Pair) : (s.setPair q p).children = s.children := rfl
@[simp] theorem State.setPair_parsed (q : Nat) (p : Pair) : (s.setPair q p).parsed = s.parsed := rfl
@[simp] theorem State.setPair_queues (q : Nat) (p : Pair) : (s.setPair q p).queues = s.queues := rfl
@[simp] theorem State.setPair_pools (q : Nat) (p : Pair) : (s.setPair q p).pools = s.pools := rfl
@[simp] theorem State.setPair_blocks (q : Nat) (p : Pair) : (s.setPair q p).blocks = s.blocks := rfl
@[simp] theorem State.setPair_engines (q : Nat) (p : Pair) : (s.setPair q p).engines = s.engines := rfl
@[simp] theorem State.setPair_pairs (q : Nat) (p : Pair) : (s.setPair q p).pairs = Table.put s.pairs q p := rfl
@[simp] theorem State.setPair_fw (q : Nat) (p : Pair) : (s.setPair q p).fw = s.fw := rfl
@[simp] theorem State.setPair_msix (q : Nat) (p : Pair) : (s.setPair q p).msix = s.msix := rfl
@[simp] theorem State.setPair_reply (q : Nat) (p : Pair) : (s.setPair q p).reply = s.reply := rfl
@[simp] theorem State.setPair_replyError (q : Nat) (p : Pair) : (s.setPair q p).replyError = s.replyError := rfl

/-! ### `State.advance` -/

@[simp] theorem State.advance_others (n : Nat) : (s.advance n).others = s.others := rfl
@[simp] theorem State.advance_lane (n : Nat) : (s.advance n).lane = s.lane := rfl
@[simp] theorem State.advance_frag (n : Nat) : (s.advance n).frag = s.frag := rfl
@[simp] theorem State.advance_stalled (n : Nat) : (s.advance n).stalled = s.stalled := rfl
@[simp] theorem State.advance_agenda (n : Nat) : (s.advance n).agenda = s.agenda := rfl
@[simp] theorem State.advance_input (n : Nat) : (s.advance n).input = s.input := rfl
@[simp] theorem State.advance_now (n : Nat) : (s.advance n).now = s.now := rfl
@[simp] theorem State.advance_seq (n : Nat) : (s.advance n).seq = s.seq := rfl
@[simp] theorem State.advance_free (n : Nat) : (s.advance n).free = s.free := rfl
@[simp] theorem State.advance_defer (n : Nat) : (s.advance n).defer = s.defer := rfl
@[simp] theorem State.advance_nextWave (n : Nat) : (s.advance n).nextWave = s.nextWave := rfl
@[simp] theorem State.advance_mem (n : Nat) : (s.advance n).mem = s.mem := rfl
@[simp] theorem State.advance_hbm (n : Nat) : (s.advance n).hbm = s.hbm := rfl
@[simp] theorem State.advance_limbo (n : Nat) : (s.advance n).limbo = s.limbo := rfl
@[simp] theorem State.advance_peers (n : Nat) : (s.advance n).peers = s.peers := rfl
@[simp] theorem State.advance_keyed (n : Nat) : (s.advance n).keyed = s.keyed := rfl
@[simp] theorem State.advance_poison (n : Nat) : (s.advance n).poison = s.poison := rfl
@[simp] theorem State.advance_cores (n : Nat) : (s.advance n).cores = s.cores := rfl
@[simp] theorem State.advance_caches (n : Nat) : (s.advance n).caches = s.caches := rfl
@[simp] theorem State.advance_dies (n : Nat) : (s.advance n).dies = s.dies := rfl
@[simp] theorem State.advance_directory (n : Nat) : (s.advance n).directory = s.directory := rfl
@[simp] theorem State.advance_waiters (n : Nat) : (s.advance n).waiters = s.waiters := rfl
@[simp] theorem State.advance_requests (n : Nat) : (s.advance n).requests = s.requests := rfl
@[simp] theorem State.advance_ccps (n : Nat) : (s.advance n).ccps = s.ccps := rfl
@[simp] theorem State.advance_launches (n : Nat) : (s.advance n).launches = s.launches := rfl
@[simp] theorem State.advance_statuses (n : Nat) : (s.advance n).statuses = s.statuses := rfl
@[simp] theorem State.advance_lost (n : Nat) : (s.advance n).lost = s.lost := rfl
@[simp] theorem State.advance_children (n : Nat) : (s.advance n).children = s.children := rfl
@[simp] theorem State.advance_parsed (n : Nat) : (s.advance n).parsed = s.parsed := rfl
@[simp] theorem State.advance_queues (n : Nat) : (s.advance n).queues = s.queues := rfl
@[simp] theorem State.advance_pools (n : Nat) : (s.advance n).pools = s.pools := rfl
@[simp] theorem State.advance_blocks (n : Nat) : (s.advance n).blocks = s.blocks := rfl
@[simp] theorem State.advance_engines (n : Nat) : (s.advance n).engines = s.engines := rfl
@[simp] theorem State.advance_pairs (n : Nat) : (s.advance n).pairs = s.pairs := rfl
@[simp] theorem State.advance_fw (n : Nat) : (s.advance n).fw = s.fw := rfl
@[simp] theorem State.advance_msix (n : Nat) : (s.advance n).msix = s.msix := rfl
@[simp] theorem State.advance_reply (n : Nat) : (s.advance n).reply = s.reply := rfl
@[simp] theorem State.advance_replyError (n : Nat) : (s.advance n).replyError = s.replyError := rfl
@[simp] theorem State.advance_w_id (n : Nat) : (s.advance n).w.id = s.w.id := rfl
@[simp] theorem State.advance_w_ccp (n : Nat) : (s.advance n).w.ccp = s.w.ccp := rfl
@[simp] theorem State.advance_w_frame (n : Nat) : (s.advance n).w.frame = s.w.frame := rfl
@[simp] theorem State.advance_w_slot (n : Nat) : (s.advance n).w.slot = s.w.slot := rfl
@[simp] theorem State.advance_w_gen (n : Nat) : (s.advance n).w.gen = s.w.gen := rfl
@[simp] theorem State.advance_w_asid (n : Nat) : (s.advance n).w.asid = s.w.asid := rfl
@[simp] theorem State.advance_w_lid (n : Nat) : (s.advance n).w.lid = s.w.lid := rfl
@[simp] theorem State.advance_w_blk (n : Nat) : (s.advance n).w.blk = s.w.blk := rfl
@[simp] theorem State.advance_w_widx (n : Nat) : (s.advance n).w.widx = s.w.widx := rfl
@[simp] theorem State.advance_w_depth (n : Nat) : (s.advance n).w.depth = s.w.depth := rfl
@[simp] theorem State.advance_w_bx (n : Nat) : (s.advance n).w.bx = s.w.bx := rfl
@[simp] theorem State.advance_w_by (n : Nat) : (s.advance n).w.by_ = s.w.by_ := rfl
@[simp] theorem State.advance_w_bz (n : Nat) : (s.advance n).w.bz = s.w.bz := rfl
@[simp] theorem State.advance_w_waveid (n : Nat) : (s.advance n).w.waveid = s.w.waveid := rfl
@[simp] theorem State.advance_w_origin (n : Nat) : (s.advance n).w.origin = s.w.origin := rfl
@[simp] theorem State.advance_w_core (n : Nat) : (s.advance n).w.core = s.w.core := rfl
@[simp] theorem State.advance_w_place (n : Nat) : (s.advance n).w.place = s.w.place := rfl
@[simp] theorem State.advance_w_residency (n : Nat) : (s.advance n).w.residency = s.w.residency := rfl
@[simp] theorem State.advance_w_parkc (n : Nat) : (s.advance n).w.parkc = s.w.parkc := rfl
@[simp] theorem State.advance_w_swapped (n : Nat) : (s.advance n).w.swapped = s.w.swapped := rfl
@[simp] theorem State.advance_w_born (n : Nat) : (s.advance n).w.born = s.w.born := rfl
@[simp] theorem State.advance_w_since (n : Nat) : (s.advance n).w.since = s.w.since := rfl
@[simp] theorem State.advance_w_fresh (n : Nat) : (s.advance n).w.fresh = s.w.fresh := rfl
@[simp] theorem State.advance_w_budgetDue (n : Nat) : (s.advance n).w.budgetDue = s.w.budgetDue := rfl
@[simp] theorem State.advance_w_budgetLost (n : Nat) : (s.advance n).w.budgetLost = s.w.budgetLost := rfl
@[simp] theorem State.advance_w_target (n : Nat) : (s.advance n).w.target = s.w.target := rfl
@[simp] theorem State.advance_w_v (n : Nat) : (s.advance n).w.v = s.w.v := rfl
@[simp] theorem State.advance_w_x (n : Nat) : (s.advance n).w.x = s.w.x := rfl
@[simp] theorem State.advance_w_sreg (n : Nat) : (s.advance n).w.sreg = s.w.sreg := rfl
@[simp] theorem State.advance_w_m (n : Nat) : (s.advance n).w.m = s.w.m := rfl
@[simp] theorem State.advance_w_z (n : Nat) : (s.advance n).w.z = s.w.z := rfl
@[simp] theorem State.advance_w_o (n : Nat) : (s.advance n).w.o = s.w.o := rfl
@[simp] theorem State.advance_w_l (n : Nat) : (s.advance n).w.l = s.w.l := rfl
@[simp] theorem State.advance_w_gens (n : Nat) : (s.advance n).w.gens = s.w.gens := rfl
@[simp] theorem State.advance_w_fmtw (n : Nat) : (s.advance n).w.fmtw = s.w.fmtw := rfl
@[simp] theorem State.advance_w_regcnt (n : Nat) : (s.advance n).w.regcnt = s.w.regcnt := rfl
@[simp] theorem State.advance_w_spc (n : Nat) : (s.advance n).w.spc = s.w.spc + BitVec.ofNat 64 n := rfl
@[simp] theorem State.advance_w_lbase (n : Nat) : (s.advance n).w.lbase = s.w.lbase := rfl
@[simp] theorem State.advance_w_poolptr (n : Nat) : (s.advance n).w.poolptr = s.w.poolptr := rfl
@[simp] theorem State.advance_w_spinf (n : Nat) : (s.advance n).w.spinf = s.w.spinf := rfl
@[simp] theorem State.advance_w_stage (n : Nat) : (s.advance n).w.stage = s.w.stage := rfl
@[simp] theorem State.advance_w_lqhead (n : Nat) : (s.advance n).w.lqhead = s.w.lqhead := rfl
@[simp] theorem State.advance_w_lq (n : Nat) : (s.advance n).w.lq = s.w.lq := rfl
@[simp] theorem State.advance_w_split (n : Nat) : (s.advance n).w.split = s.w.split := rfl
@[simp] theorem State.advance_w_splitCache (n : Nat) : (s.advance n).w.splitCache = s.w.splitCache := rfl
@[simp] theorem State.advance_w_pendS (n : Nat) : (s.advance n).w.pendS = s.w.pendS := rfl
@[simp] theorem State.advance_w_pendV (n : Nat) : (s.advance n).w.pendV = s.w.pendV := rfl
@[simp] theorem State.advance_w_pendT (n : Nat) : (s.advance n).w.pendT = s.w.pendT := rfl
@[simp] theorem State.advance_w_pendcnt (n : Nat) : (s.advance n).w.pendcnt = s.w.pendcnt := rfl
@[simp] theorem State.advance_w_slots (n : Nat) : (s.advance n).w.slots = s.w.slots := rfl
@[simp] theorem State.advance_w_slotTrapf (n : Nat) : (s.advance n).w.slotTrapf = s.w.slotTrapf := rfl
@[simp] theorem State.advance_w_trampbase (n : Nat) : (s.advance n).w.trampbase = s.w.trampbase := rfl
@[simp] theorem State.advance_w_trapbase (n : Nat) : (s.advance n).w.trapbase = s.w.trapbase := rfl
@[simp] theorem State.advance_w_trapcause (n : Nat) : (s.advance n).w.trapcause = s.w.trapcause := rfl
@[simp] theorem State.advance_w_trappc (n : Nat) : (s.advance n).w.trappc = s.w.trappc := rfl
@[simp] theorem State.advance_w_trapaddr (n : Nat) : (s.advance n).w.trapaddr = s.w.trapaddr := rfl
@[simp] theorem State.advance_w_trapmask (n : Nat) : (s.advance n).w.trapmask = s.w.trapmask := rfl
@[simp] theorem State.advance_w_deadline (n : Nat) : (s.advance n).w.deadline = s.w.deadline := rfl
@[simp] theorem State.advance_w_stagemargin (n : Nat) : (s.advance n).w.stagemargin = s.w.stagemargin := rfl
@[simp] theorem State.advance_w_stagecnt (n : Nat) : (s.advance n).w.stagecnt = s.w.stagecnt := rfl
@[simp] theorem State.advance_w_dbgctl (n : Nat) : (s.advance n).w.dbgctl = s.w.dbgctl := rfl
@[simp] theorem State.advance_w_sflags (n : Nat) : (s.advance n).w.sflags = s.w.sflags := rfl
@[simp] theorem State.advance_w_wclk (n : Nat) : (s.advance n).w.wclk = s.w.wclk := rfl
@[simp] theorem State.advance_w_sampled (n : Nat) : (s.advance n).w.sampled = s.w.sampled := rfl
@[simp] theorem State.advance_w_budget (n : Nat) : (s.advance n).w.budget = s.w.budget := rfl
@[simp] theorem State.advance_w_stagetab (n : Nat) : (s.advance n).w.stagetab = s.w.stagetab := rfl
@[simp] theorem State.advance_w_inhandler (n : Nat) : (s.advance n).w.inhandler = s.w.inhandler := rfl
@[simp] theorem State.advance_w_haltlatch (n : Nat) : (s.advance n).w.haltlatch = s.w.haltlatch := rfl
@[simp] theorem State.advance_w_haltAt (n : Nat) : (s.advance n).w.haltAt = s.w.haltAt := rfl
@[simp] theorem State.advance_w_haltInfo (n : Nat) : (s.advance n).w.haltInfo = s.w.haltInfo := rfl
@[simp] theorem State.advance_w_handler (n : Nat) : (s.advance n).w.handler = s.w.handler := rfl
@[simp] theorem State.advance_w_heldTraps (n : Nat) : (s.advance n).w.heldTraps = s.w.heldTraps := rfl
@[simp] theorem State.advance_w_scalarHeld (n : Nat) : (s.advance n).w.scalarHeld = s.w.scalarHeld := rfl
@[simp] theorem State.advance_w_wait (n : Nat) : (s.advance n).w.wait = s.w.wait := rfl
@[simp] theorem State.advance_w_progress (n : Nat) : (s.advance n).w.progress = s.w.progress := rfl
@[simp] theorem State.advance_w_spinCount (n : Nat) : (s.advance n).w.spinCount = s.w.spinCount := rfl
@[simp] theorem State.advance_w_spinLines (n : Nat) : (s.advance n).w.spinLines = s.w.spinLines := rfl
@[simp] theorem State.advance_w_tp (n : Nat) : (s.advance n).w.tp = s.w.tp := rfl
@[simp] theorem State.advance_w_td (n : Nat) : (s.advance n).w.td = s.w.td := rfl
@[simp] theorem State.advance_w_lastPtc (n : Nat) : (s.advance n).w.lastPtc = s.w.lastPtc := rfl
@[simp] theorem State.advance_w_clusterWrites (n : Nat) : (s.advance n).w.clusterWrites = s.w.clusterWrites := rfl
@[simp] theorem State.advance_w_age (n : Nat) : (s.advance n).w.age = s.w.age := rfl
@[simp] theorem State.advance_w_boost (n : Nat) : (s.advance n).w.boost = s.w.boost := rfl
@[simp] theorem State.advance_w_backward (n : Nat) : (s.advance n).w.backward = s.w.backward := rfl
@[simp] theorem State.advance_w_batches (n : Nat) : (s.advance n).w.batches = s.w.batches := rfl
@[simp] theorem State.advance_w_sstall (n : Nat) : (s.advance n).w.sstall = s.w.sstall := rfl
@[simp] theorem State.advance_w_switching (n : Nat) : (s.advance n).w.switching = s.w.switching := rfl

/-! ### `State.setEntry` -/

@[simp] theorem State.setEntry_others (e : SplitEntry) : (s.setEntry e).others = s.others := rfl
@[simp] theorem State.setEntry_lane (e : SplitEntry) : (s.setEntry e).lane = s.lane := rfl
@[simp] theorem State.setEntry_frag (e : SplitEntry) : (s.setEntry e).frag = s.frag := rfl
@[simp] theorem State.setEntry_stalled (e : SplitEntry) : (s.setEntry e).stalled = s.stalled := rfl
@[simp] theorem State.setEntry_agenda (e : SplitEntry) : (s.setEntry e).agenda = s.agenda := rfl
@[simp] theorem State.setEntry_input (e : SplitEntry) : (s.setEntry e).input = s.input := rfl
@[simp] theorem State.setEntry_now (e : SplitEntry) : (s.setEntry e).now = s.now := rfl
@[simp] theorem State.setEntry_seq (e : SplitEntry) : (s.setEntry e).seq = s.seq := rfl
@[simp] theorem State.setEntry_free (e : SplitEntry) : (s.setEntry e).free = s.free := rfl
@[simp] theorem State.setEntry_defer (e : SplitEntry) : (s.setEntry e).defer = s.defer := rfl
@[simp] theorem State.setEntry_nextWave (e : SplitEntry) : (s.setEntry e).nextWave = s.nextWave := rfl
@[simp] theorem State.setEntry_mem (e : SplitEntry) : (s.setEntry e).mem = s.mem := rfl
@[simp] theorem State.setEntry_hbm (e : SplitEntry) : (s.setEntry e).hbm = s.hbm := rfl
@[simp] theorem State.setEntry_limbo (e : SplitEntry) : (s.setEntry e).limbo = s.limbo := rfl
@[simp] theorem State.setEntry_peers (e : SplitEntry) : (s.setEntry e).peers = s.peers := rfl
@[simp] theorem State.setEntry_keyed (e : SplitEntry) : (s.setEntry e).keyed = s.keyed := rfl
@[simp] theorem State.setEntry_poison (e : SplitEntry) : (s.setEntry e).poison = s.poison := rfl
@[simp] theorem State.setEntry_cores (e : SplitEntry) : (s.setEntry e).cores = s.cores := rfl
@[simp] theorem State.setEntry_caches (e : SplitEntry) : (s.setEntry e).caches = s.caches := rfl
@[simp] theorem State.setEntry_dies (e : SplitEntry) : (s.setEntry e).dies = s.dies := rfl
@[simp] theorem State.setEntry_directory (e : SplitEntry) : (s.setEntry e).directory = s.directory := rfl
@[simp] theorem State.setEntry_waiters (e : SplitEntry) : (s.setEntry e).waiters = s.waiters := rfl
@[simp] theorem State.setEntry_requests (e : SplitEntry) : (s.setEntry e).requests = s.requests := rfl
@[simp] theorem State.setEntry_ccps (e : SplitEntry) : (s.setEntry e).ccps = s.ccps := rfl
@[simp] theorem State.setEntry_launches (e : SplitEntry) : (s.setEntry e).launches = s.launches := rfl
@[simp] theorem State.setEntry_statuses (e : SplitEntry) : (s.setEntry e).statuses = s.statuses := rfl
@[simp] theorem State.setEntry_lost (e : SplitEntry) : (s.setEntry e).lost = s.lost := rfl
@[simp] theorem State.setEntry_children (e : SplitEntry) : (s.setEntry e).children = s.children := rfl
@[simp] theorem State.setEntry_parsed (e : SplitEntry) : (s.setEntry e).parsed = s.parsed := rfl
@[simp] theorem State.setEntry_queues (e : SplitEntry) : (s.setEntry e).queues = s.queues := rfl
@[simp] theorem State.setEntry_pools (e : SplitEntry) : (s.setEntry e).pools = s.pools := rfl
@[simp] theorem State.setEntry_blocks (e : SplitEntry) : (s.setEntry e).blocks = s.blocks := rfl
@[simp] theorem State.setEntry_engines (e : SplitEntry) : (s.setEntry e).engines = s.engines := rfl
@[simp] theorem State.setEntry_pairs (e : SplitEntry) : (s.setEntry e).pairs = s.pairs := rfl
@[simp] theorem State.setEntry_fw (e : SplitEntry) : (s.setEntry e).fw = s.fw := rfl
@[simp] theorem State.setEntry_msix (e : SplitEntry) : (s.setEntry e).msix = s.msix := rfl
@[simp] theorem State.setEntry_reply (e : SplitEntry) : (s.setEntry e).reply = s.reply := rfl
@[simp] theorem State.setEntry_replyError (e : SplitEntry) : (s.setEntry e).replyError = s.replyError := rfl
@[simp] theorem State.setEntry_w_id (e : SplitEntry) : (s.setEntry e).w.id = s.w.id := rfl
@[simp] theorem State.setEntry_w_ccp (e : SplitEntry) : (s.setEntry e).w.ccp = s.w.ccp := rfl
@[simp] theorem State.setEntry_w_frame (e : SplitEntry) : (s.setEntry e).w.frame = s.w.frame := rfl
@[simp] theorem State.setEntry_w_slot (e : SplitEntry) : (s.setEntry e).w.slot = s.w.slot := rfl
@[simp] theorem State.setEntry_w_gen (e : SplitEntry) : (s.setEntry e).w.gen = s.w.gen := rfl
@[simp] theorem State.setEntry_w_asid (e : SplitEntry) : (s.setEntry e).w.asid = s.w.asid := rfl
@[simp] theorem State.setEntry_w_lid (e : SplitEntry) : (s.setEntry e).w.lid = s.w.lid := rfl
@[simp] theorem State.setEntry_w_blk (e : SplitEntry) : (s.setEntry e).w.blk = s.w.blk := rfl
@[simp] theorem State.setEntry_w_widx (e : SplitEntry) : (s.setEntry e).w.widx = s.w.widx := rfl
@[simp] theorem State.setEntry_w_depth (e : SplitEntry) : (s.setEntry e).w.depth = s.w.depth := rfl
@[simp] theorem State.setEntry_w_bx (e : SplitEntry) : (s.setEntry e).w.bx = s.w.bx := rfl
@[simp] theorem State.setEntry_w_by (e : SplitEntry) : (s.setEntry e).w.by_ = s.w.by_ := rfl
@[simp] theorem State.setEntry_w_bz (e : SplitEntry) : (s.setEntry e).w.bz = s.w.bz := rfl
@[simp] theorem State.setEntry_w_waveid (e : SplitEntry) : (s.setEntry e).w.waveid = s.w.waveid := rfl
@[simp] theorem State.setEntry_w_origin (e : SplitEntry) : (s.setEntry e).w.origin = s.w.origin := rfl
@[simp] theorem State.setEntry_w_core (e : SplitEntry) : (s.setEntry e).w.core = s.w.core := rfl
@[simp] theorem State.setEntry_w_place (e : SplitEntry) : (s.setEntry e).w.place = s.w.place := rfl
@[simp] theorem State.setEntry_w_residency (e : SplitEntry) : (s.setEntry e).w.residency = s.w.residency := rfl
@[simp] theorem State.setEntry_w_parkc (e : SplitEntry) : (s.setEntry e).w.parkc = s.w.parkc := rfl
@[simp] theorem State.setEntry_w_swapped (e : SplitEntry) : (s.setEntry e).w.swapped = s.w.swapped := rfl
@[simp] theorem State.setEntry_w_born (e : SplitEntry) : (s.setEntry e).w.born = s.w.born := rfl
@[simp] theorem State.setEntry_w_since (e : SplitEntry) : (s.setEntry e).w.since = s.w.since := rfl
@[simp] theorem State.setEntry_w_fresh (e : SplitEntry) : (s.setEntry e).w.fresh = s.w.fresh := rfl
@[simp] theorem State.setEntry_w_budgetDue (e : SplitEntry) : (s.setEntry e).w.budgetDue = s.w.budgetDue := rfl
@[simp] theorem State.setEntry_w_budgetLost (e : SplitEntry) : (s.setEntry e).w.budgetLost = s.w.budgetLost := rfl
@[simp] theorem State.setEntry_w_target (e : SplitEntry) : (s.setEntry e).w.target = s.w.target := rfl
@[simp] theorem State.setEntry_w_v (e : SplitEntry) : (s.setEntry e).w.v = s.w.v := rfl
@[simp] theorem State.setEntry_w_x (e : SplitEntry) : (s.setEntry e).w.x = s.w.x := rfl
@[simp] theorem State.setEntry_w_sreg (e : SplitEntry) : (s.setEntry e).w.sreg = s.w.sreg := rfl
@[simp] theorem State.setEntry_w_m (e : SplitEntry) : (s.setEntry e).w.m = s.w.m := rfl
@[simp] theorem State.setEntry_w_z (e : SplitEntry) : (s.setEntry e).w.z = s.w.z := rfl
@[simp] theorem State.setEntry_w_o (e : SplitEntry) : (s.setEntry e).w.o = s.w.o := rfl
@[simp] theorem State.setEntry_w_l (e : SplitEntry) : (s.setEntry e).w.l = s.w.l := rfl
@[simp] theorem State.setEntry_w_gens (e : SplitEntry) : (s.setEntry e).w.gens = s.w.gens := rfl
@[simp] theorem State.setEntry_w_fmtw (e : SplitEntry) : (s.setEntry e).w.fmtw = s.w.fmtw := rfl
@[simp] theorem State.setEntry_w_regcnt (e : SplitEntry) : (s.setEntry e).w.regcnt = s.w.regcnt := rfl
@[simp] theorem State.setEntry_w_spc (e : SplitEntry) : (s.setEntry e).w.spc = s.w.spc := rfl
@[simp] theorem State.setEntry_w_lbase (e : SplitEntry) : (s.setEntry e).w.lbase = s.w.lbase := rfl
@[simp] theorem State.setEntry_w_poolptr (e : SplitEntry) : (s.setEntry e).w.poolptr = s.w.poolptr := rfl
@[simp] theorem State.setEntry_w_spinf (e : SplitEntry) : (s.setEntry e).w.spinf = s.w.spinf := rfl
@[simp] theorem State.setEntry_w_stage (e : SplitEntry) : (s.setEntry e).w.stage = s.w.stage := rfl
@[simp] theorem State.setEntry_w_lqhead (e : SplitEntry) : (s.setEntry e).w.lqhead = s.w.lqhead := rfl
@[simp] theorem State.setEntry_w_lq (e : SplitEntry) : (s.setEntry e).w.lq = s.w.lq := rfl
@[simp] theorem State.setEntry_w_split (e : SplitEntry) : (s.setEntry e).w.split = Table.put s.w.split s.frag e := rfl
@[simp] theorem State.setEntry_w_splitCache (e : SplitEntry) : (s.setEntry e).w.splitCache = s.w.splitCache := rfl
@[simp] theorem State.setEntry_w_pendS (e : SplitEntry) : (s.setEntry e).w.pendS = s.w.pendS := rfl
@[simp] theorem State.setEntry_w_pendV (e : SplitEntry) : (s.setEntry e).w.pendV = s.w.pendV := rfl
@[simp] theorem State.setEntry_w_pendT (e : SplitEntry) : (s.setEntry e).w.pendT = s.w.pendT := rfl
@[simp] theorem State.setEntry_w_pendcnt (e : SplitEntry) : (s.setEntry e).w.pendcnt = s.w.pendcnt := rfl
@[simp] theorem State.setEntry_w_slots (e : SplitEntry) : (s.setEntry e).w.slots = s.w.slots := rfl
@[simp] theorem State.setEntry_w_slotTrapf (e : SplitEntry) : (s.setEntry e).w.slotTrapf = s.w.slotTrapf := rfl
@[simp] theorem State.setEntry_w_trampbase (e : SplitEntry) : (s.setEntry e).w.trampbase = s.w.trampbase := rfl
@[simp] theorem State.setEntry_w_trapbase (e : SplitEntry) : (s.setEntry e).w.trapbase = s.w.trapbase := rfl
@[simp] theorem State.setEntry_w_trapcause (e : SplitEntry) : (s.setEntry e).w.trapcause = s.w.trapcause := rfl
@[simp] theorem State.setEntry_w_trappc (e : SplitEntry) : (s.setEntry e).w.trappc = s.w.trappc := rfl
@[simp] theorem State.setEntry_w_trapaddr (e : SplitEntry) : (s.setEntry e).w.trapaddr = s.w.trapaddr := rfl
@[simp] theorem State.setEntry_w_trapmask (e : SplitEntry) : (s.setEntry e).w.trapmask = s.w.trapmask := rfl
@[simp] theorem State.setEntry_w_deadline (e : SplitEntry) : (s.setEntry e).w.deadline = s.w.deadline := rfl
@[simp] theorem State.setEntry_w_stagemargin (e : SplitEntry) : (s.setEntry e).w.stagemargin = s.w.stagemargin := rfl
@[simp] theorem State.setEntry_w_stagecnt (e : SplitEntry) : (s.setEntry e).w.stagecnt = s.w.stagecnt := rfl
@[simp] theorem State.setEntry_w_dbgctl (e : SplitEntry) : (s.setEntry e).w.dbgctl = s.w.dbgctl := rfl
@[simp] theorem State.setEntry_w_sflags (e : SplitEntry) : (s.setEntry e).w.sflags = s.w.sflags := rfl
@[simp] theorem State.setEntry_w_wclk (e : SplitEntry) : (s.setEntry e).w.wclk = s.w.wclk := rfl
@[simp] theorem State.setEntry_w_sampled (e : SplitEntry) : (s.setEntry e).w.sampled = s.w.sampled := rfl
@[simp] theorem State.setEntry_w_budget (e : SplitEntry) : (s.setEntry e).w.budget = s.w.budget := rfl
@[simp] theorem State.setEntry_w_stagetab (e : SplitEntry) : (s.setEntry e).w.stagetab = s.w.stagetab := rfl
@[simp] theorem State.setEntry_w_inhandler (e : SplitEntry) : (s.setEntry e).w.inhandler = s.w.inhandler := rfl
@[simp] theorem State.setEntry_w_haltlatch (e : SplitEntry) : (s.setEntry e).w.haltlatch = s.w.haltlatch := rfl
@[simp] theorem State.setEntry_w_haltAt (e : SplitEntry) : (s.setEntry e).w.haltAt = s.w.haltAt := rfl
@[simp] theorem State.setEntry_w_haltInfo (e : SplitEntry) : (s.setEntry e).w.haltInfo = s.w.haltInfo := rfl
@[simp] theorem State.setEntry_w_handler (e : SplitEntry) : (s.setEntry e).w.handler = s.w.handler := rfl
@[simp] theorem State.setEntry_w_heldTraps (e : SplitEntry) : (s.setEntry e).w.heldTraps = s.w.heldTraps := rfl
@[simp] theorem State.setEntry_w_scalarHeld (e : SplitEntry) : (s.setEntry e).w.scalarHeld = s.w.scalarHeld := rfl
@[simp] theorem State.setEntry_w_wait (e : SplitEntry) : (s.setEntry e).w.wait = s.w.wait := rfl
@[simp] theorem State.setEntry_w_progress (e : SplitEntry) : (s.setEntry e).w.progress = s.w.progress := rfl
@[simp] theorem State.setEntry_w_spinCount (e : SplitEntry) : (s.setEntry e).w.spinCount = s.w.spinCount := rfl
@[simp] theorem State.setEntry_w_spinLines (e : SplitEntry) : (s.setEntry e).w.spinLines = s.w.spinLines := rfl
@[simp] theorem State.setEntry_w_tp (e : SplitEntry) : (s.setEntry e).w.tp = s.w.tp := rfl
@[simp] theorem State.setEntry_w_td (e : SplitEntry) : (s.setEntry e).w.td = s.w.td := rfl
@[simp] theorem State.setEntry_w_lastPtc (e : SplitEntry) : (s.setEntry e).w.lastPtc = s.w.lastPtc := rfl
@[simp] theorem State.setEntry_w_clusterWrites (e : SplitEntry) : (s.setEntry e).w.clusterWrites = s.w.clusterWrites := rfl
@[simp] theorem State.setEntry_w_age (e : SplitEntry) : (s.setEntry e).w.age = s.w.age := rfl
@[simp] theorem State.setEntry_w_boost (e : SplitEntry) : (s.setEntry e).w.boost = s.w.boost := rfl
@[simp] theorem State.setEntry_w_backward (e : SplitEntry) : (s.setEntry e).w.backward = s.w.backward := rfl
@[simp] theorem State.setEntry_w_batches (e : SplitEntry) : (s.setEntry e).w.batches = s.w.batches := rfl
@[simp] theorem State.setEntry_w_sstall (e : SplitEntry) : (s.setEntry e).w.sstall = s.w.sstall := rfl
@[simp] theorem State.setEntry_w_switching (e : SplitEntry) : (s.setEntry e).w.switching = s.w.switching := rfl

/-! ### `State.setS` -/

@[simp] theorem State.setS_others (d : BitVec 6) (x : Word64) : (s.setS d x).others = s.others := by unfold State.setS; split <;> rfl
@[simp] theorem State.setS_lane (d : BitVec 6) (x : Word64) : (s.setS d x).lane = s.lane := by unfold State.setS; split <;> rfl
@[simp] theorem State.setS_frag (d : BitVec 6) (x : Word64) : (s.setS d x).frag = s.frag := by unfold State.setS; split <;> rfl
@[simp] theorem State.setS_stalled (d : BitVec 6) (x : Word64) : (s.setS d x).stalled = s.stalled := by unfold State.setS; split <;> rfl
@[simp] theorem State.setS_agenda (d : BitVec 6) (x : Word64) : (s.setS d x).agenda = s.agenda := by unfold State.setS; split <;> rfl
@[simp] theorem State.setS_input (d : BitVec 6) (x : Word64) : (s.setS d x).input = s.input := by unfold State.setS; split <;> rfl
@[simp] theorem State.setS_now (d : BitVec 6) (x : Word64) : (s.setS d x).now = s.now := by unfold State.setS; split <;> rfl
@[simp] theorem State.setS_seq (d : BitVec 6) (x : Word64) : (s.setS d x).seq = s.seq := by unfold State.setS; split <;> rfl
@[simp] theorem State.setS_free (d : BitVec 6) (x : Word64) : (s.setS d x).free = s.free := by unfold State.setS; split <;> rfl
@[simp] theorem State.setS_defer (d : BitVec 6) (x : Word64) : (s.setS d x).defer = s.defer := by unfold State.setS; split <;> rfl
@[simp] theorem State.setS_nextWave (d : BitVec 6) (x : Word64) : (s.setS d x).nextWave = s.nextWave := by unfold State.setS; split <;> rfl
@[simp] theorem State.setS_mem (d : BitVec 6) (x : Word64) : (s.setS d x).mem = s.mem := by unfold State.setS; split <;> rfl
@[simp] theorem State.setS_hbm (d : BitVec 6) (x : Word64) : (s.setS d x).hbm = s.hbm := by unfold State.setS; split <;> rfl
@[simp] theorem State.setS_limbo (d : BitVec 6) (x : Word64) : (s.setS d x).limbo = s.limbo := by unfold State.setS; split <;> rfl
@[simp] theorem State.setS_peers (d : BitVec 6) (x : Word64) : (s.setS d x).peers = s.peers := by unfold State.setS; split <;> rfl
@[simp] theorem State.setS_keyed (d : BitVec 6) (x : Word64) : (s.setS d x).keyed = s.keyed := by unfold State.setS; split <;> rfl
@[simp] theorem State.setS_poison (d : BitVec 6) (x : Word64) : (s.setS d x).poison = s.poison := by unfold State.setS; split <;> rfl
@[simp] theorem State.setS_cores (d : BitVec 6) (x : Word64) : (s.setS d x).cores = s.cores := by unfold State.setS; split <;> rfl
@[simp] theorem State.setS_caches (d : BitVec 6) (x : Word64) : (s.setS d x).caches = s.caches := by unfold State.setS; split <;> rfl
@[simp] theorem State.setS_dies (d : BitVec 6) (x : Word64) : (s.setS d x).dies = s.dies := by unfold State.setS; split <;> rfl
@[simp] theorem State.setS_directory (d : BitVec 6) (x : Word64) : (s.setS d x).directory = s.directory := by unfold State.setS; split <;> rfl
@[simp] theorem State.setS_waiters (d : BitVec 6) (x : Word64) : (s.setS d x).waiters = s.waiters := by unfold State.setS; split <;> rfl
@[simp] theorem State.setS_requests (d : BitVec 6) (x : Word64) : (s.setS d x).requests = s.requests := by unfold State.setS; split <;> rfl
@[simp] theorem State.setS_ccps (d : BitVec 6) (x : Word64) : (s.setS d x).ccps = s.ccps := by unfold State.setS; split <;> rfl
@[simp] theorem State.setS_launches (d : BitVec 6) (x : Word64) : (s.setS d x).launches = s.launches := by unfold State.setS; split <;> rfl
@[simp] theorem State.setS_statuses (d : BitVec 6) (x : Word64) : (s.setS d x).statuses = s.statuses := by unfold State.setS; split <;> rfl
@[simp] theorem State.setS_lost (d : BitVec 6) (x : Word64) : (s.setS d x).lost = s.lost := by unfold State.setS; split <;> rfl
@[simp] theorem State.setS_children (d : BitVec 6) (x : Word64) : (s.setS d x).children = s.children := by unfold State.setS; split <;> rfl
@[simp] theorem State.setS_parsed (d : BitVec 6) (x : Word64) : (s.setS d x).parsed = s.parsed := by unfold State.setS; split <;> rfl
@[simp] theorem State.setS_queues (d : BitVec 6) (x : Word64) : (s.setS d x).queues = s.queues := by unfold State.setS; split <;> rfl
@[simp] theorem State.setS_pools (d : BitVec 6) (x : Word64) : (s.setS d x).pools = s.pools := by unfold State.setS; split <;> rfl
@[simp] theorem State.setS_blocks (d : BitVec 6) (x : Word64) : (s.setS d x).blocks = s.blocks := by unfold State.setS; split <;> rfl
@[simp] theorem State.setS_engines (d : BitVec 6) (x : Word64) : (s.setS d x).engines = s.engines := by unfold State.setS; split <;> rfl
@[simp] theorem State.setS_pairs (d : BitVec 6) (x : Word64) : (s.setS d x).pairs = s.pairs := by unfold State.setS; split <;> rfl
@[simp] theorem State.setS_fw (d : BitVec 6) (x : Word64) : (s.setS d x).fw = s.fw := by unfold State.setS; split <;> rfl
@[simp] theorem State.setS_msix (d : BitVec 6) (x : Word64) : (s.setS d x).msix = s.msix := by unfold State.setS; split <;> rfl
@[simp] theorem State.setS_reply (d : BitVec 6) (x : Word64) : (s.setS d x).reply = s.reply := by unfold State.setS; split <;> rfl
@[simp] theorem State.setS_replyError (d : BitVec 6) (x : Word64) : (s.setS d x).replyError = s.replyError := by unfold State.setS; split <;> rfl
@[simp] theorem State.setS_w_id (d : BitVec 6) (x : Word64) : (s.setS d x).w.id = s.w.id := by unfold State.setS; split <;> rfl
@[simp] theorem State.setS_w_ccp (d : BitVec 6) (x : Word64) : (s.setS d x).w.ccp = s.w.ccp := by unfold State.setS; split <;> rfl
@[simp] theorem State.setS_w_frame (d : BitVec 6) (x : Word64) : (s.setS d x).w.frame = s.w.frame := by unfold State.setS; split <;> rfl
@[simp] theorem State.setS_w_slot (d : BitVec 6) (x : Word64) : (s.setS d x).w.slot = s.w.slot := by unfold State.setS; split <;> rfl
@[simp] theorem State.setS_w_gen (d : BitVec 6) (x : Word64) : (s.setS d x).w.gen = s.w.gen := by unfold State.setS; split <;> rfl
@[simp] theorem State.setS_w_asid (d : BitVec 6) (x : Word64) : (s.setS d x).w.asid = s.w.asid := by unfold State.setS; split <;> rfl
@[simp] theorem State.setS_w_lid (d : BitVec 6) (x : Word64) : (s.setS d x).w.lid = s.w.lid := by unfold State.setS; split <;> rfl
@[simp] theorem State.setS_w_blk (d : BitVec 6) (x : Word64) : (s.setS d x).w.blk = s.w.blk := by unfold State.setS; split <;> rfl
@[simp] theorem State.setS_w_widx (d : BitVec 6) (x : Word64) : (s.setS d x).w.widx = s.w.widx := by unfold State.setS; split <;> rfl
@[simp] theorem State.setS_w_depth (d : BitVec 6) (x : Word64) : (s.setS d x).w.depth = s.w.depth := by unfold State.setS; split <;> rfl
@[simp] theorem State.setS_w_bx (d : BitVec 6) (x : Word64) : (s.setS d x).w.bx = s.w.bx := by unfold State.setS; split <;> rfl
@[simp] theorem State.setS_w_by (d : BitVec 6) (x : Word64) : (s.setS d x).w.by_ = s.w.by_ := by unfold State.setS; split <;> rfl
@[simp] theorem State.setS_w_bz (d : BitVec 6) (x : Word64) : (s.setS d x).w.bz = s.w.bz := by unfold State.setS; split <;> rfl
@[simp] theorem State.setS_w_waveid (d : BitVec 6) (x : Word64) : (s.setS d x).w.waveid = s.w.waveid := by unfold State.setS; split <;> rfl
@[simp] theorem State.setS_w_origin (d : BitVec 6) (x : Word64) : (s.setS d x).w.origin = s.w.origin := by unfold State.setS; split <;> rfl
@[simp] theorem State.setS_w_core (d : BitVec 6) (x : Word64) : (s.setS d x).w.core = s.w.core := by unfold State.setS; split <;> rfl
@[simp] theorem State.setS_w_place (d : BitVec 6) (x : Word64) : (s.setS d x).w.place = s.w.place := by unfold State.setS; split <;> rfl
@[simp] theorem State.setS_w_residency (d : BitVec 6) (x : Word64) : (s.setS d x).w.residency = s.w.residency := by unfold State.setS; split <;> rfl
@[simp] theorem State.setS_w_parkc (d : BitVec 6) (x : Word64) : (s.setS d x).w.parkc = s.w.parkc := by unfold State.setS; split <;> rfl
@[simp] theorem State.setS_w_swapped (d : BitVec 6) (x : Word64) : (s.setS d x).w.swapped = s.w.swapped := by unfold State.setS; split <;> rfl
@[simp] theorem State.setS_w_born (d : BitVec 6) (x : Word64) : (s.setS d x).w.born = s.w.born := by unfold State.setS; split <;> rfl
@[simp] theorem State.setS_w_since (d : BitVec 6) (x : Word64) : (s.setS d x).w.since = s.w.since := by unfold State.setS; split <;> rfl
@[simp] theorem State.setS_w_fresh (d : BitVec 6) (x : Word64) : (s.setS d x).w.fresh = s.w.fresh := by unfold State.setS; split <;> rfl
@[simp] theorem State.setS_w_budgetDue (d : BitVec 6) (x : Word64) : (s.setS d x).w.budgetDue = s.w.budgetDue := by unfold State.setS; split <;> rfl
@[simp] theorem State.setS_w_budgetLost (d : BitVec 6) (x : Word64) : (s.setS d x).w.budgetLost = s.w.budgetLost := by unfold State.setS; split <;> rfl
@[simp] theorem State.setS_w_target (d : BitVec 6) (x : Word64) : (s.setS d x).w.target = s.w.target := by unfold State.setS; split <;> rfl
@[simp] theorem State.setS_w_v (d : BitVec 6) (x : Word64) : (s.setS d x).w.v = s.w.v := by unfold State.setS; split <;> rfl
@[simp] theorem State.setS_w_x (d : BitVec 6) (x : Word64) : (s.setS d x).w.x = s.w.x := by unfold State.setS; split <;> rfl
@[simp] theorem State.setS_w_m (d : BitVec 6) (x : Word64) : (s.setS d x).w.m = s.w.m := by unfold State.setS; split <;> rfl
@[simp] theorem State.setS_w_z (d : BitVec 6) (x : Word64) : (s.setS d x).w.z = s.w.z := by unfold State.setS; split <;> rfl
@[simp] theorem State.setS_w_o (d : BitVec 6) (x : Word64) : (s.setS d x).w.o = s.w.o := by unfold State.setS; split <;> rfl
@[simp] theorem State.setS_w_l (d : BitVec 6) (x : Word64) : (s.setS d x).w.l = s.w.l := by unfold State.setS; split <;> rfl
@[simp] theorem State.setS_w_gens (d : BitVec 6) (x : Word64) : (s.setS d x).w.gens = s.w.gens := by unfold State.setS; split <;> rfl
@[simp] theorem State.setS_w_fmtw (d : BitVec 6) (x : Word64) : (s.setS d x).w.fmtw = s.w.fmtw := by unfold State.setS; split <;> rfl
@[simp] theorem State.setS_w_regcnt (d : BitVec 6) (x : Word64) : (s.setS d x).w.regcnt = s.w.regcnt := by unfold State.setS; split <;> rfl
@[simp] theorem State.setS_w_spc (d : BitVec 6) (x : Word64) : (s.setS d x).w.spc = s.w.spc := by unfold State.setS; split <;> rfl
@[simp] theorem State.setS_w_lbase (d : BitVec 6) (x : Word64) : (s.setS d x).w.lbase = s.w.lbase := by unfold State.setS; split <;> rfl
@[simp] theorem State.setS_w_poolptr (d : BitVec 6) (x : Word64) : (s.setS d x).w.poolptr = s.w.poolptr := by unfold State.setS; split <;> rfl
@[simp] theorem State.setS_w_spinf (d : BitVec 6) (x : Word64) : (s.setS d x).w.spinf = s.w.spinf := by unfold State.setS; split <;> rfl
@[simp] theorem State.setS_w_stage (d : BitVec 6) (x : Word64) : (s.setS d x).w.stage = s.w.stage := by unfold State.setS; split <;> rfl
@[simp] theorem State.setS_w_lqhead (d : BitVec 6) (x : Word64) : (s.setS d x).w.lqhead = s.w.lqhead := by unfold State.setS; split <;> rfl
@[simp] theorem State.setS_w_lq (d : BitVec 6) (x : Word64) : (s.setS d x).w.lq = s.w.lq := by unfold State.setS; split <;> rfl
@[simp] theorem State.setS_w_split (d : BitVec 6) (x : Word64) : (s.setS d x).w.split = s.w.split := by unfold State.setS; split <;> rfl
@[simp] theorem State.setS_w_splitCache (d : BitVec 6) (x : Word64) : (s.setS d x).w.splitCache = s.w.splitCache := by unfold State.setS; split <;> rfl
@[simp] theorem State.setS_w_pendV (d : BitVec 6) (x : Word64) : (s.setS d x).w.pendV = s.w.pendV := by unfold State.setS; split <;> rfl
@[simp] theorem State.setS_w_pendT (d : BitVec 6) (x : Word64) : (s.setS d x).w.pendT = s.w.pendT := by unfold State.setS; split <;> rfl
@[simp] theorem State.setS_w_pendcnt (d : BitVec 6) (x : Word64) : (s.setS d x).w.pendcnt = s.w.pendcnt := by unfold State.setS; split <;> rfl
@[simp] theorem State.setS_w_slots (d : BitVec 6) (x : Word64) : (s.setS d x).w.slots = s.w.slots := by unfold State.setS; split <;> rfl
@[simp] theorem State.setS_w_slotTrapf (d : BitVec 6) (x : Word64) : (s.setS d x).w.slotTrapf = s.w.slotTrapf := by unfold State.setS; split <;> rfl
@[simp] theorem State.setS_w_trampbase (d : BitVec 6) (x : Word64) : (s.setS d x).w.trampbase = s.w.trampbase := by unfold State.setS; split <;> rfl
@[simp] theorem State.setS_w_trapbase (d : BitVec 6) (x : Word64) : (s.setS d x).w.trapbase = s.w.trapbase := by unfold State.setS; split <;> rfl
@[simp] theorem State.setS_w_trapcause (d : BitVec 6) (x : Word64) : (s.setS d x).w.trapcause = s.w.trapcause := by unfold State.setS; split <;> rfl
@[simp] theorem State.setS_w_trappc (d : BitVec 6) (x : Word64) : (s.setS d x).w.trappc = s.w.trappc := by unfold State.setS; split <;> rfl
@[simp] theorem State.setS_w_trapaddr (d : BitVec 6) (x : Word64) : (s.setS d x).w.trapaddr = s.w.trapaddr := by unfold State.setS; split <;> rfl
@[simp] theorem State.setS_w_trapmask (d : BitVec 6) (x : Word64) : (s.setS d x).w.trapmask = s.w.trapmask := by unfold State.setS; split <;> rfl
@[simp] theorem State.setS_w_deadline (d : BitVec 6) (x : Word64) : (s.setS d x).w.deadline = s.w.deadline := by unfold State.setS; split <;> rfl
@[simp] theorem State.setS_w_stagemargin (d : BitVec 6) (x : Word64) : (s.setS d x).w.stagemargin = s.w.stagemargin := by unfold State.setS; split <;> rfl
@[simp] theorem State.setS_w_stagecnt (d : BitVec 6) (x : Word64) : (s.setS d x).w.stagecnt = s.w.stagecnt := by unfold State.setS; split <;> rfl
@[simp] theorem State.setS_w_dbgctl (d : BitVec 6) (x : Word64) : (s.setS d x).w.dbgctl = s.w.dbgctl := by unfold State.setS; split <;> rfl
@[simp] theorem State.setS_w_sflags (d : BitVec 6) (x : Word64) : (s.setS d x).w.sflags = s.w.sflags := by unfold State.setS; split <;> rfl
@[simp] theorem State.setS_w_wclk (d : BitVec 6) (x : Word64) : (s.setS d x).w.wclk = s.w.wclk := by unfold State.setS; split <;> rfl
@[simp] theorem State.setS_w_sampled (d : BitVec 6) (x : Word64) : (s.setS d x).w.sampled = s.w.sampled := by unfold State.setS; split <;> rfl
@[simp] theorem State.setS_w_budget (d : BitVec 6) (x : Word64) : (s.setS d x).w.budget = s.w.budget := by unfold State.setS; split <;> rfl
@[simp] theorem State.setS_w_stagetab (d : BitVec 6) (x : Word64) : (s.setS d x).w.stagetab = s.w.stagetab := by unfold State.setS; split <;> rfl
@[simp] theorem State.setS_w_inhandler (d : BitVec 6) (x : Word64) : (s.setS d x).w.inhandler = s.w.inhandler := by unfold State.setS; split <;> rfl
@[simp] theorem State.setS_w_haltlatch (d : BitVec 6) (x : Word64) : (s.setS d x).w.haltlatch = s.w.haltlatch := by unfold State.setS; split <;> rfl
@[simp] theorem State.setS_w_haltAt (d : BitVec 6) (x : Word64) : (s.setS d x).w.haltAt = s.w.haltAt := by unfold State.setS; split <;> rfl
@[simp] theorem State.setS_w_haltInfo (d : BitVec 6) (x : Word64) : (s.setS d x).w.haltInfo = s.w.haltInfo := by unfold State.setS; split <;> rfl
@[simp] theorem State.setS_w_handler (d : BitVec 6) (x : Word64) : (s.setS d x).w.handler = s.w.handler := by unfold State.setS; split <;> rfl
@[simp] theorem State.setS_w_heldTraps (d : BitVec 6) (x : Word64) : (s.setS d x).w.heldTraps = s.w.heldTraps := by unfold State.setS; split <;> rfl
@[simp] theorem State.setS_w_scalarHeld (d : BitVec 6) (x : Word64) : (s.setS d x).w.scalarHeld = s.w.scalarHeld := by unfold State.setS; split <;> rfl
@[simp] theorem State.setS_w_wait (d : BitVec 6) (x : Word64) : (s.setS d x).w.wait = s.w.wait := by unfold State.setS; split <;> rfl
@[simp] theorem State.setS_w_progress (d : BitVec 6) (x : Word64) : (s.setS d x).w.progress = s.w.progress := by unfold State.setS; split <;> rfl
@[simp] theorem State.setS_w_spinCount (d : BitVec 6) (x : Word64) : (s.setS d x).w.spinCount = s.w.spinCount := by unfold State.setS; split <;> rfl
@[simp] theorem State.setS_w_spinLines (d : BitVec 6) (x : Word64) : (s.setS d x).w.spinLines = s.w.spinLines := by unfold State.setS; split <;> rfl
@[simp] theorem State.setS_w_tp (d : BitVec 6) (x : Word64) : (s.setS d x).w.tp = s.w.tp := by unfold State.setS; split <;> rfl
@[simp] theorem State.setS_w_td (d : BitVec 6) (x : Word64) : (s.setS d x).w.td = s.w.td := by unfold State.setS; split <;> rfl
@[simp] theorem State.setS_w_lastPtc (d : BitVec 6) (x : Word64) : (s.setS d x).w.lastPtc = s.w.lastPtc := by unfold State.setS; split <;> rfl
@[simp] theorem State.setS_w_clusterWrites (d : BitVec 6) (x : Word64) : (s.setS d x).w.clusterWrites = s.w.clusterWrites := by unfold State.setS; split <;> rfl
@[simp] theorem State.setS_w_age (d : BitVec 6) (x : Word64) : (s.setS d x).w.age = s.w.age := by unfold State.setS; split <;> rfl
@[simp] theorem State.setS_w_boost (d : BitVec 6) (x : Word64) : (s.setS d x).w.boost = s.w.boost := by unfold State.setS; split <;> rfl
@[simp] theorem State.setS_w_backward (d : BitVec 6) (x : Word64) : (s.setS d x).w.backward = s.w.backward := by unfold State.setS; split <;> rfl
@[simp] theorem State.setS_w_batches (d : BitVec 6) (x : Word64) : (s.setS d x).w.batches = s.w.batches := by unfold State.setS; split <;> rfl
@[simp] theorem State.setS_w_sstall (d : BitVec 6) (x : Word64) : (s.setS d x).w.sstall = s.w.sstall := by unfold State.setS; split <;> rfl
@[simp] theorem State.setS_w_switching (d : BitVec 6) (x : Word64) : (s.setS d x).w.switching = s.w.switching := by unfold State.setS; split <;> rfl

/-! ### Registers -/

/-- s0 reads zero (R35). -/
@[simp] theorem State.rs_zero : s.rs 0 = 0 := rfl

/-- A write is read back, but for s0, which discards it (R35). -/
@[simp] theorem State.setS_rs_same (d : BitVec 6) (x : Word64) : (s.setS d x).rs d = if d = 0 then 0 else x := by
  by_cases h : d = 0#6
  · subst h; rfl
  · simp [State.setS, State.rs, h]

/-- Every other register is as before. -/
theorem State.setS_rs_other {d r : BitVec 6} (x : Word64) (h : r ≠ d) : (s.setS d x).rs r = s.rs r := by
  unfold State.setS
  split
  · rfl
  · have : r.toNat ≠ d.toNat := fun e => h (BitVec.eq_of_toNat_eq e)
    simp [State.rs, Sparse.get_set_other _ _ this]

/-- The pending mark of every other register is as before. -/
theorem State.setS_pendS_other {d r : BitVec 6} (x : Word64) (h : r ≠ d) :
    Sparse.get (s.setS d x).w.pendS r.toNat = Sparse.get s.w.pendS r.toNat := by
  unfold State.setS
  split
  · rfl
  · have : r.toNat ≠ d.toNat := fun e => h (BitVec.eq_of_toNat_eq e)
    simp [Sparse.get_set_other _ _ this]

@[simp] theorem State.advance_rs (n : Nat) (r : BitVec 6) : (s.advance n).rs r = s.rs r := rfl

@[simp] theorem State.stall_rs (r : BitVec 6) : s.stall.rs r = s.rs r := rfl

/-! ### Records read after they are written -/

@[simp] theorem State.core_setCore_same (g : Nat) (c : Core) : (s.setCore g c).core g = c := by
  simp [State.core]

theorem State.core_setCore_other {g h : Nat} (c : Core) (e : h ≠ g) : (s.setCore g c).core h = s.core h := by
  simp [State.core, Table.getD_put_other _ _ _ e]

@[simp] theorem State.die_setDie_same (b : Nat) (d : Die) : (s.setDie b d).die b = d := by
  simp [State.die]

theorem State.die_setDie_other {b h : Nat} (d : Die) (e : h ≠ b) : (s.setDie b d).die h = s.die h := by
  simp [State.die, Table.getD_put_other _ _ _ e]

@[simp] theorem State.ccp_setCcp_same (c : Nat) (p : Ccp) : (s.setCcp c p).ccp c = p := by
  simp [State.ccp]

theorem State.ccp_setCcp_other {c h : Nat} (p : Ccp) (e : h ≠ c) : (s.setCcp c p).ccp h = s.ccp h := by
  simp [State.ccp, Table.getD_put_other _ _ _ e]

@[simp] theorem State.pair_setPair_same (q : Nat) (p : Pair) : (s.setPair q p).pair q = p := by
  simp [State.pair]

theorem State.pair_setPair_other {q h : Nat} (p : Pair) (e : h ≠ q) : (s.setPair q p).pair h = s.pair h := by
  simp [State.pair, Table.getD_put_other _ _ _ e]

@[simp] theorem State.entry_setEntry (e : SplitEntry) : (s.setEntry e).entry = e := by
  simp [State.entry]

end Sys2Proof.Machine
end

