-- ==== Sys2Proof/Laws/Memory.lean ====
section
/-! SUPPORT. What the operations on memory do: each keeps the canonical form (`Memory.Kept`), and changes no more of the
state than its frame says (`Memory.ReadFrame`, `Memory.WriteFrame`). -/

namespace Sys2Proof.Machine

/-! ### The two statements -/

/-- Where memory was in canonical form it still is. -/
def Memory.Kept (s t : State) : Prop := Memory.wf s = true → Memory.wf t = true

theorem Memory.Kept.refl (s : State) : Memory.Kept s s := id

theorem Memory.Kept.trans {s t u : State} (h : Memory.Kept s t) (g : Memory.Kept t u) : Memory.Kept s u := fun x => g (h x)

/-- The five maps of memory are the same. -/
theorem Memory.Kept.of_eq {s t : State} (h : t.mem = s.mem := by rfl) (h1 : t.hbm = s.hbm := by rfl)
    (h2 : t.limbo = s.limbo := by rfl) (h3 : t.keyed = s.keyed := by rfl) (h4 : t.poison = s.poison := by rfl) :
    Memory.Kept s t := by
  simp [Memory.Kept, Memory.wf, h, h1, h2, h3, h4]

theorem Memory.wf_iff (s : State) : Memory.wf s = true ↔
    Sparse.wf s.mem = true ∧ Sparse.wf s.hbm = true ∧ Sparse.wf s.limbo = true ∧ Sparse.wf s.keyed = true
      ∧ Sparse.wf s.poison = true := by
  simp [Memory.wf, and_assoc]

/-- Steps that each keep the form, one after another. -/
theorem Memory.Kept.foldl {α : Type} (f : State → α → State) (hf : ∀ s a, Memory.Kept s (f s a)) (l : List α) (s : State) :
    Memory.Kept s (l.foldl f s) := by
  induction l generalizing s with
  | nil => exact Memory.Kept.refl s
  | cons a l ih => exact (hf s a).trans (ih (f s a))

/-- Writes to one map, one after another. -/
theorem Sparse.wf_foldl {w : Nat} {α : Type} (f : Sparse w → α → Sparse w) (hf : ∀ m a, Sparse.wf m = true → Sparse.wf (f m a) = true)
    (l : List α) (m : Sparse w) (hm : Sparse.wf m = true) : Sparse.wf (l.foldl f m) = true := by
  induction l generalizing m with
  | nil => exact hm
  | cons a l ih => exact ih _ (hf m a hm)

/-- What a read may change: the bytes and marks of memory (a last-use drop, a recall, a correction, a line replaced), caches
and directory, the fault queues that a recall's failing sector is recorded in, and the count of free values spent. -/
def Memory.ReadFrame (s t : State) : Prop :=
  t = { s with mem := t.mem, hbm := t.hbm, limbo := t.limbo, keyed := t.keyed, poison := t.poison, cores := t.cores,
               dies := t.dies, directory := t.directory, ccps := t.ccps, free := t.free }

/-- What a write may change besides: waves that wait for it wake. -/
def Memory.WriteFrame (s t : State) : Prop :=
  t = { s with mem := t.mem, hbm := t.hbm, limbo := t.limbo, keyed := t.keyed, poison := t.poison, cores := t.cores,
               dies := t.dies, directory := t.directory, ccps := t.ccps, free := t.free, w := t.w, others := t.others }

/-- What a store of a core may change besides: fills that are on their way allocate nothing (R321). -/
def Memory.StoreFrame (s t : State) : Prop :=
  t = { s with mem := t.mem, hbm := t.hbm, limbo := t.limbo, keyed := t.keyed, poison := t.poison, cores := t.cores,
               dies := t.dies, directory := t.directory, ccps := t.ccps, free := t.free, w := t.w, others := t.others,
               requests := t.requests }

theorem Memory.ReadFrame.refl (s : State) : Memory.ReadFrame s s := rfl

theorem Memory.ReadFrame.trans {s t u : State} (h : Memory.ReadFrame s t) (g : Memory.ReadFrame t u) : Memory.ReadFrame s u := by
  unfold Memory.ReadFrame at *
  rw [h] at g
  exact g

theorem Memory.WriteFrame.trans {s t u : State} (h : Memory.WriteFrame s t) (g : Memory.WriteFrame t u) :
    Memory.WriteFrame s u := by
  unfold Memory.WriteFrame at *
  rw [h] at g
  exact g

theorem Memory.WriteFrame.refl (s : State) : Memory.WriteFrame s s := rfl

theorem Memory.ReadFrame.write {s t : State} (h : Memory.ReadFrame s t) : Memory.WriteFrame s t := by
  unfold Memory.ReadFrame at h
  unfold Memory.WriteFrame
  rw [h]

theorem Memory.ReadFrame.foldl {α : Type} (f : State → α → State) (hf : ∀ s a, Memory.ReadFrame s (f s a)) (l : List α)
    (s : State) : Memory.ReadFrame s (l.foldl f s) := by
  induction l generalizing s with
  | nil => exact Memory.ReadFrame.refl s
  | cons a l ih => exact (hf s a).trans (ih (f s a))

/-- An operation on memory below a read: it keeps the form, and stays in the frame of a read. -/
def Memory.Reads (s t : State) : Prop := Memory.Kept s t ∧ Memory.ReadFrame s t

theorem Memory.Reads.refl (s : State) : Memory.Reads s s := ⟨Memory.Kept.refl s, rfl⟩

theorem Memory.Reads.trans {s t u : State} (h : Memory.Reads s t) (g : Memory.Reads t u) : Memory.Reads s u :=
  ⟨h.1.trans g.1, h.2.trans g.2⟩

theorem Memory.Reads.foldl {α : Type} (f : State → α → State) (hf : ∀ s a, Memory.Reads s (f s a)) (l : List α) (s : State) :
    Memory.Reads s (l.foldl f s) :=
  ⟨Memory.Kept.foldl f (fun s a => (hf s a).1) l s, Memory.ReadFrame.foldl f (fun s a => (hf s a).2) l s⟩

/-- A core's record replaced. -/
theorem Memory.Reads.setCore (s : State) (g : Nat) (c : Core) : Memory.Reads s (s.setCore g c) := ⟨Memory.Kept.of_eq, rfl⟩

/-- A base die's record replaced. -/
theorem Memory.Reads.setDie (s : State) (b : Nat) (d : Die) : Memory.Reads s (s.setDie b d) := ⟨Memory.Kept.of_eq, rfl⟩

/-- The maps replaced by maps in canonical form, and the directory. -/
theorem Memory.Reads.maps (s : State) {m h : Sparse 8} {l : Sparse 9} {k : Sparse 768} {p : Sparse 8} (d : Table Owner)
    (hm : Sparse.wf s.mem = true → Sparse.wf m = true) (hh : Sparse.wf s.hbm = true → Sparse.wf h = true)
    (hl : Sparse.wf s.limbo = true → Sparse.wf l = true) (hk : Sparse.wf s.keyed = true → Sparse.wf k = true)
    (hp : Sparse.wf s.poison = true → Sparse.wf p = true) :
    Memory.Reads s { s with mem := m, hbm := h, limbo := l, keyed := k, poison := p, directory := d } := by
  refine ⟨fun g => ?_, rfl⟩
  rw [Memory.wf_iff] at g ⊢
  exact ⟨hm g.1, hh g.2.1, hl g.2.2.1, hk g.2.2.2.1, hp g.2.2.2.2⟩

/-! ### The caches at a home -/

theorem State.touchL2_reads (s : State) (b : Nat) (l : List Nat) : Memory.Reads s (s.touchL2 b l) := by
  unfold State.touchL2
  dsimp only
  split <;> exact Memory.Reads.setDie _ _ _

theorem lineToHbm_reads (s : State) (line : Nat) : Memory.Reads s (lineToHbm s line) := by
  refine Memory.Reads.maps s s.directory id (fun h => Sparse.wf_foldl _ (fun m i hm => ?_) _ _ h) id id id
  dsimp only
  split
  · exact hm
  · exact Sparse.wf_set _ _ _ hm

theorem evictLines_reads (n : Nat) (s : State) (b : Nat) : Memory.Reads s (evictLines s b n) := by
  induction n generalizing s with
  | zero => exact Memory.Reads.refl s
  | succ n ih =>
    unfold evictLines
    split
    · exact Memory.Reads.refl s
    · exact ((lineToHbm_reads s _).trans (Memory.Reads.setDie _ _ _)).trans (ih _)

/-- A line that passes a home is cached there. -/
theorem State.touch_reads (s : State) (pa n : Nat) (ep : BitVec 2) : Memory.Reads s (s.touch pa n ep) := by
  unfold State.touch
  dsimp only
  exact (((Memory.Reads.setDie s _ _).trans (evictLines_reads _ _ _)).trans (Memory.Reads.setDie _ _ _)).trans
    (State.touchL2_reads _ _ _)

theorem State.mend_reads (s : State) (pa n : Nat) : Memory.Reads s (s.mend pa n) := by
  unfold State.mend
  split
  · exact Memory.Reads.refl s
  · refine Memory.Reads.foldl _ (fun s sec => ?_) _ s
    dsimp only
    split
    · exact Memory.Reads.refl s
    · exact (Memory.Reads.maps s s.directory id id id id (Sparse.wf_set _ _ _)).trans (Memory.Reads.setDie _ _ _)

/-! ### Recalls and writes at a home -/

theorem State.rekeyed_reads (s : State) (l : List Nat) (k : Nat) : Memory.Reads s (s.rekeyed l k) :=
  Memory.Reads.maps s s.directory id id id (Sparse.wf_foldl _ (fun m a hm => Sparse.wf_set m a _ hm) _ _)
    (Sparse.wf_foldl _ (fun m a hm => Sparse.wf_set m a _ hm) _ _)

theorem deliver_reads (s : State) (c : Nat) (r : FaultRecord) : Memory.Reads s (deliver s c r) := by
  unfold deliver
  dsimp only
  split <;> exact ⟨Memory.Kept.of_eq, rfl⟩

theorem recallRecord_reads (s : State) (o : Owner) (sec : Nat) : Memory.Reads s (recallRecord s o sec) := deliver_reads _ _ _

/-- Bytes set one after another keep a map's form. -/
theorem Sparse.wf_puts {w : Nat} (f : Nat → BitVec w) (g : Nat → Nat) (l : List Nat) (m : Sparse w) (h : Sparse.wf m = true) :
    Sparse.wf (l.foldl (fun m i => Sparse.set m (g i) (f i)) m) = true :=
  Sparse.wf_foldl _ (fun m i hm => Sparse.wf_set m (g i) _ hm) _ _ h

/-- Bytes and the directory replaced after a read. -/
theorem Memory.Reads.after {s t : State} (r : Memory.Reads s t) {m : Sparse 8} {l : Sparse 9} {d : Table Owner}
    (hm : Sparse.wf t.mem = true → Sparse.wf m = true) (hl : Sparse.wf t.limbo = true → Sparse.wf l = true) :
    Memory.Reads s { t with mem := m, limbo := l, directory := d } :=
  r.trans (Memory.Reads.maps t d hm id hl id id)

theorem recallBlock_reads (s : State) (b : Nat) : Memory.Reads s (recallBlock s b) := by
  unfold recallBlock
  split
  · exact Memory.Reads.refl s
  · dsimp only
    refine Memory.Reads.trans ?_ (Memory.Reads.foldl _ (fun s sec => recallRecord_reads s _ sec) _ _)
    refine Memory.Reads.trans ?_ (State.touch_reads _ _ _ _)
    refine Memory.Reads.trans ?_ (Memory.Reads.setCore _ _ _)
    refine Memory.Reads.trans ?_ (State.rekeyed_reads _ _ _)
    refine Memory.Reads.after (Memory.Reads.foldl _ (fun s sec => State.mend_reads s _ _) _ s) (Sparse.wf_puts _ _ _ _) ?_
    intro h
    split
    · exact h
    · exact Sparse.wf_puts _ _ _ _ h

theorem recallRange_reads (s : State) (pa n : Nat) : Memory.Reads s (recallRange s pa n) :=
  Memory.Reads.foldl recallBlock recallBlock_reads _ s

theorem putLocal_reads (s : State) (pa k : Nat) (bytes : List Byte) (ep : BitVec 2) : Memory.Reads s (putLocal s pa k bytes ep) := by
  unfold putLocal
  dsimp only
  refine Memory.Reads.trans ?_ (State.touch_reads _ _ _ _)
  refine Memory.Reads.trans
    (Memory.Reads.foldl (fun s i => recallBlock s (pa / 512 + i)) (fun s i => recallBlock_reads s _)
      (List.range ((pa + bytes.length + 511) / 512 - pa / 512)) s) ?_
  refine Memory.Reads.trans ?_ (State.rekeyed_reads _ _ _)
  refine Memory.Reads.maps _ _ (Sparse.wf_setList _ _ _) id (fun h => ?_) id id
  split
  · exact h
  · exact Sparse.wf_clear _ _ _ h

theorem Sparse.wf_rekey (m : Sparse 768) (sec n : Nat) (key : BitVec 768) (h : Sparse.wf m = true) :
    Sparse.wf (Sparse.rekey m sec n key) = true := by
  unfold Sparse.rekey
  dsimp only
  split
  · exact Sparse.wf_clear m _ _ h
  · exact Sparse.wf_setList _ _ _ (Sparse.wf_clear m _ _ h)

theorem State.touchRange_reads (s : State) (pa n : Nat) : Memory.Reads s (s.touchRange pa n) :=
  Memory.Reads.foldl _ (fun s i => State.touch_reads s _ _ _) _ s

theorem State.mendParts_reads (s : State) (pa n : Nat) : Memory.Reads s (s.mendParts pa n) := by
  unfold State.mendParts
  split
  · exact Memory.Reads.refl s
  · exact Memory.Reads.foldl _ (fun s sec => State.mend_reads s _ _) _ s

/-- Steps that change no byte of memory, one after another. -/
theorem foldl_mem {α : Type} {f : State → α → State} (hf : ∀ s a, (f s a).mem = s.mem) (l : List α) (s : State) :
    (l.foldl f s).mem = s.mem := by
  induction l generalizing s with
  | nil => rfl
  | cons a l ih => exact (ih _).trans (hf s a)

/-- Corrections change no byte. -/
theorem State.mend_mem (s : State) (pa n : Nat) : (s.mend pa n).mem = s.mem := by
  unfold State.mend
  split
  · rfl
  · refine foldl_mem (fun s sec => ?_) _ s
    dsimp only
    split <;> rfl

theorem State.mendParts_mem (s : State) (pa n : Nat) : (s.mendParts pa n).mem = s.mem := by
  unfold State.mendParts
  split
  · rfl
  · exact foldl_mem (fun s sec => State.mend_mem s _ _) _ s

theorem zeroRange_reads (s : State) (pa n k : Nat) : Memory.Reads s (zeroRange s pa n k) := by
  unfold zeroRange
  exact ((recallRange_reads s pa n).trans (Memory.Reads.maps _ _ (Sparse.wf_clear _ _ _) id
    (Sparse.wf_clear _ _ _) (Sparse.wf_rekey _ _ _ _) (Sparse.wf_clear _ _ _))).trans (State.touchRange_reads _ _ _)

/-- A write to local HBM that is performed. -/
theorem writeLocal_ok {s t : State} {va : BitVec 64} {pa k : Nat} {bytes : List Byte} {ep : BitVec 2}
    (h : writeLocal s va pa k bytes ep = .ok t) : t = putLocal (s.mendParts pa bytes.length) pa k bytes ep := by
  unfold writeLocal at h
  dsimp only at h
  split at h
  · cases h
  · split at h <;> cases h; rfl

theorem writeLocal_reads {s t : State} {va : BitVec 64} {pa k : Nat} {bytes : List Byte} {ep : BitVec 2}
    (h : writeLocal s va pa k bytes ep = .ok t) : Memory.Reads s t := by
  rw [writeLocal_ok h]
  exact (State.mendParts_reads _ _ _).trans (putLocal_reads _ _ _ _ _)

theorem readLocal_reads {s t : State} {va : BitVec 64} {pa n k : Nat} {ep : BitVec 2} {b : List Byte}
    (h : readLocal s va pa n k ep = .ok (b, t)) : Memory.Reads s t := by
  unfold readLocal at h
  split at h <;> cases h
  exact (State.mend_reads _ _ _).trans (State.touch_reads _ _ _ _)

theorem dropLines_reads (s : State) (pa n : Nat) : Memory.Reads s (dropLines s pa n) := by
  refine Memory.Reads.foldl _ (fun s line => ?_) _ s
  unfold dropHome
  dsimp only
  split
  · exact Memory.Reads.refl s
  · refine (Memory.Reads.maps s s.directory id id (Sparse.wf_foldl _ (fun m i hm => ?_) _ _) id id).trans (Memory.Reads.setDie _ _ _)
    split
    · exact hm
    · exact Sparse.wf_set _ _ _ hm

/-! ### Translation -/

/-- A translation that succeeds changes the caches of the homes whose memory it reads alone. -/
theorem translate_reads {s t : State} {asid : BitVec 16} {va : Nat} {acc : Acc} {p : Nat × Nat}
    (h : translate s asid va acc = .ok (p, t)) : Memory.Reads s t := by
  unfold translate at h
  dsimp only at h
  split at h
  · split at h <;> cases h
    exact Memory.Reads.setDie _ _ _
  · split at h
    · cases h
    · split at h
      · cases h
      · split at h <;> cases h
        exact (Memory.Reads.foldl (fun s sec => (s.mend (sec * 64) 64).touch (sec * 64) 64 1)
          (fun s sec => (State.mend_reads _ _ _).trans (State.touch_reads _ _ _ _)) _ s).trans (Memory.Reads.setDie _ _ _)

/-! ### Reads at a home -/

theorem refillAway_reads (s : State) (h pa n : Nat) : Memory.Reads s (refillAway s h pa n).2 :=
  (Memory.Reads.setDie _ _ _).trans (State.touchL2_reads _ _ _)

theorem serveRead_reads {s t : State} {h : Nat} {v : BitVec 64} {pa k n : Nat} {td : BitVec 64} {hint : Hint} {b : List Byte}
    (e : serveRead s h v pa k n td hint = .ok (b, t)) : Memory.Reads s t := by
  unfold serveRead at e
  split at e
  · split at e
    · cases e
    · rename_i hr
      cases e
      split
      · exact (readLocal_reads hr).trans (dropLines_reads _ _ _)
      · exact readLocal_reads hr
  · split at e
    · split at e
      · exact readLocal_reads e
      · split at e
        · cases e; exact State.touchL2_reads _ _ _
        · split at e
          · cases e; exact refillAway_reads s h pa n
          all_goals cases e
    · split at e
      · cases e
      · cases e; exact State.touchL2_reads _ _ _

theorem homeRead_reads {s t : State} {f : Nat} {asid : BitVec 16} {va n : Nat} {td : BitVec 64} {hint : Hint} {acc : Acc}
    {b : List Byte} (e : homeRead s f asid va n td hint acc = .ok (b, t)) : Memory.Reads s t := by
  unfold homeRead at e
  dsimp only at e
  split at e
  · cases e
  · split at e
    · cases e
    · rename_i ht
      exact (translate_reads ht).trans (serveRead_reads e)

theorem homeReadAll_reads {f : Nat} {asid : BitVec 16} {td : BitVec 64} {hint : Hint} (l : List (Nat × Nat)) {s t : State}
    {b : List Byte} (e : homeReadAll s f asid td hint l = .ok (b, t)) : Memory.Reads s t := by
  induction l generalizing s t b with
  | nil => cases e; exact Memory.Reads.refl _
  | cons p l ih =>
    obtain ⟨va, n⟩ := p
    unfold homeReadAll at e
    split at e
    · cases e
    · rename_i h1
      split at e
      · cases e
      · rename_i h2
        cases e
        exact (homeRead_reads h1).trans (ih h2)

theorem readRange_reads {s t : State} {f : Nat} {asid : BitVec 16} {va n : Nat} {b : List Byte}
    (e : readRange s f asid va n = .ok (b, t)) : Memory.Reads s t := homeReadAll_reads _ e

/-! ### Writes at a home -/

/-- An operation on memory below a write. -/
def Memory.Writes (s t : State) : Prop := Memory.Kept s t ∧ Memory.WriteFrame s t

theorem Memory.Writes.refl (s : State) : Memory.Writes s s := ⟨Memory.Kept.refl s, rfl⟩

theorem Memory.Writes.trans {s t u : State} (h : Memory.Writes s t) (g : Memory.Writes t u) : Memory.Writes s u :=
  ⟨h.1.trans g.1, h.2.trans g.2⟩

theorem Memory.Reads.writes {s t : State} (h : Memory.Reads s t) : Memory.Writes s t := ⟨h.1, h.2.write⟩

theorem wakeWrite_writes (s : State) (asid : BitVec 16) (va pa n : Nat) : Memory.Writes s (wakeWrite s asid va pa n) :=
  ⟨Memory.Kept.of_eq, rfl⟩

@[simp] theorem wakeWrite_cell (s : State) (asid : BitVec 16) (va q n pa : Nat) :
    (wakeWrite s asid va q n).cell pa = s.cell pa := rfl

theorem serveWrite_writes {s t : State} {h : Nat} {asid : BitVec 16} {va pa k : Nat} {bytes : List Byte} {ep : BitVec 2}
    (e : serveWrite s h asid va pa k bytes ep = .ok t) : Memory.Writes s t := by
  have hset (s : State) : Memory.Reads s { s with mem := Sparse.setList s.mem pa bytes } :=
    Memory.Reads.maps s s.directory (Sparse.wf_setList _ _ _) id id id id
  unfold serveWrite at e
  dsimp only at e
  split at e
  · split at e
    · cases e
    · rename_i hw
      cases e
      exact (writeLocal_reads hw).writes.trans (wakeWrite_writes _ _ _ _ _)
  · split at e
    · split at e
      · cases e
      · split at e
        · cases e
        · cases e
          exact ((hset s).trans (Memory.Reads.setDie _ _ _)).writes.trans (wakeWrite_writes _ _ _ _ _)
      · cases e
      · cases e
      · split at e
        · cases e
        · split at e
          · cases e
          · rename_i hw
            cases e
            exact ((writeLocal_reads hw).writes.trans (wakeWrite_writes _ _ _ _ _)).trans (wakeWrite_writes _ _ _ _ _)
    · split at e
      · cases e
      · cases e
        exact (hset s).writes.trans (wakeWrite_writes _ _ _ _ _)

theorem homeWrite_writes {s t : State} {f : Nat} {asid : BitVec 16} {va : Nat} {bytes : List Byte} {ep : BitVec 2}
    (e : homeWrite s f asid va bytes ep = .ok t) : Memory.Writes s t := by
  unfold homeWrite at e
  dsimp only at e
  split at e
  · cases e
  · split at e
    · cases e
    · rename_i ht
      exact (translate_reads ht).writes.trans (serveWrite_writes e)

theorem homeWriteAll_writes {f : Nat} {asid : BitVec 16} {ep : BitVec 2} (l : List (Nat × Nat)) {s t : State} {bytes : List Byte}
    (e : homeWriteAll s f asid ep bytes l = .ok t) : Memory.Writes s t := by
  induction l generalizing s t bytes with
  | nil => cases e; exact Memory.Writes.refl _
  | cons p l ih =>
    obtain ⟨va, n⟩ := p
    unfold homeWriteAll at e
    split at e
    · cases e
    · rename_i h1
      exact (homeWrite_writes h1).trans (ih e)

theorem writeRange_writes {s t : State} {f : Nat} {asid : BitVec 16} {va : Nat} {bytes : List Byte}
    (e : writeRange s f asid va bytes = .ok t) : Memory.Writes s t := homeWriteAll_writes _ e

theorem writeOr_writes (s : State) (asid : BitVec 16) (va : Nat) (bytes : List Byte) :
    Memory.Writes s (writeOr s asid va bytes) := by
  unfold writeOr
  split
  · exact writeRange_writes ‹_›
  · exact Memory.Writes.refl _

theorem traceRecord_writes (s : State) (w : Wave) (type code : BitVec 8) (pc cause : BitVec 64) (lmask : BitVec 32) :
    Memory.Writes s (traceRecord s w type code pc cause lmask) := by
  unfold traceRecord
  split
  · exact Memory.Writes.refl _
  · split
    · exact Memory.Writes.refl _
    · rename_i hr
      have g := (readRange_reads hr).writes
      dsimp only
      split
      · exact g.trans (writeOr_writes ..)
      · exact (g.trans (writeOr_writes ..)).trans (writeOr_writes ..)

/-! ### Accesses of a core -/

theorem onLaunch_kept (s : State) (lid : BitVec 32) (f : Launch → Launch) : Memory.Kept s (s.onLaunch lid f) :=
  Memory.Kept.of_eq

theorem captureTouch_kept (s : State) (lid : BitVec 32) (va : Nat) : Memory.Kept s (captureTouch s lid va) := by
  unfold captureTouch
  split
  · exact Memory.Kept.refl _
  · dsimp only
    split
    · exact Memory.Kept.refl _
    · split
      · exact Memory.Kept.refl _
      · split
        all_goals
          split
          · exact ((writeOr_writes ..).1.trans (onLaunch_kept _ _ _)).trans (traceRecord_writes ..).1
          · split
            · exact Memory.Kept.refl _
            · rename_i hr
              exact ((((readRange_reads hr).1.trans (writeOr_writes ..).1).trans (writeOr_writes ..).1).trans
                (writeOr_writes ..).1).trans (onLaunch_kept _ _ _)

theorem fillRdc_reads (s : State) (b : Nat) (asid : BitVec 16) (line : Nat) (bytes : List Byte) :
    Memory.Reads s (fillRdc s b asid line bytes) := Memory.Reads.setDie _ _ _

theorem fillL1_reads (s : State) (g : Nat) (lid : BitVec 32) (asid : BitVec 16) (line : Nat) (bytes : List Byte) :
    Memory.Reads s (fillL1 s g lid asid line bytes) := Memory.Reads.setCore _ _ _

theorem dieRead_reads {s t : State} {b : Nat} {asid : BitVec 16} {va n : Nat} {tp td : BitVec 64} {hint : Hint} {l : List Byte}
    (e : dieRead s b asid va n tp td hint = .ok (l, t)) : Memory.Reads s t := by
  unfold dieRead at e
  dsimp only at e
  split at e
  · exact homeRead_reads e
  · split at e
    · cases e; exact Memory.Reads.setDie _ _ _
    · split at e
      · rename_i hr
        cases e
        exact (homeRead_reads hr).trans (fillRdc_reads _ _ _ _ _)
      · exact homeRead_reads e

theorem coreRead_kept {s t : State} {g : Nat} {lid : BitVec 32} {asid : BitVec 16} {va n : Nat} {tp td : BitVec 64} {hint : Hint}
    {l : List Byte} (e : coreRead s g lid asid va n tp td hint = .ok (l, t)) : Memory.Kept s t := by
  unfold coreRead at e
  dsimp only at e
  split at e
  · cases e; exact (Memory.Reads.setCore _ _ _).1
  · split at e
    · exact (captureTouch_kept s lid va).trans (dieRead_reads e).1
    · split at e
      · rename_i hr
        cases e
        exact ((captureTouch_kept s lid va).trans (dieRead_reads hr).1).trans (fillL1_reads _ _ _ _ _ _).1
      · exact (captureTouch_kept s lid va).trans (dieRead_reads e).1

/-- An operation below a store of a core. -/
def Memory.Stores (s t : State) : Prop := Memory.Kept s t ∧ Memory.StoreFrame s t

theorem Memory.Stores.refl (s : State) : Memory.Stores s s := ⟨Memory.Kept.refl s, rfl⟩

theorem Memory.Stores.trans {s t u : State} (h : Memory.Stores s t) (g : Memory.Stores t u) : Memory.Stores s u := by
  refine ⟨h.1.trans g.1, ?_⟩
  have h := h.2
  have g := g.2
  unfold Memory.StoreFrame at *
  rw [h] at g
  exact g

theorem Memory.Writes.stores {s t : State} (h : Memory.Writes s t) : Memory.Stores s t := by
  refine ⟨h.1, ?_⟩
  have h := h.2
  unfold Memory.WriteFrame at h
  unfold Memory.StoreFrame
  rw [h]

theorem dropRdc_stores (s : State) (b : Nat) (asid : BitVec 16) (line : Nat) : Memory.Stores s (dropRdc s b asid line) := by
  have h1 (u : State) (f : Request → Request) :
      Memory.Stores u (if u.requests.isEmpty then u else { u with requests := u.requests.map f }) := by
    split
    · exact Memory.Stores.refl u
    · exact ⟨Memory.Kept.of_eq, rfl⟩
  have h0 : Memory.Stores s (if (s.die b).rdc.isEmpty then s
      else s.setDie b { s.die b with rdc := (s.die b).rdc.filter (fun x => !(x.asid == asid && x.line == line)) }) := by
    split
    · exact Memory.Stores.refl s
    · exact (Memory.Reads.setDie _ _ _).writes.stores
  exact h0.trans (h1 _ _)

theorem dropL1_reads (s : State) (g : Nat) (asid : BitVec 16) (line : Nat) : Memory.Reads s (dropL1 s g asid line) := by
  unfold dropL1
  dsimp only
  split
  · exact Memory.Reads.refl _
  · exact Memory.Reads.setCore _ _ _

theorem coreStored_stores (s : State) (g : Nat) (asid : BitVec 16) (va : Nat) (bytes : List Byte) :
    Memory.Stores s (coreStored s g asid va bytes) := by
  unfold coreStored
  dsimp only
  refine Memory.Stores.trans ?_ (dropRdc_stores _ _ _ _)
  split
  · exact Memory.Stores.refl _
  · exact (Memory.Reads.setCore _ _ _).writes.stores

theorem coreWrite_kept {s t : State} {g : Nat} {lid : BitVec 32} {asid : BitVec 16} {va : Nat} {bytes : List Byte} {ep : BitVec 2}
    (e : coreWrite s g lid asid va bytes ep = .ok t) : Memory.Kept s t := by
  unfold coreWrite at e
  dsimp only at e
  split at e
  · cases e
  · rename_i hw
    cases e
    exact ((captureTouch_kept s lid va).trans (homeWrite_writes hw).1).trans (coreStored_stores ..).1

theorem dropLine_stores (s : State) (g : Nat) (asid : BitVec 16) (va : Nat) : Memory.Stores s (dropLine s g asid va) :=
  (dropL1_reads _ _ _ _).writes.stores.trans (dropRdc_stores _ _ _ _)

/-! ### Frames of waves -/

/-- A record changes the control processor it goes to. -/
theorem deliver_spec (s : State) (c : Nat) (r : FaultRecord) : ∃ p, deliver s c r = s.setCcp c p := by
  unfold deliver
  dsimp only
  split <;> exact ⟨_, rfl⟩

theorem deliver_kept (s : State) (c : Nat) (r : FaultRecord) : Memory.Kept s (deliver s c r) := by
  obtain ⟨p, h⟩ := deliver_spec s c r
  rw [h]
  exact Memory.Kept.of_eq

theorem framePlace_reads {s t : State} {w : Wave} {p : Nat × Nat} (e : framePlace s w = .ok (p, t)) : Memory.Reads s t := by
  unfold framePlace at e
  split at e
  · cases e
  · split at e
    · cases e
    · exact translate_reads e

theorem State.frameWrite_kept {s t : State} {w : Wave} {off : Nat} {b : List Byte} (e : s.frameWrite w off b = .ok t) :
    Memory.Kept s t := by
  unfold State.frameWrite at e
  split at e
  · cases e
  · rename_i h
    split at e
    · exact (framePlace_reads h).1.trans (writeLocal_reads e).1
    · cases e
      exact (framePlace_reads h).1.trans (putLocal_reads ..).1

theorem State.frameBad_kept (s : State) (w : Wave) (g : BitVec 4) (nr : Bool) (l : List (BitVec 64 × BitVec 64)) :
    Memory.Kept s (s.frameBad w g nr l) := by
  unfold State.frameBad
  split
  · exact Memory.Kept.refl s
  · exact (Memory.Kept.foldl _ (fun s p => deliver_kept s _ _) _ s).trans Memory.Kept.of_eq

theorem putFrameWords_wf (pa : Nat) (w : Wave) (m : Sparse 8) (h : Sparse.wf m = true) :
    Sparse.wf (putFrameWords pa w m) = true :=
  Sparse.wf_foldl _ (fun m p hm => Sparse.wf_setList _ _ _ hm) _ _
    (Sparse.wf_foldl _ (fun m p hm => Sparse.wf_clear _ _ _ hm) _ _ h)

theorem State.frameLost_kept (s : State) (w : Wave) (g : BitVec 4) (va : BitVec 64) (nr : Bool) (e : AccFail) :
    Memory.Kept s (s.frameLost w g va nr e) := by
  unfold State.frameLost
  dsimp only
  split
  · exact (deliver_kept s _ _).trans Memory.Kept.of_eq
  · exact Memory.Kept.of_eq

theorem writeBack_kept {s t : State} {w : Wave} (e : writeBack s w = .ok t) : Memory.Kept s t := by
  unfold writeBack at e
  split at e
  · cases e
  · rename_i pa k s' hp
    dsimp only at e
    have h1 : Memory.Reads s (if s'.directory.isEmpty then s' else
        (List.range 128).foldl (fun s i => recallBlock s (pa / 512 + i)) s') := by
      refine (framePlace_reads hp).trans ?_
      split
      · exact Memory.Reads.refl _
      · exact Memory.Reads.foldl _ (fun s i => recallBlock_reads s _) _ _
    generalize (if s'.directory.isEmpty then s' else
        (List.range 128).foldl (fun s i => recallBlock s (pa / 512 + i)) s') = u at h1 e
    split at e
    · cases e
      exact (h1.trans (Memory.Reads.maps u u.directory (putFrameWords_wf pa w u.mem) id id id id)).1
    · split at e
      · cases e
      · cases e
        refine Memory.Kept.trans ?_ (State.frameBad_kept _ _ _ _ _)
        refine (Memory.Reads.trans ?_ (Memory.Reads.foldl _ (fun s r => State.touch_reads s _ _ _) _ _)).1
        refine Memory.Reads.trans ?_ (State.rekeyed_reads _ _ _)
        have h2 := Memory.Reads.foldl (fun (s : State) (r : Nat × Nat) => s.mendParts r.1 r.2)
          (fun s r => State.mendParts_reads s _ _) ((frameRanges (min w.regcnt 256)).map (fun r => (pa + r.1, r.2))) u
        refine Memory.Reads.after (h1.trans h2) ?_ (fun h => ?_)
        · intro h
          refine Sparse.wf_foldl _ (fun m a hm => Sparse.wf_setList _ _ _ hm) _ _ (putFrameWords_wf pa w _ ?_)
          rwa [foldl_mem (fun s r => State.mendParts_mem s _ _)] at h
        · split
          · exact h
          · exact Sparse.wf_foldl _ (fun m r hm => Sparse.wf_clear _ _ _ hm) _ _ h

theorem State.putFrame_kept (s : State) (w : Wave) (words : List (Nat × Nat × Nat)) : Memory.Kept s (s.putFrame w words) := by
  unfold State.putFrame
  dsimp only
  split
  · rename_i h
    split
    · exact (framePlace_reads h).1.trans Memory.Kept.of_eq
    · refine (framePlace_reads h).1.trans ((Memory.Kept.foldl _ (fun s p => ?_) _ _).trans (State.frameBad_kept _ _ _ _ _))
      split
      · exact State.frameWrite_kept ‹_›
      · exact Memory.Kept.refl s
  · exact Memory.Kept.trans (t := s.mapWaves _) Memory.Kept.of_eq (deliver_kept _ _ _)
  · exact Memory.Kept.of_eq
  · exact Memory.Kept.trans (t := s.mapWaves _) Memory.Kept.of_eq (State.frameLost_kept _ _ _ _ _ _)

/-- A wave's state read afresh moves no byte, but for corrections. -/
theorem reload_reads {s t : State} {w x : Wave} (e : reload s w = .ok (x, t)) : Memory.Reads s t := by
  unfold reload at e
  split at e
  · cases e
  · rename_i h
    dsimp only at e
    split at e
    · cases e
    · cases e
      refine (framePlace_reads h).trans ?_
      split
      · exact Memory.Reads.foldl _ (fun s r => (State.mend_reads _ _ _).trans (State.touch_reads _ _ _ _)) _ _
      · exact Memory.Reads.refl _

/-! ### Reads after writes -/

/-- A byte outside the bytes written, in a block that is not registered, is as before. -/
theorem mem_setList_other (s : State) (pa : Nat) (bytes : List Byte) {a : Nat} (h : a < pa ∨ pa + bytes.length ≤ a) :
    ({ s with mem := Sparse.setList s.mem pa bytes } : State).cell a = s.cell a := by
  unfold State.cell State.memByte
  dsimp only
  rw [Sparse.get_setList_other _ _ _ h]
  rfl

/-- The first `n` bytes of a number are `n`. -/
@[simp] theorem toBytes_length (n x : Nat) : (toBytes n x).length = n := by simp [toBytes]

/-- Memory is in its canonical form at reset. -/
theorem reset_memory_wf : Memory.wf State.reset = true := rfl

end Sys2Proof.Machine
end

