-- ==== Sys2Proof/Laws/Ops.lean ====
section
/-! SUPPORT. What the shared operations do: scalar results and stalls, leaving a core, parking, halting and trapping (each
keeps the canonical form of memory), and the words and masks that a lane result writes. -/

namespace Sys2Proof.Machine

/-! ### Scalar results -/

/-- An instruction whose registers may be read has its effect (R108, R115). -/
theorem State.scalar_ready {s : State} {srcs dsts : List (BitVec 6)} (k : State → State) (h : s.scalarReady srcs dsts = true) :
    s.scalar srcs dsts k = k s := by simp [State.scalar, h]

/-- It stalls in its place otherwise. -/
theorem State.scalar_waits {s : State} {srcs dsts : List (BitVec 6)} (k : State → State) (h : s.scalarReady srcs dsts = false) :
    s.scalar srcs dsts k = s.stall := by simp [State.scalar, h]

/-- Everything that a scalar result changes. -/
theorem State.retS_spec (s : State) (d : BitVec 6) (x : Word64) (n : Nat) :
    (s.retS d x n).rs d = (if d = 0 then 0 else x)
      ∧ (∀ r, r ≠ d → (s.retS d x n).rs r = s.rs r)
      ∧ (∀ r, r ≠ d → Sparse.get (s.retS d x n).w.pendS r.toNat = Sparse.get s.w.pendS r.toNat)
      ∧ (s.retS d x n).w.spc = s.w.spc + BitVec.ofNat 64 n
      ∧ s.retS d x n = { s with w := { s.w with
          sreg := (s.retS d x n).w.sreg, pendS := (s.retS d x n).w.pendS, spc := (s.retS d x n).w.spc } } := by
  refine ⟨State.setS_rs_same s d x, fun r h => State.setS_rs_other s x h, fun r h => State.setS_pendS_other s x h, ?_, ?_⟩
  · simp [State.retS]
  · unfold State.retS State.setS
    split <;> rfl

/-- A scalar result moves no byte of memory. -/
@[simp] theorem State.retS_cell (s : State) (d : BitVec 6) (x : Word64) (n pa : Nat) : (s.retS d x n).cell pa = s.cell pa := by
  rw [(State.retS_spec s d x n).2.2.2.2]; rfl

theorem State.retS_kept (s : State) (d : BitVec 6) (x : Word64) (n : Nat) : Memory.Kept s (s.retS d x n) := by
  rw [(State.retS_spec s d x n).2.2.2.2]
  exact Memory.Kept.of_eq

theorem State.stall_kept (s : State) : Memory.Kept s s.stall := Memory.Kept.of_eq

theorem State.onW_kept (s : State) (f : Wave → Wave) : Memory.Kept s (s.onW f) := Memory.Kept.of_eq

theorem State.mapWaves_kept (s : State) (f : Wave → Wave) : Memory.Kept s (s.mapWaves f) := Memory.Kept.of_eq

theorem State.setEntry_kept (s : State) (e : SplitEntry) : Memory.Kept s (s.setEntry e) := Memory.Kept.of_eq

theorem State.setCore_kept (s : State) (g : Nat) (c : Core) : Memory.Kept s (s.setCore g c) := Memory.Kept.of_eq

theorem State.setCcp_kept (s : State) (c : Nat) (p : Ccp) : Memory.Kept s (s.setCcp c p) := Memory.Kept.of_eq

theorem State.onBlock_kept (s : State) (lid : BitVec 32) (b : Nat) (f : Block → Block) : Memory.Kept s (s.onBlock lid b f) :=
  Memory.Kept.of_eq

/-- A scalar instruction keeps the form if its effect does. -/
theorem State.scalar_kept (s : State) (srcs dsts : List (BitVec 6)) (k : State → State) (h : Memory.Kept s (k s)) :
    Memory.Kept s (s.scalar srcs dsts k) := by
  unfold State.scalar
  split
  · exact h
  · exact State.stall_kept s

/-! ### Cores and parks -/

/-- Leaving a core changes the core's record and the wave. -/
theorem State.leaveCore_spec (s : State) : s.leaveCore = { s with w := s.leaveCore.w, cores := s.leaveCore.cores } := by
  unfold State.leaveCore
  dsimp only
  split <;> rfl

theorem State.leaveCore_kept (s : State) : Memory.Kept s s.leaveCore := by
  rw [State.leaveCore_spec]
  exact Memory.Kept.of_eq

theorem State.sendHome_kept (s : State) : Memory.Kept s s.sendHome := by
  unfold State.sendHome
  split
  · rename_i h; exact (writeBack_kept h).trans (State.onW_kept _ _)
  · exact (State.onW_kept s _).trans (deliver_kept _ _ _)
  · exact State.onW_kept s _
  · exact (State.frameLost_kept _ _ _ _ _ _).trans (State.onW_kept _ _)

theorem State.switchOut_kept (s : State) : Memory.Kept s s.switchOut := by
  have h0 (f : Wave → Wave) : Memory.Kept s (s.leaveCore.onW f) := (State.leaveCore_kept s).trans (State.onW_kept _ f)
  unfold State.switchOut
  extract_lets landing t
  split
  · exact State.onW_kept s _
  · split
    · exact (h0 _).trans (State.sendHome_kept _)
    · exact h0 _

theorem State.orderSwitch_kept (s : State) : Memory.Kept s s.orderSwitch := by
  unfold State.orderSwitch
  split
  · exact State.onW_kept _ _
  · exact State.switchOut_kept s

theorem State.block_kept (s : State) (wt : Wait) : Memory.Kept s (s.block_ wt) :=
  (State.onW_kept s _).trans (State.orderSwitch_kept _)

theorem State.parkThen_kept (s : State) (c : ParkCause) (k : State → State) (hk : ∀ u, Memory.Kept u (k u)) :
    Memory.Kept s (s.parkThen c k) := by
  unfold State.parkThen
  extract_lets t
  generalize h : writeBack t _ = r
  rcases r with (_ | _ | _ | _ | _) | u
  · refine Memory.Kept.trans ?_ (deliver_kept _ _ _)
    exact Memory.Kept.trans (State.leaveCore_kept s) (State.onW_kept t _)
  · refine Memory.Kept.trans ?_ (deliver_kept _ _ _)
    exact Memory.Kept.trans (State.leaveCore_kept s) (State.onW_kept t _)
  · exact State.frameLost_kept _ _ _ _ _ _
  · exact State.frameLost_kept _ _ _ _ _ _
  · exact State.stall_kept s
  · exact (((State.leaveCore_kept s).trans (writeBack_kept h)).trans (State.onW_kept _ _)).trans (hk _)

theorem State.park_kept (s : State) (c : ParkCause) (r : FaultRecord) : Memory.Kept s (s.park c r) :=
  State.parkThen_kept s c _ (fun u => deliver_kept u _ _)

theorem State.parkPage_kept (s : State) (f : FaultClass) (va pa : BitVec 64) (a : BitVec 4) (m : BitVec 32) (b : Bool) :
    Memory.Kept s (s.parkPage f va pa a m b) := State.park_kept _ _ _

/-! ### Halts and traps -/

theorem endLaunch_kept (s : State) (lid : BitVec 32) (x : BitVec 8) : Memory.Kept s (endLaunch s lid x) := by
  unfold endLaunch
  split
  · exact Memory.Kept.refl s
  · split
    · exact Memory.Kept.refl s
    · exact Memory.Kept.of_eq

theorem State.trapOfRetired_kept (s : State) (lid : BitVec 32) (b : Nat) : Memory.Kept s (s.trapOfRetired lid b) := by
  unfold State.trapOfRetired
  split
  · exact Memory.Kept.refl s
  · exact endLaunch_kept _ _ _

theorem settleHalt_kept (s : State) (lid : BitVec 32) (b : Nat) : Memory.Kept s (settleHalt s lid b) := by
  unfold settleHalt
  split
  · split
    · exact Memory.Kept.refl s
    · exact endLaunch_kept _ _ _
  · exact Memory.Kept.refl s

theorem State.storeHalted_kept (s : State) (w : Wave) : Memory.Kept s (s.storeHalted w) := by
  unfold State.storeHalted
  dsimp only
  split
  · exact State.putFrame_kept _ _ _
  · split
    · rename_i h; exact (writeBack_kept h).trans (State.mapWaves_kept _ _)
    · exact (State.mapWaves_kept s _).trans (deliver_kept _ _ _)
    · exact Memory.Kept.refl s
    · exact State.frameLost_kept _ _ _ _ _ _

theorem State.storeLatched_kept (s : State) (w : Wave) : Memory.Kept s (s.storeLatched w) := by
  unfold State.storeLatched
  split
  · exact State.putFrame_kept _ _ _
  · exact Memory.Kept.refl s

theorem spreadHalt_kept (s : State) (lid : BitVec 32) (blk c kind o : Nat) (ptc : BitVec 64) (before : List Nat) :
    Memory.Kept s (spreadHalt s lid blk c kind o ptc before) := by
  unfold spreadHalt
  dsimp only
  refine Memory.Kept.trans ?_ (settleHalt_kept _ _ _)
  refine Memory.Kept.trans ?_ (State.setCcp_kept _ _ _)
  refine Memory.Kept.trans ?_ (State.onBlock_kept _ _ _ _)
  refine Memory.Kept.trans ?_ (Memory.Kept.foldl _ (fun s w => (traceRecord_writes s w _ _ _ _ _).1) _ _)
  refine Memory.Kept.trans ?_ (Memory.Kept.foldl _ (fun s w => State.storeLatched_kept s w) _ _)
  refine Memory.Kept.trans ?_ (Memory.Kept.foldl _ (fun s w => State.storeHalted_kept s w) _ _)
  exact Memory.Kept.of_eq

theorem haltBlock_kept (s : State) (kind : Nat) : Memory.Kept s (haltBlock s kind) :=
  (State.onW_kept s _).trans (spreadHalt_kept _ _ _ _ _ _ _ _)

theorem haltWith_kept (s : State) (kind : Nat) (t : TrapInfo) (nest : Bool) : Memory.Kept s (haltWith s kind t nest) :=
  (State.onW_kept s _).trans (haltBlock_kept _ _)

theorem State.takeLatchAt_kept (s : State) (pc : Addr) : Memory.Kept s (s.takeLatchAt pc) := by
  unfold State.takeLatchAt
  dsimp only
  refine Memory.Kept.trans ?_ (settleHalt_kept _ _ _)
  refine Memory.Kept.trans ?_ (traceRecord_writes _ _ _ _ _ _ _).1
  exact ((State.leaveCore_kept s).trans (State.onW_kept _ _)).trans (State.storeHalted_kept _ _)

theorem enterTrap_kept (s : State) (t : TrapInfo) (e : Nat) : Memory.Kept s (enterTrap s t e) := by
  unfold enterTrap
  dsimp only
  split
  · refine Memory.Kept.trans ?_ (traceRecord_writes _ _ _ _ _ _ _).1
    split <;> exact Memory.Kept.of_eq
  · split <;> exact Memory.Kept.of_eq

/-- A trap that is held changes the wave alone. -/
theorem State.keepTrap_kept (s : State) (t : TrapInfo) : Memory.Kept s (s.keepTrap t) := by
  unfold State.keepTrap
  dsimp only
  split <;> exact Memory.Kept.of_eq

theorem takeTrap_kept (s : State) (t : TrapInfo) : Memory.Kept s (takeTrap s t) := by
  unfold takeTrap
  extract_lets c a
  clear_value a
  split
  · exact State.keepTrap_kept _ _
  · split
    · split
      · exact State.keepTrap_kept _ _
      · exact State.park_kept _ _ _
    · exact (deliver_kept _ _ _).trans (haltWith_kept _ _ _ _)
    · exact haltWith_kept _ _ _ _
    · rename_i h
      extract_lets e
      split
      · exact (coreRead_kept h).trans (haltWith_kept _ _ _ _)
      · exact (coreRead_kept h).trans (enterTrap_kept _ _ _)

theorem State.raise_kept (s : State) (t : TrapInfo) : Memory.Kept s (s.raise t) := by
  unfold State.raise
  split
  · exact haltWith_kept _ _ _ _
  · split
    · dsimp only
      split <;> exact Memory.Kept.of_eq
    · exact takeTrap_kept _ _

theorem State.trapS_kept (s : State) (c : BitVec 8) (d : BitVec 24) (a : BitVec 64) (b : Bool) : Memory.Kept s (s.trapS c d a b) :=
  State.raise_kept _ _

theorem State.trapL_kept (s : State) (c : BitVec 8) (d : BitVec 24) (a : BitVec 64) (m : Word32) (b : Bool) :
    Memory.Kept s (s.trapL c d a m b) := State.raise_kept _ _

theorem State.trapDecode_kept (s : State) (c : BitVec 8) : Memory.Kept s (s.trapDecode c) := by
  unfold State.trapDecode
  split
  · exact State.trapL_kept _ _ _ _ _ _
  · exact State.trapS_kept _ _ _ _ _

theorem State.raiseStop_kept (s : State) (t : TrapInfo) : Memory.Kept s (s.raiseStop t) := by
  unfold State.raiseStop
  split
  · exact State.onW_kept _ _
  · exact takeTrap_kept _ _

theorem integrityRecord_kept (s : State) (a : BitVec 4) (va pa : BitVec 64) : Memory.Kept s (integrityRecord s a va pa) :=
  deliver_kept _ _ _

theorem State.failS_kept (s : State) (a : BitVec 4) (f : AccFail) : Memory.Kept s (s.failS a f) := by
  cases f
  · exact State.parkPage_kept _ _ _ _ _ _ _
  · exact State.trapS_kept _ _ _ _ _
  · exact (integrityRecord_kept _ _ _ _).trans (State.raise_kept _ _)
  · exact State.trapS_kept _ _ _ _ _
  · exact State.stall_kept _

/-! ### Lane words -/

/-- Lane `L` is among the lanes of a mask when its bit is set. -/
theorem mem_lanesOf {m : Word32} {L : Nat} (h : L < 32) : L ∈ lanesOf m ↔ m.getLsbD L = true := by
  simp [lanesOf, h]

theorem lanesOf_lt {m : Word32} {L : Nat} (h : L ∈ lanesOf m) : L < 32 := by
  simp [lanesOf] at h; exact h.1

/-- Words written to lanes of a list, read back: inside the list the new words, elsewhere the old ones. -/
theorem get_foldl_lanes (n : Nat) (f : Nat → Word32) (l : List Nat) (hl : ∀ x ∈ l, x < 32) (m : Sparse 32) (k L : Nat)
    (hL : L < 32) : Sparse.get (l.foldl (fun m x => Sparse.set m (n * 32 + x) (f x)) m) (k * 32 + L)
      = if k = n ∧ L ∈ l then f L else Sparse.get m (k * 32 + L) := by
  induction l generalizing m with
  | nil => simp
  | cons x l ih =>
    have hx : x < 32 := hl x (by simp)
    rw [List.foldl_cons, ih (fun y hy => hl y (by simp [hy])), Sparse.get_set]
    by_cases h1 : k = n ∧ L ∈ l
    · simp [h1]
    · by_cases h2 : k = n ∧ L = x
      · obtain ⟨rfl, rfl⟩ := h2
        simp
      · have h3 : k * 32 + L ≠ n * 32 + x := by omega
        simp only [h1, h3, if_false, List.mem_cons]
        split
        · rename_i h4
          exact absurd h4.1 (by
            intro hk
            rcases h4.2 with h5 | h5
            · exact h2 ⟨hk, h5⟩
            · exact h1 ⟨hk, h5⟩)
        · rfl

/-- The words of a register after some lanes of one are written: those lanes of that register, and no other word. -/
theorem get_setLanes (m : Sparse 32) (n : Nat) (act : Word32) (f : Nat → Word32) {k L : Nat} (hL : L < 32) :
    Sparse.get (setLanes m n act f) (k * 32 + L) = if k = n ∧ act.getLsbD L = true then f L else Sparse.get m (k * 32 + L) := by
  unfold setLanes
  rw [get_foldl_lanes n f _ (fun x h => lanesOf_lt h) m k L hL]
  simp [mem_lanesOf hL]

/-- A lane result's words (R193). -/
theorem State.setV_rv (s : State) (n : Nat) (act : Word32) (f : Nat → Word32) {k L : Nat} (hL : L < 32) :
    (s.setV n act f).w.rv k L = if k = n ∧ act.getLsbD L = true then f L else s.w.rv k L := get_setLanes _ _ _ _ hL

/-- A bit of a mask made from a predicate. -/
theorem foldl_mask (f : Nat → Bool) (l : List Nat) (hl : ∀ x ∈ l, x < 32) (a : Word32) {L : Nat} (hL : L < 32) :
    (l.foldl (fun a x => if f x then a ||| (1#32 <<< x) else a) a).getLsbD L = (a.getLsbD L || (decide (L ∈ l) && f L)) := by
  induction l generalizing a with
  | nil => simp
  | cons x l ih =>
    have hx : x < 32 := hl x (by simp)
    rw [List.foldl_cons, ih (fun y hy => hl y (by simp [hy]))]
    by_cases e : L = x
    · subst e
      by_cases hf : f L = true <;> simp [hf, hL]
    · have h1 : (1#32 <<< x).getLsbD L = false := by
        simp only [BitVec.getLsbD_shiftLeft, BitVec.getLsbD_one]
        by_cases hlt : L < x
        · simp [hlt]
        · have : L - x ≠ 0 := by omega
          simp [this]
      by_cases hf : f x = true
      · simp [hf, h1, e]
      · simp [hf, e]

/-- The bits of `maskOf` are its predicate. -/
theorem getLsbD_maskOf (f : Nat → Bool) {L : Nat} (hL : L < 32) : (maskOf f).getLsbD L = f L := by
  unfold maskOf
  rw [foldl_mask f _ (fun x h => List.mem_range.mp h) (0 : Word32) hL]
  simp [hL]

/-! ### Lane instructions -/

/-- A register at or above REGCNT is ILLREG (R48). -/
theorem State.laneBegin_illegal {s : State} {a : LaneArgs} {u : LaneUse} (k : Word32 → State)
    (h : u.illegal s.w.regcnt = true) : s.laneBegin a u k = s.trapDecode 0x03 := by simp [State.laneBegin, h]

/-- A source with an outstanding write, or a destination still to be collected, makes the fragment wait (R115, R273). -/
theorem State.laneBegin_waits {s : State} {a : LaneArgs} {u : LaneUse} (k : Word32 → State) (h : u.illegal s.w.regcnt = false)
    (p : (s.pendingV u (s.active a.mask) || s.latchPending u (s.active a.mask) || s.collecting u.dsts) = true) :
    s.laneBegin a u k = s.stall := by
  unfold State.laneBegin
  simp only [h, p]
  rfl

/-- A latch that is not valid is LATCHLOST (R78). -/
theorem State.laneBegin_lost {s : State} {a : LaneArgs} {u : LaneUse} (k : Word32 → State) (h : u.illegal s.w.regcnt = false)
    (p : (s.pendingV u (s.active a.mask) || s.latchPending u (s.active a.mask) || s.collecting u.dsts) = false)
    (l : s.latchLost u = true) : s.laneBegin a u k = s.trapL 0x04 0 0 s.entry.lmask false := by
  unfold State.laneBegin
  simp only [h, p, l]
  rfl

/-- The first line that the instruction needs, that its core does not hold and that is whole in the active lanes, is fetched
(R81). -/
theorem State.laneBegin_fetches {s : State} {a : LaneArgs} {u : LaneUse} {x : FrameLine} (k : Word32 → State)
    (h : u.illegal s.w.regcnt = false)
    (p : (s.pendingV u (s.active a.mask) || s.latchPending u (s.active a.mask) || s.collecting u.dsts) = false)
    (l : s.latchLost u = false)
    (b : (s.absent u (s.active a.mask)).find? (fun x => s.badLanes x &&& s.active a.mask == 0) = some x) :
    s.laneBegin a u k = s.fetchLine x (s.active a.mask) := by
  unfold State.laneBegin State.fetchLines
  simp only [h, p, l, b]
  rfl

/-- Otherwise the instruction acts on its active lanes, and uses its lines. -/
theorem State.laneBegin_ready {s : State} {a : LaneArgs} {u : LaneUse} (k : Word32 → State) (h : u.illegal s.w.regcnt = false)
    (p : (s.pendingV u (s.active a.mask) || s.latchPending u (s.active a.mask) || s.collecting u.dsts) = false)
    (l : s.latchLost u = false) (b : s.absent u (s.active a.mask) = []) :
    s.laneBegin a u k = (k (s.active a.mask)).useLines s u (s.active a.mask) := by
  unfold State.laneBegin State.fetchLines
  simp only [h, p, l, b]
  rfl

/-! ### Lines of frames -/

theorem State.setCache_kept (s : State) (g : Nat) (c : RegCache) : Memory.Kept s (s.setCache g c) := Memory.Kept.of_eq

theorem State.lineFault_kept (s : State) (w : Wave) (off : Nat) (e : AccFail) : Memory.Kept s (s.lineFault w off e) := by
  unfold State.lineFault
  extract_lets set
  split
  · exact Memory.Kept.refl s
  · exact Memory.Kept.trans (t := (s.setCore _ _).mapWaves _) Memory.Kept.of_eq (deliver_kept _ _ _)
  · exact State.frameLost_kept _ _ _ _ _ _

theorem State.lineHome_kept (s : State) (key : Nat) : Memory.Kept s (s.lineHome key) := by
  unfold State.lineHome
  split
  · exact Memory.Kept.refl s
  · extract_lets off
    split
    · rename_i h; exact frameWrite_kept h
    · exact Memory.Kept.refl s
    · exact State.lineFault_kept _ _ _ _

theorem State.useLine_kept (s : State) (w : Wave) (x : FrameLine) (d : Bool) : Memory.Kept s (s.useLine w x d) := by
  unfold State.useLine
  extract_lets g key l rest dirty t
  split
  · exact State.setCache_kept _ _ _
  · refine Memory.Kept.trans (t := t) ?_ (State.setCache_kept _ _ _)
    simp only [t]
    split
    · exact State.lineHome_kept _ _
    · exact Memory.Kept.refl s

theorem State.useLines_kept (t s : State) (u : LaneUse) (act : Word32) : Memory.Kept t (t.useLines s u act) := by
  unfold State.useLines
  split
  · exact Memory.Kept.refl t
  · exact Memory.Kept.foldl (fun t x => t.useLine s.w x _) (fun t x => State.useLine_kept t _ _ _) _ _

theorem State.frameMiss_kept (s : State) (off n : Nat) (act : Word32) (k : State → State) (hk : ∀ u, Memory.Kept u (k u)) :
    Memory.Kept s (s.frameMiss off n act k) := by
  unfold State.frameMiss
  extract_lets va stop
  have hs (u : State) (c : BitVec 8) (va : BitVec 64) : Memory.Kept u (stop u c va) := by
    simp only [stop]
    split
    · exact State.trapL_kept _ _ _ _ _ _
    · exact State.trapS_kept _ _ _ _ _
  generalize h : framePlace s s.w = r
  rcases r with (_ | _ | _ | _ | _) | ⟨⟨pa, key⟩, u⟩
  · refine Memory.Kept.trans ?_ (deliver_kept _ _ _)
    exact Memory.Kept.trans (State.leaveCore_kept s) (State.onW_kept s.leaveCore _)
  · exact hs _ _ _
  · exact (integrityRecord_kept _ _ _ _).trans (hs _ _ _)
  · exact hs _ _ _
  · exact State.stall_kept s
  · refine (framePlace_reads h).1.trans ?_
    dsimp only
    rcases u.failing (pa + off) n key with _ | ⟨sec, l⟩
    · refine Memory.Kept.trans ?_ (hk _)
      split
      · exact ((State.mend_reads _ _ _).trans (State.touch_reads _ _ _ _)).1
      · exact Memory.Kept.refl _
    · exact (Memory.Kept.foldl _ (fun s x => integrityRecord_kept s _ _ _) _ _).trans (hs _ _ _)

theorem State.fetchLine_kept (s : State) (x : FrameLine) (act : Word32) : Memory.Kept s (s.fetchLine x act) := by
  unfold State.fetchLine
  split
  · exact State.stall_kept s
  · exact State.frameMiss_kept _ _ _ _ _ (fun _ => (State.useLine_kept _ _ _ _).trans (State.stall_kept _))

/-- Lanes struck by failing sectors of lines: records and a trap, no byte of memory (R303). -/
theorem State.strikeLanes_kept (s t : State) (u : LaneUse) (xs : List FrameLine) (struck act : Word32) :
    Memory.Kept t (s.strikeLanes t u xs struck act) := by
  unfold State.strikeLanes
  split
  · exact Memory.Kept.refl t
  · extract_lets t1 t2 e t3
    have h3 : Memory.Kept t t3 := ((State.useLines_kept t s u act).trans (State.setCache_kept _ _ _)).trans (State.setEntry_kept _ _)
    split
    · exact h3
    · extract_lets secs at_ t4
      exact h3.trans ((Memory.Kept.foldl _ (fun s x => integrityRecord_kept s _ _ _) _ _).trans (State.raise_kept _ _))

/-- The lines of an instruction, fetched or there, around an effect that keeps the form. -/
theorem State.fetchLines_kept (s : State) (u : LaneUse) (act : Word32) (b : Bool) (k : Word32 → State)
    (h : ∀ act, Memory.Kept s (k act)) : Memory.Kept s (s.fetchLines u act b k) := by
  unfold State.fetchLines
  extract_lets xs struck
  split
  · exact State.fetchLine_kept _ _ _
  · rcases xs with _ | ⟨x, l⟩
    · exact (h _).trans (State.useLines_kept _ _ _ _)
    · dsimp only
      split
      · exact (h _).trans (State.strikeLanes_kept _ _ _ _ _ _)
      · exact State.fetchLine_kept _ _ _

theorem State.laneBegin_kept (s : State) (a : LaneArgs) (u : LaneUse) (k : Word32 → State)
    (h : ∀ act, Memory.Kept s (k act)) (b : Bool := false) : Memory.Kept s (s.laneBegin a u k b) := by
  unfold State.laneBegin
  extract_lets act
  split
  · exact State.trapDecode_kept _ _
  · split
    · exact State.stall_kept _
    · split
      · exact State.trapL_kept _ _ _ _ _ _
      · exact State.fetchLines_kept _ _ _ _ _ h

theorem State.laneNext_kept (s : State) (b : Bool) : Memory.Kept s (s.laneNext b) := Memory.Kept.of_eq

theorem State.latchWords_kept (s : State) (n : Nat) (act : Word32) (f : Nat → Word32) : Memory.Kept s (s.latchWords n act f) := by
  unfold State.latchWords
  dsimp only
  split <;> exact Memory.Kept.of_eq

theorem State.latchSince_kept (s : State) (n : Nat) (act : Word32) (f : Nat → Word32) : Memory.Kept s (s.latchSince n act f) := by
  unfold State.latchSince
  dsimp only
  split
  · exact (State.latchWords_kept s n act f).trans (Memory.Kept.of_eq)
  · exact State.latchWords_kept s n act f

theorem State.orFlags_kept (s : State) (f : Sticky) : Memory.Kept s (s.orFlags f) := by
  unfold State.orFlags
  split
  · exact Memory.Kept.refl s
  · exact State.onW_kept _ _

theorem State.setV_kept (s : State) (n : Nat) (act : Word32) (f : Nat → Word32) : Memory.Kept s (s.setV n act f) :=
  State.onW_kept _ _

theorem State.setX_kept (s : State) (n : Nat) (x : BitVec 128) : Memory.Kept s (s.setX n x) := State.onW_kept _ _

theorem State.sideWrite_kept (s : State) (n : Nat) (act : Word32) (c : Nat) (t : BitVec 16) (x : Option (BitVec 64 × BitVec 64)) :
    Memory.Kept s (s.sideWrite n act c t x) := by
  unfold State.sideWrite
  dsimp only
  split
  · exact State.setX_kept _ _ _
  · split <;> exact State.setX_kept _ _ _

theorem State.laneResult_kept (s : State) (a : LaneArgs) (act : Word32) (c : Nat) (t : BitVec 16) (f : Nat → Word32) (g : Sticky) :
    Memory.Kept s (s.laneResult a act c t f g) := by
  unfold State.laneResult
  extract_lets replay t u
  split
  · exact State.trapL_kept _ _ _ _ _ _
  · refine Memory.Kept.trans ?_ (State.laneNext_kept _ _)
    refine Memory.Kept.trans ?_ (State.orFlags_kept _ _)
    refine Memory.Kept.trans ?_ (State.latchSince_kept _ _ _ _)
    simp only [u, t]
    split
    · exact Memory.Kept.refl s
    · split
      · exact State.setV_kept _ _ _ _
      · exact (State.setV_kept _ _ _ _).trans (State.sideWrite_kept _ _ _ _ _ _)

theorem State.laneAlu_kept (s : State) (a : LaneArgs) (srcs : List Src) (c : Nat) (rule : State → Option (BitVec 16))
    (f : State → Nat → Word32 × Sticky) : Memory.Kept s (s.laneAlu a srcs c rule f) := by
  unfold State.laneAlu
  refine State.laneBegin_kept s _ _ _ (fun act => ?_) true
  split
  · exact State.trapL_kept _ _ _ _ _ _
  · exact State.laneResult_kept _ _ _ _ _ _ _

end Sys2Proof.Machine
end

