-- ==== Sys2Proof/Laws/PerInstr.lean ====
section
/-! SUPPORT. The family `Encoding`, one lemma for each constructor of Instr: an instruction is encoded in whole words, in 4 or
8 bytes of the scalar stream or in 12 of the lane stream, which holds every instruction with lane fields (R35, R37, R40). -/

namespace Sys2Proof.Laws.Encoding

/-- What the family says of an instruction. -/
def Statement (i : Instr) : Prop :=
  ∀ c, encode i = some c →
    (c.bytes.length = 4 ∨ c.bytes.length = 8 ∨ c.bytes.length = 12) ∧ (i.laneParts.isSome = true → c.bytes.length = 12)

theorem littleEndian_length (n x : Nat) : (littleEndian n x).length = n := by
  induction n generalizing x with
  | zero => rfl
  | succ n ih => simp [littleEndian, ih]

/-- The bytes of each kind of code. -/
theorem bytes_length (c : Code) : c.bytes.length = 4 ∨ c.bytes.length = 8 ∨ c.bytes.length = 12 := by
  cases c <;> simp [Code.bytes, littleEndian_length]

/-- A code of the lane stream has 12 bytes. -/
theorem lane_length (w : BitVec 96) : (Code.lane w).bytes.length = 12 := littleEndian_length 12 _

/-- An instruction without lane fields. -/
theorem of_scalar {i : Instr} (h : i.laneParts = none) : Statement i :=
  fun c _ => ⟨bytes_length c, fun g => by rw [h] at g; cases g⟩

/-- An instruction whose encoding is a lane word. -/
theorem of_lane {i : Instr} {w : BitVec 96} (h : encode i = some (.lane w)) : Statement i :=
  fun c g => ⟨bytes_length c, fun _ => by rw [h] at g; cases g; exact lane_length w⟩

end Sys2Proof.Laws.Encoding

namespace Sys2Proof.Laws

open Encoding

theorem Encoding.longImmediatePrefix (hi : BitVec 26) (word : BitVec 32) : Statement (.longImmediatePrefix hi word) := of_scalar rfl
theorem Encoding.add (d a b : BitVec 6) : Statement (.add d a b) := of_scalar rfl
theorem Encoding.sub (d a b : BitVec 6) : Statement (.sub d a b) := of_scalar rfl
theorem Encoding.and (d a b : BitVec 6) : Statement (.and d a b) := of_scalar rfl
theorem Encoding.or (d a b : BitVec 6) : Statement (.or d a b) := of_scalar rfl
theorem Encoding.xor (d a b : BitVec 6) : Statement (.xor d a b) := of_scalar rfl
theorem Encoding.andn (d a b : BitVec 6) : Statement (.andn d a b) := of_scalar rfl
theorem Encoding.shl (d a b : BitVec 6) : Statement (.shl d a b) := of_scalar rfl
theorem Encoding.shr (d a b : BitVec 6) : Statement (.shr d a b) := of_scalar rfl
theorem Encoding.sra (d a b : BitVec 6) : Statement (.sra d a b) := of_scalar rfl
theorem Encoding.shli (d a n : BitVec 6) : Statement (.shli d a n) := of_scalar rfl
theorem Encoding.shri (d a n : BitVec 6) : Statement (.shri d a n) := of_scalar rfl
theorem Encoding.srai (d a n : BitVec 6) : Statement (.srai d a n) := of_scalar rfl
theorem Encoding.slt (d a b : BitVec 6) : Statement (.slt d a b) := of_scalar rfl
theorem Encoding.sltu (d a b : BitVec 6) : Statement (.sltu d a b) := of_scalar rfl
theorem Encoding.min (d a b : BitVec 6) : Statement (.min d a b) := of_scalar rfl
theorem Encoding.max (d a b : BitVec 6) : Statement (.max d a b) := of_scalar rfl
theorem Encoding.minu (d a b : BitVec 6) : Statement (.minu d a b) := of_scalar rfl
theorem Encoding.maxu (d a b : BitVec 6) : Statement (.maxu d a b) := of_scalar rfl
theorem Encoding.mul (d a b : BitVec 6) : Statement (.mul d a b) := of_scalar rfl
theorem Encoding.mulh (d a b : BitVec 6) : Statement (.mulh d a b) := of_scalar rfl
theorem Encoding.mulhu (d a b : BitVec 6) : Statement (.mulhu d a b) := of_scalar rfl
theorem Encoding.div (d a b : BitVec 6) : Statement (.div d a b) := of_scalar rfl
theorem Encoding.divu (d a b : BitVec 6) : Statement (.divu d a b) := of_scalar rfl
theorem Encoding.rem (d a b : BitVec 6) : Statement (.rem d a b) := of_scalar rfl
theorem Encoding.remu (d a b : BitVec 6) : Statement (.remu d a b) := of_scalar rfl
theorem Encoding.clz (d a : BitVec 6) : Statement (.clz d a) := of_scalar rfl
theorem Encoding.ctz (d a : BitVec 6) : Statement (.ctz d a) := of_scalar rfl
theorem Encoding.popc (d a : BitVec 6) : Statement (.popc d a) := of_scalar rfl
theorem Encoding.sextb (d a : BitVec 6) : Statement (.sextb d a) := of_scalar rfl
theorem Encoding.sexth (d a : BitVec 6) : Statement (.sexth d a) := of_scalar rfl
theorem Encoding.sextw (d a : BitVec 6) : Statement (.sextw d a) := of_scalar rfl
theorem Encoding.addi (d a : BitVec 6) (i : BitVec 14) : Statement (.addi d a i) := of_scalar rfl
theorem Encoding.andi (d a : BitVec 6) (i : BitVec 14) : Statement (.andi d a i) := of_scalar rfl
theorem Encoding.ori (d a : BitVec 6) (i : BitVec 14) : Statement (.ori d a i) := of_scalar rfl
theorem Encoding.xori (d a : BitVec 6) (i : BitVec 14) : Statement (.xori d a i) := of_scalar rfl
theorem Encoding.slti (d a : BitVec 6) (i : BitVec 14) : Statement (.slti d a i) := of_scalar rfl
theorem Encoding.sltiu (d a : BitVec 6) (i : BitVec 14) : Statement (.sltiu d a i) := of_scalar rfl
theorem Encoding.muli (d a : BitVec 6) (i : BitVec 14) : Statement (.muli d a i) := of_scalar rfl
theorem Encoding.sldB (d a : BitVec 6) (i : BitVec 14) : Statement (.sldB d a i) := of_scalar rfl
theorem Encoding.sldBu (d a : BitVec 6) (i : BitVec 14) : Statement (.sldBu d a i) := of_scalar rfl
theorem Encoding.sldH (d a : BitVec 6) (i : BitVec 14) : Statement (.sldH d a i) := of_scalar rfl
theorem Encoding.sldHu (d a : BitVec 6) (i : BitVec 14) : Statement (.sldHu d a i) := of_scalar rfl
theorem Encoding.sldW (d a : BitVec 6) (i : BitVec 14) : Statement (.sldW d a i) := of_scalar rfl
theorem Encoding.sldWu (d a : BitVec 6) (i : BitVec 14) : Statement (.sldWu d a i) := of_scalar rfl
theorem Encoding.sldD (d a : BitVec 6) (i : BitVec 14) : Statement (.sldD d a i) := of_scalar rfl
theorem Encoding.sstB (d a : BitVec 6) (i : BitVec 14) : Statement (.sstB d a i) := of_scalar rfl
theorem Encoding.sstH (d a : BitVec 6) (i : BitVec 14) : Statement (.sstH d a i) := of_scalar rfl
theorem Encoding.sstW (d a : BitVec 6) (i : BitVec 14) : Statement (.sstW d a i) := of_scalar rfl
theorem Encoding.sstD (d a : BitVec 6) (i : BitVec 14) : Statement (.sstD d a i) := of_scalar rfl
theorem Encoding.b (o : BitVec 22) : Statement (.b o) := of_scalar rfl
theorem Encoding.call (o : BitVec 22) : Statement (.call o) := of_scalar rfl
theorem Encoding.beq (a b : BitVec 6) (o : BitVec 14) : Statement (.beq a b o) := of_scalar rfl
theorem Encoding.bne (a b : BitVec 6) (o : BitVec 14) : Statement (.bne a b o) := of_scalar rfl
theorem Encoding.blt (a b : BitVec 6) (o : BitVec 14) : Statement (.blt a b o) := of_scalar rfl
theorem Encoding.bge (a b : BitVec 6) (o : BitVec 14) : Statement (.bge a b o) := of_scalar rfl
theorem Encoding.bltu (a b : BitVec 6) (o : BitVec 14) : Statement (.bltu a b o) := of_scalar rfl
theorem Encoding.bgeu (a b : BitVec 6) (o : BitVec 14) : Statement (.bgeu a b o) := of_scalar rfl
theorem Encoding.jr (a : BitVec 6) : Statement (.jr a) := of_scalar rfl
theorem Encoding.callr (d a : BitVec 6) : Statement (.callr d a) := of_scalar rfl
theorem Encoding.ret (a : BitVec 6) : Statement (.ret a) := of_scalar rfl
theorem Encoding.lrun (d a : BitVec 6) (i : BitVec 14) : Statement (.lrun d a i) := of_scalar rfl
theorem Encoding.lwait (n : BitVec 6) : Statement (.lwait n) := of_scalar rfl
theorem Encoding.fmt (d a b : BitVec 6) : Statement (.fmt d a b) := of_scalar rfl
theorem Encoding.seedld (z : BitVec 3) (a b : BitVec 6) : Statement (.seedld z a b) := of_scalar rfl
theorem Encoding.seedtag (d a b : BitVec 6) : Statement (.seedtag d a b) := of_scalar rfl
theorem Encoding.chset (d a b : BitVec 6) : Statement (.chset d a b) := of_scalar rfl
theorem Encoding.chrel (d a : BitVec 6) : Statement (.chrel d a) := of_scalar rfl
theorem Encoding.chkey (d a b : BitVec 6) : Statement (.chkey d a b) := of_scalar rfl
theorem Encoding.chfill (d a b : BitVec 6) : Statement (.chfill d a b) := of_scalar rfl
theorem Encoding.chtag (d a b : BitVec 6) : Statement (.chtag d a b) := of_scalar rfl
theorem Encoding.cpy (d a b : BitVec 6) : Statement (.cpy d a b) := of_scalar rfl
theorem Encoding.cpyt (d a b : BitVec 6) : Statement (.cpyt d a b) := of_scalar rfl
theorem Encoding.cpyr (d a b : BitVec 6) : Statement (.cpyr d a b) := of_scalar rfl
theorem Encoding.cpyc (d a b : BitVec 6) : Statement (.cpyc d a b) := of_scalar rfl
theorem Encoding.ewait (d a : BitVec 6) : Statement (.ewait d a) := of_scalar rfl
theorem Encoding.epoll (d a : BitVec 6) : Statement (.epoll d a) := of_scalar rfl
theorem Encoding.phase (h : BitVec 2) (s : BitVec 3) : Statement (.phase h s) := of_scalar rfl
theorem Encoding.barb (d a : BitVec 6) : Statement (.barb d a) := of_scalar rfl
theorem Encoding.bara (d a : BitVec 6) : Statement (.bara d a) := of_scalar rfl
theorem Encoding.barw (d a b : BitVec 6) : Statement (.barw d a b) := of_scalar rfl
theorem Encoding.garrive (d a : BitVec 6) : Statement (.garrive d a) := of_scalar rfl
theorem Encoding.gwait (d a b : BitVec 6) : Statement (.gwait d a b) := of_scalar rfl
theorem Encoding.ctxgrow (d a : BitVec 6) : Statement (.ctxgrow d a) := of_scalar rfl
theorem Encoding.ctxshrink (d a : BitVec 6) : Statement (.ctxshrink d a) := of_scalar rfl
theorem Encoding.migrate (d a b : BitVec 6) : Statement (.migrate d a b) := of_scalar rfl
theorem Encoding.yield : Statement (.yield) := of_scalar rfl
theorem Encoding.spin : Statement (.spin) := of_scalar rfl
theorem Encoding.launch (d a : BitVec 6) : Statement (.launch d a) := of_scalar rfl
theorem Encoding.ljoin (d a : BitVec 6) : Statement (.ljoin d a) := of_scalar rfl
theorem Encoding.itempush (d a b : BitVec 6) : Statement (.itempush d a b) := of_scalar rfl
theorem Encoding.nop : Statement (.nop) := of_scalar rfl
theorem Encoding.trap (a c : BitVec 6) : Statement (.trap a c) := of_scalar rfl
theorem Encoding.tret (k : BitVec 1) : Statement (.tret k) := of_scalar rfl
theorem Encoding.halt (a : BitVec 6) : Statement (.halt a) := of_scalar rfl
theorem Encoding.brk (t : BitVec 6) : Statement (.brk t) := of_scalar rfl
theorem Encoding.stage (d n : BitVec 6) : Statement (.stage d n) := of_scalar rfl
theorem Encoding.srdsr (d h l : BitVec 6) : Statement (.srdsr d h l) := of_scalar rfl
theorem Encoding.srdsrSflags (d : BitVec 6) : Statement (.srdsrSflags d) := of_scalar rfl
theorem Encoding.srdsrPtc (d : BitVec 6) : Statement (.srdsrPtc d) := of_scalar rfl
theorem Encoding.swrsr (d h l : BitVec 6) : Statement (.swrsr d h l) := of_scalar rfl
theorem Encoding.swrsrSflags (d : BitVec 6) : Statement (.swrsrSflags d) := of_scalar rfl
theorem Encoding.swrsrDbgctl (d : BitVec 6) : Statement (.swrsrDbgctl d) := of_scalar rfl
theorem Encoding.swrsrDeadline (d : BitVec 6) : Statement (.swrsrDeadline d) := of_scalar rfl
theorem Encoding.swrsrTrampbase (d : BitVec 6) : Statement (.swrsrTrampbase d) := of_scalar rfl
theorem Encoding.fwcall (d a b : BitVec 6) : Statement (.fwcall d a b) := of_scalar rfl
theorem Encoding.tramps (i : BitVec 20) : Statement (.tramps i) := of_scalar rfl
theorem Encoding.trampsRet : Statement (.trampsRet) := of_scalar rfl
theorem Encoding.extensionInstruction (kind : ExtensionKind) : Statement (.extensionInstruction kind) := of_scalar rfl
theorem Encoding.vadd (a : LaneArgs) : Statement (.vadd a) := of_lane rfl
theorem Encoding.vsub (a : LaneArgs) : Statement (.vsub a) := of_lane rfl
theorem Encoding.vmul (a : LaneArgs) : Statement (.vmul a) := of_lane rfl
theorem Encoding.vmulh (a : LaneArgs) : Statement (.vmulh a) := of_lane rfl
theorem Encoding.vmad (a : LaneArgs) : Statement (.vmad a) := of_lane rfl
theorem Encoding.vand (a : LaneArgs) : Statement (.vand a) := of_lane rfl
theorem Encoding.vor (a : LaneArgs) : Statement (.vor a) := of_lane rfl
theorem Encoding.vxor (a : LaneArgs) : Statement (.vxor a) := of_lane rfl
theorem Encoding.vandn (a : LaneArgs) : Statement (.vandn a) := of_lane rfl
theorem Encoding.vshl (a : LaneArgs) : Statement (.vshl a) := of_lane rfl
theorem Encoding.vshr (a : LaneArgs) : Statement (.vshr a) := of_lane rfl
theorem Encoding.vmin (a : LaneArgs) : Statement (.vmin a) := of_lane rfl
theorem Encoding.vmax (a : LaneArgs) : Statement (.vmax a) := of_lane rfl
theorem Encoding.vabs (a : LaneArgs) : Statement (.vabs a) := of_lane rfl
theorem Encoding.vneg (a : LaneArgs) : Statement (.vneg a) := of_lane rfl
theorem Encoding.vclz (a : LaneArgs) : Statement (.vclz a) := of_lane rfl
theorem Encoding.vpopc (a : LaneArgs) : Statement (.vpopc a) := of_lane rfl
theorem Encoding.vcmp (a : LaneArgs) : Statement (.vcmp a) := of_lane rfl
theorem Encoding.vsel (a : LaneArgs) : Statement (.vsel a) := of_lane rfl
theorem Encoding.vshrr (a : LaneArgs) : Statement (.vshrr a) := of_lane rfl
theorem Encoding.vadds (a : LaneArgs) : Statement (.vadds a) := of_lane rfl
theorem Encoding.vsubs (a : LaneArgs) : Statement (.vsubs a) := of_lane rfl
theorem Encoding.vshls (a : LaneArgs) : Statement (.vshls a) := of_lane rfl
theorem Encoding.vpadd (a : LaneArgs) : Statement (.vpadd a) := of_lane rfl
theorem Encoding.vpsub (a : LaneArgs) : Statement (.vpsub a) := of_lane rfl
theorem Encoding.vpmul (a : LaneArgs) : Statement (.vpmul a) := of_lane rfl
theorem Encoding.vpmad2 (a : LaneArgs) : Statement (.vpmad2 a) := of_lane rfl
theorem Encoding.vpadds (a : LaneArgs) : Statement (.vpadds a) := of_lane rfl
theorem Encoding.vpsubs (a : LaneArgs) : Statement (.vpsubs a) := of_lane rfl
theorem Encoding.vpmin (a : LaneArgs) : Statement (.vpmin a) := of_lane rfl
theorem Encoding.vpmax (a : LaneArgs) : Statement (.vpmax a) := of_lane rfl
theorem Encoding.vpshrr (a : LaneArgs) : Statement (.vpshrr a) := of_lane rfl
theorem Encoding.vpcmp (a : LaneArgs) : Statement (.vpcmp a) := of_lane rfl
theorem Encoding.vfadd (a : LaneArgs) : Statement (.vfadd a) := of_lane rfl
theorem Encoding.vfsub (a : LaneArgs) : Statement (.vfsub a) := of_lane rfl
theorem Encoding.vfmul (a : LaneArgs) : Statement (.vfmul a) := of_lane rfl
theorem Encoding.vfma (a : LaneArgs) : Statement (.vfma a) := of_lane rfl
theorem Encoding.vfmin (a : LaneArgs) : Statement (.vfmin a) := of_lane rfl
theorem Encoding.vfmax (a : LaneArgs) : Statement (.vfmax a) := of_lane rfl
theorem Encoding.vfabs (a : LaneArgs) : Statement (.vfabs a) := of_lane rfl
theorem Encoding.vfneg (a : LaneArgs) : Statement (.vfneg a) := of_lane rfl
theorem Encoding.vfcmp (a : LaneArgs) : Statement (.vfcmp a) := of_lane rfl
theorem Encoding.vfdiv (a : LaneArgs) : Statement (.vfdiv a) := of_lane rfl
theorem Encoding.vrcp (a : LaneArgs) : Statement (.vrcp a) := of_lane rfl
theorem Encoding.vrsq (a : LaneArgs) : Statement (.vrsq a) := of_lane rfl
theorem Encoding.vsqrt (a : LaneArgs) : Statement (.vsqrt a) := of_lane rfl
theorem Encoding.vexp2 (a : LaneArgs) : Statement (.vexp2 a) := of_lane rfl
theorem Encoding.vlog2 (a : LaneArgs) : Statement (.vlog2 a) := of_lane rfl
theorem Encoding.vsin (a : LaneArgs) : Statement (.vsin a) := of_lane rfl
theorem Encoding.vcos (a : LaneArgs) : Statement (.vcos a) := of_lane rfl
theorem Encoding.vtanh (a : LaneArgs) : Statement (.vtanh a) := of_lane rfl
theorem Encoding.vcvt (a : LaneArgs) : Statement (.vcvt a) := of_lane rfl
theorem Encoding.vcvtn (a : LaneArgs) : Statement (.vcvtn a) := of_lane rfl
theorem Encoding.vcvtw (a : LaneArgs) : Statement (.vcvtw a) := of_lane rfl
theorem Encoding.vqnt (a : LaneArgs) : Statement (.vqnt a) := of_lane rfl
theorem Encoding.vdqnt (a : LaneArgs) : Statement (.vdqnt a) := of_lane rfl
theorem Encoding.vrot (a : LaneArgs) : Statement (.vrot a) := of_lane rfl
theorem Encoding.virot (a : LaneArgs) : Statement (.virot a) := of_lane rfl
theorem Encoding.vscl (a : LaneArgs) : Statement (.vscl a) := of_lane rfl
theorem Encoding.vtagSet (a : LaneArgs) : Statement (.vtagSet a) := of_lane rfl
theorem Encoding.vtagClr (a : LaneArgs) : Statement (.vtagClr a) := of_lane rfl
theorem Encoding.vtagGet (a : LaneArgs) : Statement (.vtagGet a) := of_lane rfl
theorem Encoding.vtagFmt (a : LaneArgs) : Statement (.vtagFmt a) := of_lane rfl
theorem Encoding.vmxadd (a : LaneArgs) : Statement (.vmxadd a) := of_lane rfl
theorem Encoding.vmxsclGet (a : LaneArgs) : Statement (.vmxsclGet a) := of_lane rfl
theorem Encoding.vmxsclPut (a : LaneArgs) : Statement (.vmxsclPut a) := of_lane rfl
theorem Encoding.vslide (a : LaneArgs) : Statement (.vslide a) := of_lane rfl
theorem Encoding.vshuf (a : LaneArgs) : Statement (.vshuf a) := of_lane rfl
theorem Encoding.vbcast (a : LaneArgs) : Statement (.vbcast a) := of_lane rfl
theorem Encoding.vred (a : LaneArgs) : Statement (.vred a) := of_lane rfl
theorem Encoding.vscan (a : LaneArgs) : Statement (.vscan a) := of_lane rfl
theorem Encoding.vballot (a : LaneArgs) : Statement (.vballot a) := of_lane rfl
theorem Encoding.mand (a : LaneArgs) : Statement (.mand a) := of_lane rfl
theorem Encoding.mor (a : LaneArgs) : Statement (.mor a) := of_lane rfl
theorem Encoding.mxor (a : LaneArgs) : Statement (.mxor a) := of_lane rfl
theorem Encoding.mandn (a : LaneArgs) : Statement (.mandn a) := of_lane rfl
theorem Encoding.mnot (a : LaneArgs) : Statement (.mnot a) := of_lane rfl
theorem Encoding.mmov (a : LaneArgs) : Statement (.mmov a) := of_lane rfl
theorem Encoding.mcnt (a : LaneArgs) : Statement (.mcnt a) := of_lane rfl
theorem Encoding.mset (a : LaneArgs) : Statement (.mset a) := of_lane rfl
theorem Encoding.vld (a : LaneArgs) : Statement (.vld a) := of_lane rfl
theorem Encoding.vst (a : LaneArgs) : Statement (.vst a) := of_lane rfl
theorem Encoding.vgth (a : LaneArgs) : Statement (.vgth a) := of_lane rfl
theorem Encoding.vsct (a : LaneArgs) : Statement (.vsct a) := of_lane rfl
theorem Encoding.vlds (a : LaneArgs) : Statement (.vlds a) := of_lane rfl
theorem Encoding.vsts (a : LaneArgs) : Statement (.vsts a) := of_lane rfl
theorem Encoding.vstsRow (a : LaneArgs) : Statement (.vstsRow a) := of_lane rfl
theorem Encoding.vldc (a : LaneArgs) : Statement (.vldc a) := of_lane rfl
theorem Encoding.vpft (a : LaneArgs) : Statement (.vpft a) := of_lane rfl
theorem Encoding.vldb (a : LaneArgs) : Statement (.vldb a) := of_lane rfl
theorem Encoding.vstb (a : LaneArgs) : Statement (.vstb a) := of_lane rfl
theorem Encoding.vatom (a : LaneArgs) : Statement (.vatom a) := of_lane rfl
theorem Encoding.vatomr (a : LaneArgs) : Statement (.vatomr a) := of_lane rfl
theorem Encoding.mma (a : LaneArgs) : Statement (.mma a) := of_lane rfl
theorem Encoding.mmaz (a : LaneArgs) : Statement (.mmaz a) := of_lane rfl
theorem Encoding.maccOut (a : LaneArgs) : Statement (.maccOut a) := of_lane rfl
theorem Encoding.maccIn (a : LaneArgs) : Statement (.maccIn a) := of_lane rfl
theorem Encoding.maccz (a : LaneArgs) : Statement (.maccz a) := of_lane rfl
theorem Encoding.mfence (a : LaneArgs) : Statement (.mfence a) := of_lane rfl
theorem Encoding.mwait (a : LaneArgs) : Statement (.mwait a) := of_lane rfl
theorem Encoding.mstamp (a : LaneArgs) : Statement (.mstamp a) := of_lane rfl
theorem Encoding.vbr (a : LaneArgs) : Statement (.vbr a) := of_lane rfl
theorem Encoding.vbrc (a : LaneArgs) : Statement (.vbrc a) := of_lane rfl
theorem Encoding.vcall (a : LaneArgs) : Statement (.vcall a) := of_lane rfl
theorem Encoding.vret (a : LaneArgs) : Statement (.vret a) := of_lane rfl
theorem Encoding.regang (a : LaneArgs) : Statement (.regang a) := of_lane rfl
theorem Encoding.lend (a : LaneArgs) : Statement (.lend a) := of_lane rfl
theorem Encoding.itemnext (a : LaneArgs) : Statement (.itemnext a) := of_lane rfl
theorem Encoding.vtrap (a : LaneArgs) : Statement (.vtrap a) := of_lane rfl
theorem Encoding.vbrk (a : LaneArgs) : Statement (.vbrk a) := of_lane rfl
theorem Encoding.vmov (a : LaneArgs) : Statement (.vmov a) := of_lane rfl
theorem Encoding.vlid (a : LaneArgs) : Statement (.vlid a) := of_lane rfl
theorem Encoding.vrdsr (a : LaneArgs) : Statement (.vrdsr a) := of_lane rfl
theorem Encoding.vnop (a : LaneArgs) : Statement (.vnop a) := of_lane rfl
theorem Encoding.vtramp (a : LaneArgs) : Statement (.vtramp a) := of_lane rfl
theorem Encoding.vtret (a : LaneArgs) : Statement (.vtret a) := of_lane rfl
theorem Encoding.vtool (n : BitVec 3) (a : LaneArgs) : Statement (.vtool n a) := of_lane rfl
theorem Encoding.illegalInstruction (stream : IllegalKind) : Statement (.illegalInstruction stream) := of_scalar rfl
theorem Encoding.bringUp : Statement (.bringUp) := of_scalar rfl
theorem Encoding.invalidCommand : Statement (.invalidCommand) := of_scalar rfl
theorem Encoding.query : Statement (.query) := of_scalar rfl
theorem Encoding.resetWarm : Statement (.resetWarm) := of_scalar rfl
theorem Encoding.resetFull : Statement (.resetFull) := of_scalar rfl
theorem Encoding.asidset : Statement (.asidset) := of_scalar rfl
theorem Encoding.asidclr : Statement (.asidclr) := of_scalar rfl
theorem Encoding.inval : Statement (.inval) := of_scalar rfl
theorem Encoding.partition : Statement (.partition) := of_scalar rfl
theorem Encoding.keyload : Statement (.keyload) := of_scalar rfl
theorem Encoding.keyclr : Statement (.keyclr) := of_scalar rfl
theorem Encoding.pgmove : Statement (.pgmove) := of_scalar rfl
theorem Encoding.queuecfg : Statement (.queuecfg) := of_scalar rfl
theorem Encoding.kill : Statement (.kill) := of_scalar rfl
theorem Encoding.poolres : Statement (.poolres) := of_scalar rfl
theorem Encoding.poolrel : Statement (.poolrel) := of_scalar rfl
theorem Encoding.domain : Statement (.domain) := of_scalar rfl
theorem Encoding.exportEntry : Statement (.exportEntry) := of_scalar rfl
theorem Encoding.trace : Statement (.trace) := of_scalar rfl
theorem Encoding.dbgattach : Statement (.dbgattach) := of_scalar rfl
theorem Encoding.dbghalt : Statement (.dbghalt) := of_scalar rfl
theorem Encoding.dbgresume : Statement (.dbgresume) := of_scalar rfl
theorem Encoding.dbgdetach : Statement (.dbgdetach) := of_scalar rfl
theorem Encoding.attest : Statement (.attest) := of_scalar rfl
theorem Encoding.patch : Statement (.patch) := of_scalar rfl
theorem Encoding.powercap : Statement (.powercap) := of_scalar rfl
theorem Encoding.powerstat : Statement (.powerstat) := of_scalar rfl
theorem Encoding.launchRecordParse : Statement (.launchRecordParse) := of_scalar rfl
theorem Encoding.launchAdmission : Statement (.launchAdmission) := of_scalar rfl
theorem Encoding.blockPlacement : Statement (.blockPlacement) := of_scalar rfl
theorem Encoding.waveCreation : Statement (.waveCreation) := of_scalar rfl
theorem Encoding.blockStart : Statement (.blockStart) := of_scalar rfl
theorem Encoding.waveRetirement : Statement (.waveRetirement) := of_scalar rfl
theorem Encoding.gridCompletion : Statement (.gridCompletion) := of_scalar rfl
theorem Encoding.launchStall : Statement (.launchStall) := of_scalar rfl
theorem Encoding.waveActivation : Statement (.waveActivation) := of_scalar rfl
theorem Encoding.entryHoldExpiry : Statement (.entryHoldExpiry) := of_scalar rfl
theorem Encoding.voluntarySwitch : Statement (.voluntarySwitch) := of_scalar rfl
theorem Encoding.shadowBankPreload : Statement (.shadowBankPreload) := of_scalar rfl
theorem Encoding.shadowBankSwitch : Statement (.shadowBankSwitch) := of_scalar rfl
theorem Encoding.sliceExpiry : Statement (.sliceExpiry) := of_scalar rfl
theorem Encoding.spillWriteback : Statement (.spillWriteback) := of_scalar rfl
theorem Encoding.registerCacheFill : Statement (.registerCacheFill) := of_scalar rfl
theorem Encoding.operandFileFill : Statement (.operandFileFill) := of_scalar rfl
theorem Encoding.splitEntryFill : Statement (.splitEntryFill) := of_scalar rfl
theorem Encoding.returnArrival : Statement (.returnArrival) := of_scalar rfl
theorem Encoding.pooldeadlock : Statement (.pooldeadlock) := of_scalar rfl
theorem Encoding.landingSlotAcquire : Statement (.landingSlotAcquire) := of_scalar rfl
theorem Encoding.landingSlotExpiry : Statement (.landingSlotExpiry) := of_scalar rfl
theorem Encoding.laneBlockStart : Statement (.laneBlockStart) := of_scalar rfl
theorem Encoding.splitTableExhaustion : Statement (.splitTableExhaustion) := of_scalar rfl
theorem Encoding.issueBoost : Statement (.issueBoost) := of_scalar rfl
theorem Encoding.spinWaitEnd : Statement (.spinWaitEnd) := of_scalar rfl
theorem Encoding.stashFill : Statement (.stashFill) := of_scalar rfl
theorem Encoding.directoryRegistration : Statement (.directoryRegistration) := of_scalar rfl
theorem Encoding.forwardedRead : Statement (.forwardedRead) := of_scalar rfl
theorem Encoding.recall : Statement (.recall) := of_scalar rfl
theorem Encoding.blockEnd : Statement (.blockEnd) := of_scalar rfl
theorem Encoding.matrixOpExecute : Statement (.matrixOpExecute) := of_scalar rfl
theorem Encoding.matrixOpRetire : Statement (.matrixOpRetire) := of_scalar rfl
theorem Encoding.stampRecordWrite : Statement (.stampRecordWrite) := of_scalar rfl
theorem Encoding.pageWalk : Statement (.pageWalk) := of_scalar rfl
theorem Encoding.faultRecordService : Statement (.faultRecordService) := of_scalar rfl
theorem Encoding.emuHandler : Statement (.emuHandler) := of_scalar rfl
theorem Encoding.homeRead : Statement (.homeRead) := of_scalar rfl
theorem Encoding.homeWrite : Statement (.homeWrite) := of_scalar rfl
theorem Encoding.atomicPerform : Statement (.atomicPerform) := of_scalar rfl
theorem Encoding.hostMemoryAccess : Statement (.hostMemoryAccess) := of_scalar rfl
theorem Encoding.remoteAccessTarget : Statement (.remoteAccessTarget) := of_scalar rfl
theorem Encoding.linkCrcError : Statement (.linkCrcError) := of_scalar rfl
theorem Encoding.linkDown : Statement (.linkDown) := of_scalar rfl
theorem Encoding.requestTimeout : Statement (.requestTimeout) := of_scalar rfl
theorem Encoding.lateReplyDiscard : Statement (.lateReplyDiscard) := of_scalar rfl
theorem Encoding.timeAlignmentExchange : Statement (.timeAlignmentExchange) := of_scalar rfl
theorem Encoding.skewBoundLoss : Statement (.skewBoundLoss) := of_scalar rfl
theorem Encoding.engineCommandStart : Statement (.engineCommandStart) := of_scalar rfl
theorem Encoding.engineCompletion : Statement (.engineCompletion) := of_scalar rfl
theorem Encoding.eventRecordRead : Statement (.eventRecordRead) := of_scalar rfl
theorem Encoding.gwaitPollExpiry : Statement (.gwaitPollExpiry) := of_scalar rfl
theorem Encoding.haltLatchTimeout : Statement (.haltLatchTimeout) := of_scalar rfl
theorem Encoding.deadlineExpiry : Statement (.deadlineExpiry) := of_scalar rfl
theorem Encoding.stageBudgetExpiry : Statement (.stageBudgetExpiry) := of_scalar rfl
theorem Encoding.sampleTimerExpiry : Statement (.sampleTimerExpiry) := of_scalar rfl
theorem Encoding.captureFirstTouch : Statement (.captureFirstTouch) := of_scalar rfl
theorem Encoding.fwcallService : Statement (.fwcallService) := of_scalar rfl
theorem Encoding.powerCapThrottle : Statement (.powerCapThrottle) := of_scalar rfl
theorem Encoding.coreRailPeakLimit : Statement (.coreRailPeakLimit) := of_scalar rfl
theorem Encoding.thermalThrottle : Statement (.thermalThrottle) := of_scalar rfl
theorem Encoding.thermalTrip : Statement (.thermalTrip) := of_scalar rfl
theorem Encoding.supplyRemoval : Statement (.supplyRemoval) := of_scalar rfl
theorem Encoding.hostLinkTraining : Statement (.hostLinkTraining) := of_scalar rfl
theorem Encoding.boardPowerLimit : Statement (.boardPowerLimit) := of_scalar rfl
theorem Encoding.baseDieHbmLoss : Statement (.baseDieHbmLoss) := of_scalar rfl
theorem Encoding.thermalExit : Statement (.thermalExit) := of_scalar rfl

end Sys2Proof.Laws
end

