-- ==== Sys2Proof/Safety.lean ====
section
/-! DEFINITION. What counts as a safe run: the machine does not stop. -/

namespace Sys2Proof

/-- A state is safe for `n` steps when none of them ends in a fault or a refusal. -/
def safeFor (n : Nat) (s : Machine.State) : Prop :=
  match n with
  | 0 => True
  | n + 1 =>
    match Machine.step s with
    | .next t => safeFor n t
    | .fault _ => False
    | .refused _ => False

end Sys2Proof
end

