-- ==== Sys2Proof/Tests/Slice0.lean ====
section
/-! SUPPORT. Tests: terms that WellFormed refuses, words written out from the encodings of the manual, one step of some
instructions against values computed by hand from the rules, and, for each statement of Obligations.lean with hypotheses,
states that meet them (`test_meets_…`), at the boundaries of each clause. -/

set_option Elab.async false

namespace Sys2Proof.Tests

open Sys2Proof Sys2Proof.Machine Sys2Proof.Claims

/-! ### Small states -/

/-- Page tables of address space 1: page 0 at 2 MiB of B0, page 2 (home B2) at 2 MiB of B2. -/
def tables : Sparse 8 :=
  [(0x100000, 0x110001), (0x110000, 0x120001), (0x120000, 0x200007), (0x120010, 2 * 2 ^ 37 + 0x200007)].foldl
    (fun m p => Sparse.setList m p.1 (toBytes 8 p.2)) []

/-- An active wave of address space 1 on core 0, its frame at page 2. -/
def wave : Wave := { Wave.blank with
  id := 1, residency := .active, asid := 1, regcnt := 64, spc := 0x10000, frame := 0x40000, poolptr := 0x8000,
  lid := 0x80000001, sreg := [(1, 0x10), (2, 0x10004), (4, 0x12000), (5, 3), (6, 0xFFFFFFFFFFFFFFF0), (7, 0x10006)] }

/-- The lines of a wave's frame, all present in its core. -/
def linesOf (w : Wave) : RegCache :=
  { rc := (List.range 288).map (fun i => (frameLine w (FrameLine.main i).offset, false)),
    operand := (List.range 16).map (fun i => (frameLine w (FrameLine.operand i).offset, false)) }

/-- The cached translation of a page. -/
def page (va pa : Nat) : TlbEntry := { asid := 1, base := va, size := 131072, leaf := BitVec.ofNat 64 (pa + 7) }

/-- A machine with that wave, which can reach memory; both translations are cached at their homes. -/
def st : State := { State.reset with
  w := wave
  mem := tables
  nextWave := 2
  caches := [(0, linesOf wave)]
  dies := [(0, { Die.empty with tlb := [page 0 0x200000] }), (2, { Die.empty with tlb := [page 0x40000 (2 * 2 ^ 37 + 0x200000)] })]
  fw := { Fw.reset with asids := [(1, { top := 0x100000, clusters := 0x3FFFFF })] } }

/-- The same with the wave altered. -/
def stW (f : Wave → Wave) : State := st.onW f

/-- Bytes of page 0 written. -/
def poke (s : State) (va n x : Nat) : State := { s with mem := Sparse.setList s.mem (0x200000 + va) (toBytes n x) }

/-- A record of fields given as offset and value. -/
def recOf (l : List (Nat × Nat)) : Nat := l.foldl (fun a p => a + p.2 * 2 ^ (8 * p.1)) 0

/-- A launch record that passes its checks: two blocks of two waves on one core each, class 1, 12 + 0 + 1 granules. -/
def record : Nat :=
  recOf [(0, 0x10000), (0x30, 0x8000), (0x38, 0x1000), (0x40, 2), (0x44, 1), (0x46, 1), (0x48, 2), (0x4A, 1), (0x4B, 1),
    (0x4C, 3), (0x4D, 12), (0x4F, 1), (0x50, 32), (0x58, 1)]

/-- The pool's descriptor: one page of frames at page 2, 256 lines. -/
def poolImage : Nat := recOf [(0, 0x40000), (8, 1), (0x10, 256), (0x18, 256)]

/-- The wave's launch, admitted. -/
def launch0 : Launch :=
  { Launch.ofRecord 0x80000001 (BitVec.ofNat 2048 record) none none 0 0 with phase := .admitted, mask := 0x3FFFFF }

/-- Its pool, with the wave's slot in use. -/
def pool0 : Pool :=
  { asid := 1, desc := 0x8000, pbase := 0x40000, npages := 1, rbud := 256, rres := 256, rused := 64, accsave := 0,
    slots := [(0, { gen := 0, pend := 0, live := true, freed := 0 })], launch := some 0x80000001, reserve := [], taken := [] }

/-- The wave's block, started on core 0. -/
def block0 : Block :=
  { lid := 0x80000001, blk := 0, cluster := 0, place := 0, created := 2, retired := 0, started := [0], ended := [],
    halted := false, phases := [], arrived := [] }

/-- Core 0 with the launch's bank and the wave's entry. -/
def core0 : Core := { Core.empty with active := some 0x80000001, activeWaves := [1], tileLid := some 0x80000001 }

/-- The machine with the wave's launch, its pool, its block and its other wave. -/
def stL : State := { poke st 0x8000 48 poolImage with
  launches := [launch0]
  pools := [pool0]
  blocks := [block0]
  cores := [(0, core0)]
  others := [{ wave with id := 2, widx := 1, residency := .ready, frame := 0x50000, spc := 0x10100 }] }

/-- The same with the wave altered. -/
def stLW (f : Wave → Wave) : State := stL.onW f

/-- A registers' list of the wave replaced. -/
def regs (s : State) (l : Sparse 64) : State := s.onW (fun w => { w with sreg := l })

/-- The root fragment of all lanes, format 0. -/
def root : SplitEntry := { SplitEntry.free with lpc := 0x4000, lmask := 0xFFFFFFFF, rga := 0xFFFFFFFF }

/-- The fragment of the started lane block moves. -/
def ln : State := { stW (fun w => { w with
    lq := [{ pc := 0x10000, k := [0x10000, 0x11000, 0, 0, 0, 0, 0, 0], fmt := 0, started := true }]
    split := [(0, root)]
    splitCache := [0] }) with lane := true }

/-- The wave runs its scalar handler. -/
def inScalarHandler (w : Wave) : Wave :=
  { w with inhandler := true, handler := some { frag := none, stop := false, nr := false, since := 0 } }

/-- The state that an access answers. -/
def stateOf {ε α : Type} (d : State) (x : Except ε (α × State)) : State :=
  match x with
  | .ok (_, t) => t
  | .error _ => d

/-- The state after an instruction. -/
def after (i : Instr) (s : State) : State :=
  match exec i s with
  | .next t => t
  | _ => s

/-! ### Well-formed instructions -/

/-- An S-R word needs no check of its own; a trap code that is no code is refused (R428). -/
theorem test_wf_trap_code : (Instr.trap 0 2).wf = false ∧ (Instr.trap 0 1).wf = true := by decide

/-- A small immediate must be exact in the element format (R41). -/
theorem test_wf_small_immediate :
    (Instr.vadd { LaneArgs.zero with ty := 1, sb := .small (-1) }).wf = false
      ∧ (Instr.vadd { LaneArgs.zero with ty := 0, sb := .small (-1) }).wf = true := by decide

/-- A reserved source is refused (R41). -/
theorem test_wf_reserved_source : (Instr.vadd { LaneArgs.zero with sb := .reserved 0x3FF }).wf = false := by decide

/-- A type that the instruction does not take is refused (R195). -/
theorem test_wf_type : (Instr.vadd { LaneArgs.zero with ty := 8 }).wf = false := by decide

/-- A field the instruction leaves unused holds zero (R45). -/
theorem test_wf_unused_field :
    (Instr.vclz { LaneArgs.zero with sb := .reg 1 }).wf = false ∧ (Instr.mand { LaneArgs.zero with imm := 1 }).wf = false := by decide

/-- A condition 6 of VCMP is none (R199). -/
theorem test_wf_condition : (Instr.vcmp { LaneArgs.zero with mods := 6 }).wf = false ∧ (Instr.vcmp { LaneArgs.zero with mods := 5 }).wf = true := by
  decide

/-- The rows of their own of SRDSR and SWRSR are not the general rows (R433). -/
theorem test_wf_special_register_rows : (Instr.srdsr 5 0 0).wf = false ∧ (Instr.swrsr 5 1 0).wf = false := by decide

/-! ### Words from the manual's encodings -/

/-- R35, R188: `add s3, s4, s5`: major 2, sd 3, sa 4, sb 5, func 0. -/
theorem test_decode_add :
    decodeScalar (0b000010#6 ++ 0b000011#6 ++ 0b000100#6 ++ 0b000101#6 ++ 0b00000000#8) 0 = .add 3 4 5 := by decide

/-- R35, R36: `addi s5, s2, -3`. -/
theorem test_decode_addi :
    decodeScalar (0b000011#6 ++ 0b000101#6 ++ 0b000010#6 ++ 0b11111111111101#14) 0 = .addi 5 2 0x3FFD := by decide

/-- R35, R130: `beq s3, s4, -2 words`. -/
theorem test_decode_beq :
    decodeScalar (0b010110#6 ++ 0b000011#6 ++ 0b000100#6 ++ 0b11111111111110#14) 0 = .beq 3 4 0x3FFE := by decide

/-- R40, R200: `vpmad2` and its fields from bit 95 down. -/
theorem test_decode_vpmad2 :
    decodeLane (0b0001000011#10 ++ 0b00010100#8 ++ 0b0#1 ++ 0b0#1 ++ 0b0000000100#10 ++ 0b0000001000#10 ++ 0b0000010100#10
        ++ 0b0000#4 ++ 0b0010#4 ++ 0b000001#6 ++ 0#32)
      = .vpmad2 { LaneArgs.zero with vd := 20, sa := .reg 4, sb := .reg 8, sc := .reg 20, ty := 2, mods := 1 } := by decide

/-- R40, R143: `(m2) mand m4, m5, m6`. -/
theorem test_decode_mand :
    decodeLane (0b0011010000#10 ++ 0b00000100#8 ++ 0b0#1 ++ 0b0#1 ++ 0b0000000101#10 ++ 0b0000000110#10 ++ 0b0000000000#10
        ++ 0b0010#4 ++ 0b0000#4 ++ 0b000000#6 ++ 0#32)
      = .mand { LaneArgs.zero with vd := 4, sa := .reg 5, sb := .reg 6, mask := 2 } := by decide

/-- R39: memory, system, chord, copy, barrier, context, launch and trampoline words, as the manual writes them. -/
theorem test_decode_scalar_families :
    decodeScalar 0x38310008 0 = .sldW 3 4 8 ∧ decodeScalar 0x54400010 0 = .call 16 ∧ decodeScalar 0x700FC002 0 = .ret 63
      ∧ decodeScalar 0x74810000 0 = .lrun 8 4 0 ∧ decodeScalar 0x78000200 0 = .lwait 2
      ∧ decodeScalar 0x78110502 0 = .seedld 1 4 5 ∧ decodeScalar 0x7C510001 0 = .chrel 5 4
      ∧ decodeScalar 0x80518004 0 = .ewait 5 6 ∧ decodeScalar 0x84000900 0 = .phase 1 1
      ∧ decodeScalar 0x84518001 0 = .barb 5 6 ∧ decodeScalar 0x84518705 0 = .gwait 5 6 7
      ∧ decodeScalar 0x8C518000 0 = .launch 5 6 ∧ decodeScalar 0x90000102 0 = .tret 1 ∧ decodeScalar 0x90014003 0 = .halt 5
      ∧ decodeScalar 0xF9000000 0 = .trampsRet := by decide

/-- R48: a long-immediate prefix takes in the word behind it; a field that must be zero makes a word illegal. -/
theorem test_decode_prefix_and_illegal :
    decodeScalar 0x0448D159 0x0C70389A = .longImmediatePrefix 0x048D159 0x0C70389A
      ∧ decodeScalar 0x84518101 0 = .illegalInstruction (.scalar 0x84518101) := by decide

/-! ### Scalar instructions: hypotheses met -/

/-- ScalarIntegerResults, ScalarShifts, ScalarDivision, ScalarImmediates: registers that may be read, and one that waits for
its outstanding write, or for a lane block (R108, R115). -/
theorem test_meets_scalarReady :
    st.scalarReady [4, 5] [3] = true ∧ st.scalarReady [0] [63] = true
      ∧ (stW (fun w => { w with pendS := [(4, 9)] })).scalarReady [4, 5] [3] = false
      ∧ (stW (fun w => { w with lq := [{ pc := 0, k := [], fmt := 0, started := true }] })).scalarReady [4] [48] = false := by
  decide +kernel

/-- ScalarBranches: forwards outside a handler, backwards without SPINF; a comparison that holds and one that does not. -/
theorem test_meets_scalarBranches :
    st.w.spc + BitVec.ofInt 64 (4 * (16 : BitVec 22).toInt) ≠ 0 ∧ st.inOwnHandler = false ∧ 0 ≤ (16 : BitVec 22).toInt
      ∧ st.w.spinf = false ∧ (BitVec.ofInt 22 (-2)).toInt < 0 ∧ st.scalarReady [4, 5] [] = true
      ∧ st.rs 4 ≠ st.rs 5 ∧ st.rs 4 = st.rs 4 ∧ (st.rs 6).toInt < (st.rs 5).toInt ∧ (st.rs 5).toNat < (st.rs 6).toNat := by
  decide +kernel

/-- IndirectTransfers: an aligned target, and one that is not; TransferToZeroInHandler: a zero target in the stream's own
handler. -/
theorem test_meets_indirectTransfers :
    st.scalarReady [2] [] = true ∧ st.scalarReady [2] [9] = true ∧ (st.rs 2).extractLsb' 0 2 = 0 ∧ st.rs 2 ≠ 0
      ∧ (st.rs 7).extractLsb' 0 2 ≠ 0 ∧ st.scalarReady [7] [9] = true ∧ st.inOwnHandler = false
      ∧ (stW inScalarHandler).inOwnHandler = true ∧ (stW inScalarHandler).rs 8 = 0 := by decide +kernel

/-- SpinBackwardBranches: the 255th and the 256th branch. -/
theorem test_meets_spinBackwardBranches :
    let s (n : Nat) : State := stW (fun w => { w with spinf := true, spinCount := n })
    (s 254).w.spc + BitVec.ofInt 64 (4 * (BitVec.ofInt 22 (-1)).toInt) ≠ 0 ∧ (BitVec.ofInt 22 (-1)).toInt < 0
      ∧ (s 254).w.spinf = true ∧ (s 254).w.spinCount < 255 ∧ 255 ≤ (s 255).w.spinCount ∧ (s 255).w.inChain = false
      ∧ (s 255).w.place = .origin := by decide +kernel

/-- LaneBlockQueue: a queue with room for one more block, the runs from s0 and from s56; a queue at LWAIT's count and one
above it; SPINF set and clear. -/
theorem test_meets_laneBlockQueue :
    let b : LaneBlock := { pc := 0x10000, k := [], fmt := 0, started := true }
    let s : State := stW (fun w => { w with lq := List.replicate 7 b })
    (56 : BitVec 6).toNat ≤ 56 ∧ st.w.ccp = false ∧ st.scalarReady (4 :: runRegs 56) [] = true
      ∧ s.scalarReady (4 :: runRegs 0) [] = true ∧ s.w.lq.length < 8
      ∧ (lrunBlock s 8 4 0).pc.extractLsb' 0 2 = 0 ∧ st.w.lq.length ≤ (0 : BitVec 6).toNat
      ∧ s.w.lq.length ≤ (7 : BitVec 6).toNat ∧ (6 : BitVec 6).toNat < s.w.lq.length
      ∧ st.w.spinf = false ∧ (stW (fun w => { w with spinf := true })).w.spinf = true := by decide +kernel

/-- FormatAndSeeds: no lane block queued, a seed register named and none. -/
theorem test_meets_formatAndSeeds :
    st.scalarReady [4] [3] = true ∧ (5 : BitVec 6) ≠ 0 ∧ st.w.lq = [] ∧ st.scalarReady [4, 5] [3] = true
      ∧ st.scalarReady [4, 5] [] = true := by decide +kernel

/-- ScalarLoads and ScalarStores: each size at an aligned address of page 0, the last one that fits its line. -/
theorem test_meets_scalarLoadsAndStores :
    st.target 0x12078 = .global 0x12078 ∧ (0x12078#64).toNat % 8 = 0 ∧ st.scalarReady [4] [3] = true
      ∧ reachesHbm st 0x12078 8 .read 0x212078 0 = true ∧ reachesHbm st 0x1207F 1 .read 0x21207F 0 = true
      ∧ reachesHbm st 0x1207C 4 .read 0x21207C 0 = true ∧ uncached st 0x12078 = true
      ∧ reachesHbm st 0x12078 8 .write 0x212078 0 = true ∧ reachesHbm st 0x1207E 2 .write 0x21207E 0 = true
      ∧ st.scalarReady [4, 3] [] = true := by decide +kernel

/-- ScalarAccessTraps: an odd address, and one in the void. -/
theorem test_meets_scalarAccessTraps :
    (st.rs 5).toNat % 2 ≠ 0 ∧ (st.rs 5).toNat % 4 ≠ 0 ∧ (st.rs 5).toNat % 8 ≠ 0
      ∧ st.target 0x0100000000000000 = .bad ∧ st.scalarReady [5] [3] = true ∧ st.scalarReady [5, 3] [] = true := by
  decide +kernel

/-! ### Scalar instructions: one step, against values computed by hand -/

/-- R190's corner: −2^63 / −1 is −2^63; and 7 / −2 is −3 with remainder 1. -/
theorem test_step_division :
    let s : State := stW (fun w => { w with sreg := [(1, 0x8000000000000000), (2, BitVec.allOnes 64), (3, 7), (4, BitVec.ofInt 64 (-2))] })
    (after (.div 5 1 2) s).rs 5 = 0x8000000000000000 ∧ (after (.div 5 3 4) s).rs 5 = BitVec.ofInt 64 (-3)
      ∧ (after (.rem 5 3 4) s).rs 5 = 1 ∧ (after (.divu 5 3 0) s).rs 5 = BitVec.allOnes 64 := by decide +kernel

/-- R189: a shift by 65 is one by 1, and an arithmetic shift keeps the sign. -/
theorem test_step_shifts :
    let s : State := stW (fun w => { w with sreg := [(1, 0x8000000000000001), (2, 65)] })
    (after (.shl 5 1 2) s).rs 5 = 2 ∧ (after (.shr 5 1 2) s).rs 5 = 0x4000000000000000
      ∧ (after (.sra 5 1 2) s).rs 5 = 0xC000000000000000 := by decide +kernel

/-- R37: the pair of the manual's example carries 0x048D159 above the low word's imm14. -/
theorem test_step_prefix : (after (.longImmediatePrefix 1 0x0C508000) st).rs 5 = 0x10004 + 0x4000 := by decide +kernel

/-- R304: a byte loaded with and without its sign; a halfword stored low byte first. -/
theorem test_step_load_and_store :
    let s : State := { st with mem := Sparse.set st.mem 0x212000 0x80 }
    (after (.sldB 3 4 0) s).rs 3 = BitVec.ofInt 64 (-128) ∧ (after (.sldBu 3 4 0) s).rs 3 = 128
      ∧ (after (.sstH 6 4 2) s).cell 0x212002 = 0xF0 ∧ (after (.sstH 6 4 2) s).cell 0x212003 = 0xFF
      ∧ (after (.sstH 6 4 2) s).cell 0x212004 = 0 := by decide +kernel

/-- R129: CALL writes the address behind it to s63. -/
theorem test_step_call : (after (.call 16) st).w.spc = 0x10040 ∧ (after (.call 16) st).rs 63 = 0x10004 := by decide +kernel

/-! ### Chords, copies, phases and barriers: hypotheses met -/

/-- A parameter block: two records of 64 bytes at 0x12000, stride 64. -/
def chordImage : Nat := recOf [(0, 0x12000), (0xE, 64), (0x10, 64), (0x14, 2), (0x1A, 1), (0x20, 1), (0x2C, 1)]

def chord0 : Chord := { image := BitVec.ofNat 512 chordImage }

/-- Chord number 3 in s8, the block's address in s9. -/
def stC : State := regs (poke stL 0x13000 64 chordImage) [(8, 3), (9, 0x13000), (10, 0x13100)]

/-- The chord live on core 0. -/
def stC3 : State := stC.setCore 0 { core0 with chords := [((0x80000001, 3), chord0)] }

/-- A retained set that the chord adopts. -/
def stCR : State :=
  stC.setCore 0 { core0 with
    retained := [{ asid := 1, image := chord0.image, base := 13 * 16384, valid := [(1664, BitVec.allOnes 128)] }] }

/-- The state after a load, with the bytes it gave. -/
def loadedState (s : State) (a : Addr) (n : Nat) : State :=
  match s.loadNow a n with
  | .ok (_, t) => t
  | .error _ => s

/-- ChordSetAndRelease: a block accepted (status 0), adopted, and refused (status 2: a block of zeros). -/
theorem test_meets_chordSet :
    let s1 := loadedState stC 0x13000 64
    let s2 := loadedState stCR 0x13000 64
    let s3 := loadedState stC 0x13100 64
    (chordReady stC 8 [9] 5 = true ∧ (stC.rs 9).toNat % 64 = 0 ∧ stC.loadNow (stC.rs 9) 64 = .ok (toBytes 64 chordImage, s1)
      ∧ s1.w = stC.w ∧ s1.directory = [] ∧ myChord s1 3 = none ∧ (s1.core 0).holds 0x80000001 = true
      ∧ chsetStatus s1 0 0x80000001 3 chord0 = 0)
    ∧ (stCR.loadNow (stCR.rs 9) 64 = .ok (toBytes 64 chordImage, s2) ∧ s2.w = stCR.w ∧ myChord s2 3 = none
      ∧ (s2.core 0).retained.any (fun r => r.asid == 1 && r.image == chord0.image && r.base == (s2.stash 0x80000001).1) = true)
    ∧ (stC.loadNow (stC.rs 10) 64 = .ok (List.replicate 64 0, s3) ∧ s3.w = stC.w
      ∧ chsetStatus s3 0 0x80000001 3 { image := 0 } ≠ 0) := by decide +kernel

/-- ChordSetAndRelease, ChordFields: a chord that is not live, and one that is, clean and not busy. -/
theorem test_meets_chordRelease :
    chordReady stC 8 [] 5 = true ∧ myChord stC 3 = none ∧ chordReady stC3 8 [9] 5 = true ∧ myChord stC3 3 = some chord0
      ∧ chordBusy stC3 0 chord0 = false ∧ cleanChord stC3 chord0 = true := by decide +kernel

/-- A descriptor of a linear copy of 64 bytes from 0x12000 to 0x12100; it is a valid one of each kind but CPYT, whose tiles
are given by OPW. -/
def copyImage : Nat := recOf [(0, 0x12000), (8, 0x12100), (0x10, 64), (0x14, 1), (0x16, 1)]
def tileImage : Nat := recOf [(0, 0x12000), (8, 0x12100), (0x10, 64), (0x14, 1), (0x16, 1), (0x28, 0x10000)]

/-- The descriptors at 0x13000 and 0x13040; slot 15 and engine 63 named in s10. -/
def stD : State := regs (poke (poke st 0x13000 64 copyImage) 0x13040 64 tileImage) [(8, 0x13000), (9, 0x13040), (10, 0x3FF)]

/-- CopyIssue: each kind, its descriptor loaded, and one that was read before the instruction stalled. -/
theorem test_meets_copyIssue :
    let s1 := loadedState stD (stD.rs 8) 64
    let s2 := loadedState stD (stD.rs 9) 64
    stD.loadNow (stD.rs 8) 64 = .ok (toBytes 64 copyImage, s1) ∧ stD.loadNow (stD.rs 9) 64 = .ok (toBytes 64 tileImage, s2)
      ∧ s1.w = stD.w ∧ s2.w = stD.w ∧ stD.w.progress = none
      ∧ (let s := stD.onW (fun w => { w with progress := some (.copy (BitVec.ofNat 512 copyImage)) })
        copyReady s 0 5 8 10 (BitVec.ofNat 512 copyImage) = true)
      ∧ copyReady s1 0 5 8 10 (BitVec.ofNat 512 copyImage) = true ∧ copyReady s2 1 5 9 10 (BitVec.ofNat 512 tileImage) = true
      ∧ copyReady s1 2 5 8 10 (BitVec.ofNat 512 copyImage) = true ∧ copyReady s1 3 5 8 10 (BitVec.ofNat 512 copyImage) = true
      ∧ stD.scalarReady [10, 10] [5] = true ∧ (stD.rs 10).toNat % 64 ≠ 0 := by decide +kernel

/-- A done slot 2, a failed slot 3 and a busy slot 4. -/
def stE : State :=
  regs (stW (fun w => { w with slots := [(2, mkSlot 0 64 1 0 2 0), (3, mkSlot 0 0 1 0 2 2), (4, mkSlot 0 0 1 0 1 0)] }))
    [(8, 0x1FFFF), (9, 0x0C), (10, 0x10), (11, 0x20000)]

/-- EngineWaits: done slots; a busy one; the last mask allowed and the first that is not. -/
theorem test_meets_engineWaits :
    stE.scalarReady [9] [5] = true ∧ (stE.rs 8).toNat < 2 ^ 17 ∧ stE.readsDone = true
      ∧ slotsWhere stE.w (slotsWhere stE.w 0x0C (fun v => slotState v == 2) &&& stE.w.slotTrapf)
          (fun v => decide (3 ≤ slotCode v) && decide (slotCode v ≤ 5)) = 0
      ∧ stE.w.slotsReady 0x0C false = true ∧ stE.w.slotsReady 0xFFFF true = true
      ∧ stE.w.slotsReady 0x10 false = false ∧ stE.w.inChain = false ∧ stE.w.place = .origin
      ∧ 2 ^ 17 ≤ (stE.rs 11).toNat := by decide +kernel

/-- PhaseInstruction. -/
theorem test_meets_phaseInstruction :
    stL.w.lq = [] ∧ stL.quiet = true ∧ stL.readsDone = true ∧ (stL.core stL.w.origin.toNat).chords = []
      ∧ stL.w.clusterWrites = 0 := by decide +kernel

/-- Barrier 15 in s8, 16 in s9; the other wave of two has arrived at it in the second state. -/
def stB : State := regs stL [(8, 15), (9, 16), (10, 1)]
def stB1 : State := { stB with blocks := [{ block0 with arrived := [(15, 2)] }] }

/-- BlockBarriers: the first and the last arrival; a phase that is over and one that is not; barrier 16. -/
theorem test_meets_blockBarriers :
    arrivalReady stB 8 5 = true ∧ stB.w.progress = none ∧ stB.w.wait = none ∧ lastArrival stB 15 = false
      ∧ arrivalReady stB1 8 5 = true ∧ lastArrival stB1 15 = true ∧ stB.w.inChain = false ∧ stB.w.place = .origin
      ∧ stB.w.ccp = false ∧ stB.scalarReady [8, 10] [5] = true ∧ (stB.rs 8).toNat < 16 ∧ stB.readsDone = true
      ∧ stB.phaseOf 15 ≠ (stB.rs 10).setWidth 32 ∧ stB.phaseOf 15 = (stB.rs 0).setWidth 32
      ∧ stB.scalarReady [9] [5] = true ∧ 16 ≤ (stB.rs 9).toNat := by decide +kernel

/-- A grid barrier's object at 0x13000: COUNT 2, ARRIVED 0 or 1, PHASE 7. -/
def stG (arrived : Nat) : State := regs (poke st 0x13000 16 (recOf [(0, 2), (4, arrived), (8, 7)])) [(8, 0x13000), (9, 7)]

/-- The state after the barrier unit has found that object. -/
def gridState (s : State) : State :=
  match gridObject (captureTouch s 0x80000001 0x13000) 0x13000 with
  | .ok (_, t) => t
  | .error _ => s

/-- GridBarriers: an arrival that is not the last, one that is, a phase that differs and one that does not. -/
theorem test_meets_gridBarriers :
    ((stG 0).rs 8).extractLsb' 0 4 = 0 ∧ decodeAddr ((stG 0).pbase (stG 0).w) ((stG 0).rs 8) = .global 0x13000
      ∧ (∀ n, n ∈ [0, 1] → gridObject (captureTouch (stG n) 0x80000001 0x13000) 0x13000
            = .ok (some { pa := 0x213000, key := 0, bytes := toBytes 16 (recOf [(0, 2), (4, n), (8, 7)]), bad := none },
                gridState (stG n))
          ∧ (gridState (stG n)).w = (stG n).w ∧ (gridState (stG n)).directory = [] ∧ (gridState (stG n)).readsDone = true)
      ∧ (stG 0).scalarReady [8] [5] = true ∧ (stG 0).w.lq = [] ∧ (stG 0).quiet = true
      ∧ ((stG 0).core 0).chords = [] ∧ (stG 0).w.clusterWrites = 0 ∧ (stG 0).w.spinf = false ∧ (stG 0).w.spinLines = []
      ∧ (stG 0).w.split = [] ∧ (stG 0).w.wait = none ∧ (stG 0).scalarReady [8, 9] [5] = true ∧ (stG 0).w.progress = none
      ∧ (stG 0).readsDone = true ∧ (stG 0).w.backward = false ∧ (stG 0).w.spinCount = 0
      ∧ (7 : BitVec 32) ≠ ((stG 0).rs 0).setWidth 32 ∧ (7 : BitVec 32) = ((stG 0).rs 9).setWidth 32
      ∧ (stG 0).w.inChain = false ∧ (stG 0).w.place = .origin := by decide +kernel

/-- R380: the last of two arrivals answers the old phase, clears ARRIVED and raises PHASE. -/
theorem test_step_garrive :
    let t := after (.garrive 5 8) (stG 1)
    t.rs 5 = 7 ∧ memNumber t 0x213004 4 = 0 ∧ memNumber t 0x213008 4 = 8 ∧ memNumber t 0x213000 4 = 2 := by decide +kernel

/-- R376: the last arrival raises the phase and BARB answers it. -/
theorem test_step_barb : (after (.barb 5 8) stB1).rs 5 = 1 ∧ (after (.bara 5 8) stB1).rs 5 = 0
    ∧ (after (.barb 5 8) stB).w.wait = some (.barrier 15 0) := by decide +kernel

/-- R362: slots 2 and 3 are done and slot 3 failed. -/
theorem test_step_epoll : (after (.epoll 5 9) stE).rs 5 = 0x8000C := by decide +kernel

/-! ### Contexts, launches and items: hypotheses met -/

/-- Register counts: 0 and 257, which are none; 1, 64 and 256. -/
def stN (s : State) : State := regs s [(8, 257), (9, 1), (10, 64), (11, 256)]

/-- ContextSizes: outside the range on both sides; both directions without effect; a grant without a pool, one within the
pool's budget, and one that must wait; a shrink. -/
theorem test_meets_contextSizes :
    let s := stN st
    let p := stN stL
    s.scalarReady [8] [5] = true ∧ s.w.lq = [] ∧ s.w.progress = none ∧ noGrowers s = true ∧ s.w.regcnt ≤ 256
      ∧ (s.rs 0).toNat < 1 ∧ 256 < (s.rs 8).toNat ∧ 1 ≤ (s.rs 9).toNat ∧ (s.rs 10).toNat = s.w.regcnt
      ∧ s.w.regcnt < (s.rs 11).toNat ∧ (s.rs 11).toNat ≤ 256 ∧ s.myPool = none
      ∧ noGrowers p = true ∧ p.myPool = some pool0 ∧ pool0.rused.toNat + (256 - 64) ≤ pool0.rbud.toNat
      ∧ (let q : State := { p with pools := [{ pool0 with rbud := 255 }] }
        q.myPool = some { pool0 with rbud := 255 } ∧ (255 : Nat) < pool0.rused.toNat + (256 - 64)
          ∧ q.w.inChain = false ∧ q.w.place = .origin)
      ∧ (s.rs 9).toNat < s.w.regcnt ∧ s.w.pendV = []
      ∧ s.collecting ((List.range 64).drop 1) = false ∧ p.collecting ((List.range 64).drop 256) = false := by decide +kernel

/-- MigrationAndYield: each answer at its boundary, a departure for die 2 and one for home; YIELD outside and inside a latch
chain. -/
theorem test_meets_migrationAndYield :
    let s := regs st [(8, 0x0100000000000000), (9, 2), (10, 0x40000), (11, 0x12000)]
    s.scalarReady [8, 9] [5] = true ∧ (s.rs 9).toNat / 2 ≠ 0 ∧ 2 ^ 56 ≤ (s.rs 8).toNat
      ∧ homeDie (s.rs 11).toNat = s.dieOf s.w.core.toNat ∧ s.rs 11 ≠ 0 ∧ homeDie (s.rs 10).toNat ≠ s.dieOf s.w.core.toNat
      ∧ s.rs 0 = 0 ∧ s.w.lq = [] ∧ s.w.pendcnt = 0 ∧ frameAt s (2 * 2 ^ 37 + 0x200000) 0 = true
      ∧ s.w.inChain = false ∧ s.w.place = .origin ∧ s.w.wait = none
      ∧ (stW (fun w => { w with split := [(0, { root with chain := 1 })] })).w.inChain = true := by decide +kernel

/-- A child's record at 0x14000, class 1; zeros at 0x14100. -/
def stK : State := regs (poke (poke st 0x8000 48 poolImage) 0x14000 256 record) [(8, 0x14000), (9, 0x14100), (10, 0x14010)]

def child (r : BitVec 2048) : Launch := Launch.ofRecord 0 r none none 0 0

/-- The status that the checks of a record answer, with the state they leave. -/
def checked (s : State) (r : BitVec 2048) : Option (Nat × State) :=
  match checkRecord s (child r) (some 1) with
  | .ok (st, _, t) => some (st, t)
  | .error _ => none

/-- The state after a record is loaded. -/
def recordState (s : State) (a : Addr) : State :=
  match loadRecord s a 4 with
  | .ok (_, t) => t
  | .error _ => s

/-- LaunchInstruction: wave 1 of a block, depth 10, a misaligned record, one that passes and one that fails; 4,096 children
alive. -/
theorem test_meets_launchInstruction :
    let m : State := { stK with launches := List.replicate 4096 { launch0 with lid := 0x80000002, parent := some 9 } }
    stK.scalarReady [8] [5] = true ∧ (stLW (fun w => { w with widx := 1 })).w.widx ≠ 0
      ∧ (stW (fun w => { w with depth := 10 })).w.widx = 0 ∧ launchReady stK 8 5 = true ∧ (stK.rs 10).toNat % 256 ≠ 0
      ∧ (stK.rs 8).toNat % 256 = 0
      ∧ (let s0 := recordState stK (stK.rs 8)
        loadRecord stK (stK.rs 8) 4 = .ok (toBytes 256 record, s0) ∧ s0.w = stK.w ∧ launchReady s0 8 5 = true
          ∧ (checked s0 (BitVec.ofNat 2048 record)).map (fun p => (p.1, p.2.w, p.2.launches)) = some (0, stK.w, stK.launches)
          ∧ stK.liveChildren < 4096)
      ∧ (let s0 := recordState stK (stK.rs 9)
        loadRecord stK (stK.rs 9) 4 = .ok (List.replicate 256 0, s0) ∧ s0.w = stK.w ∧ launchReady s0 9 5 = true
          ∧ (checked s0 0).map (fun p => (p.1, p.2.w)) = some (1, stK.w))
      ∧ 4096 ≤ m.liveChildren := by decide +kernel

/-- JoinInstruction: a value above 32 bits, a child that is no more live, the wave's children all completed, and one alive. -/
theorem test_meets_joinInstruction :
    let s : State := { regs st [(8, 0x100000000), (9, 0x80000005)] with
      launches := [{ launch0 with lid := 0x80000006, parent := some 1, phase := .completed, status := 3 }] }
    let r : State := { s with launches := [{ launch0 with lid := 0x80000005, parent := some 1 }] }
    s.scalarReady [8] [5] = true ∧ 2 ^ 32 ≤ (s.rs 8).toNat ∧ (s.rs 9).toNat < 2 ^ 32 ∧ s.joinReady s.w.id (s.rs 9) = true
      ∧ s.joinReady s.w.id 0 = true ∧ s.readsDone = true ∧ r.joinReady r.w.id (r.rs 9) = false ∧ r.joinReady r.w.id 0 = false
      ∧ r.w.inChain = false ∧ r.w.place = .origin := by decide +kernel

/-- Fragment 0 waits in an ITEMNEXT of all lanes into v9 under m1, which asks in lanes 0 and 1. -/
def waitingItems : LaneArgs := { LaneArgs.zero with vd := 9, mods := 1, imm := 1 }
def stI : State := (stLW (fun w => { w with
  lq := [{ pc := 0x10000, k := [0x10000, 0, 0, 0, 0, 0, 0, 0], fmt := 0, started := true }], m := [(1, 3)]
  split := [(0, { root with itemWait := true, itemArgs := some waitingItems })], splitCache := [0] })).setCore 0 core0

/-- ItemPush: counts 64 and 65, the first reserved bit above, bit 7, and the seal bit with and without; no lane waits for items,
and a fragment of the wave's own does. -/
theorem test_meets_itemPush :
    noItemWaits st = true ∧ awaitsItems stI 0 waitingItems = true ∧ stI.scalarReady [8, 9] [5] = true
      ∧ requesting stI 0 waitingItems = [0, 1] ∧ st.scalarReady [8, 9] [5] = true ∧ 64 < 65 % 128 ∧ (64 : Word64).toNat % 128 ≤ 64 ∧ 2 ^ 9 ≤ (0x200 : Word64).toNat
      ∧ (0x80 : Word64).getLsbD 7 = true ∧ (0x1FF : Word64).toNat < 2 ^ 9 ∧ (0x102 : Word64).getLsbD 8 = true
      ∧ (0x102 : Word64).getLsbD 7 = false ∧ (2 : Word64).getLsbD 8 = false := by decide +kernel

/-- R134: two items pushed on an empty queue, sealed. -/
theorem test_step_itempush :
    let t := after (.itempush 5 8 9) (regs stL [(8, 41), (9, 0x102)])
    t.rs 5 = 2 ∧ (t.core 0).items = [(0x80000001, 41), (0x80000001, 42)] ∧ (t.core 0).sealed = [0x80000001] := by decide +kernel

/-- R464: of three items pushed, the waiting lanes take two. -/
theorem test_step_itempush_handed :
    let t := after (.itempush 5 8 9) (regs stI [(8, 41), (9, 3)])
    t.w.rv 9 0 = 41 ∧ t.w.rv 9 1 = 42 ∧ t.w.rm 1 = 0 ∧ (t.core 0).items = [(0x80000001, 43)] := by decide +kernel

/-- R98: growing from 64 to 256 registers takes 192 lines of the pool. -/
theorem test_step_ctxgrow :
    let t := after (.ctxgrow 5 11) (stN stL)
    t.rs 5 = 0x10000 ∧ t.w.regcnt = 256 ∧ t.pools.map (·.rused) = [256] := by decide +kernel

/-- R381: the child takes the first identifier, with bit 31 set. -/
theorem test_step_launch : (after (.launch 5 8) stK).rs 5 = 0x80000000 ∧ (after (.launch 5 9) stK).rs 5 = 0x100000000 := by
  decide +kernel

/-! ### Traps, special registers, firmware calls, trampolines: hypotheses met -/

/-- Vectors at 0x15000: ILLOP's handler at 0x16000, code 0x13's none, BRK's at 0x16100. -/
def stT : State :=
  regs (poke (poke (stW (fun w => { w with trapbase := 0x15000 })) 0x15008 8 0x16000) 0x15060 8 0x16100) [(8, 0xABCDEF)]

/-- The state after a vector entry is loaded. -/
def vectorState (code : Nat) : State := stateOf stT (coreRead stT 0 0x80000001 1 (0x15000 + 8 * code) 8 0 0 .normal)

/-- TrapEntry: a valid vector entry and none. -/
theorem test_meets_trapEntry :
    onCore stT = true ∧ stT.w.inhandler = false ∧ stT.w.dbgctl.getLsbD 4 = false ∧ stT.lane = false ∧ stT.scalarReady [8] [] = true
      ∧ scalarVector stT 1 (toBytes 8 0x16000) (vectorState 1) ∧ validVector (ofBytes (toBytes 8 0x16000)) = true
      ∧ scalarVector stT 0x13 (toBytes 8 0) (vectorState 0x13) ∧ validVector (ofBytes (toBytes 8 0)) = false
      ∧ scalarVector stT 0x0C (toBytes 8 0x16100) (vectorState 0x0C) ∧ stT.w.dbgctl.getLsbD 3 = false := by
  simp only [scalarVector]
  decide +kernel

/-- NestedFault and TrapReturn: a scalar handler runs, its trap resumable or not, a halt latched or not; no handler runs;
the instruction at TRAPPC a prefix and not. -/
theorem test_meets_handlers :
    let h : Handler := { frag := none, stop := false, nr := false, since := 0 }
    let s : State := poke (stW (fun w => { inScalarHandler w with trappc := 0x12000 })) 0x12100 4 0x04000000
    onCore s = true ∧ s.lane = false ∧ s.w.inhandler = true ∧ s.w.handler = some h ∧ h.frag = none ∧ s.scalarReady [8] [] = true
      ∧ (s.onW (fun w => { w with trapcause := 0x200000000 })).w.trapcause.getLsbD 33 = true
      ∧ s.w.trapcause.getLsbD 33 = false ∧ s.w.haltlatch = false ∧ (s.onW (fun w => { w with haltlatch := true })).w.haltlatch = true
      ∧ s.w.trappc.extractLsb' 0 2 = 0 ∧ (s.onW (fun w => { w with trappc := 0x12002 })).w.trappc.extractLsb' 0 2 ≠ 0
      ∧ (let s1 := stateOf s (fetch s 0x12000 4)
        fetch s 0x12000 4 = .ok (toBytes 4 0, s1) ∧ s1.w = s.w)
      ∧ (let s1 := stateOf s (fetch s 0x12100 4)
        fetch s 0x12100 4 = .ok (toBytes 4 0x04000000, s1) ∧ s1.w = s.w)
      ∧ ofBytes (toBytes 4 0x04000000) / 2 ^ 26 = 1 ∧ st.w.inhandler = false := by decide +kernel

/-- HaltingABlock: another wave of the block that has not retired and runs no handler; BRK under BRKH. -/
theorem test_meets_haltingABlock :
    (onCore stL = true ∧ stL.scalarReady [8] [] = true) ∧ (stLW (fun w => { w with dbgctl := 8 })).w.dbgctl.getLsbD 3 = true
      ∧ ∃ u, u ∈ stL.others ∧ u.lid = stL.w.lid ∧ u.blk = stL.w.blk ∧ u.residency ≠ .retired
        ∧ u.trapcause.getLsbD 41 = false ∧ u.inhandler = false := by
  refine ⟨by decide +kernel, by decide +kernel, { wave with id := 2, widx := 1, residency := .ready, frame := 0x50000, spc := 0x10100 }, ?_⟩
  decide +kernel

/-- StageInstruction: no stage table; a table at 0x13000 whose fifteenth entry is 9. -/
theorem test_meets_stageInstruction :
    let s : State := poke (stW (fun w => { w with stagetab := 0x13000, stagecnt := 0x8000000000000007 })) 0x1303C 4 9
    let s2 : State := ((s.setS 5 7).advance 4).onW (fun w => { w with stage := 15, stagecnt := 0, budget := 0, budgetLost := false })
    st.scalarReady [] [5] = true ∧ Table.find st.fw.traces 1 = none ∧ st.lane = false ∧ st.w.stagetab = 0 ∧ s.w.stagetab ≠ 0
      ∧ (s.w.stagecnt &&& 0x7FFFFFFFFFFFFFFF) = 7 ∧ (let s1 := stateOf s2 (s2.loadNow 0x1303C 4)
        s2.loadNow 0x1303C 4 = .ok (toBytes 4 9, s1) ∧ s1.w = s2.w ∧ s1.fw = s.fw) := by decide +kernel

/-- SpecialRegisterReads and SpecialRegisterWrites: a launch for DROPCNT, no lane block queued, an assigned number and the
highest that is not, in both halves of the number. -/
theorem test_meets_specialRegisters :
    stL.scalarReady [] [5] = true ∧ stL.scalarReady [5] [] = true ∧ stL.launch stL.w.lid = some launch0 ∧ stL.w.lq = []
      ∧ stL.lane = false ∧ 64 * (1 : BitVec 6).toNat + (32 : BitVec 6).toNat = 0x60
      ∧ 64 * (0 : BitVec 6).toNat + (0x20 : BitVec 6).toNat = 0x20
      ∧ 64 * (63 : BitVec 6).toNat + (63 : BitVec 6).toNat ∉ assignedSrs ∧ 64 * (0 : BitVec 6).toNat + (7 : BitVec 6).toNat ∉ assignedSrs := by
  decide +kernel

/-- ParkingForFirmware: a frame in a writable page, and room in the fault queue. -/
theorem test_meets_parkingForFirmware :
    frameAt stL (2 * 2 ^ 37 + 0x200000) 0 = true ∧ stL.w.ccp = false ∧ stL.scalarReady [8, 9] [5] = true ∧ stL.w.lq = []
      ∧ (stL.ccp 0).faults.length < 128 := by decide +kernel

/-- A frame at address 0, with the link word of its tool area: free, or held by a TRAMPS at 0x10010. -/
def stR (link : Nat) : State :=
  poke (poke (stW (fun w => { w with frame := 0, trampbase := 0x15000 })) 0x15028 8 0x16000) 0xCFF8 8 link

/-- ScalarTrampolines: a free link and a table entry, and a held link. -/
theorem test_meets_scalarTrampolines :
    (let s := stR 0
      let s1 := stateOf s (s.loadNow 0xCFF8 8)
      let s2 := stateOf s (s1.loadNow 0x15028 8)
      s.loadNow 0xCFF8 8 = .ok (toBytes 8 0, s1) ∧ s1.w = s.w ∧ s1.loadNow 0x15028 8 = .ok (toBytes 8 0x16000, s2) ∧ s2.w = s.w
        ∧ linkAt s2 0x20CFF8 0 = true ∧ s2.inOwnHandler = false)
      ∧ (let s := stR 0x10011
        let s1 := stateOf s (s.loadNow 0xCFF8 8)
        let s2 := stateOf s (s1.loadNow 0x15028 8)
        s.loadNow 0xCFF8 8 = .ok (toBytes 8 0x10011, s1) ∧ s1.w = s.w ∧ (s1.loadNow 0x15028 8) = .ok (toBytes 8 0x16000, s2)
          ∧ s2.w = s.w ∧ linkAt s1 0x20CFF8 0 = true ∧ ofBytes (toBytes 8 0x10011) % 2 = 1 ∧ s1.inOwnHandler = false) := by
  decide +kernel

/-- R404 and R428: TRAP with code 1 records the low 24 bits of its operand and SW. -/
theorem test_step_trap :
    let t := after (.trap 8 1) stT
    t.w.spc = 0x16000 ∧ t.w.trapcause = 0x4ABCDEF01 ∧ t.w.trappc = 0x10000 ∧ t.w.inhandler = true := by decide +kernel

/-- R429: TRET.skip goes 8 bytes on behind a prefix. -/
theorem test_step_tret :
    let s : State := poke (stW (fun w => { inScalarHandler w with trappc := 0x12000 })) 0x12000 4 0x04000000
    (after (.tret 1) s).w.spc = 0x12008 ∧ (after (.tret 0) s).w.spc = 0x12000 ∧ (after (.tret 0) s).w.inhandler = false := by
  decide +kernel

/-- R135: the link word holds the TRAMPS's address with bit 0 set, and TRAMPS.RET goes behind it. -/
theorem test_step_tramps :
    (after (.tramps 5) (stR 0)).w.spc = 0x16000 ∧ (after (.tramps 5) (stR 0)).cell 0x20CFF8 = 1
      ∧ (after .trampsRet (stR 0x10011)).w.spc = 0x10014 := by decide +kernel

/-- R433: SFLAGS keeps six bits, TRAMPBASE loses its low three. -/
theorem test_step_swrsr :
    let s := regs st [(8, 0xFFFF)]
    (after (.swrsrSflags 8) s).w.sflags = 0x3F ∧ (after (.swrsrTrampbase 8) s).w.trampbase = 0xFFF8
      ∧ (after (.srdsr 5 0 4) s).rs 5 = 0 := by decide +kernel

/-! ### Lane arithmetic: hypotheses met -/

/-- Lane words of registers: v4 = 7, v5 = −2 and v6 = 40 in every lane. -/
def words : Sparse 32 :=
  (List.range 32).map (fun L => (4 * 32 + L, 7#32)) ++ (List.range 32).map (fun L => (5 * 32 + L, 0xFFFFFFFE#32))
    ++ (List.range 32).map (fun L => (6 * 32 + L, 40#32))

/-- The lane machine with those words; v7 and v8 carry tag 0x123. -/
def lw : State := ln.onW (fun w => { w with v := words, x := [(7, mkSide 0 0x123 0), (8, mkSide 0 0x123 0)] })

/-- The same with lanes 0 and 31 active. -/
def lw2 : State := lw.setEntry { root with lmask := 0x80000001 }

/-- `op v9, v4, v5, v6` of a type. -/
def args (ty : BitVec 4) : LaneArgs :=
  { LaneArgs.zero with vd := 9, sa := .reg 4, sb := .reg 5, sc := .reg 6, ty := ty }

/-- LaneIntegerResults, PackedResults, LaneFloatResults: operands ready on all lanes, on two lanes and on none; a tag-free and
a linear rule, with tag 0 and with a common tag; a discarded result; a partial write over an equal tag. -/
theorem test_meets_laneResults :
    let a := args 0
    let u : LaneUse := { srcs := [a.sa, a.sb, a.sc], runs := [], dsts := [9] }
    laneReady lw u (lw.active 0) = true ∧ lw.active 0 = 0xFFFFFFFF ∧ lw2.active 0 = 0x80000001 ∧ lw.active 3 = 0
      ∧ laneReady lw2 u (lw2.active 0) = true ∧ laneReady lw u (lw.active 3) = true
      ∧ untagged lw [a.sa, a.sb] = some 0 ∧ oneTag lw [a.sa, a.sb] = some 0 ∧ oneTag lw [.reg 7, .reg 8] = some 0x123
      ∧ productTag lw (.konst 1) (.reg 7) [.reg 8] = some 0x123 ∧ lw.entry.first = true
      ∧ mayWrite lw a 0xFFFFFFFF 1 0x123 = true ∧ mayWrite lw { a with vd := 7 } 0x80000001 1 0x123 = true
      ∧ mayWrite lw { a with w := true } 1 1 0x123 = true := by decide +kernel

/-- SpecialFunctions: NaN, 2 and 4 in format 8. -/
theorem test_meets_specialFunctions :
    decodeFloat 8 0x7FC00000 = .nan ∧ (sfuBound 0x080 8).1 ≠ 0 ∧ sfuElement 0x080 8 false 0x40000000 = (0x3F000000, 0)
      ∧ withinBound 0x080 8 (.fin false 1 2) 0x3F000000 = true ∧ ratOf (.fin false 2 1) = some 2 := by
  refine ⟨by decide +kernel, by decide +kernel, by decide +kernel, by decide +kernel, by simp [ratOf]⟩

/-- FloatElements: a divisor that is not zero, and one that is, under a dividend that is not and one that is; a number and a
zero in format 8; for VFMIN and VFMAX two numbers in order, two equal zeros, an infinity and a NaN. -/
theorem test_meets_floatElements :
    (wellFormed (.fin false 3 2) = true ∧ wellFormed (.fin true 0 1) = true ∧ decodeFloat 8 (flushSource false 8 0x3F800000) ≠ .nan
      ∧ decodeFloat 9 (flushSource true 9 0x8001) ≠ .nan ∧ 0x3F800000 < 2 ^ (32 / epl 8) ∧ 0x8001 < 2 ^ (32 / epl 9)
      ∧ decodeFloat 9 (flushSource false 9 0x3C00) = .fin false 1024 1024 ∧ decodeFloat 9 (flushSource false 9 0x4000) = .fin false 1024 512
      ∧ decodeFloat 8 (flushSource true 8 0x80000001) = .fin true 0 (2 ^ 149) ∧ decodeFloat 8 (flushSource true 8 1) = .fin false 0 (2 ^ 149)
      ∧ decodeFloat 9 (flushSource false 9 0xFC00) = .inf true ∧ decodeFloat 9 (flushSource false 9 0x7E00) = .nan)
    ∧ ∃ x y, ratOf (.fin false 3 2) = some x ∧ ratOf (.fin true 0 1) = some y ∧ x ≠ 0 ∧ y = 0 := by
  refine ⟨by decide +kernel, 3 / 2, 0, ?_, ?_, by norm_num, rfl⟩
  · simp [ratOf]
  · simp [ratOf]

/-- R195: 7 + (−2) in the active lanes, and no other lane changes. -/
theorem test_step_vadd :
    (after (.vadd (args 0)) lw2).w.rv 9 0 = 5 ∧ (after (.vadd (args 0)) lw2).w.rv 9 1 = 0
      ∧ (after (.vadd (args 0)) lw2).w.rl 0 31 = 5 ∧ (after (.vadd (args 0)) lw2).entry.lpc = 0x4003 := by decide +kernel

/-- R196 and R198: −2 × 7 high word signed and unsigned; a saturating shift sets QC. -/
theorem test_step_lane_integer :
    (after (.vmulh (args 0)) lw).w.rv 9 3 = 0xFFFFFFFF ∧ (after (.vmulh (args 1)) lw).w.rv 9 3 = 6
      ∧ (after (.vshls { args 0 with sb := .reg 6 }) lw).w.rv 9 0 = 0x7FFFFFFF
      ∧ (after (.vshls { args 0 with sb := .reg 6 }) lw).w.sflags = 0x20
      ∧ (after (.vshr { args 0 with sa := .reg 5, sb := .reg 6 }) lw).w.rv 9 0 = 0xFFFFFFFF := by decide +kernel

/-- R197: the manual's ties, which go up: (2 + 2) / 4 is 1 and (−2 + 2) / 4 is 0. -/
theorem test_step_vshrr :
    (after (.vshrr { args 0 with sa := .small 2, sb := .small 2 }) lw).w.rv 9 0 = 1
      ∧ (after (.vshrr { args 0 with sa := .reg 5, sb := .small 2 }) lw).w.rv 9 0 = 0 := by decide +kernel

/-- R199, R201: a signed comparison, and a pairwise dot product: −2·7 + (−1)·0 + 40. -/
theorem test_step_vcmp_vpmad2 :
    (after (.vcmp { args 0 with sa := .reg 5, sb := .reg 4, mods := 2 }) lw).w.rv 9 0 = 0xFFFFFFFF
      ∧ (after (.vcmp { args 1 with sa := .reg 5, sb := .reg 4, mods := 2 }) lw).w.rv 9 0 = 0
      ∧ (after (.vpmad2 { args 2 with sa := .reg 5, sb := .reg 4 }) lw).w.rv 9 0 = 26 := by decide +kernel

/-- R203: 1.5 × 2 is 3, 1 / 0 is an infinity with DZ, in n32 bits. -/
theorem test_step_float :
    let s := lw.onW (fun w => { w with v := [(4 * 32, 0x3FC00000#32), (5 * 32, 0x40000000#32)] })
    (after (.vfmul (args 8)) s).w.rv 9 0 = 0x40400000
      ∧ (after (.vfdiv { args 8 with sb := .reg 6 }) s).w.rv 9 0 = 0x7F800000
      ∧ (after (.vfdiv { args 8 with sb := .reg 6 }) (s.setEntry { root with lmask := 1 })).w.sflags = 2 := by decide +kernel

/-! ### Masks, moves, cross-lane instructions, lane control: hypotheses met -/

/-- MaskInstructions, MovesAndIdentities, CrossLaneResults: a source that may be read; VMOV with the sidecar and to a slot;
both halves of a special register; the integer and the other reductions on active lanes. -/
theorem test_meets_masksAndMoves :
    laneReady lw { srcs := [.reg 4], runs := [], dsts := [] } (lw.active 0) = true
      ∧ laneReady lw { srcs := [.reg 7], runs := [], dsts := [9] } (lw.active 0) = true
      ∧ (1 : BitVec 6).getLsbD 0 = true ∧ (1 : BitVec 6).getLsbD 1 = false ∧ (2 : BitVec 6).getLsbD 1 = true
      ∧ lw.active 0 ≠ 0 ∧ lw.entry.first = true ∧ lw.tagged [.reg 4] = false
      ∧ lw.readSr 5 = some 0 ∧ lw.readSr 0 = some 0 ∧ mayWrite lw (args 1) (lw.active 0) 1 0 = true
      ∧ (args 1).vd.toNat < lw.w.regcnt
      ∧ laneReady lw { srcs := [.reg 6, .reg 4, .reg 5], runs := [4, 5], dsts := [9] } (lw.active 0) = true
      ∧ untagged lw [.reg 6, .reg 4, .reg 5] = some 0 ∧ (args 0).ty ≠ 8 ∧ (args 0).mods.toNat % 8 = 0 ∧ (args 8).ty = 8 := by
  decide +kernel

/-- A branch 16 instructions ahead, with a regang 32 ahead. -/
def ahead : LaneArgs := { LaneArgs.zero with vd := 9, imm := 0x00200010 }

/-- Lanes below 16 in m1. -/
def lb : State := lw.onW (fun w => { w with m := [(1, 0xFFFF)] })

/-- LaneBranches: no lane takes it, all take it, some take it; a call link and a register target. -/
theorem test_meets_laneBranches :
    branchReady lb ahead.imm (lb.active 0) = true ∧ branchReady lb ahead.imm (lb.active 1) = true
      ∧ branchReady lb ahead.imm (lb.active 3) = true ∧ lb.active 3 = 0 ∧ lb.entry.lmask &&& ~~~(lb.active 1) ≠ 0
      ∧ freePair lb.w.split = some (1, 2) ∧ lb.entry.state ≠ .handler ∧ mayWrite lb ahead (lb.active 1) 1 0 = true
      ∧ ahead.vd.toNat < lb.w.regcnt ∧ laneReady lb { srcs := [.reg 4], runs := [], dsts := [] } (lb.active 0) = true
      ∧ (lb.setEntry { root with clv := true, clink := 0x4100 }).entry.clv = true ∧ (Src.reg 4 ≠ Src.reg 0) := by decide +kernel

/-- Two parts of a waiting parent in entries 1 and 2, the fragment in entry 1 at its regang address. -/
def parted (npart : BitVec 6) (lanes : Word32) : State :=
  { lw.onW (fun w => { w with split := [(0, { root with state := .waiting, lmask := lanes, npart := npart }),
      (1, { root with lpc := 0x4020, rga := 0x4020, lmask := 0xFFFF, parent := 0 })] }) with frag := 1 }

/-- RegangAndEnd: a fragment elsewhere; one that arrives as the first and as the last part; END of the last entry. -/
theorem test_meets_regangAndEnd :
    lw.entry.rga ≠ lw.entry.lpc
      ∧ (∀ x, x ∈ [parted 2 0, parted 1 0xFFFF0000] →
          hasEntry x = true ∧ x.w.splitCache.contains x.entry.parent.toNat = true ∧ x.w.splitCache.length ≤ 16
          ∧ x.entry.rga = x.entry.lpc ∧ x.entry.rga ≠ 0xFFFFFFFF ∧ x.entry.parent.toNat ≠ x.frag
          ∧ x.entry.state ≠ .handler ∧ x.entry.lmask ≠ 0)
      ∧ Table.find (parted 2 0).w.split 0 = some { root with state := .waiting, lmask := 0, npart := 2 }
      ∧ Table.find (parted 1 0xFFFF0000).w.split 0 = some { root with state := .waiting, lmask := 0xFFFF0000, npart := 1 }
      ∧ lw.w.split = [(lw.frag, lw.entry)] ∧ lw.entry.parent.toNat = lw.frag := by decide +kernel

/-- Three items of the launch on its core; m1 asks in sixteen lanes. -/
def li : State := lb.setCore 0 { Core.empty with items := [(0x80000001, 5), (7, 6), (0x80000001, 8)] }

/-- ItemNext: without WAIT for more lanes than items, with WAIT for two lanes. -/
theorem test_meets_itemNext :
    let a : LaneArgs := { LaneArgs.zero with vd := 9, imm := 1 }
    laneReady li { srcs := [], runs := [], dsts := [9] } (li.active 0) = true ∧ a.mods.getLsbD 0 = false
      ∧ ((li.onW (fun w => { w with m := [(1, 3)] })).w.rm 1 = 3) ∧ sideTag (li.w.rx 9) = 0 := by decide +kernel

/-- Lane vectors at 0x15100: VTRAP's code 1, BRK and TOOL at 0x16000. -/
def lt : State :=
  poke (poke (poke (lb.onW (fun w => { w with trapbase := 0x15000 })) 0x15108 8 0x16000) 0x15160 8 0x16000) 0x151A8 8 0x16000

/-- The state after a lane vector entry is loaded. -/
def laneVectorState (code : Nat) : State :=
  stateOf lt (coreRead lt 0 0x80000001 1 (0x15000 + 8 * (32 + code)) 8 0 0 .normal)

/-- LaneTraps: no active lane, all lanes, some of them with a free entry. -/
theorem test_meets_laneTraps :
    lt.active 3 = 0 ∧ lt.active 0 = lt.entry.lmask ∧ lt.active 1 ≠ lt.entry.lmask ∧ lt.active 1 ≠ 0 ∧ freeEntry lt.w = some 1
      ∧ laneTrapReady lt = true ∧ laneVector lt 1 (toBytes 8 0x16000) (laneVectorState 1)
      ∧ laneVector lt 0x0C (toBytes 8 0x16000) (laneVectorState 0x0C)
      ∧ laneVector lt 0x15 (toBytes 8 0x16000) (laneVectorState 0x15) ∧ lt.w.dbgctl.getLsbD 3 = false
      ∧ (lt.onW (fun w => { w with dbgctl := 8 })).w.dbgctl.getLsbD 3 = true := by
  simp only [laneVector, scalarVector]
  decide +kernel

/-- LaneFaultOrder: a register at REGCNT, a latch that is lost, a tagged source, a pending source. -/
theorem test_meets_laneFaultOrder :
    let u (x : Src) : LaneUse := { srcs := [x, .reg 5], runs := [], dsts := [9] }
    (u (.reg 64)).illegal lw.w.regcnt = true ∧ (u (.reg 63)).illegal lw.w.regcnt = false ∧ lw.lane = true
      ∧ (u (.latch 3)).illegal lw.w.regcnt = false ∧ lw.pendingV (u (.latch 3)) (lw.active 0) = false
      ∧ lw.latchPending (u (.latch 3)) (lw.active 0) = false ∧ lw.latchLost (u (.latch 3)) = true
      ∧ laneReady lw (u (.reg 7)) (lw.active 0) = true ∧ lw.active 0 ≠ 0 ∧ lw.tagged [.reg 7, .reg 5] = true
      ∧ (lw.onW (fun w => { w with pendV := [(4 * 32 + 31, 1)] })).pendingV (u (.reg 4)) (lw.active 0) = true := by decide +kernel

/-- LaneTrampolines: a table entry; a trampoline link held, at the end of the region and not; a lane handler whose TRAPPC is
aligned inside the region, misaligned, and below the region. -/
theorem test_meets_laneTrampolines :
    let s : State := poke (lw.onW (fun w => { w with trampbase := 0x15000 })) 0x15008 8 0x16000
    let h : Handler := { frag := some 0, stop := true, nr := false, since := 0 }
    let k : State := (lw.setEntry { root with state := .handler }).onW
      (fun w => { w with inhandler := true, handler := some h, trappc := 0x4000 })
    let s1 := stateOf s (s.loadNow 0x15008 8)
    s.entry.state ≠ .handler ∧ s.entry.tlv = false ∧ s.loadNow 0x15008 8 = .ok (toBytes 8 0x16000, s1)
      ∧ s1.w = s.w ∧ s1.frag = s.frag
      ∧ (lw.setEntry { root with tlv := true }).entry.tlv = true
      ∧ (let e := (lw.setEntry { root with tlv := true, tlink := 0xFFFFFFFE }).entry
        e.tlv = true ∧ (2 : Int) ^ 32 ≤ e.tlink.toNat + 3 ∧ (e.tlink.toNat : Int) + 0 < 2 ^ 32)
      ∧ k.entry.state = .handler ∧ k.w.trapcause.getLsbD 33 = false ∧ k.w.haltlatch = false ∧ k.w.handler = some h
      ∧ k.w.trappc.extractLsb' 0 2 = 0 ∧ k.w.lbase = 0
      ∧ (k.onW (fun w => { w with trappc := 0x4001 })).w.trappc.extractLsb' 0 2 ≠ 0
      ∧ (k.onW (fun w => { w with lbase := 1 })).w.lbase = 1 := by decide +kernel

/-- R143: the manual's worked MAND. -/
theorem test_step_mand :
    let s := (lw.setEntry { root with lmask := 0xFF }).onW (fun w =>
      { w with m := [(2, 0xFFFFFFFF), (4, 0xFFFFFFFF), (5, 0x0F0F), (6, 0xF3)] })
    (after (.mand { LaneArgs.zero with vd := 4, sa := .reg 5, sb := .reg 6, mask := 2 }) s).w.rm 4 = 0xFFFFFF03 := by
  decide +kernel

/-- R119: lanes below 16 branch; the parent waits for two parts behind the regang. -/
theorem test_step_vbr :
    let t := after (.vbr { ahead with mask := 1 }) lb
    (Table.find t.w.split 1).map (fun e => (e.lmask, e.lpc)) = some (0xFFFF, 0x4030)
      ∧ (Table.find t.w.split 2).map (fun e => (e.lmask, e.lpc)) = some (0xFFFF0000, 0x4003)
      ∧ (Table.find t.w.split 0).map (fun e => (e.lpc, e.npart)) = some (0x4063, 2) := by decide +kernel

/-- R213, R215: the sum of 7 over two lanes; the ballot of v4 against v9. -/
theorem test_step_cross :
    (after (.vred (args 0)) lw2).w.rv 9 31 = 14 ∧ (after (.vballot (args 0)) lw2).w.rv 9 0 = 0x80000001
      ∧ (after (.vlid { args 0 with sa := .reg 0, sb := .reg 0, sc := .reg 0, imm := 100 }) lw).w.rv 9 31 = 131 := by
  decide +kernel

/-! ### Conversions, rotation, tags: hypotheses met -/

/-- fp32 registers v8 to v15 of ones; v16 holds mxe4m3 elements of scale 127; v17 a qi8 register; seed register z0 of blocks
of 64. -/
def lc : State := ln.onW (fun w => { w with
  v := (List.range 256).map (fun i => (8 * 32 + i, 0x3F800000#32)) ++ (List.range 32).map (fun L => (16 * 32 + L, 0x38383838#32))
  x := [(16, mkSide 0x12 0 0x7F7F7F7F), (17, mkSide 0x18 0 0)]
  z := [(0, (1#65 <<< 64) ||| 5#65)] })

/-- `op v20, v8` from fp32, with CODE and R. -/
def cv (code : BitVec 32) (r : BitVec 6) : LaneArgs :=
  { LaneArgs.zero with vd := 20, sa := .reg 8, sb := .small 1, ty := 8, imm := code, mods := r }

/-- FormatConversions: each conversion on all lanes and on half a rotation block; plain and rotating; a source tag that the
rotation forbids. -/
theorem test_meets_formatConversions :
    let u (l : List Nat) (d : List Nat) : LaneUse := { srcs := [], runs := l, dsts := d }
    let half := lc.setEntry { root with lmask := 0xF }
    let tagged := lc.onW (fun w => { w with x := [(8, mkSide 8 0x123 0)] })
    laneReady lc { srcs := [.reg 8], runs := [], dsts := runDst (cv 0 0) 1 } (lc.active 0) = true ∧ lc.entry.first = true
      ∧ laneReady lc (u [8, 9, 10, 11] [20]) (lc.active 0) = true ∧ lc.runTag 8 4 = some 0
      ∧ mayWrite lc (cv 0xB 0) (lc.active 0) 1 0 = true ∧ blocksOk 0xB 1 (seedN (lc.seed (cv 0xB 1))) (lc.active 0) = true
      ∧ half.active 0 ≠ 0 ∧ blocksOk 0xB 1 (seedN (half.seed (cv 0xB 1))) (half.active 0) = false
      ∧ blocksOk 8 4 (seedN (half.seed (cv 8 1))) (half.active 0) = false
      ∧ tagged.runTag 8 4 = none ∧ laneReady lc (u [16] [20, 21, 22, 23]) (lc.active 0) = true
      ∧ lc.tagOf (cv 8 1).sa = 0 ∧ cvR (cv 8 1) = true ∧ tagged.tagOf (cv 8 1).sa = 0x123 := by decide +kernel

/-- Quantisation: a whole block and half of one; a rotation; a sum of two microscaled registers; an asymmetric format. -/
theorem test_meets_quantisation :
    let u (l : List Nat) (d : List Nat) : LaneUse := { srcs := [], runs := l, dsts := d }
    let part := lc.setEntry { root with lmask := 0xF }
    cvCode (cv 0x12 0) < 0x17 ∧ laneReady lc (u [8, 9, 10, 11] [20]) (lc.active 0) = true
      ∧ blocksOk 0x12 1 32 (lc.active 0) = true ∧ blocksOk 0x12 1 32 (part.active 0) = false ∧ part.active 0 ≠ 0
      ∧ blocksOk 0x12 1 (seedN (lc.seed (cv 0x12 1))) (lc.active 0) = true ∧ lc.runTag 8 4 = some 0
      ∧ laneReady lc (u [16, 16] [20]) (lc.active 0) = true ∧ sideCode (lc.w.rx 16) = 0x12
      ∧ oneTag lc [.reg 16, .reg 16] = some 0 ∧ 0x17 ≤ cvCode (cv 0x18 0) ∧ cvR (cv 0x18 0) = false ∧ lc.active 0 ≠ 0
      ∧ laneReady lc (u [8, 9, 10, 11] [20, 21]) (lc.active 0) = true
      ∧ blocksOk 0x18 1 (fmtGroup lc.entry.fmtc) (lc.active 0) = true ∧ mayWrite lc (cv 0x18 0) (lc.active 0) 1 0 = true
      ∧ (List.range 4).filter (fun j => blockActive 0x18 32 j (lc.active 0)) ≠ [] := by decide +kernel

/-- Dequantisation: the microscaled and the asymmetric format, plain and inverse; scaling of values and of block scales. -/
theorem test_meets_dequantisation :
    let a (code : BitVec 32) (r : BitVec 6) : LaneArgs := { cv code r with sa := .reg 16 }
    let q : LaneArgs := { cv 0x18 0 with sa := .reg 17, sb := .reg 8 }
    let half := lc.setEntry { root with lmask := 0xF }
    let back := lc.onW (fun w => { w with x := [(16, mkSide 0x12 (seedTagOf (lc.seed (a 0x12 1))) 0x7F7F7F7F)] })
    laneReady lc { srcs := [], runs := [16], dsts := runDst (a 0x12 0) 4 } (lc.active 0) = true
      ∧ (sideCode (lc.w.rx 16) == 0x12 && blocksOk 8 4 32 (lc.active 0)) = true
      ∧ lc.widenTag (a 0x12 0) = some 0 ∧ lc.widenTag (a 0x12 1) = none ∧ back.widenTag (a 0x12 1) = some 0
      ∧ mayWrite lc (a 0x12 0) (lc.active 0) 4 0 = true ∧ blocksOk 8 4 (seedN (lc.seed (a 0x12 1))) (lc.active 0) = true
      ∧ blocksOk 0x12 1 32 (half.active 0) = false ∧ half.active 0 ≠ 0
      ∧ sideCode (lc.w.rx 16) ≠ cvCode (a 0x11 0)
      ∧ laneReady lc { srcs := [.reg 8], runs := [17, 8], dsts := runDst q 4 } (lc.active 0) = true
      ∧ (sideCode (lc.w.rx 17) == 0x18 && blocksOk 8 4 (fmtGroup lc.entry.fmtc) (lc.active 0)) = true
      ∧ laneReady lc { srcs := [.reg 16], runs := [], dsts := runDst (a 0x12 0) 1 } (lc.active 0) = true := by decide +kernel

/-- RotationAndTags: a run of two registers, untagged and tagged with the seed's tag and another; a block's scales put whole
and in half. -/
theorem test_meets_rotationAndTags :
    let a := cv 0 0
    let z := seedTagOf (lc.seed a)
    let u : LaneUse := { srcs := [], runs := [8, 9], dsts := [20, 21] }
    let t (x : BitVec 16) := lc.onW (fun w => { w with x := [(8, mkSide 8 x 0), (9, mkSide 8 x 0)] })
    let half := lc.setEntry { root with lmask := 0xF }
    lc.rotRun a = 2 ∧ laneReady lc u (lc.active 0) = true ∧ blocksOk 8 2 (seedN (lc.seed a)) (lc.active 0) = true
      ∧ lc.runTag 8 2 = some 0 ∧ (t z).runTag 8 2 = some z ∧ z ≠ 0 ∧ (t 0x7000).runTag 8 2 ≠ some 0
      ∧ blocksOk 8 2 (seedN (half.seed a)) (half.active 0) = false ∧ half.active 0 ≠ 0
      ∧ mayWrite lc a (lc.active 0) 2 z = true ∧ (20 : Nat) < lc.w.regcnt ∧ lc.active 3 = 0
      ∧ laneReady lc { srcs := [], runs := [8], dsts := [] } (lc.active 0) = true
      ∧ laneReady lc { srcs := [.reg 8], runs := [8], dsts := [20] } (lc.active 0) = true
      ∧ blocksOk 0x12 1 32 (lc.active 0) = true ∧ blocksOk 0x12 1 32 (half.active 0) = false := by decide +kernel

/-- ConversionElements: −1 as i8 and 255 as n8; 2, 1.5 and −2^15 of fp16, an infinity and a NaN; 2 as an element of bf16 and as
an integer. -/
theorem test_meets_conversionElements :
    (wholeOf 4 0xFF = -1 ∧ wholeOf 5 0xFF = 255 ∧ leastWhole 4 = -128 ∧ greatestWhole 5 = 255 ∧ decodeFloat 9 0xFC00 = .inf true
      ∧ decodeFloat 9 0x7E00 = .nan ∧ wholeOf 0 2 = 2 ∧ 0x4000 < 2 ^ (1 + (floatFormat 10).expBits + (floatFormat 10).manBits))
    ∧ ratOf (decodeFloat 9 0x4000) = some ((2 : Int) : Rat) ∧ ratOf (decodeFloat 9 0x3E00) = some (3 / 2)
    ∧ (∀ z : Int, (3 / 2 : Rat) ≠ z) ∧ ((leastWhole 4 : Int) : Rat) ≤ 3 / 2 ∧ (3 / 2 : Rat) ≤ (greatestWhole 4 : Int)
    ∧ ratOf (decodeFloat 9 0xF800) = some ((-32768 : Int) : Rat) ∧ ratOf (decodeFloat 10 0x4000) = some 2
    ∧ ((wholeOf 0 2 : Int) : Rat) = 2 := by
  refine ⟨by decide +kernel, ?_, ?_, ?_, ?_, ?_, ?_, ?_, ?_⟩
  · rw [show decodeFloat 9 0x4000 = .fin false 1024 512 by decide +kernel]; norm_num [ratOf]
  · rw [show decodeFloat 9 0x3E00 = .fin false 1536 1024 by decide +kernel]; norm_num [ratOf]
  · intro z h
    have : (3 : Rat) = 2 * z := by linarith
    have : (3 : Int) = 2 * z := by exact_mod_cast this
    omega
  · rw [show leastWhole 4 = -128 by decide +kernel]; norm_num
  · rw [show greatestWhole 4 = 127 by decide +kernel]; norm_num
  · rw [show decodeFloat 9 0xF800 = .fin true 32768 1 by decide +kernel]; norm_num [ratOf]
  · rw [show decodeFloat 10 0x4000 = .fin false 128 64 by decide +kernel]; norm_num [ratOf]
  · rw [show wholeOf 0 2 = 2 by decide +kernel]; norm_num

/-- R175, R157, R176, by hand: 1.5 to an integer ties to even; a block of ones as mxe4m3 has scale 2^-8 and elements 256; one in
e4m3. -/
theorem test_step_convert :
    let s := lc.onW (fun w => { w with v := [(8 * 32, 0x3FC00000#32)] })
    (after (.vcvt (cv 0 0)) s).w.rv 20 0 = 2
      ∧ mxQuantise 0x12 (List.replicate 32 .rne) (List.replicate 32 (.fin false 1 1)) = (119, List.replicate 32 0x78, 0)
      ∧ (convertElement 8 0xB .rne false false 0x3F800000).1 = 0x38 := by decide +kernel

/-- R184: the scale byte of block 1 goes to lane 1. -/
theorem test_step_vmxscl :
    (after (.vmxsclGet { cv 0x12 0 with sa := .reg 16 }) lc).w.rv 20 1 = 0x7F
      ∧ (after (.vtagSet (cv 0 0)) lc).w.rx 20 = mkSide 0 (seedTagOf (lc.seed (cv 0 0))) 0 := by decide +kernel

/-! ### Lane memory: hypotheses met -/

/-- Addresses that one cached page of one home serves agree in it. -/
theorem onePage {s : State} {asid : BitVec 16} {among : Nat → Prop} (d : Nat) (p : TlbEntry)
    (h : ∀ x, among x → homeDie x = d ∧ tlbFind (s.die d).tlb asid x = some p) : pagesAgree s asid among := by
  intro x y q hx hy hd hf _ _
  rw [hd, (h y hy).1] at hf
  rw [hd, (h y hy).1, (h y hy).2, ← hf, ← (h x hx).2, ← (h x hx).1, hd, (h y hy).1]

/-- The same of the addresses of lanes. -/
theorem lanesAgree {s : State} {asid : BitVec 16} {act : Word32} {va : Nat → Nat} (d : Nat) (p : TlbEntry)
    (h : ∀ L, L < 32 → act.getLsbD L = true → homeDie (va L) = d ∧ tlbFind (s.die d).tlb asid (va L) = some p) :
    pagesAgree s asid (ofLanes act va) :=
  onePage d p (fun _ ⟨L, hl, ha, hx⟩ => hx ▸ h L hl ha)

/-- A lane memory instruction at k0 + 256 with index v4 = 7 or stash words v6 = 40. -/
def mem (mods : BitVec 6) : LaneArgs :=
  { LaneArgs.zero with vd := 9, sa := .konst 0, sb := .reg 6, sc := .reg 5, imm := 0x100, mods := mods }

/-- The same, gathering: index v6 = 40, base k0. -/
def gath (mods : BitVec 6) : LaneArgs := { mem mods with sa := .reg 6, sb := .konst 0 }

/-- The lane machine with its launch's stash: chord 3 of two 64-byte elements, the mxe4m3 chord 5 with its companion 4; the
row's lines hold nothing that waits for a fill. -/
def ls : State :=
  (stL.onW (fun w => { w with lq := ln.w.lq, split := [(0, root)], v := words })).setCore 0 { core0 with
    chords := [((0x80000001, 3), chord0),
      ((0x80000001, 4), { image := BitVec.ofNat 512 (chordImage + 512 * 2 ^ 64 + 0x10 * 2 ^ 416) }),
      ((0x80000001, 5), { image := BitVec.ofNat 512 (chordImage + 1024 * 2 ^ 64 + (0x12 + 4 * 1024 + 32768) * 2 ^ 416) })]
    valid := [(1664, BitVec.allOnes 128), (1668, BitVec.allOnes 128), (1672, BitVec.allOnes 128)]
    store := [(212992, 0x11), (212992 + 512, 0x7F)] }

/-- The fragment of that machine moves. -/
def lsl : State := { ls with lane := true }

/-- LaneLoads: lane rows and a gather of each size in local HBM, uncached. -/
theorem test_meets_laneLoads :
    let va (L : Nat) := 0x10100 + 4 * L
    let ga (_ : Nat) := 0x10128
    (laneReady lw { srcs := [], runs := [], dsts := [9] } (lw.active 0) = true ∧ lw.tagged [] = false
      ∧ mayWrite lw (mem 0) (lw.active 0) 1 0 = true ∧ lw.entry.first = true ∧ (mem 0).mods.getLsbD 5 = false)
    ∧ lanesHit lw (lw.active 0) (rowAddr lw (mem 0)) 4 va (fun L => 0x200000 + va L) (fun _ => 0)
    ∧ (laneReady lw { srcs := [.reg 6], runs := [], dsts := [9] } (lw.active 0) = true ∧ lw.tagged [.reg 6] = false)
    ∧ lanesHit lw (lw.active 0) (gatherAddr lw (gath 3)) 1 ga (fun L => 0x200000 + ga L) (fun _ => 0) :=
  ⟨by decide +kernel, ⟨lanesAgree 0 (page 0 0x200000) (by decide +kernel), by decide +kernel⟩, by decide +kernel,
    ⟨lanesAgree 0 (page 0 0x200000) (by decide +kernel), by decide +kernel⟩⟩

/-- LaneLoads: a last use by one lane, the last. -/
theorem test_meets_lastUse :
    let s := lw.setEntry { root with lmask := 0x80000000 }
    let va (L : Nat) := 0x10100 + 4 * L
    let ga (_ : Nat) := 0x10128
    ((mem 32).mods.getLsbD 5 = true ∧ s.active 0 = 1#32 <<< 31 ∧ s.entry.first = true ∧ mayWrite s (mem 32) (s.active 0) 1 0 = true
      ∧ laneReady s { srcs := [], runs := [], dsts := [9] } (s.active 0) = true
      ∧ laneReady s { srcs := [.reg 6], runs := [], dsts := [9] } (s.active 0) = true ∧ s.tagged [.reg 6] = false)
    ∧ lanesHit s (s.active 0) (rowAddr s (mem 32)) 4 va (fun L => 0x200000 + va L) (fun _ => 0)
    ∧ lanesHit s (s.active 0) (gatherAddr s (gath 35)) (szOf ((gath 35).mods.toNat % 8)).1 ga (fun L => 0x200000 + ga L)
        (fun _ => 0) :=
  ⟨by decide +kernel, ⟨lanesAgree 0 (page 0 0x200000) (by decide +kernel), by decide +kernel⟩,
    ⟨lanesAgree 0 (page 0 0x200000) (by decide +kernel), by decide +kernel⟩⟩

/-- LaneLoads and LaneStores in the stash: word 40 + 256 of the wave's own core, plainly and by the cluster. -/
theorem test_meets_laneStash :
    let a : LaneArgs := { mem 2 with sa := .reg 6, sb := .reg 5 }
    (laneReady lsl { srcs := [.reg 6], runs := [], dsts := [9] } (lsl.active 0) = true ∧ lsl.tagged [.reg 6] = false
      ∧ lsl.entry.first = true ∧ mayWrite lsl a (lsl.active 0) 1 0 = true ∧ (wordOf lsl a 31).toNat % 2 = 0
      ∧ lsl.stashTarget (wordOf lsl a 31).toNat false = .stash 0 0x128 false ∧ lsl.stashTarget (wordOf lsl a 0).toNat true = .stash 0 0x128 true
      ∧ stashReady lsl 0 0x128 4 = true)
    ∧ (laneReady lsl { srcs := [.reg 6, .reg 5], runs := [], dsts := [] } (lsl.active 0) = true ∧ lsl.active 0 ≠ 0
      ∧ lsl.directory = [] ∧ (lsl.core 0).holds lsl.w.lid = true ∧ lsl.earlyStash 0 0x128 4 = false ∧ (lsl.pair 0).queue = []) := by
  decide +kernel

/-- LaneStores: a row and a scatter in local HBM; no active lane. -/
theorem test_meets_laneStores :
    let va (L : Nat) := 0x10100 + 4 * L
    let ga (_ : Nat) := 0x10128
    (laneReady lw { srcs := [.reg 6], runs := [], dsts := [] } (lw.active 0) = true ∧ lw.entry.first = true
      ∧ laneReady lw { srcs := [.reg 6, .reg 5], runs := [], dsts := [] } (lw.active 0) = true ∧ lw.tagged [.reg 6] = false
      ∧ lw.active 3 = 0 ∧ laneReady lw { srcs := [.reg 6, .reg 5], runs := [], dsts := [] } (lw.active 3) = true)
    ∧ lanesStore lw (lw.active 0) (rowAddr lw (mem 0)) 4 va (fun L => 0x200000 + va L) (fun _ => 0)
    ∧ (∀ L, (lw.active 0).getLsbD L = true → lw.overtakes (va L) 64 = false)
    ∧ lanesStore lw (lw.active 0) (gatherAddr lw (gath 1)) 2 ga (fun L => 0x200000 + ga L) (fun _ => 0) :=
  ⟨by decide +kernel, ⟨by decide +kernel, lanesAgree 0 (page 0 0x200000) (by decide +kernel), by decide +kernel⟩,
    fun _ _ => rfl, ⟨by decide +kernel, lanesAgree 0 (page 0 0x200000) (by decide +kernel), by decide +kernel⟩⟩

/-- The addresses of a row of lanes rise by four (LaneStores). -/
theorem test_meets_laneStoreRow : ∀ L K : Nat, 0x200000 + (0x10100 + 4 * L) + 4 * K = 0x200000 + (0x10100 + 4 * K) + 4 * L := by
  intro L K
  omega

/-- A row of chord `n` at offset 0. -/
def row (n : BitVec 32) : LaneArgs := { LaneArgs.zero with vd := 9, sa := .imm, sb := .reg 4, imm := n }

/-- ChordRows: a plain chord and a microscaled one with its companion; a register whose format and tag match, and one whose
format or tag does not. -/
theorem test_meets_chordRows :
    let c5 : Chord := { image := BitVec.ofNat 512 (chordImage + 1024 * 2 ^ 64 + (0x12 + 4 * 1024 + 32768) * 2 ^ 416) }
    let c4 : Chord := { image := BitVec.ofNat 512 (chordImage + 512 * 2 ^ 64 + 0x10 * 2 ^ 416) }
    let other := lsl.onW (fun w => { w with x := [(4, mkSide 0 7 0)] })
    (laneReady lsl { srcs := [], runs := [], dsts := [9] } (lsl.active 0) = true ∧ rowReady lsl (row 3) (lsl.active 0) chord0 = true
      ∧ mayWrite lsl (row 3) (lsl.active 0) 1 chord0.tag = true ∧ stashReady lsl 0 (chord0.soff + rowOffset (row 3) lsl) 128 = true
      ∧ rowReady lsl (row 5) (lsl.active 0) c5 = true ∧ c5.mx = true ∧ companion lsl c5 = some c4
      ∧ stashReady lsl 0 (c5.soff + rowOffset (row 5) lsl) 128 = true ∧ stashReady lsl 0 (scaleOffset c4 c5 0 7) 1 = true)
    ∧ (laneReady lsl { srcs := [.reg 4], runs := [], dsts := [] } (lsl.active 0) = true ∧ sideCode (lsl.w.rx 4) = chord0.fmt
      ∧ sideTag (lsl.w.rx 4) = chord0.tag ∧ chord0.mx = false ∧ (lsl.pair 0).queue = [] ∧ (lsl.core 0).holds lsl.w.lid = true
      ∧ lsl.earlyStash 0 (chord0.soff + rowOffset (row 3) lsl) 128 = false
      ∧ lsl.directory = [] ∧ sideCode (lsl.w.rx 4) ≠ c5.fmt ∧ sideTag (other.w.rx 4) ≠ chord0.tag
      ∧ sideCode (other.w.rx 4) = chord0.fmt ∧ rowReady other (row 3) (other.active 0) chord0 = true) := by decide +kernel

/-- ChordRows: VPFT by a wave whose launch captures no page faults. -/
theorem test_meets_vpft :
    laneReady lsl { srcs := [.reg 6], runs := [], dsts := [] } (lsl.active 0) = true
      ∧ (lsl.launch lsl.w.lid).map (·.capture) = some false := by decide +kernel

/-- A packed-block instruction of format mxe4m3 at k0 + 256, its scales at k1. -/
def pk : LaneArgs := { mem 0x12 with sb := .konst 1, sc := .reg 5 }

/-- The physical address of a part. -/
def partAt (a : Addr) : Nat := 0x200000 + a.toNat

/-- PackedBlocks: the parts in local HBM; a register of the format and one of another. -/
theorem test_meets_packedBlocks :
    let blocks := (List.range (epl (blockFmt pk))).filter (fun b => blockActive (blockFmt pk) 32 b (lw.active 0))
    let s := lw.onW (fun w => { w with x := [(5, mkSide 0x12 0 0)] })
    (blocksOk (blockFmt pk) 1 32 (lw.active 0) = true ∧ lw.entry.first = true ∧ lw.active 0 ≠ 0 ∧ blocks = [0, 1, 2, 3]
      ∧ laneReady lw { srcs := [], runs := [], dsts := [9] } (lw.active 0) = true ∧ mayWrite lw pk (lw.active 0) 1 0 = true
      ∧ laneReady s { srcs := [.reg 5], runs := [], dsts := [] } (s.active 0) = true ∧ sideCode (s.w.rx 5) = blockFmt pk
      ∧ sideCode (lw.w.rx 5) ≠ blockFmt pk ∧ isMxCode (blockFmt pk) = true)
    ∧ partsHit lw pk blocks .read partAt (fun _ => 0) ∧ partsHit lw pk blocks .write partAt (fun _ => 0)
    ∧ (∀ b, b ∈ blocks → ∀ p, p ∈ blockParts pk lw b → ∀ c, c ∈ blocks → ∀ q, q ∈ blockParts pk lw c → (b, p) ≠ (c, q) →
        partAt p.1 + p.2 ≤ partAt q.1 ∨ partAt q.1 + q.2 ≤ partAt p.1) := by
  have h : ∀ b, b ∈ (List.range (epl (blockFmt pk))).filter (fun b => blockActive (blockFmt pk) 32 b (lw.active 0)) →
      ∀ p, p ∈ blockParts pk lw b → lw.target p.1 = .global p.1.toNat ∧ homeDie p.1.toNat = 0
        ∧ tlbFind (lw.die 0).tlb lw.w.asid p.1.toNat = some (page 0 0x200000)
        ∧ homeHit lw p.1.toNat p.2 .read (partAt p.1) 0 = true ∧ homeHit lw p.1.toNat p.2 .write (partAt p.1) 0 = true
        ∧ uncached lw p.1.toNat = true := by decide +kernel
  have agree := onePage (s := lw) (asid := lw.w.asid) (among := fun x => ∃ b, b ∈ (List.range (epl (blockFmt pk))).filter
      (fun b => blockActive (blockFmt pk) 32 b (lw.active 0)) ∧ ∃ p, p ∈ blockParts pk lw b ∧ lw.target p.1 = .global x)
    0 (page 0 0x200000) (fun x ⟨b, hb, p, hp, hx⟩ => by
      obtain ⟨ht, hd, hf, -⟩ := h b hb p hp
      cases (Target.global.inj (ht.symm.trans hx))
      exact ⟨hd, hf⟩)
  refine ⟨by decide +kernel, ⟨by decide +kernel, agree, fun b hb p hp => ?_⟩, ⟨by decide +kernel, agree, fun b hb p hp => ?_⟩,
    by decide +kernel⟩
  · obtain ⟨ht, -, -, hr, -, hu⟩ := h b hb p hp
    exact ⟨p.1.toNat, ht, hr, fun _ => hu⟩
  · obtain ⟨ht, -, -, -, hw, hu⟩ := h b hb p hp
    exact ⟨p.1.toNat, ht, hw, fun _ => hu⟩

/-- An atomic addition at k0 + 256 + 40 of the data −2. -/
def atom (mods : BitVec 6) : LaneArgs := { gath mods with imm := 0x100 }

/-- Atomics: a 4-byte and an 8-byte addition on one word by all lanes. -/
theorem test_meets_atomics :
    let a := atom 0
    (lw.entry.first = true ∧ (0 : Nat) ≤ 8 ∧ laneReady lw (atomUse a true) (lw.active 0) = true ∧ lw.tagged (atomUse a true).srcs = false
      ∧ laneReady lw (atomUse a false) (lw.active 0) = true ∧ mayWrite lw a (lw.active 0) 1 0 = true
      ∧ laneReady lw (atomUse (atom 16) true) (lw.active 0) = true ∧ mayWrite lw (atom 16) (lw.active 0) 2 0 = true
      ∧ lw.tagged (atomUse (atom 16) true).srcs = false)
    ∧ (∀ L, L < 32 → lw.active 0 ≠ 0 ∧ (atomAddr a lw L).toNat % 8 = 0
      ∧ decodeAddr (lw.pbase lw.w) (atomAddr a lw L) = .global 0x10128 ∧ homeHit lw 0x10128 8 .write 0x210128 0 = true
      ∧ homeHit lw 0x10128 4 .write 0x210128 0 = true)
    ∧ pagesAgree lw lw.w.asid (ofLanes (lw.active 0) (fun _ => 0x10128)) :=
  ⟨by decide +kernel, by decide +kernel, lanesAgree 0 (page 0 0x200000) (by decide +kernel)⟩

/-- Atomics: an addition stays within its word. -/
theorem test_meets_atomicWidth : ∀ n data x y : Nat, atomicOp 0 0 n x data 0 = some y → x < 2 ^ (8 * n) → y < 2 ^ (8 * n) := by
  intro n data x y h _
  simp only [atomicOp, Nat.zero_mod, Option.some.injEq] at h
  subst h
  exact Nat.mod_lt _ (Nat.two_pow_pos _)

/-- AtomicOperations: signed and unsigned MIN of 4 and 8 bytes, each bitwise operation, a CAS that finds its value and one that does
not, LOAD, and the sum of two bf16 elements. -/
theorem test_meets_atomicOperations :
    (0xFFFFFFFF : Nat) < 2 ^ (8 * 4) ∧ atomicOp 1 0 4 0xFFFFFFFF 1 0 = some 0xFFFFFFFF ∧ atomicOp 1 1 8 0xFFFFFFFF 1 0 = some 1
      ∧ atomicOp 2 0 8 (2 ^ 64 - 1) 1 0 = some 1 ∧ atomicOp 3 1 4 12 10 0 = some 8 ∧ atomicOp 4 1 4 12 10 0 = some 14
      ∧ atomicOp 5 1 4 12 10 0 = some 6 ∧ atomicOp 6 1 4 12 10 0 = some 10 ∧ atomicOp 7 1 4 12 10 12 = some 10
      ∧ atomicOp 7 1 4 12 10 11 = none ∧ atomicOp 8 1 4 12 10 0 = none ∧ atomicOp 0 1 4 0xFFFFFFFF 2 0 = some 1
      ∧ atomicOp 0 10 4 0x40003F80 0x3F803F80 0 = some 0x40404000 ∧ atomicOp 2 8 4 0x80000000 0 0 = some 0 := by decide +kernel

/-- R307, R308: a row load after a row store; the highest lane of a scatter to one address wins. -/
theorem test_step_laneMemory :
    let t := after (.vst (mem 0)) lw
    (after (.vld (mem 0)) t).w.rv 9 31 = 40 ∧ (after (.vsct (gath 0)) lw2).cell 0x210128 = 0xFE
      ∧ (after (.vgth (gath 4)) (after (.vsct (gath 0)) lw2)).w.rv 9 31 = 0xFFFFFFFE := by decide +kernel

/-- R339: 32 additions of −2 to a word of zero; lane 3 finds −6. -/
theorem test_step_vatomr :
    let t := after (.vatomr (atom 0)) lw
    memNumber t 0x210128 4 = 0xFFFFFFC0 ∧ t.w.rv 9 3 = 0xFFFFFFFA := by decide +kernel

/-- R251, R250: a row of chord 3; a stash store and load of lane words. -/
theorem test_step_stash :
    let a : LaneArgs := { mem 0 with sa := .reg 6, sb := .reg 5 }
    (after (.vldc (row 3)) lsl).w.rv 9 0 = 0x11 ∧ (after (.vlds a) (after (.vsts a) lsl)).w.rv 9 31 = 0xFFFFFFFE := by decide +kernel

/-! ### Matrix pairs: hypotheses met -/

/-- The launch with blocks of two cores and one accumulator granule: eight tiles. -/
def launch2 : Launch := { launch0 with record := BitVec.ofNat 2048 (record + 2 ^ (8 * 0x4A) + 2 ^ (8 * 0x4E)) }

/-- The lane machine on core 0 of such a block: i8 formats, i8 sidecars and elements 1 in v8 to v39, matrix word NT 1 in k0,
an address in k1. -/
def lm : State :=
  { ((stL.setCore 1 { core0 with activeWaves := [] }).onW (fun w => { w with
      lq := [{ pc := 0x10000, k := [1, 0x12345, 0, 0, 0, 0, 0, 0], fmt := 0, started := true }]
      split := [(0, { root with fmtc := 0x21000000 })]
      v := [(8 * 32, 0x01010101)]
      x := (List.range 32).map (fun i => (8 + i, mkSide 4 0 0)) })) with lane := true, launches := [launch2] }

/-- The run v8, the constant k0, tile 0, no parameters. -/
def mm : LaneArgs := { LaneArgs.zero with sa := .reg 8, sb := .konst 0, sc := .reg 0, imm := 5 }

/-- A full queue of its entries. -/
def lmFull : State := lm.setPair 0 { Pair.empty with queue := List.replicate 16 (lm.matEntry .stamp mm) }

/-- MatrixIssue: the operands of each instruction; each failed check of MMA; no active lane and a full queue. -/
theorem test_meets_matrixIssue :
    let bad := lm.onW (fun w => { w with x := [] })
    let tagged := lm.onW (fun w => { w with x := (List.range 32).map (fun i => (8 + i, mkSide 4 9 0)) })
    (matReady lm mm [8] (runsOf (runOf 8 (aRegs 4) ++ runOf 0 0) []) true = true ∧ mmaRanges lm mm = true ∧ mmaFormats lm mm = true
      ∧ mmaTags lm mm = true ∧ fmtA lm.entry.fmtc = 4 ∧ fmtB lm.entry.fmtc = 4)
    ∧ ((lm.onW (fun w => { w with place := .transit })).pairBad = true
      ∧ lm.pairBad = false ∧ mwBad (matrixWord lm { mm with sb := .konst 2 }) 4 false = true
      ∧ mmaRanges bad mm = true ∧ mmaFormats bad mm = false ∧ mmaRanges tagged mm = true ∧ mmaFormats tagged mm = true
      ∧ mmaTags tagged mm = false ∧ matReady tagged mm [8] (runsOf (runOf 8 32) []) true = true)
    ∧ (matReady lm mm [8] (runsOf [] (runOf 8 32)) true = true ∧ lm.runBad 8 32 = false
      ∧ matReady lm mm [8] (runsOf (runOf 8 32) []) true = true
      ∧ (∀ n, n < 32 → sideTag (lm.w.rx (8 + n)) = 0) ∧ sideTag (tagged.w.rx 39) ≠ 0 ∧ matReady lm mm [] (runsOf [] []) false = true
      ∧ lm.active 3 = 0 ∧ lm.active 0 ≠ 0 ∧ mm.vd.toNat < lm.tileCount ∧ (∀ n, n ∈ runHeads mm → n < lm.w.regcnt) ∧ 16 ≤ (lmFull.pair lmFull.myPair).queue.length) := by
  decide +kernel

/-- An operation of the wave in batch 4 of time 100. -/
def opAt : MatOp := { lm.matEntry .mma mm with word := 1, batch := some (4, 100) }

/-- MatrixBatches: an operation in no batch and one in a batch, at the constant's limit and below it, at a count of 1 and
of 0. -/
theorem test_meets_matrixBatches :
    let s := lm.setPair 0 { Pair.empty with queue := [opAt] }
    lm.active 0 ≠ 0 ∧ (lm.w.rk 0).toNat < 100 ∧ (lm.w.rk 1).toNat ≥ 100
      ∧ ((s.pairs.flatMap (fun p => p.2.queue)).filter (fun o => o.wave == s.w.id)).filterMap (·.batch) = [(4, 100)]
      ∧ (Src.imm ≠ .konst 0) ∧ lm.pairBad = false ∧ (lm.onW (fun w => { w with place := .transit })).pairBad = true
      ∧ (lm.onW (fun w => { w with place := .transit })).active 0 ≠ 0 := by decide +kernel

/-- The pair's queue holds one operation. -/
def lq1 (o : MatOp) : State := lm.setPair 0 { Pair.empty with queue := [o] }

/-- MatrixExecution: an MMA whose columns are in the stash, a MACC.in with its words, a MACCZ; an empty queue. -/
theorem test_meets_matrixExecution :
    let o : MatOp := { lm.matEntry .mma mm with word := 1 }
    let i : MatOp := { lm.matEntry .in_ mm with aWords := List.replicate 1024 3 }
    let z : MatOp := lm.matEntry .outz mm
    (headIs (lq1 o) o [] [.mma, .mmaz] ∧ o.col = 0 ∧ (∀ j, j < 16 → columnReady (lq1 o) o j = true) ∧ mwNT o.word = 1)
    ∧ (headIs (lq1 i) i [] [.in_] ∧ i.aWords.length = 1024) ∧ headIs (lq1 z) z [] [.out, .outz]
    ∧ (lm.pair lm.input.pair).queue = [] := by
  simp only [headIs]
  decide +kernel

/-- A stamp operation that may be written. -/
def stampOp : MatOp := { lm.matEntry .stamp mm with addr := 0x13000 }

/-- The state after its store. -/
def stamped : State :=
  match coreWrite (lq1 stampOp) 0 stampOp.lid 1 0x13000 (stampBytes stampOp none 0) with
  | .ok t => t
  | .error _ => lm

/-- MatrixRetirement: a landed, a cancelled and a running operation of the wave in focus; a stamp record. -/
theorem test_meets_matrixRetirement :
    let o : MatOp := { lm.matEntry .out mm with done := true, aWords := List.replicate 1024 3 }
    ((lq1 o).pair (lq1 o).input.pair).queue = [o] ∧ lm.w.id = o.wave ∧ lm.w.hasFrame o.asid o.frame = true ∧ lm.w.gen = o.gen
      ∧ lm.w.swapped = false ∧ (lq1 o).landHeld o.asid o.frame o.gen = false
      ∧ (lq1 stampOp).behind stampOp.leader.toNat (homeDie stampOp.addr.toNat) = false ∧ lm.w.residency ∈ [Residency.active, .ready, .waiting] ∧ o.done = true ∧ ({ o with cancelled := true } : MatOp).cancelled = true
      ∧ o.tid ≠ 0 ∧ o.kind ≠ .stamp ∧ (lm.matEntry .mma mm).done = false ∧ (lm.matEntry .mma mm).cancelled = false
      ∧ stampOp.kind = .stamp ∧ stampOp.cancelled = false ∧ stampOp.stalled = false ∧ stampOp.addr.toNat < 2 ^ 56
      ∧ coreWrite (lq1 stampOp) 0 stampOp.lid 1 0x13000 (stampBytes stampOp none 0) = .ok stamped
      ∧ stamped.pairs = (lq1 stampOp).pairs ∧ stamped.w = (lq1 stampOp).w := by decide +kernel

/-- MatrixSteps: formats i8 and n8, with and without SAT, where the sum passes 32 bits; fp16 with a NaN in the row and in the
column. -/
theorem test_meets_matrixSteps :
    let o : MatOp := { lm.matEntry .mma mm with aWords := List.replicate 1024 0x7F7F7F7F }
    let h (x : BitVec 32) : MatOp := { o with fmtc := 0x4A400000, aWords := List.replicate 2048 x }
    let c (x : Nat) : Column := { data := x, scales := [], params := [] }
    fmtA o.fmtc = 4 ∧ fmtB o.fmtc = 4 ∧ fmtA (h 0).fmtc = 9 ∧ fmtB (h 0).fmtc = 9
      ∧ decodeFloat 9 (rowElement (h 0x7E007E00) 0 1) = .nan ∧ decodeFloat 9 (columnElement (h 0) (c 0x7E000000) 1) = .nan
      ∧ rowElement o 63 63 = 0x7F ∧ columnElement o (c (0x80 * 2 ^ 504)) 63 = 0x80
      ∧ ({ o with sat := true } : MatOp).step 0 (c 1) 0x7FFFFFFF = 0x7FFFFFFF
      ∧ ({ o with sat := false } : MatOp).step 0 (c 1) 0x7FFFFFFF = 0x8000007E := by decide +kernel

/-- R264: row 0 of ones against a column of twos is 128, on top of 5; MMAZ takes the word as zero. -/
theorem test_step_matrix :
    let o : MatOp := { lm.matEntry .mma mm with word := 1, aWords := List.replicate 1024 0x01010101 }
    let c : Column := { data := ofBytes (List.replicate 64 2), scales := [], params := [] }
    o.step 0 c 5 = 133 ∧ ({ o with kind := .mmaz } : MatOp).step 63 c 5 = 128
      ∧ ({ o with aWords := List.replicate 1024 0x80808080 } : MatOp).step 1 c 0 = BitVec.ofInt 32 (-16384) := by decide +kernel

/-- R279: MACC.out takes the tile pair's words; MMAZ takes an entry with its run and identifier. -/
theorem test_step_macc :
    let o : MatOp := lm.matEntry .out mm
    let s := (lq1 o).setCore 1 { core0 with tiles := [(tileKey 0 31 15, 3)] }
    (((after .matrixOpExecute s).pair 0).queue.map (fun o => (o.done, o.aWords[1023]?))) = [(true, some 3)]
      ∧ ((after (.mmaz mm) lm).pair 0).queue.map (fun o => (o.kind, o.aWords.headD 0, o.tid)) = [(.mmaz, 0x01010101, 5)] := by
  decide +kernel

/-! ### Copy engines, requests, homes: hypotheses met -/

/-- A linear copy of 64 bytes from 0x12000 to 0x12100 as the wave issued it for slot 3, with a completion record. -/
def command : EngineCmd :=
  { kind := 0, desc := BitVec.ofNat 512 (recOf [(0, 0x12000), (8, 0x12100), (0x10, 64), (0x14, 1), (0x16, 1), (0x34, 2048)]),
    ctl := 3, seed := some 0, seq := 7, pred := 0, cancel := false, wave := 1, frame := 0x40000, gen := 0, lid := 0x80000001,
    asid := 1, pbase := 0, core := 0, waveid := 0, slotSeq := 1, started := false, pos := 0, crc := 0, stalled := false,
    outcome := none, returned := false }

/-- The wave's state is in its frame, whose page is under a move lock. -/
def frameLocked (s : State) : State :=
  (s.onW (fun w => { w with swapped := true })).setDie 2 { s.die 2 with locks := [(2 * 2 ^ 37 + 0x200000, 131072)] }

/-- Engine 0 of B0 with commands. -/
def eng (l : List EngineCmd) : State := { st with launches := [launch0] }.setEngine 0 l

/-- Two rows of 64 bytes whose destination lies 32 bytes above the source. -/
def lapping : EngineCmd :=
  { command with desc := BitVec.ofNat 512 (recOf [(0, 0x12000), (8, 0x12020), (0x10, 64), (0x14, 2), (0x16, 1)]) }

/-- EngineCommands: the addresses of a copy inside one page agree in it. -/
theorem test_meets_engineCopy :
    pagesAgree (eng [command]) 1 (fun x => x = dSrc command.desc ∨ x = dDst command.desc) := by
  have h : ∀ x, x ∈ [dSrc command.desc, dDst command.desc] →
      homeDie x = 0 ∧ tlbFind ((eng [command]).die 0).tlb 1 x = some (page 0 0x200000) := by decide +kernel
  exact onePage 0 (page 0 0x200000) (fun x hx => h x (by simpa using hx))

/-- EngineCommands: a stalled command, a cancelled one, an overlapping one, a linear copy. -/
theorem test_meets_engineCommands :
    let s := eng [command]
    s.engine s.input.engine = [command] ∧ ({ command with stalled := true } : EngineCmd).runnable = false ∧ command.runnable = true
      ∧ s.input.k = 0 ∧ ({ s with input := { Input.none with k := 63 } } : State).engine 0 = [command]
      ∧ engineHits { s with input := { Input.none with k := 63 } } 0 command 0x12100 64 .write 0x212100 0 = true
      ∧ command.pos = 0 ∧ command.cancel = false ∧ lapping.runnable = true ∧ lapping.overlaps = true
      ∧ linearCopy command 64 = true ∧ engineHits s 0 command 0x12000 64 .read 0x212000 0 = true
      ∧ engineHits s 0 command 0x12100 64 .write 0x212100 0 = true
      ∧ (∀ x, x ∈ [0x12000, 0x12100] → homeDie x = 0 ∧ tlbFind (s.die 0).tlb 1 x = some (page 0 0x200000)) := by decide +kernel

/-- EngineCompletions: a command that runs, one that has ended with a chained one behind it, an issuer in its frame and one
whose generation is gone; a full event queue and one with a record. -/
theorem test_meets_engineCompletions :
    let q : EngineCmd := { command with outcome := some 0 }
    let r : EngineCmd := { command with seq := 8, pred := 7, seed := none }
    let s := eng [q, r]
    let gone := s.onW (fun w => { w with gen := 1 })
    let ev : EventRecord := { time := 0, wave := 0, done := 0, crc := 0, seq := 0, code := 0, evtag := 0, slot := 0, engid := 0 }
    s.engine s.input.engine = [q, r] ∧ command.outcome = none ∧ command.returned = false ∧ dEvq q.desc = true ∧ (s.ccp 0).events.length < 256
      ∧ issuerHere s q.asid q.frame q.gen = true ∧ issuerGone gone q.asid q.frame q.gen = true ∧ gone.launches = [launch0]
      ∧ s.landHeld q.asid q.frame q.gen = false ∧ gone.landHeld q.asid q.frame q.gen = false
      ∧ (frameLocked s).landHeld q.asid q.frame q.gen = true ∧ (frameLocked s).engine s.input.engine = [q, r]
      ∧ (∀ x, x ∈ [q, { r with seed := some 3 }] → x.seed.isSome = true)
      ∧ (eng [{ q with returned := true, endTime := 9 }]).engine 0 = [{ q with returned := true, endTime := 9 }]
      ∧ launch0.lid = q.lid ∧ dEvq lapping.desc = false
      ∧ 256 ≤ ((s.setCcp 0 { s.ccp 0 with events := List.replicate 256 ev }).ccp 0).events.length := by decide +kernel

/-- A request of the wave for 4 bytes at 0x12000. -/
def asked (k : ReqKind) (d : Dest) (stage : ReqStage) : Request :=
  { seq := 1, kind := k, dest := d, wave := 1, frame := 0x40000, gen := 0, lid := 0x80000001, blk := 0, asid := 1, core := 0,
    addr := 0x12000, pa := 0x212000, key := 0, size := 4, data := 0x11223344, cmp := 0, type := 0, scope := 0, td := 0,
    pc := 0x10000, lanes := 0, frag := none, latch := 4, issued := 0, at_ := 0, noFill := false, stage := stage }

/-- The wave with that request outstanding. -/
def rq (r : Request) : State := { st with requests := [r], launches := [launch0], input := { Input.none with index := 1 } }

/-- HomeServices: a load, of a registered block too, a store, an addition. -/
theorem test_meets_homeServices :
    let l := asked (.load .normal) (.scalar 5 4 true) .sent
    let w := asked (.store 0) .none .sent
    let a := asked (.atomic 0 false) .none .sent
    (inFlight (rq l) l ∧ inFlight (rq w) w ∧ inFlight (rq a) a)
      ∧ (rq l).arrives l = true ∧ (rq w).arrives w = true ∧ (rq a).arrives a = true
      ∧ (l.size ≤ 8 ∧ freePlace (rq w) w = true ∧ freePlace (rq a) a = true
      ∧ Table.find (rq l).directory (l.pa / 512) = none
      ∧ (Table.find ({ rq l with directory := [(0x212000 / 512, { core := 0, addr := 212992, cover := BitVec.allOnes 512 })] }).directory (l.pa / 512)).isSome = true) := by
  simp only [inFlight]
  decide +kernel

/-- Returns: an answer to a scalar and to a lane register, of a live and of a gone generation; a failure; a request one tick
before and at its time-out; a late reply. -/
theorem test_meets_returns :
    let r := asked (.load .normal) (.scalar 5 4 true) (.answered 3)
    let b := asked (.load .normal) (.lane 9 31 4 false) (.answered 3)
    let clock (n : Nat) : State := { rq (asked (.store 0) .none .sent) with dies := [(0, { Die.empty with ptc := BitVec.ofNat 64 n })] }
    (rq r).request (rq r).input.index = some r ∧ issuerHere (rq r) 1 0x40000 0 = true ∧ (rq b).request (rq b).input.index = some b
      ∧ issuerGone ((rq r).onW (fun w => { w with gen := 1 })) 1 0x40000 0 = true ∧ (rq r).w.inhandler = false
      ∧ (let f := asked (.store 0) .none (.failed 0x11)
        (rq f).request 1 = some f ∧ (rq f).expired f = false ∧ (rq f).wayUp 0 0 = true ∧ (rq f).allKnown f = true)
      ∧ (let f := asked (.store 0) .none (.failed 0x11)
        let g := { asked (.store 0) .none .sent with seq := 2, addr := 0x12004, pa := 0x212004 }
        ({ rq f with requests := [f, g] } : State).allKnown f = false)
      ∧ (rq r).expired r = false ∧ (rq r).wayUp (homeDie r.addr.toNat) ((rq r).dieOf r.core.toNat) = true
      ∧ (rq r).landHeld r.asid r.frame r.gen = false ∧ (frameLocked (rq r)).landHeld r.asid r.frame r.gen = true
      ∧ (rq r).requests.filter r.replied = [r] ∧ (∀ q, q ∈ (rq r).requests → q.asid = r.asid ∧ q.frame = r.frame ∧ q.prefetch = false)
      ∧ (clock 1000000).expired (asked (.store 0) .none .sent) = true ∧ (clock 999999).expired (asked (.store 0) .none .sent) = false
      ∧ (rq (asked (.store 0) .none .late)).request 1 = some (asked (.store 0) .none .late) := by decide +kernel

/-- A direct chord. -/
def chordD : Chord := { image := BitVec.ofNat 512 (chordImage + 2 ^ (8 * 0x26) + 2 ^ (8 * 0x32)) }

/-- The line of that chord on core 0, filling, with a dirty byte. -/
def filling : State :=
  { stL.setCore 0 { core0 with chords := [((0x80000001, 3), chordD)], filling := [(0x80000001, 1664)], dirty := [(1664, 3)], pub := [(1664, 1)] } with
    input := { Input.none with lid := 0x80000001, line := 1664 } }

/-- MemorySideSteps, first part: a line that fills and one that does not; a dirty line to register and a clean one. -/
theorem test_meets_stashLines :
    (0x80000001, 1664) ∈ (filling.core 0).filling ∧ (0x80000001, 1664) ∉ (stL.core 0).filling
      ∧ filling.capturing 0x80000001 = false ∧ filling.holdsLine 0 0x80000001 1664 = true
      ∧ filling.holdsAt 0 0x80000001 (1664 * 128 - (filling.stash 0x80000001).1) 128 = true
      ∧ (filling.setCore 0 { filling.core 0 with active := none }).holdsAt 0 0x80000001 (1664 * 128 - (filling.stash 0x80000001).1) 128 = false ∧ (filling.core 0).chords = [((launch0.lid, 3), chordD)]
      ∧ filling.launch launch0.lid = some launch0 ∧ chordD.direct = true ∧ launch0.stashBase + chordD.soff ≤ 1664 * 128
      ∧ 1664 * 128 < launch0.stashBase + chordD.soff + chordD.len ∧ Sparse.get (filling.core 0).pub 1664 ≠ 0
      ∧ Sparse.get (stL.core 0).pub 1664 = 0
      ∧ (let s1 := stateOf filling (translate filling 1 0x12000 .write)
        translate filling 1 0x12000 .write = .ok ((0x212000, 0), s1) ∧ s1.directory = filling.directory)
      ∧ Table.find filling.directory (0x212000 / 512) = none := by decide +kernel

/-- A machine whose translations are not cached, and the page it walks to. -/
def cold : State := { st with dies := [], input := { Input.none with asid := 1, va := 0x12000 } }

/-- MemorySideSteps, second part: a registered block and none; a page to walk to, one that is cached, one that is not there. -/
theorem test_meets_recallAndWalk :
    let owned (s : State) : State := { s with directory := [(0, { core := 0, addr := 212992, cover := BitVec.allOnes 512 })] }
    Table.find st.directory 0x1090 = none ∧ (owned st).input.addr.toNat / 512 = 0 ∧ (owned st).recallHeld 0 512 = false
      ∧ (owned filling).recallHeld 0 512 = true ∧ (∀ i, i < 8 → (owned st).sectorOk i 0 = true)
      ∧ tlbFind (cold.die 0).tlb 1 0x12000 = none ∧ badTable cold 1 0x12000 = none ∧ walk cold 1 0x12000 = .ok (page 0 0x200000)
      ∧ permits (page 0 0x200000).leaf .read = true ∧ (tlbFind (st.die 0).tlb 1 0x12000).isSome = true
      ∧ walk cold 1 0x20000 = .error .notPresent := by decide +kernel

/-- The launch captures into a buffer of 1 MiB at page 2. -/
def capturing : Launch :=
  { launch0 with record := BitVec.ofNat 2048 (record + 2 ^ (8 * 0x5B) + 0x40000 * 2 ^ (8 * 0x70)) }
def cap : State :=
  { st with launches := [capturing], mem := Sparse.setList st.mem (2 * 2 ^ 37 + 0x200000) (toBytes 8 0x100000),
            input := { Input.none with lid := 0x80000001, va := 0x12000 } }

/-- MemorySideSteps, third part: the first touch of a granule of a captured launch, and one captured before. -/
theorem test_meets_captureFirstTouch :
    cap.launch cap.input.lid = some capturing ∧ capturing.capture = true ∧ capturing.capOver = false
      ∧ (0 : Nat) ∉ capturing.captured ∧ captureExempt cap capturing 0 = false
      ∧ ((readRange cap 0 1 (capturing.f 0x70 8) 8).toOption.map (fun x => ofBytes x.1)) = some 0x100000
      ∧ (0 : Nat) ∈ ({ capturing with captured := [0] } : Launch).captured ∧ launch0.capture = false := by decide +kernel

/-- R351, R354: the copy ends with OK and its slot 3 is done. -/
theorem test_step_engine :
    let s := eng [command]
    let s : State := { s with mem := (poke s 0x12000 8 0x1234567).mem }
    let t := after .engineCommandStart s
    memNumber t 0x212100 8 = 0x1234567 ∧ slotState ((after .engineCompletion t).w.cslot 3) = 2
      ∧ ((after .engineCompletion t).ccp 0).events.length = 1 := by decide +kernel

/-- R330, R88: an addition performed at its home; a load's answer lands, sign-extended. -/
theorem test_step_requests :
    let a := asked (.atomic 0 true) (.scalar 5 4 true) .sent
    let s : State := { rq a with mem := (poke st 0x12000 4 0xF0000000).mem }
    let t := after .atomicPerform s
    memNumber t 0x212000 4 = 0x01223344
      ∧ (after .returnArrival (s.onW (fun w => { w with pendS := [(5, 1)] }))).rs 5 = 3
      ∧ (after .returnArrival (t.onW (fun w => { w with pendS := [(5, 1)] }))).rs 5 = 0xFFFFFFFFF0000000 := by decide +kernel

/-! ### The life of a launch: hypotheses met -/

/-- Queue 0 with its ring at 0x300000, whose head slot holds a record that ends with sequence byte 1. -/
def ringed (expect : Nat) : State :=
  { st with fw := { st.fw with ready := true }
            queues := [(0, { ring := 0x300000, k := 4, head := 15, expect := expect })]
            mem := Sparse.setList st.mem 0x300F00 (toBytes 256 (record + 2 ^ (8 * 255))) }

/-- LaunchRecords: the expected sequence byte and another, the device ready, and not. -/
theorem test_meets_launchRecords :
    let s := ringed 1
    Table.find s.queues s.input.slot = some { ring := 0x300000, k := 4, head := 15, expect := 1 } ∧ s.input.slot < 64
      ∧ (readLocal s 0 0x300F00 256 0).toOption.map (fun b => b.1.getD 255 0) = some 1 ∧ unowned s 0x300FFE = true
      ∧ s.fw.ready = true ∧ ({ s with fw := { s.fw with ready := false } } : State).fw.ready = false
      ∧ (readLocal (ringed 2) 0 0x300F00 256 0).toOption.map (fun b => b.1.getD 255 0) = some 1 := by decide +kernel

/-- The launch parsed and not yet admitted, the device ready. -/
def parsedLaunch : Launch := { launch0 with phase := .parsed, mask := 0 }
def waitingFor (l : Launch) : State :=
  { poke st 0x8000 48 poolImage with launches := [l], fw := { st.fw with ready := true }, input := { Input.none with lid := l.lid } }

/-- What the checks of a launch's record answer. -/
inductive Answer where
  | passed (status : Nat) (pool : Bool) (same : Bool)
  | fault (va : BitVec 64)
  | other
  deriving DecidableEq

def answer (l : Launch) : Answer :=
  match checkRecord (waitingFor l) l none with
  | .ok (st, p, s1) => .passed st p.isSome (s1.launch l.lid == some l)
  | .error (.page _ va _) => .fault va
  | .error _ => .other

/-- LaunchAdmission: nothing to admit; a record that passes, one that fails, one whose pool's descriptor is not mapped, one
whose dependence failed. -/
theorem test_meets_launchAdmission :
    let r (x : Nat) : Launch := { parsedLaunch with record := BitVec.ofNat 2048 x }
    let dep := r (record + 2 ^ (8 * 0x53) + 0x80000007 * 2 ^ (8 * 0x60))
    (st.nextAdmitted = none ∧ (waitingFor parsedLaunch).nextAdmitted = some parsedLaunch ∧ answer parsedLaunch = .passed 0 true true
      ∧ parsedLaunch.deps = [] ∧ parsedLaunch.capture = false ∧ parsedLaunch.cls ≠ 0)
    ∧ ((waitingFor (r 0)).nextAdmitted = some (r 0) ∧ answer (r 0) = .passed 1 false true)
    ∧ ((waitingFor (r (record + 0x20000 * 2 ^ (8 * 0x30)))).nextAdmitted = some (r (record + 0x20000 * 2 ^ (8 * 0x30)))
      ∧ answer (r (record + 0x20000 * 2 ^ (8 * 0x30))) = .fault 0x28000
      ∧ ((waitingFor (r (record + 0x20000 * 2 ^ (8 * 0x30)))).ccp 0).faults.length < 128)
    ∧ ((waitingFor dep).nextAdmitted = some dep ∧ answer dep = .passed 0 true true ∧ dep.deps = [0x80000007]
      ∧ ({ waitingFor dep with statuses := [(0x80000007, 1)] } : State).statusOf 0x80000007 ≠ 0) := by decide +kernel

/-- The launch of another record; the pool's descriptor as bytes; the machine with its pool in use. -/
def recordAs (x : Nat) : Launch := { parsedLaunch with record := BitVec.ofNat 2048 x }
def poolBytes : List Byte := toBytes 48 poolImage
def poolBusy (l : Launch) : State := { waitingFor l with pools := [pool0] }

/-- A partition of three core granules; a concurrent grid of more frames than the pool has. -/
def partBad : Launch := recordAs (record - 9 * 2 ^ (8 * 0x4D))
def gridBad : Launch := recordAs (record - 2 ^ (8 * 0x4B))

/-- RecordChecks: a record with fields outside their limits, and records without. -/
theorem test_meets_recordLimits :
    breaksRecord (recordAs 0) ∧ ¬ breaksRecord (recordAs record) ∧ ¬ breaksRecord partBad ∧ ¬ breaksRecord gridBad := by
  refine ⟨?_, ?_, ?_, ?_⟩ <;> unfold breaksRecord <;> decide +kernel

/-- RecordChecks: a pool whose budget exceeds its reserve, a bad partition, a grid without room, and none of these. -/
theorem test_meets_recordPool :
    (breaksPool (recordAs record) (toBytes 48 (poolImage - 2 ^ (8 * 0x18))) ∧ ¬ breaksPool (recordAs record) poolBytes
      ∧ ¬ breaksPool partBad poolBytes ∧ ¬ breaksPool gridBad poolBytes)
    ∧ (breaksPartition partBad ∧ ¬ breaksPartition (recordAs record) ∧ ¬ breaksPartition gridBad)
    ∧ breaksConcurrent (waitingFor gridBad) gridBad poolBytes
    ∧ ¬ breaksConcurrent (waitingFor (recordAs record)) (recordAs record) poolBytes := by
  refine ⟨⟨?_, ?_, ?_, ?_⟩, ⟨?_, ?_, ?_⟩, ?_, ?_⟩ <;> simp only [breaksPool, breaksPartition, breaksConcurrent] <;> decide +kernel

/-- RecordChecks: the descriptor is read; a pool that serves a live launch, and none; the statuses of the records above. -/
theorem test_meets_recordChecks :
    ((readRange (waitingFor (recordAs record)) 0 1 0x8000 48).toOption.map (·.1)) = some poolBytes
      ∧ (poolBusy (recordAs record)).pool 1 0x8000 = some pool0 ∧ pool0.launch = some 0x80000001
      ∧ (waitingFor (recordAs record)).pool 1 0x8000 = none ∧ fieldOf (recordAs record) 0x30 8 < 2 ^ 56
      ∧ 2 ^ 56 ≤ fieldOf (recordAs (record + 2 ^ (8 * 0x37))) 0x30 8
      ∧ answer partBad = .passed 3 false true ∧ answer gridBad = .passed 4 false true := by decide +kernel

/-- The launch's machine with its input, its next block and its blocks. -/
def grid (l : Launch) (bs : List Block) : State :=
  { stL with launches := [l], blocks := bs, input := { Input.none with lid := 0x80000001 } }

/-- BlockPlacement: free places, and none, the launch confined to cluster 0 with 192-core blocks. -/
theorem test_meets_blockPlacement :
    let wide : Launch := { launch0 with record := BitVec.ofNat 2048 (record + 191 * 2 ^ (8 * 0x4A)), mask := 1, nextBlock := 1 }
    launchIs (grid launch0 []) launch0 .admitted ∧ launch0.nextBlock < launch0.blocks ∧ 0 ∈ permitted (grid launch0 []) launch0
      ∧ (grid launch0 []).freePlaces launch0 0 ≠ [] ∧ launchIs (grid wide [block0]) wide .admitted ∧ wide.nextBlock < wide.blocks
      ∧ permitted (grid wide [block0]) wide = [0] ∧ (grid wide [block0]).freePlaces wide 0 = [] := by
  simp only [launchIs]
  decide +kernel

/-- The block with one wave yet to come, a free slot in the pool. -/
def block1 : Block := { block0 with created := 1 }
def free1 : PoolSlot := { gen := 4, pend := 0, live := false, freed := 0 }
def pool1 : Pool := { pool0 with slots := pool0.slots ++ [(1, free1)] }
def growing : State := { grid launch0 [block1] with pools := [pool1], nextWave := 3 }

/-- WaveCreation: a wave to create; no free slot; the budget exceeded by one line. -/
theorem test_meets_waveCreation :
    launchIs growing launch0 .admitted ∧ growing.block growing.input.lid growing.input.blk = some block1
      ∧ growing.creatable launch0 block1 = 1 ∧ growing.pool launch0.asid launch0.poolDesc = some pool1
      ∧ pool1.freeSlots = [(1, free1)] ∧ freshFrame growing launch0.asid (pool1.frame 1).toNat (2 * 2 ^ 37 + 0x210000) = true
      ∧ launch0.f 0x18 8 = 0 ∧ (∀ w, w ∈ growing.waves → w.id ≠ growing.nextWave) ∧ growing.requests = []
      ∧ launch0.capture = false ∧ launch0.cls ≠ 0 ∧ block1.created < launch0.wpb
      ∧ growing.reaches (growing.dieOf 0) (homeDie (pool1.frame 1).toNat) = true
      ∧ pool0.freeSlots = [] ∧ ({ grid launch0 [block1] with pools := [pool0] } : State).creatable launch0 block1 = 0
      ∧ (95 : BitVec 64).toNat < pool0.rused.toNat + launch0.regs := by
  simp only [launchIs]
  decide +kernel

/-- BlockStartAndEnd: a block to start without chords and with a bad one; one that has started; one to end on its last core
and on the first of two, and one with waves. -/
theorem test_meets_blockStartAndEnd :
    let b : Block := { block0 with started := [] }
    let l : Launch := { launch0 with record := BitVec.ofNat 2048 (record + 2 ^ (8 * 0x52) + 0x14000 * 2 ^ (8 * 0x10)) }
    let two : Launch := { launch0 with record := BitVec.ofNat 2048 (record + 2 ^ (8 * 0x4A)) }
    let done (l : Launch) : State := { grid l [block0] with w := Wave.blank, others := [] }
    launchIs (grid launch0 [b]) launch0 .admitted ∧ (grid launch0 [b]).block 0x80000001 0 = some b
      ∧ (grid launch0 [b]).startable launch0 b 0 = true ∧ launch0.f 0x52 1 = 0 ∧ (grid launch0 [block0]).startable launch0 block0 0 = false
      ∧ (grid l [b]).startable l b 0 = true
      ∧ (setChords 0 l (List.range (min 32 (l.f 0x52 1))) (grid l [b])).toOption.map (fun x => (x.1, x.2.launch 0x80000001)) = some (false, some l)
      ∧ (grid launch0 [block0]).endable launch0 block0 0 = false ∧ (done launch0).endable launch0 block0 0 = true
      ∧ ((done launch0).core 0).chordsOf launch0.lid = [] ∧ coreSet launch0 block0 = [0]
      ∧ (done two).endable two block0 0 = true ∧ coreSet two block0 = [0, 1] ∧ 1 ∉ block0.ended := by
  simp only [launchIs]
  decide +kernel

/-- The wave at the end of its stream. -/
def ended : State := { stLW (fun w => { w with spc := 0 }) with input := { Input.none with wave := 1 } }

/-- WaveRetirement: with a live child and with none. -/
theorem test_meets_waveRetirement :
    let s : State := { ended with launches := [launch0, { launch0 with lid := 0x80000009, parent := some 1 }] }
    finished s = true ∧ s.childless 1 = false ∧ s.w.inChain = false ∧ s.w.place = .origin
      ∧ finished ended = true ∧ ended.childless 1 = true ∧ ended.pool 1 0x8000 = some pool0
      ∧ Table.find pool0.slots ended.w.slot = some { gen := 0, pend := 0, live := true, freed := 0 }
      ∧ ended.block 0x80000001 0 = some block0 ∧ growers ended pool0 = [] := by decide +kernel

/-- The launch drained: its blocks placed and gone, no wave left. -/
def drained (l : Launch) : State := { grid l [] with w := Wave.blank, others := [] }

/-- GridCompletion: a launch with waves; a drained one that writes its record, with IRQ from its queue; one whose COMPL is not
aligned. -/
theorem test_meets_gridCompletion :
    let l : Launch := { launch0 with nextBlock := 2, queue := some 3, record := BitVec.ofNat 2048 (record + 2 * 2 ^ (8 * 0x5B)) }
    let bad : Launch := { launch0 with ending := true, record := BitVec.ofNat 2048 (record + 2 ^ (8 * 0x38)) }
    (grid launch0 [block0]).launch 0x80000001 = some launch0 ∧ (grid launch0 [block0]).drained launch0 = false
      ∧ (drained l).launch 0x80000001 = some l ∧ completing (drained l) l = true
      ∧ lineHits (drained l) l.asid l.compl 32 0x201000 = true ∧ l.f 0x5B 1 / 2 % 2 = 1
      ∧ (drained bad).launch 0x80000001 = some bad ∧ (drained bad).drained bad = true ∧ bad.complOk = false ∧ bad.capture = false
      ∧ (drained bad).awaits (.launch bad.lid) = false ∧ (drained bad).waves.all (fun w => !(w.id != 0 && w.lid == bad.lid)) = true
      ∧ (drained bad).cores.all (fun p => (p.2.chordsOf bad.lid).isEmpty) = true := by decide +kernel

/-- The launch stalled since time 5: its two waves wait at a barrier, at package time `t`. -/
def stalledAt (t : Nat) : State :=
  let l : Launch := { launch0 with stalledAt := some 5, nextBlock := 2 }
  let s := grid l [block0]
  let f (w : Wave) : Wave := { w with residency := .waiting, wait := some (.barrier 3 0) }
  { s with w := { f s.w with id := 7, lid := 0 }, others := (s.others.map f) ++ [f { s.w with id := 3 }]
           dies := [(0, { s.die 0 with ptc := BitVec.ofNat 64 t })] }

/-- The launch's wave waits for registers: more than any budget admits, or as many as the reserve holds. -/
def locked (need : Nat) : State :=
  let s := grid launch0 [block0]
  { s with w := { s.w with residency := .waiting, wait := some (.grow need false) }
           others := s.others.map (fun w => { w with residency := .waiting, wait := some (.barrier 3 0) })
           pools := [{ pool0 with rres := 1000 }] }

/-- LaunchDetectors: one tick before the time and at it; a pool deadlock whose request the reserve covers exactly, and one it
does not. -/
theorem test_meets_launchDetectors :
    let l : Launch := { launch0 with stalledAt := some 5, nextBlock := 2 }
    (grid launch0 []).launch 0x80000001 = some launch0 ∧ launch0.stalledAt = none ∧ (stalledAt 1000005).launch 0x80000001 = some l
      ∧ ((stalledAt 1000004).die 0).ptc.toNat < 5 + 1000000 ∧ (stalledAt 1000005).stallHolds l = true
      ∧ 5 + 1000000 ≤ ((stalledAt 1000005).die 0).ptc.toNat
      ∧ (stalledAt 1000005).others.map (fun w => (w.id, w.atBarrier)) = [(2, true), (3, true)]
      ∧ ((stalledAt 1000005).waves.map (·.id)).Nodup ∧ (∀ w, w ∈ (stalledAt 1000005).waves → w.inhandler = false)
      ∧ (grid launch0 []).deadlocked launch0 = false ∧ (locked 745).deadlocked launch0 = true
      ∧ (locked 745).pool launch0.asid launch0.poolDesc = some { pool0 with rres := 1000 }
      ∧ (growers (locked 745) { pool0 with rres := 1000 }).map (·.2) = [(1, 745)] ∧ (1000 : Nat) - pool0.rbud.toNat < 745
      ∧ (locked 744).deadlocked launch0 = true ∧ 744 ≤ (1000 : Nat) - pool0.rbud.toNat ∧ (locked 745).w.id = 1
      ∧ (locked 745).others.all (fun w => w.id != 1) = true := by decide +kernel

/-- What a completion record's write answers. -/
def recordWrites (s : State) (l : Launch) : Bool :=
  match writeRange s 0 l.asid l.compl (recordBytes l (s.die 0).ptc.toNat) with
  | .ok _ => true
  | .error _ => false

/-- A buffer one byte short of a granule's image. -/
def capShort : State := { cap with mem := Sparse.setList cap.mem (2 * 2 ^ 37 + 0x200000) (toBytes 8 (0x1200 + 131135)) }

/-- DeviceStepsComplete: a wave at its end and one that its launch's end stopped; a drained launch with its record and without; a
stalled launch whose wave waits at a barrier, and one whose wave does not; a pool whose oldest request fits and one whose youngest
fails; a buffer that is full. -/
theorem test_meets_deviceStepsComplete :
    let l : Launch := { launch0 with nextBlock := 2 }
    let bad : Launch := { launch0 with ending := true, record := BitVec.ofNat 2048 (record + 2 ^ (8 * 0x38)) }
    let stop : State := ended.onW (fun w => { w with spc := 4, residency := .retired })
    let at_ (t : Nat) : State := { stalledAt t with w := { (stalledAt t).w with id := 1, lid := 0x80000001 } }
    let need (n : Nat) : State := { locked n with w := { (locked n).w with wait := some (.grow n false) } }
    (ended.w.id = ended.input.wave ∧ ended.w.id ≠ 0 ∧ ended.childless ended.w.id = true ∧ ended.w.atEnd = true
      ∧ stop.w.residency = .retired ∧ stop.childless stop.w.id = true ∧ stop.w.id = stop.input.wave)
    ∧ ((drained l).launch 0x80000001 = some l ∧ (drained l).drained l = true ∧ (drained l).awaits (.launch l.lid) = false
      ∧ l.complOk = true ∧ recordWrites (drained l) l = true ∧ bad.complOk = false ∧ (drained bad).drained bad = true)
    ∧ ((at_ 1000005).launch 0x80000001 = some { launch0 with stalledAt := some 5, nextBlock := 2 }
      ∧ (at_ 1000005).stallHolds { launch0 with stalledAt := some 5, nextBlock := 2 } = true
      ∧ 5 + 1000000 ≤ ((at_ 1000005).die 0).ptc.toNat ∧ (at_ 1000005).w.id ≠ 0 ∧ (at_ 1000005).w.atBarrier = true
      ∧ ((at_ 1000005).waves.map (·.id)).Nodup ∧ (∀ w, w ∈ (at_ 1000005).waves → w.inhandler = false)
      ∧ (at_ 1000005).w.lid = launch0.lid ∧ (stalledAt 1000005).w.lid ≠ launch0.lid)
    ∧ (growers (need 744) { pool0 with rres := 1000 } = growers (locked 744) { pool0 with rres := 1000 }
      ∧ (growers (need 744) { pool0 with rres := 1000 }).map (·.2) = [(1, 744)] ∧ (need 745).w.id = 1
      ∧ (need 745).w.wait = some (.grow 745 false) ∧ (need 745).deadlocked launch0 = true)
    ∧ (capShort.launch capShort.input.lid = some capturing ∧ captureExempt capShort capturing 0 = false
      ∧ ((readRange capShort 0 1 (capturing.f 0x70 8) 8).toOption.map (fun x => ofBytes x.1)) = some (0x1200 + 131135)
      ∧ Table.find capShort.fw.traces 1 = none) := by decide +kernel

/-- R365: the record is queue 0's first; the head wraps and ACK holds the sequence value. -/
theorem test_step_launchRecord :
    let t := after .launchRecordParse (ringed 1)
    t.launches.map (fun l => (l.lid, l.prio)) = [(0, 3)] ∧ t.cell 0x300FFE = 1
      ∧ Table.find t.queues 0 = some { ring := 0x300000, k := 4, head := 0, expect := 2 } := by decide +kernel

/-- R371: the second wave's index and entry address. -/
theorem test_step_waveCreation :
    let t := after .waveCreation growing
    (t.wave 3).map (fun w => (w.widx, w.spc, Sparse.get w.sreg 6, w.frame, w.gen)) = some (1, 0x10000, 1, 0x50000, 5)
      ∧ t.pools.map (·.rused) = [96] := by decide +kernel

/-- R368: the status and the identifier in the completion record. -/
theorem test_step_completion :
    let l : Launch := { launch0 with ending := true, status := 6 }
    let t := after .gridCompletion (drained l)
    memNumber t 0x201000 8 = 0x8000000100000006 ∧ t.launch 0x80000001 = none ∧ t.statusOf 0x80000001 = 6 := by decide +kernel

/-! ### Residency, and what comes due in a wave: hypotheses met -/

/-- The wave of the launch's machine altered, named by the input, at cycle 65,536. -/
def due (f : Wave → Wave) : State :=
  { stLW f with input := { Input.none with wave := 1 }, now := 65536 }

/-- A ready and a swapped wave without an entry. -/
def readyW : State := (due (fun w => { w with residency := .ready })).setCore 0 { core0 with activeWaves := [] }
def swappedW : State := (due (fun w => { w with residency := .swapped, swapped := true })).setCore 0 { core0 with activeWaves := [] }

/-- WaveActivation: the next in turn, ready or swapped, and one that is not; an entry held one cycle short of its time and for
all of it, in and outside a latch chain; a switch ordered. -/
theorem test_meets_waveActivation :
    let held := due id
    let chained := due (fun w => { w with split := [(0, { root with chain := 3 })] })
    let early : State := { held with now := 65535 }
    let ordered := due (fun w => { w with switching := true })
    (readyW.w.id = readyW.input.wave ∧ readyW.w.id ≠ 0 ∧ readyW.activable readyW.w = true ∧ noBudget readyW = true
      ∧ swappedW.activable swappedW.w = true ∧ noBudget swappedW = true ∧ frameReads readyW = true ∧ frameReads swappedW = true
      ∧ swappedW.w.swapped = true ∧ readyW.w.swapped = false ∧ held.activable held.w = false)
    ∧ (early.now < early.w.since + 65536 ∧ held.w.residency = .active ∧ (held.core 0).activeWaves.contains 1 = true
      ∧ held.w.switching = false ∧ held.w.since + 65536 ≤ held.now ∧ held.waitingFor 0 0x80000001 ≠ [] ∧ held.w.place = .origin
      ∧ held.w.inChain = false ∧ held.w.wait = none ∧ chained.w.inChain = true ∧ chained.waitingFor 0 0x80000001 ≠ [])
    ∧ (ordered.w.switching = true ∧ ordered.w.inChain = false ∧ ordered.w.residency = .active) := by decide +kernel

/-- A second launch with a ready wave on core 0, behind the first. -/
def launchB : Launch := { launch0 with lid := 0x80000002 }
def twoLaunches (now : Nat) : State :=
  { stL with launches := [launch0, launchB], now := now
             others := [{ wave with id := 5, lid := 0x80000002, residency := .ready, frame := 0x50000 }] }

/-- The pair idle, the launch about to take it. -/
def idlePair (c : Core) : State :=
  { readyW with cores := [(0, c), (1, c)] }

/-- BankSwitches: an empty rotation and one of a launch; a slice that is over and one that is not; a switch that is due and
one that is not. -/
theorem test_meets_bankSwitches :
    let c : Core := { Core.empty with shadow := some 0x80000001, preloaded := true, zeroed := [0x80000001] }
    let s := idlePair c
    let busy (n : Nat) : State := { twoLaunches n with cores := [(0, { core0 with shadow := some 0x80000002, preloaded := true })] }
    let stale : State := { twoLaunches 0 with cores := [(0, { core0 with shadow := some 0x80000001, preloaded := true })] }
    let alone : State := { idlePair { c with shadowWaves := [1] } with cores := [(0, { c with shadowWaves := [1] }), (1, c)], others := [] }
    let away : State := { swappedW with cores := [], others := [] }
    (stL.rotationOf 0 = [] ∧ (idlePair Core.empty).rotationOf 0 = [launch0] ∧ ((idlePair Core.empty).core 0).preloaded = false
      ∧ ((idlePair Core.empty).core 0).departing = [] ∧ ((idlePair Core.empty).core 1).departing = []
      ∧ ∀ g, g ∈ [0, 1] → ∀ w, w ∈ (idlePair Core.empty).runnable g launch0.lid → w.residency = .ready)
    ∧ (away.rotationOf 0 = [launch0] ∧ away.runnable 0 launch0.lid = [away.w] ∧ away.runnable 1 launch0.lid = []
      ∧ away.w.residency = .swapped ∧ away.w.swapped = true ∧ frameReads away = true)
    ∧ ((stale.core 0).shadow = some 0x80000001 ∧ stale.launch 0x80000001 = some launch0
      ∧ (stale.rotationOf 0).head?.map (·.lid) ≠ some 0x80000001)
    ∧ (alone.mayTake 0 launch0 = true ∧ alone.switchDue 0 = true ∧ (alone.core 0).shadowWaves = [alone.w.id] ∧ alone.others = []
      ∧ (alone.core 1).shadowWaves = [] ∧ alone.waitingFor 0 0x80000001 = [alone.w] ∧ alone.w.residency = .ready
      ∧ alone.w.lid = 0x80000001 ∧ alone.w.core.toNat = 0 ∧ alone.clockReached alone.w 0 = true ∧ alone.w.swapped = false
      ∧ noBudget alone = true ∧ ∀ g, g ∈ [0, 1] → alone.awaits (.spill g) = false ∧ easyArrival alone launch0 g = true
        ∧ (alone.core g).active = none)
    ∧ ((twoLaunches 0).rotationOf 0 = [launchB] ∧ ((twoLaunches 0).core 0).active = some 0x80000001
      ∧ (twoLaunches 0).launch 0x80000001 = some launch0 ∧ 0 + 65536 * (launch0.prio + 1) ≤ (twoLaunches 262144).now
      ∧ (twoLaunches 262143).now < 0 + 65536 * (launch0.prio + 1) ∧ (twoLaunches 0).busyPair 0 = true ∧ launchB.prio ≤ launch0.prio)
    ∧ ((Core.empty).preloaded = false ∧ ((busy 0).core 0).shadow = some 0x80000002 ∧ (busy 0).launch 0x80000002 = some launchB
      ∧ (busy 0).switchDue 0 = false)
    ∧ ((s.core 0).shadow = some 0x80000001 ∧ s.launch 0x80000001 = some launch0 ∧ (s.core 1).preloaded = true
      ∧ (s.core 1).shadow = some 0x80000001 ∧ s.mayTake 0 launch0 = true ∧ (s.core 0).shadowWaves = []
      ∧ (s.core 0).active = none ∧ (s.core 1).active = none ∧ s.switchDue 0 = true ∧ s.awaits (.spill 0) = false ∧ s.awaits (.spill 1) = false
      ∧ easyArrival s launch0 0 = true ∧ easyArrival s launch0 1 = true) := by decide +kernel

/-- BankSwitches: the preload has nothing to save, on empty shadow banks and on those of the launch itself; the register-cache lines fit the
partition. -/
theorem test_meets_bankRoom :
    let c : Core := { Core.empty with shadow := some 0x80000001 }
    ((idlePair Core.empty).core 0).shadow = none ∧ ((idlePair c).core 1).shadow = some launch0.lid
      ∧ (({ swappedW with cores := [] } : State).core 1).shadow = none
      ∧ ((idlePair c).cache 0).rc.length ≤ 128 * recField launch0.record 0x4D 1
      ∧ ((idlePair c).cache 1).rc.length ≤ 128 * recField launch0.record 0x4D 1 := by decide +kernel

/-- BankSwitches, the spill engine: the last wave of the departing launch. -/
theorem test_meets_spillWriteback :
    let s : State := { (readyW.setCore 0 { Core.empty with spill := some 0x80000001 }) with others := [] }
    (s.core s.input.core).spill = some 0x80000001 ∧ s.launch 0x80000001 = some launch0 ∧ s.awaits (.spill 0) = false
      ∧ (s.pair 0).queue = [] ∧ launch0.accGran = 0 ∧ (s.core 0).chordsOf 0x80000001 = [] ∧ (s.core 0).active = none
      ∧ s.w.lid = 0x80000001 ∧ s.w.core.toNat = 0 ∧ s.w.id ≠ 0 ∧ s.w.place = .origin ∧ s.w.residency = .ready
      ∧ frameAt s (2 * 2 ^ 37 + 0x200000) 0 = true ∧ (stL.core 0).spill = none := by decide +kernel

/-- An access that ends in a page fault. -/
def pageFails {α : Type} (x : Except AccFail α) : Bool :=
  match x with
  | .error (.page _ _ _) => true
  | _ => false

/-- FrameFills: a mapped frame and one that is not; the last register, slot and entry. -/
theorem test_meets_frameFills :
    let s := due id
    let lost := due (fun w => { w with frame := 0x60000 })
    let bare : State := { s with caches := [] }
    let full := due (fun w => { w with splitCache := List.range 16 })
    s.w.id = s.input.wave ∧ s.w.id ≠ 0 ∧ s.w.residency = .active ∧ (s.ccp 0).faults.length < 128 ∧ 63 < s.w.regcnt
      ∧ (framePlace s s.w).toOption.map (·.1) = some (2 * 2 ^ 37 + 0x200000, 0) ∧ pageFails (framePlace lost lost.w) = true
      ∧ (∀ x, x ∈ [FrameLine.main 0, .main 63, .main 256, .main 263, .operand 0, .operand 15] →
          s.present s.w x = true ∧ bare.present bare.w x = false
          ∧ bare.badSector (2 * 2 ^ 37 + 0x200000 + x.offset) 128 0 = none
          ∧ ((bare.cache 0).list x).length < bare.lineRoom bare.w x)
      ∧ (8 * (263 - 256) < s.w.regcnt) ∧ full.w.splitCache.length = 16 ∧ full.w.splitCache.contains 31 = false
      ∧ full.w.splitCache.contains 0 = true ∧ full.w.splitCache.all (fun y => decide (y < 32)) = true
      ∧ frameAt full (2 * 2 ^ 37 + 0x200000) 0 = true ∧ bare.w.splitCache.length < 16
      ∧ bare.badSector (2 * 2 ^ 37 + 0x200000 + 0x9D00 + 32 * 31) 32 0 = none
      ∧ ({ lost with caches := [] } : State).victimHeld lost.w (.main 0) = false ∧ ({ lost with caches := [] } : State).present lost.w (.main 0) = false
      ∧ ({ lost with caches := [] } : State).victimHeld lost.w (.operand 15) = false
      ∧ lost.w.place = .origin ∧ lost.w.core.toNat < 192 := by decide +kernel

/-- A wave in transit to core 768 of B2, with none in its slots, and one on its way home. -/
def bound (t : Option (BitVec 13)) : State := { due (fun w => { w with place := .transit, residency := .ready, target := t }) with input := { Input.none with wave := 1, core := 768 } }
/-- A wave in a landing slot of core 768 while another is bound for its die. -/
def landed (f : Wave → Wave) : State :=
  { due (fun w => f { w with place := .landing false, core := 768 }) with
    others := [{ wave with id := 2, residency := .ready, place := .transit, target := some 768 }] }

/-- LandingSlots. -/
theorem test_meets_landingSlots :
    let s := bound (some 768)
    let full := (s.setCore 768 { Core.empty with landing := [1, 2] })
    let full : State := { full with w := { full.w with place := .landing false }, others := [{ wave with id := 2, place := .landing true }] }
    ((bound none).w.place = .transit ∧ (bound none).w.canRun = true ∧ (bound none).w.target = none)
    ∧ (full.w.target = some 768 ∧ full.freeLanding 768 = none)
    ∧ (s.w.place = .transit ∧ s.w.canRun = true ∧ s.w.target = some 768 ∧ s.freeLanding 768 = some false ∧ s.dieOf 768 = s.dieOf (768 : BitVec 13).toNat
      ∧ (s.bound (s.dieOf 768)).head? = some s.w ∧ s.clockReached s.w 768 = true ∧ noBudget s = true
      ∧ frameReads (movedTo s 768) = true)
    ∧ ((landed id).w.place = .landing false ∧ (landed id).w.residency = .active ∧ (landed id).w.switching = false
      ∧ (landed id).w.since + 65536 ≤ (landed id).now ∧ (landed id).wanted ((landed id).dieOf (landed id).w.core.toNat) 1 = true
      ∧ ({ landed id with others := (landed id).others.map (fun w => { w with residency := .waiting, wait := some (.spin 0) }) } : State).wanted
          ((landed id).dieOf (landed id).w.core.toNat) 1 = true
      ∧ ({ landed id with others := [] } : State).wanted ((landed id).dieOf (landed id).w.core.toNat) 1 = false
      ∧ (landed id).w.inChain = false ∧ (landed id).w.wait = none ∧ frameAt (landed id) (2 * 2 ^ 37 + 0x200000) 0 = true
      ∧ (landed (fun w => { w with split := [(0, { root with chain := 1 })] })).w.inChain = true) := by decide +kernel

/-- A lane block that has yet to start. -/
def yet : LaneBlock := { pc := 0x10010, k := [], fmt := 5, started := false }

/-- LaneBlockStart: with lanes in m0 and with none; one that has started. -/
theorem test_meets_laneBlockStart :
    let s (m : Sparse 32) := due (fun w => { w with lq := [yet], m := m })
    (s [(0, 5)]).w.residency = .active ∧ (s [(0, 5)]).w.lq = [yet] ∧ yet.started = false ∧ (s [(0, 5)]).w.rm 0 ≠ 0 ∧ (s []).w.rm 0 = 0
      ∧ yet.pc.toNat < 2 ^ 56 ∧ yet.pc.toNat % 4 = 0 ∧ ({ yet with started := true } : LaneBlock).started = true := by decide +kernel

/-- SelectorAndWaits: SPIN's wait one cycle short and over; a stream ready for 63 and for 64 cycles; a grid barrier whose unit
keeps no record, with its phase the same and changed. -/
theorem test_meets_selectorAndWaits :
    let sp (x : Nat) := due (fun w => { w with wait := some (.spin x), residency := .waiting })
    let ag (x : Nat) := due (fun w => { w with age := x })
    let lane (x : Nat) : State := due (fun w => { w with lq := ln.w.lq, split := [(0, { root with age := x })] })
    let g (p : BitVec 32) : State := { (stG 0).onW (fun w => { w with wait := some (.grid 0x13000 p), residency := .waiting }) with
      input := { Input.none with wave := 1 } }
    ((sp 65537).now < 65537 ∧ 65536 ≤ (sp 65536).now ∧ (sp 65536).w.wait = some (.spin 65536))
    ∧ ((ag 65472).input.index = 0 ∧ mayIssue (ag 65472).w false 0 = true ∧ (ag 65472).w.age + 64 ≤ (ag 65472).now
      ∧ (ag 65473).now < (ag 65473).w.age + 64)
    ∧ (mayIssue (lane 65472).w true 0 = true ∧ Table.find (lane 65472).w.split 0 = some { root with age := 65472 }
      ∧ 65472 + 64 ≤ (lane 65472).now ∧ (lane 65473).now < 65473 + 64)
    ∧ ((g 7).unrecorded (g 7).w = true ∧ (g 7).w.id = (g 7).input.wave
      ∧ (gridObject (g 7) 0x13000).toOption = some (some { pa := 0x213000, key := 0, bytes := toBytes 16 (recOf [(0, 2), (8, 7)]), bad := none }, stateOf (g 7) (gridObject (g 7) 0x13000))
      ∧ (stateOf (g 7) (gridObject (g 7) 0x13000)).w = (g 7).w
      ∧ gridField (toBytes 16 (recOf [(0, 2), (8, 7)])) 8 = 7 ∧ (7 : BitVec 32) ≠ 6) := by decide +kernel

/-- Fragments 0 and 1 wait for split entries, 0 the longer; all the others but one are waiting parents. -/
def starved (f : Wave → Wave) : State := due (fun w => f { w with
  lq := ln.w.lq
  split := (0, { root with entryWait := some 3 }) :: (1, { root with entryWait := some 5 })
    :: (List.range 29).map (fun n => (n + 2, { root with state := .waiting })) })

/-- WaveTimers: fragment 0 has waited longest. -/
theorem test_meets_waitsLongest : waitsLongest (starved id).w 0 3 { root with entryWait := some 3 } := by
  have h : ∀ p, p ∈ (starved id).w.split → p.2.state ≠ .waiting →
      p.2.entryWait = some (p.2.entryWait.getD 0) ∧ (p.1 = 0 ∨ 3 < p.2.entryWait.getD 0) := by decide +kernel
  exact ⟨by decide +kernel, by decide +kernel, by decide +kernel, by decide +kernel, rfl, fun g x hx hs => ⟨_, h (g, x) hx hs⟩⟩

/-- WaveTimers: each event at its time, before it, inside and outside a handler. -/
theorem test_meets_waveTimers :
    let h : Handler := { frag := none, stop := false, nr := false, since := 0 }
    let held := starved (fun w => { w with inhandler := true, handler := some h })
    let halt : State := { due (fun w => { w with haltlatch := true }) with dies := [(0, { Die.empty with ptc := 1000000 })],
                                                                            launches := [{ launch0 with debugger := true }] }
    let dl (x : BitVec 64) := due (fun w => { w with deadline := x })
    let late : State := { dl 5 with dies := [(0, { Die.empty with ptc := 5 })] }
    let soon : State := { dl 6 with dies := [(0, { Die.empty with ptc := 5 })] }
    let stage (n : BitVec 64) := due (fun w => { w with budget := 100, stagecnt := n })
    let smp (n : BitVec 64) := due (fun w => { w with dbgctl := 0x20, wclk := n })
    (held.w.residency = .active ∧ held.w.split = (starved id).w.split ∧ root.state ≠ .waiting
      ∧ held.w.inhandler = true ∧ held.w.handler = some h ∧ h.frag ≠ some 0 ∧ (starved id).w.inhandler = false
      ∧ ln.w.split.any (fun p => p.2.state != .waiting && p.2.entryWait.isNone) = true
      ∧ (freePair held.w.split).isNone = true ∧ (freePair (starved id).w.split).isNone = true
      ∧ (freePair ln.w.split).isSome = true)
    ∧ (halt.w.haltlatch = true ∧ halt.w.haltAt + 1000000 ≤ (halt.ptcOf 0).toNat ∧ halt.w.handler.bind (·.frag) = none
      ∧ halt.w.swapped = false ∧ frameAt halt (2 * 2 ^ 37 + 0x200000) 0 = true
      ∧ halt.launch 0x80000001 = some { launch0 with debugger := true } ∧ Table.find halt.fw.traces 1 = none ∧ st.w.haltlatch = false)
    ∧ (timerDue late = true ∧ timerDue soon = false ∧ late.w.inhandler = false ∧ late.w.residency = .active)
    ∧ (stageDue (stage 101).w = true ∧ stageDue (stage 100).w = false ∧ sampleDue (smp 8192).w = true ∧ sampleDue (smp 8191).w = false) := by
  decide +kernel

/-- R106: the block's root fragment has m0's lanes and starts at the block's address. -/
theorem test_step_laneBlockStart :
    let t := after .laneBlockStart (due (fun w => { w with lq := [yet], m := [(0, 5)], lbase := 0x10000 }))
    t.w.split.map (fun p => (p.1, p.2.lmask, p.2.fmtc, t.w.laneAddr p.2.lpc)) = [(0, 5, 5, 0x10010)] := by decide +kernel

/-- R84: the activated wave holds the core's one entry. -/
theorem test_step_activation :
    let t := after .waveActivation readyW
    t.w.residency = .active ∧ (t.core 0).activeWaves = [1] ∧ (after .voluntarySwitch (due (fun w => { w with switching := true }))).w.residency = .ready := by
  decide +kernel

/-- R416: TIMER is taken once the deadline has passed, and DEADLINE is disarmed. -/
theorem test_step_deadline :
    let s : State := { due (fun w => { w with deadline := 5, trapbase := 0x10000 }) with dies := [(0, { (st.die 0) with ptc := 5 })] }
    (after .deadlineExpiry s).w.deadline = 0 ∧ (after .deadlineExpiry s).w.trapcause.toNat % 256 = 0x0B := by decide +kernel

/-! ### Firmware, links, time, power, the outside world: hypotheses met -/

/-- The device brought up, a command with operands at hand. -/
def up (i : Input) : State := { st with fw := { st.fw with ready := true, step := 6, barUp := true, supplied := true }, input := i }

/-- The same with a command's slot at the head of the ring, its code and the tag 77. -/
def cmd (code : Nat) (i : Input) : State :=
  { up i with fw := { (up i).fw with slots := [(0, { body := BitVec.ofNat 1024 (code + 77 * 2 ^ 32), seq := 1 })] } }

/-- The same with the launch. -/
def upL (i : Input) : State := { up i with launches := [launch0] }

/-- Commands: each is ready in its slot; none before READY, in an empty slot, while a page move or a warm reset runs. -/
theorem test_meets_commandReady :
    (∀ p, p ∈ commandCode → commandReady (cmd p.2 Input.none) p.1 = true)
      ∧ (∀ p, p ∈ commandCode → commandReady (up Input.none) p.1 = false ∧ commandReady st p.1 = false)
      ∧ commandReady { cmd 1 Input.none with dies := [(0, { Die.empty with locks := [(0, 131072)] })] } .query = false
      ∧ commandReady { cmd 1 Input.none with fw := { (cmd 1 Input.none).fw with warm := true } } .query = false := by decide +kernel

/-- FirmwareCommands: a code that is listed, one that is not, and a reserved byte set; a cap at each end of its range and beyond. -/
theorem test_meets_firmwareCommands :
    commandOffered (cmd 1 Input.none) = true ∧ (commandCode.map (·.2)).contains (codeGiven (cmd 1 Input.none)) = true
      ∧ commandOffered (cmd 3 Input.none) = true ∧ (commandCode.map (·.2)).contains (codeGiven (cmd 3 Input.none)) = false
      ∧ (commandCode.map (·.2)).contains (codeGiven (cmd 0x10001 Input.none)) = false ∧ commandOffered (up Input.none) = false
      ∧ isCommand .query
      ∧ 600 ≤ (up { Input.none with watts := 600 }).input.watts ∧ (up { Input.none with watts := 1800 }).input.watts ≤ 1800
      ∧ (up { Input.none with watts := 599 }).input.watts < 600 ∧ 1800 < (up { Input.none with watts := 1801 }).input.watts := by
  refine ⟨by decide +kernel, by decide +kernel, by decide +kernel, by decide +kernel, by decide +kernel, by decide +kernel,
    by simp [isCommand], by decide +kernel⟩

/-- AddressSpaceCommands: each check at its boundary; a live address space and one that is free; a key slot in use, loaded and
empty. -/
theorem test_meets_addressSpaceCommands :
    let a (n : BitVec 16) (x : BitVec 64) : Input := { Input.none with asid := n, addr := x }
    let used : State := { up { Input.none with slot := 63 } with mem := Sparse.setList st.mem 0x120000 (toBytes 8 (0x200007 + 63 * 2 ^ 56)) }
    let bare : State := { up { Input.none with slot := 1 } with fw := { (up Input.none).fw with asids := [], keys := [(1, 9)] } }
    ((a 0 0).asid = 0 ∧ (a 1 0x18000).addr.toNat % 65536 ≠ 0 ∧ 0x8000000000 ≤ (a 1 0x8000000000).addr.toNat
      ∧ (a 2 0x7FFFFF0000).asid ≠ 0 ∧ (a 2 0x7FFFFF0000).addr.toNat % 65536 = 0 ∧ (a 2 0x7FFFFF0000).addr.toNat < 0x8000000000)
    ∧ ((upL (a 1 0)).liveAsid 1 = true ∧ (up (a 1 0)).liveAsid 1 = false ∧ (up (a 2 0)).liveAsid 2 = false
      ∧ Table.find (up (a 2 0)).fw.asids 2 = none ∧ (Table.find (up (a 1 0)).fw.asids 1).isSome = true
      ∧ (0x3FFFFF : BitVec 32).toNat < 2 ^ 22 ∧ 2 ^ 22 ≤ (0x400000 : BitVec 32).toNat)
    ∧ (used.keyInUse 63 = true ∧ bare.keyInUse 1 = false ∧ Table.find bare.fw.keys 1 ≠ none
      ∧ Table.find (up Input.none).fw.keys 1 = none
      ∧ Table.find ({ used with fw := { used.fw with keys := [(63, 9)] } } : State).fw.keys 63 ≠ none) := by
  decide +kernel

/-- PageMoves: page 0 to the next frame of its home; a frame of another home, and one that is not aligned; a page that is not
there. -/
theorem test_meets_pageMoves :
    let i : Input := { Input.none with asid := 1, va := 0x12000, addr := 0x220000 }
    walk (cmd 0x16 i) 1 0x12000 = .ok (page 0 0x200000) ∧ movable (cmd 0x16 i) (page 0 0x200000) 0x220000 = true ∧ i.write = false
      ∧ movable (cmd 0x16 { i with write := true }) (page 0 0x200000) 0x220000 = true
      ∧ walk (cmd 0x16 i) 1 0x20000 = .error .notPresent ∧ bits (2 ^ 37) 38 37 ≠ homeDie 0 ∧ 0x230000 % 131072 ≠ 0
      ∧ ((cmd 0x16 i).badSector 0x200000 131072 0).isNone = true := by decide +kernel

/-- The wave's state can be read from its frame. -/
def readsFrame (s : State) : Bool :=
  match reload s s.w with
  | .ok _ => true
  | .error _ => false

/-- A halted wave of the launch, in debug mode. -/
def haltedW : State :=
  { upL Input.none with
    w := { wave with residency := .parked, parkc := .debugHalt, trapcause := 0x0000020000000000, swapped := true }
    launches := [{ launch0 with debugger := true }], blocks := [{ block0 with halted := true }]
    input := { Input.none with lid := 0x80000001 } }

/-- A machine about to configure a queue. -/
def ring (slot k : Nat) (x : BitVec 64) : State := up { Input.none with slot := slot, k := k, addr := x }

/-- LaunchCommands: a ring at each limit and beyond it. -/
theorem test_meets_queuecfg :
    (badRing (ring 64 4 0) ∧ badRing (ring 0 3 0) ∧ badRing (ring 0 13 0) ∧ badRing (ring 0 4 0x80))
      ∧ badRing (ring 0 12 (2 ^ 37 - 256 * 4095)) ∧ ¬badRing (ring 63 12 (2 ^ 37 - 256 * 4096)) ∧ ¬badRing (ring 63 4 0) := by
  refine ⟨⟨.inl ?_, .inr (.inl ?_), .inr (.inr (.inl ?_)), .inr (.inr (.inr (.inl ?_)))⟩, .inr (.inr (.inr (.inr ?_))), ?_, ?_⟩
  all_goals first
    | decide +kernel
    | (simp only [badRing, not_or]; decide +kernel)

/-- LaunchCommands: a queue with a parsed launch; a launch and none; a pool named and not; a wave to
halt and one halted. -/
theorem test_meets_launchCommands :
    let busy : State := { ring 63 4 0 with launches := [{ launch0 with queue := some 63, phase := .parsed }] }
    let named : State := { upL { Input.none with asid := 1, va := 0x8000, frames := [(0, 0x300000, 1)] } with pools := [pool0] }
    let h : State := { haltedW with w := { haltedW.w with residency := .active, parkc := .none, trapcause := 0, swapped := false } }
    (busy.launches.any (fun l => l.queue == some 63 && l.phase == .parsed) = true ∧ (up Input.none).launch 0 = none
      ∧ (upL { Input.none with lid := 0x80000001 }).launch 0x80000001 = some launch0 ∧ launch0.ending = false
      ∧ st.w.lid = 0x80000001 ∧ st.w.trapcause.getLsbD 41 = false
      ∧ framesOk named named.input.frames = true ∧ named.pool 1 0x8000 = some pool0
      ∧ named.launches.any (fun l => l.phase != .completed && l.asid == 1 && l.poolDesc == 0x8000) = true
      ∧ ({ named with launches := [] } : State).launches.any (fun l => l.phase != .completed) = false
      ∧ (Table.find named.fw.asids 1).isSome = true ∧ Table.find named.fw.asids 2 = none ∧ named.pool 1 0x9000 = none)
    ∧ (h.w.place = .origin ∧ h.launch 0x80000001 = some { launch0 with debugger := true } ∧ h.block 0x80000001 0 = some { block0 with halted := true }
      ∧ h.w.lid = 0x80000001 ∧ h.w.blk = 0 ∧ Table.find h.fw.traces 1 = none ∧ h.w.id ≠ 0 ∧ h.others = [] ∧ h.w.residency = .active
      ∧ h.w.trapcause.getLsbD 41 = false ∧ haltedW.w.residency = .parked ∧ haltedW.w.parkc = .debugHalt ∧ haltedW.w.wait = none
      ∧ h.w.swapped = false ∧ frameAt h (2 * 2 ^ 37 + 0x200000) 0 = true ∧ haltedW.w.swapped = true ∧ readsFrame haltedW = true
      ∧ haltedW.w.trapcause.getLsbD 41 = true ∧ ({ h with blocks := [block0] } : State).blocks.any (fun b => b.halted) = false) := by
  decide +kernel

/-- A patch image without code, at 0x400000. -/
def patched : State :=
  { up { Input.none with addr := 0x400000, len := 0xD6D } with mem := Sparse.setList st.mem 0x400000 (toBytes 4 0x5441504B) }

/-- ServiceCommands: each check at its boundary; a patch image of the layout and one without.  Whether its signature holds is
left open by the model (a constant with no body): one of the two clauses is met whichever it is. -/
theorem test_meets_serviceCommands :
    ((1023 : Nat) < 1024 ∧ (upL Input.none).live = true ∧ (up Input.none).live = false ∧ (15 : Nat) < 16
      ∧ (0xFFFFFF8000000000 : BitVec 64) &&& 0x00FFFF80FFFFFFFF ≠ 0 ∧ (0xFF00007F00000000 : BitVec 64) &&& 0x00FFFF80FFFFFFFF = 0
      ∧ Table.find (up Input.none).fw.asids 1 ≠ none ∧ Table.find (up Input.none).fw.asids 2 = none
      ∧ 0x7FFFFFF000 % 4096 = 0 ∧ (up Input.none).directory = [])
    ∧ (patchImage (up { Input.none with addr := 0x8000000000, len := 1 }) 0x8000000000 1 = none
      ∧ (patchImage patched 0x400000 0xD6D).map patchOk = some true
      ∧ (patchImage (up Input.none) 0x400000 0xD6D).map patchOk = some false ∧ patched.input.len.toNat ≤ 0x400000 + 0xD6D)
    ∧ ∀ b, patchSigned b = true ∨ patchSigned b = false := by
  refine ⟨by decide +kernel, by decide +kernel, fun b => ?_⟩
  cases patchSigned b <;> simp

/-- CommandsAreAnswered: every command in a machine that takes one; the arguments of DOMAIN, EXPORT, TRACE and ATTEST at the ends of
their ranges; a patch of the layout. -/
theorem test_meets_commandsAreAnswered :
    (∀ i, i ∈ [Instr.domain, .exportEntry, .trace, .attest, .patch] → isCommand i)
      ∧ commandReady (cmd 0x40 { Input.none with index := 1023 }) .domain = true ∧ (up { Input.none with index := 1023 }).live = false
      ∧ (15 : Nat) < 16 ∧ (0xFF00007F00000000 : BitVec 64) &&& 0x00FFFF80FFFFFFFF = 0
      ∧ (Table.find (up Input.none).fw.asids 1).isSome = true ∧ (0xFFFFFFFFFFF000 : BitVec 64).toNat % 4096 = 0
      ∧ (0xFFFFFFFFFFF000 : BitVec 64).toNat < 2 ^ 56 ∧ 0x7FFFFFF000 % 4096 = 0 ∧ 0x7FFFFFF000 < 0x8000000000
      ∧ patched.live = false ∧ (patchImage patched 0x400000 0xD6D).isSome = true := by
  refine ⟨fun i h => ?_, by decide +kernel⟩
  simp only [List.mem_cons, List.not_mem_nil, or_false] at h
  rcases h with rfl | rfl | rfl | rfl | rfl <;> simp [isCommand]

/-- BringUpAndResets: bring-up due and not, at its first step, its third and its last; a step that fails, and one reported at
another step; a warm reset with and without a live launch, offered and waiting. -/
theorem test_meets_bringUpAndResets :
    let due (n : BitVec 4) (f : Option StepFailure) : State :=
      { State.reset with fw := { Fw.reset with due := true, step := n }, input := { Input.none with fail := f } }
    let warm : State := { cmd 2 Input.none with fw := { (cmd 2 Input.none).fw with warm := true } }
    let five : Option StepFailure := some { step := 5, die := 2 }
    ((due 0 none).fw.due = true ∧ (due 0 none).live = false ∧ (due 0 none).input.fail = none ∧ (due 3 five).input.fail = five
      ∧ [0, 1, 2, 2, 3, 4, 5].getD (5 : BitVec 4).toNat 0 = 4 ∧ (due 3 five).fw.step.toNat + 1 = 4 ∧ (due 0 five).fw.step.toNat + 1 ≠ 4
      ∧ (due 2 none).fw.step.toNat = 2 ∧ (due 4 none).fw.step.toNat = 4 ∧ (due 5 none).fw.step.toNat = 5
      ∧ (due 0 none).fw.ready = false ∧ ({ due 0 none with launches := [launch0] } : State).live = true)
    ∧ ((cmd 2 Input.none).fw.warm = false ∧ commandReady (cmd 2 Input.none) .resetWarm = true ∧ (cmd 2 Input.none).live = false
      ∧ commandReady (up Input.none) .resetWarm = false ∧ warm.fw.ready = true ∧ warm.fw.barUp = true
      ∧ (upL Input.none).live = true ∧ commandReady (cmd 2 Input.none) .resetFull = true ∧ (up Input.none).fw.supplied = true
      ∧ (up Input.none).input.die < 4) := by decide +kernel

/-- A page-fault record of the parked wave. -/
def faultOf (code : BitVec 8) : FaultRecord :=
  { code := code, access := 0, agent := 0, second := false, prot := false, core := 0, asid := 1, time := 0, vaddr := 0x12000,
    frame := 0x40000, pc := 0x10000, lmask := 0, gen := 0, detail := 0, paddr := 0, wave := 0, frag := none, who := .wave 1 }

/-- The wave parked for a cause, the record at control processor 0. -/
def parked (c : ParkCause) (f : Ccp) (i : Input) : State :=
  { st with w := { wave with residency := .parked, parkc := c, swapped := true }, ccps := [(0, f)], dies := [], input := i }

/-- The wave can be read afresh from its frame, where no handler runs and no halt stands. -/
def readable (s : State) : Bool :=
  match reload s s.w with
  | .ok (w, _) => !w.halted && !w.inhandler
  | .error _ => false

/-- A parked wave that stands in a readable frame. -/
theorem parked_for {s : State} {c : ParkCause} (h : readable s = true) (hp : s.w.residency = .parked ∧ s.w.parkc = c
    ∧ s.w.wait = none ∧ s.w.place = .origin ∧ s.w.halted = false ∧ s.w.id ≠ 0 ∧ s.w.swapped = true) : ∃ w u, parkedFor s c w u := by
  obtain ⟨h1, h2, h3, h0, h4, h5, h6⟩ := hp
  unfold readable at h
  split at h
  · rename_i w u hr
    simp only [Bool.and_eq_true, Bool.not_eq_true'] at h
    exact ⟨w, u, h1, h2, h3, h0, h4, h.1, h5, h.2, .inr ⟨h6, hr⟩⟩
  · cases h

/-- FaultService: a page fault served and declared fatal; an emulation record without a routine; a firmware call. -/
theorem test_meets_faultService :
    let p := parked .page { Ccp.empty with faults := [faultOf 2] } { Input.none with action := .map [] }
    let e : State := { parked .emu { Ccp.empty with faults := [faultOf 3] } Input.none with dies := st.dies }
    let k : FwCall := { wave := 1, dest := 5, service := 1, arg := 0 }
    let c := parked .fwcall { Ccp.empty with calls := [k] } Input.none
    let u : State := { e.setCcp 0 ((e.ccp 0).without 0) with lane := false }
    let x := stateOf u (fetch u 0x10000 4)
    (∃ w v, parkedFor p .page w v) ∧ (∃ w v, parkedFor x .emu w v) ∧ (∃ w v, parkedFor c .fwcall w v)
    ∧ (oldestRecord p (faultOf 2) [] ∧ oldestRecord e (faultOf 3) [])
    ∧ ((faultOf 2).code = 2 ∧ (faultOf 2).access ≠ 5 ∧ (faultOf 2).who = .wave p.w.id ∧ (faultOf 7).code = 7
      ∧ p.recordVa (faultOf 2) = 0x12000 ∧ p.recordVa { faultOf 2 with vaddr := 0x20000 } = 0x20000
      ∧ (walk p 1 0x20000).toOption = none ∧ (p.die (homeDie 0x12000)).tlb = [] ∧ p.input.action = .map [] ∧ (walk p 1 0x12000).toOption.isSome = true
      ∧ (parked .page { Ccp.empty with faults := [faultOf 2] } Input.none).input.action = .fatal
      ∧ e.fw.feat0 = 0 ∧ (fetch u 0x10000 4).toOption.map (fun x => x.1.length) = some 4
      ∧ (c.ccp 0).calls = [k] ∧ k.wave = c.w.id ∧ k.dest ≠ 0 ∧ (st.ccp 0).faults = [] ∧ (st.ccp 0).calls = []) := by
  refine ⟨parked_for (by decide +kernel) (by decide +kernel), parked_for (by decide +kernel) (by decide +kernel),
    parked_for (by decide +kernel) (by decide +kernel), ⟨⟨by decide +kernel, by decide +kernel⟩, by decide +kernel, by decide +kernel⟩, ?_⟩
  decide +kernel

/-- LinksAndTime: a retrain that succeeds and one that does not, each kind of link; an alignment within the package and with the
reference, with a domain and without; copies within two ticks of one another and further apart; a bound whose link has been down for
1 ms and one tick more. -/
theorem test_meets_linksAndTime :
    let j (b d : Bool) : State :=
      { up { Input.none with index := 3 } with fw := { (up Input.none).fw with joining := b, reference := false, domain := d } }
    let apart (n : BitVec 64) : State := { up Input.none with dies := [(0, { Die.empty with ptc := n })] }
    let lost (n : Nat) (l : LinkId) : State := { up Input.none with now := n, fw := { (up Input.none).fw with downAt := [(l, 5)] } }
    (up { Input.none with retrained := true }).input.retrained = true ∧ Input.none.retrained = false
      ∧ (up { Input.none with link := .port 15 }).input.link = .port 15 ∧ (up Input.none).input.link = .base 0
      ∧ st.fw.step ≠ 6 ∧ (up Input.none).fw.step = 6 ∧ (up { Input.none with index := 2 }).input.index < 3 ∧ (up Input.none).fw.down = []
      ∧ (j true true).launches.any (fun l => l.phase == .admitted) = false
      ∧ ({ j true true with launches := [launch0] } : State).launches.any (fun l => l.phase == .admitted) = true
      ∧ (j true true).fw.joining = true ∧ (j false true).fw.joining = false ∧ (j true true).fw.reference = false
      ∧ (j true false).fw.domain = false ∧ (j true true).fw.domain = true ∧ 3 ≤ (j true true).input.index
      ∧ (∀ a, a < 4 → ∀ b, b < 4 → ((apart 2).die a).ptc.toNat ≤ ((apart 2).die b).ptc.toNat + 2)
      ∧ ((apart 3).die 1).ptc.toNat + 2 < ((apart 3).die 0).ptc.toNat
      ∧ (up Input.none).fw.downAt = [] ∧ (up Input.none).input.reference = false
      ∧ (alignLink 2, 5) ∈ (lost 1000006 (.base 3)).fw.downAt ∧ 5 + 1000000 < (lost 1000006 (.base 3)).now
      ∧ (lost 1000006 (.port 0)).fw.port = 0 ∧ (∀ p, p ∈ (lost 1000005 (.base 3)).fw.downAt → (lost 1000005 (.base 3)).now ≤ p.2 + 1000000) := by
  decide +kernel

/-- PowerAndTemperature: a load at the cap and one watt above, within 1 ms of the cap and after; the peaks at their limits; temperatures
at 100 and 110 °C and a degree to either side; the two forms. -/
theorem test_meets_powerAndTemperature :
    let w (n : BitVec 64) : State := up { Input.none with t1 := n, t2 := 0, t3 := 0 }
    let cap := (up Input.none).fw.cap
    min (w 1).fw.cap ((w 1).fw.boardCap.getD (w 1).fw.cap) < (w (BitVec.ofNat 64 (cap + 1))).input.t1.toNat
      ∧ (w (BitVec.ofNat 64 cap)).input.t1.toNat ≤ min (w 1).fw.cap ((w 1).fw.boardCap.getD (w 1).fw.cap)
      ∧ (w 1).now ≤ (w 1).fw.capAt + 1000000
      ∧ ({ w 1 with now := 1000001 } : State).fw.capAt + 1000000 < ({ w 1 with now := 1000001 } : State).now
      ∧ 3600 ≤ (up { Input.none with amps := 3600 }).input.amps ∧ 3222 < (up { Input.none with amps := 3223 }).input.amps
      ∧ (up Input.none).fw.railLimit = false ∧ 100 < (up { Input.none with temp := 101 }).input.temp
      ∧ (up { Input.none with temp := 99 }).input.temp < 100 ∧ 110 < (up { Input.none with temp := 111 }).input.temp
      ∧ (up { Input.none with temp := 110 }).input.temp ≤ 110 ∧ (up Input.none).fw.form = false ∧ (up Input.none).fw.step = 6
      ∧ (up Input.none).input.die < 4 ∧ (up Input.none).fw.hot = false ∧ (up Input.none).live = false
      ∧ (upL Input.none).live = true := by decide +kernel

/-- OutsideAccesses: a host access at the last bytes of memory and one beyond; an export entry that takes writes, one that
does not, and none. -/
theorem test_meets_outsideAccesses :
    let h (a : BitVec 64) (x : HostAccess) : State := up { Input.none with addr := a, access := x }
    let e (v : BitVec 64) : State := { h 0x400000000100 (.write [1, 2]) with fw := { (up Input.none).fw with exports := [(0, v)] } }
    let add : HostAccess := .atomic 0 0 4 1 0
    (plainPlace (h 0x7FFFFFFFF8 (.read 8)) 0x7FFFFFFFF8 8 0 = true ∧ (h 0x7FFFFFFFF8 (.read 8)).reaches 0 3 = true
      ∧ (h 0 (.read 8)).keyLoaded 0 = true ∧ 2 ^ 39 < 0x7FFFFFFFF8 + accessLen (.read 9) ∧ (h 0 (.read 8)).keyLoaded 5 = false
      ∧ bits 0x7FFFFFFFF8 38 37 = 3 ∧ accessLen add = 4 ∧ (h 0 (.read 8)).input.bar = false
      ∧ (up { Input.none with bar := true, access := .write [7] }).input.bar = true ∧ (up Input.none).fw.barUp = true ∧ st.fw.barUp = false)
    ∧ (isPackage 0x400000000100 = true ∧ (e 0).remote 0 0x400000000100 = .error
      ∧ (e 0xC000000000000000).remote 0 0x400000000100 = .here 0x100 0 true
      ∧ (e 0x8000000000000000).remote 0 0x400000000100 = .here 0x100 0 false ∧ (e 0).fw.down.contains (.port (e 0).input.port) = false
      ∧ plainPlace (e 0xC000000000000000) 0x100 2 0 = true ∧ (e 0).input.port.toNat / 4 = 0 ∧ (e 0).reaches 0 0 = true ∧ (e 0).fw.supplied = true) := by decide +kernel

/-- R452, R439: a cap is set and answered 0 with the command's tag; one too low is answered 1; a code of no command too. -/
theorem test_step_powercap :
    let i : Input := { Input.none with watts := 900 }
    let t := after .powercap (cmd 0x80 i)
    t.fw.cap = 900 ∧ (Table.find t.fw.responses 0).map (fun r => (r.status, r.tag, r.done)) = some (0, 77, 1) ∧ t.fw.cmdHead = 1
      ∧ (Table.find (after .powercap (cmd 0x80 { i with watts := 599 })).fw.responses 0).map (·.status) = some 1
      ∧ (Table.find (after .invalidCommand (cmd 0x81000080 i)).fw.responses 0).map (·.status) = some 1 := by decide +kernel

/-- R438, R439: the host reads FWSTAT's STEP and READY in the BAR, and writes a command's sequence value, which it can read back. -/
theorem test_step_bar :
    let at_ (a : BitVec 64) (x : HostAccess) : Input := { Input.none with bar := true, addr := a, access := x }
    let t := after .hostMemoryAccess (up (at_ 0x10FF (.write [1])))
    (Table.find t.fw.slots 0).map (·.seq) = some 1
      ∧ (after .hostMemoryAccess { t with input := at_ 0x10FE (.read 2) }).reply = [(0, false), (1, false)]
      ∧ (after .hostMemoryAccess (up (at_ 8 (.read 1)))).reply = [(0, false)] := by decide +kernel

/-- R438, R443: bring-up sets READY at STEP 6; FWSTAT of a device at reset shows no failing die. -/
theorem test_step_bringUp :
    let t := after .bringUp { State.reset with fw := { Fw.reset with step := 5 } }
    State.reset.fwstat.extractLsb' 0 32 = 0xFF00 ∧ (after .bringUp State.reset).fw.step = 1 ∧ t.fw.ready = true ∧ t.fw.step = 6 := by
  decide +kernel

/-- R296: PGMOVE, left after its first steps, holds page 0 under the lock; a copied byte stands at the new frame. -/
theorem test_step_pgmove :
    let i : Input := { Input.none with asid := 1, va := 0x12000, addr := 0x220000, write := true }
    let s : State := { cmd 0x16 i with mem := (poke st 0x12345 1 0x5A).mem }
    ((after .pgmove s).die 0).locks = [(0x200000, 131072)] ∧ (copyFrame s 0x212000 0x232000 0x400 0).cell 0x232345 = 0x5A := by
  decide +kernel

/-- R454: service 1 answers the cap and the clock; the wave goes on after its call. -/
theorem test_step_fwcall :
    let k : FwCall := { wave := 1, dest := 5, service := 3, arg := 0 }
    let t := after .fwcallService (parked .fwcall { Ccp.empty with calls := [k] } Input.none)
    t.rs 5 = BitVec.allOnes 64 ∧ t.w.spc = 4 ∧ t.w.residency = .ready := by decide +kernel

/-! ### Encodings, steps, the whole machine: hypotheses met -/

/-- A machine about to issue the wave's scalar stream, or its fragment 0. -/
def about (s : State) (lane : Bool) : State := { s with agenda := [.issue 1 lane 0 false], lane := false }

/-- The scalar word `add s3, s4, s5`, a pair, and the lane word of `vpmad2` where their streams stand. -/
def oneWord : State := about (poke st 0x10000 4 0x08310500) false
def pairWord2 : State := about (poke st 0x10000 8 0x0C70389A0448D159) false
def laneWord : State := about (poke lw 0x10000 12 0x10C500100805008100000000) true

/-- The words of `n` bytes that stand at an address and behind it, fetched one after the other. -/
def words4 (s : State) (n : Nat) : List Addr → List (Option Nat)
  | [] => []
  | a :: rest => match fetch s a n with
    | .ok (b, t) => some (ofBytes b) :: words4 t n rest
    | .error _ => [none]

/-- What a step sees of the stream: whether its boundary lets it go on, and the words at some addresses. -/
def seen (s : State) (pcs : List Addr) (n : Nat) : Option (Bool × List (Option Nat)) :=
  match s.agenda with
  | .issue w lane f d :: rest =>
    (State.focus { s with agenda := rest } w).map (fun v =>
      let u : State := { v with lane := lane, frag := f, defer := d, stalled := false }
      ((match boundary u with | .go => true | _ => false), words4 u.refers n pcs))
  | _ => none

/-- StepRunsDecoded: each kind of instruction; outside debug mode nothing is logged. -/
theorem test_meets_stepRunsDecoded :
    seen oneWord [0x10000] 4 = some (true, [some 0x08310500]) ∧ 0x08310500 / 2 ^ 26 ≠ 1
      ∧ seen pairWord2 [0x10000, 0x10004] 4 = some (true, [some 0x0448D159, some 0x0C70389A]) ∧ 0x0448D159 / 2 ^ 26 = 1
      ∧ seen laneWord [lw.w.laneAddr lw.entry.lpc] 12 = some (true, [some 0x10C500100805008100000000])
      ∧ logs oneWord oneWord = false := by decide +kernel

/-- EncodeDecode: a well-formed instruction with an encoding of each kind; a lane word, a scalar word and a pair that are one. -/
theorem test_meets_encodeDecode :
    (Instr.add 3 4 5).wf = true ∧ encode (.add 3 4 5) = some (.scalar 0x08310500)
      ∧ (Instr.longImmediatePrefix 0x048D159 0x0C70389A).wf = true
      ∧ encode (.longImmediatePrefix 0x048D159 0x0C70389A) = some (.pair 0x0448D159 0x0C70389A)
      ∧ (decodeLane 0x10C500100805008100000000).wf = true ∧ (decodeScalar 0x08310500 0).wf = true
      ∧ fieldMajor 0x0448D159 = 1 ∧ (decodeScalar 0x0448D159 0x0C70389A).wf = true := by decide +kernel

/-- MemoryCanonical: memory in its canonical form, and a step. -/
theorem test_meets_memoryCanonical :
    Memory.wf State.reset = true ∧ Memory.wf oneWord = true
      ∧ (match step oneWord with | .next _ => true | _ => false) = true
      ∧ (match step State.reset with | .next _ => true | _ => false) = true := by decide +kernel

/-- R188, R115: the step of the word adds s4 and s5 into s3 and moves past it. -/
theorem test_step_add :
    (match step oneWord with | .next t => some (t.rs 3, t.w.spc) | _ => none) = some (0x12003, 0x10004) := by decide +kernel

/-- A word placed where the next step fetches it runs as the first instruction after reset, scalar, pair or lane. -/
theorem test_step_withFetchWord :
    decodeTableWord 32 0x0C500005 = some (.addi 5 0 5) ∧ decodeTableWord 96 0 = some (.illegalInstruction (.lane 0))
      ∧ (match step (State.reset.withFetchWord 32 0x0C500005) with | .next t => some (t.rs 5) | _ => none) = some 5
      ∧ (match step (State.reset.withFetchWord 96 0x7040C0000000000000000000) with
        | .next t => some (t.w.rv 3 31) | _ => none) = some 31 := by decide +kernel

end Sys2Proof.Tests
end

/-!
# Every step keeps memory in its canonical form (O57)

Memory's form is the invariant `Memory.wf`: the five sparse maps of the state are each canonical.  `Memory.Kept s t`
says that `t` has the form whenever `s` has it; it is reflexive and transitive, and an update of fields outside memory
has it for nothing.  The lemmas below follow the model: one for each function that gives a next state, in the order of
the definitions, with the function's own branches as its cases and the lemmas of its callees as the steps.

* `f_kept : Memory.Kept s (f s …)` for a function that always gives a state;
* `f_kept (e : f s … = .ok t) : Memory.Kept s t` for one that may fail;
* `f_kept : Memory.KeptOut s (f … s)` for one whose result is an outcome of a step;
* a function that takes a continuation has a hypothesis that the continuation keeps the form.

A recursion over a list is an induction on that list, a fold goes through `Memory.Kept.foldl`.  At the top stand
`exec_kept` (one instruction or event), `runInstr_kept` (with its undo log), `issue_kept` and `step_kept`.
-/

namespace Sys2Proof.Machine

set_option autoImplicit true
set_option relaxedAutoImplicit true

/- One lemma after another: lemmas elaborated at once wait for each other's equation lemmas, each in a thread with a
stack of its own, and the check limits the memory that these may take. -/
set_option Elab.async false

variable {s t : State} {w : Wave}

/-- An outcome that goes on keeps memory's form. -/
def Memory.KeptOut (s : State) : Out → Prop
  | .next t => Memory.Kept s t
  | _ => True

theorem Memory.Kept.transOut {o : Out} (h : Memory.Kept s t) (g : Memory.KeptOut t o) : Memory.KeptOut s o := by
  cases o with
  | next u => exact h.trans g
  | fault r => exact g
  | refused r => exact g

theorem Memory.KeptOut.next {o : Out} (h : Memory.KeptOut s o) (e : o = .next t) : Memory.Kept s t := by
  subst e; exact h

/-- An update of fields outside memory, after an operation that keeps memory's form. -/
theorem Memory.Kept.update (h : Memory.Kept s t) :
    Memory.Kept s { t with
      w := w', others := others', lane := lane', frag := frag', stalled := stalled', agenda := agenda', input :=
      input', now := now', seq := seq', free := free', defer := defer', nextWave := nextWave', peers := peers', cores
      := cores', caches := caches', dies := dies', directory := directory', waiters := waiters', requests :=
      requests', ccps := ccps', launches := launches', statuses := statuses', lost := lost', children := children',
      parsed := parsed', queues := queues', pools := pools', blocks := blocks', engines := engines', pairs := pairs',
      fw := fw', msix := msix', reply := reply', replyError := replyError' } := h

/-- An update of fields outside memory, before an operation that keeps memory's form. -/
theorem Memory.Kept.of_update (h : Memory.Kept { s with
      w := w', others := others', lane := lane', frag := frag', stalled := stalled', agenda := agenda', input :=
      input', now := now', seq := seq', free := free', defer := defer', nextWave := nextWave', peers := peers', cores
      := cores', caches := caches', dies := dies', directory := directory', waiters := waiters', requests :=
      requests', ccps := ccps', launches := launches', statuses := statuses', lost := lost', children := children',
      parsed := parsed', queues := queues', pools := pools', blocks := blocks', engines := engines', pairs := pairs',
      fw := fw', msix := msix', reply := reply', replyError := replyError' } t) : Memory.Kept s t := h

theorem Memory.Kept.foldr {α : Type} (f : α → State → State) (hf : ∀ a s, Memory.Kept s (f a s)) (l : List α) :
    Memory.Kept s (l.foldr f s) := by
  induction l with
  | nil => exact Memory.Kept.refl _
  | cons a l ih => exact ih.trans (hf a _)

theorem State.setDie_kept : Memory.Kept s (s.setDie b d) := Memory.Kept.of_eq

/-- Steps over a state and a value that goes with it. -/
theorem Memory.Kept.foldlPair {α β : Type} (f : State × β → α → State × β) (hf : ∀ p a, Memory.Kept p.1 (f p a).1)
    (l : List α) (s : State) (b : β) : Memory.Kept s (l.foldl f (s, b)).1 := by
  induction l generalizing s b with
  | nil => exact Memory.Kept.refl _
  | cons a l ih => exact (hf (s, b) a).trans (ih _ _)

/-- A state that may be there, or the one before. -/
theorem Memory.Kept.getD {o : Option State} (h : ∀ {t}, o = some t → Memory.Kept s t) : Memory.Kept s (o.getD s) := by
  cases o with
  | none => exact Memory.Kept.refl _
  | some t => exact h rfl

theorem Memory.Kept.mapGetD {o : Option State} {f : State → State} (h : ∀ {t}, o = some t → Memory.Kept s (f t)) :
    Memory.Kept s ((o.map f).getD s) := by
  cases o with
  | none => exact Memory.Kept.refl _
  | some t => exact h rfl


theorem Memory.Kept.ite {c : Prop} [Decidable c] (h : Memory.Kept s t) (g : Memory.Kept s u) :
    Memory.Kept s (if c then t else u) := by
  split
  · exact h
  · exact g

/-- A step taken only under a condition. -/
theorem Memory.Kept.thenIf {c : Prop} [Decidable c] (h : Memory.Kept s t) (g : Memory.Kept t u) :
    Memory.Kept s (if c then u else t) := .ite (h.trans g) h

/-- A step left out under a condition. -/
theorem Memory.Kept.unlessIf {c : Prop} [Decidable c] (h : Memory.Kept s t) (g : Memory.Kept t u) :
    Memory.Kept s (if c then t else u) := .ite h (h.trans g)

/-! ### Registers (`Machine/Regs.lean`) -/

theorem State.focus_kept (e : s.focus i = some t) : Memory.Kept s t := by
  unfold State.focus at e
  split at e
  · cases e; exact Memory.Kept.refl _
  · split at e
    · cases e
    · dsimp only at e
      cases e; exact Memory.Kept.of_eq

theorem State.setS_kept : Memory.Kept s (s.setS d v) := by
  unfold State.setS
  split
  · exact Memory.Kept.refl _
  · exact Memory.Kept.of_eq

theorem State.advance_kept : Memory.Kept s (s.advance len) := Memory.Kept.of_eq

theorem State.setPair_kept : Memory.Kept s (s.setPair q p) := Memory.Kept.of_eq

theorem State.spend_kept : Memory.Kept s s.spend := Memory.Kept.of_eq

/-! ### Homes and translation (`Machine/Pages.lean`) -/

theorem State.takeFrame_kept : Memory.Kept s (s.takeFrame p f who) := Memory.Kept.of_eq

/-! ### Memory at the homes (`Machine/Memory.lean`) -/

/-- A line dropped after its last use: a byte that HBM holds otherwise is marked (R299). -/
theorem dropHome_kept : Memory.Kept s (dropHome s line) := by
  unfold dropHome
  dsimp only
  split
  · exact Memory.Kept.refl _
  · refine ((Memory.Reads.maps s s.directory id id (fun h => Sparse.wf_foldl _ (fun m i hm => ?_) _ _ h) id id).trans
      (Memory.Reads.setDie _ _ _)).1
    split
    · exact hm
    · exact Sparse.wf_set _ _ _ hm

theorem captureTouchFor_kept : Memory.Kept s (captureTouch s lid va w) := by
  unfold captureTouch
  split
  · exact Memory.Kept.refl _
  · dsimp only
    split
    · exact Memory.Kept.refl _
    · split
      · exact Memory.Kept.refl _
      · split
        all_goals
          split
          · exact ((writeOr_writes ..).1.trans (onLaunch_kept _ _ _)).trans (traceRecord_writes ..).1
          · split
            · exact Memory.Kept.refl _
            · rename_i hr
              exact ((((readRange_reads hr).1.trans (writeOr_writes ..).1).trans (writeOr_writes ..).1).trans
                (writeOr_writes ..).1).trans (onLaunch_kept _ _ _)

/-! ### The local store (`Machine/Stash.lean`) -/

theorem elemSettled_kept (e : elemSettled s asid c o = .ok t) : Memory.Kept s t := by
  unfold elemSettled at e
  split at e
  · cases e; exact Memory.Kept.refl _
  · split at e
    · cases e
    · split at e
      · cases e
      · cases e; exact (translate_reads ‹_›).1.trans (translate_reads ‹_›).1

theorem fillByte_kept (e : fillByte s g asid c o = .ok (x, t)) : Memory.Kept s t := by
  unfold fillByte at e
  dsimp only at e
  split at e
  · cases e; exact Memory.Kept.refl _
  · split at e
    · cases e
    · split at e
      · cases e
      · split at e
        · split at e
          · cases e
          · cases e; exact (elemSettled_kept ‹_›).trans (readRange_reads ‹_›).1
        · split at e
          · cases e
          · cases e; exact (elemSettled_kept ‹_›).trans (homeRead_reads ‹_›).1

theorem captureChord_kept : Memory.Kept s (captureChord s lid c os) := by
  unfold captureChord
  split
  · exact Memory.Kept.foldl _ (fun s g => captureTouchFor_kept) _ _
  · exact Memory.Kept.refl _

theorem fillBytes_kept : Memory.Kept s (fillBytes g lid asid start l s) := by
  induction l generalizing s with
  | nil =>
    unfold fillBytes
    exact Memory.Kept.refl _
  | cons a l ih =>
    unfold fillBytes
    dsimp only
    split
    · exact ih
    · split
      · exact ih
      · split
        · exact captureChord_kept.trans ih
        · exact ((captureChord_kept.trans (fillByte_kept ‹_›)).trans (State.setCore_kept _ _ _)).trans ih

theorem fillLine_kept : Memory.Kept s (fillLine s g lid asid start line) := fillBytes_kept

theorem stashTouch_kept : Memory.Kept s (stashTouch s g lid asid off n) := by
  unfold stashTouch
  split
  · exact Memory.Kept.refl _
  · dsimp only
    exact Memory.Kept.foldl _ (fun s line => fillLine_kept) _ _

theorem stashRead_kept (e : stashRead s g lid asid off n = .ok (x, t)) : Memory.Kept s t := by
  unfold stashRead at e
  dsimp only at e
  split at e
  · cases e
  · split at e
    · cases e; exact stashTouch_kept
    · split at e <;> cases e

theorem dropCopies_kept : Memory.Kept s (dropCopies s g lid off) := by
  unfold dropCopies
  split
  · split
    · dsimp only
      split
      · exact (dropLine_stores _ _ _ _).1.trans (wakeWrite_writes _ _ _ _ _).1
      · exact (dropLine_stores _ _ _ _).1
    · exact Memory.Kept.refl _
  · exact Memory.Kept.refl _

theorem stashWrite_kept : Memory.Kept s (stashWrite s g lid off bytes) :=
  Memory.Kept.trans (State.setCore_kept _ _ _) (Memory.Kept.foldl _ (fun _ _ => dropCopies_kept) _ _)

theorem backRuns_kept (e : backRuns g asid l s = .ok t) : Memory.Kept s t := by
  induction l generalizing s t with
  | nil =>
    unfold backRuns at e
    cases e; exact Memory.Kept.refl _
  | cons a l ih =>
    unfold backRuns at e
    split at e
    · cases e
    · split at e
      · cases e
      · exact ((homeWrite_writes ‹_›).1.trans (dropLine_stores _ _ _ _).1).trans (ih e)

theorem backGroup_kept (e : backGroup s g asid c o cont = .ok t) : Memory.Kept s t := by
  unfold backGroup at e
  split at e
  · cases e; exact Memory.Kept.refl _
  · dsimp only at e
    split at e
    · cases e
    · exact (writeRange_writes e).1

theorem dropBack_kept : Memory.Kept s (dropBack s g asid c os) := by
  unfold dropBack
  refine Memory.Kept.foldl _ (fun s o => ?_) _ _
  split
  · exact (dropLine_stores _ _ _ _).1
  · exact Memory.Kept.refl _

theorem backGroups_kept (e : backGroups asid c g a0 l s = .ok t) : Memory.Kept s t := by
  induction l generalizing s t with
  | nil =>
    unfold backGroups at e
    cases e; exact Memory.Kept.refl _
  | cons a l ih =>
    unfold backGroups at e
    split at e
    · cases e
    · exact ((backGroup_kept ‹_›).trans dropBack_kept).trans (ih e)

theorem backBytes_kept (e : backBytes asid c g a0 os s = .ok t) : Memory.Kept s t := by
  unfold backBytes at e
  split at e
  · exact backGroups_kept e
  · exact backRuns_kept e

theorem deregister_kept : Memory.Kept s (deregister s g line) := Memory.Kept.of_eq

theorem releaseLine_kept : Memory.Kept s (releaseLine s g line) := deregister_kept.trans (State.setCore_kept _ _ _)

theorem backLine_kept (e : backLine s g lid asid start c line = .ok t) : Memory.Kept s t := by
  unfold backLine at e
  dsimp only at e
  split at e
  · cases e; exact Memory.Kept.refl _
  · split at e
    · cases e
    · cases e; exact ((captureChord_kept.trans deregister_kept).trans (backBytes_kept ‹_›)).trans releaseLine_kept

theorem backLines_kept (e : backLines g lid asid start c l s = (t, x)) : Memory.Kept s t := by
  induction l generalizing s t x with
  | nil =>
    unfold backLines at e
    cases e; exact Memory.Kept.refl _
  | cons a l ih =>
    unfold backLines at e
    split at e
    · cases e; exact Memory.Kept.refl _
    · exact (backLine_kept ‹_›).trans (ih e)

theorem backLossy_kept : Memory.Kept s (backLossy s g lid asid base c).1 := by
  unfold backLossy
  refine Memory.Kept.foldlPair _ (fun p line => ?_) _ _ _
  split
  · exact backLine_kept ‹_›
  · exact Memory.Kept.refl _
  · exact releaseLine_kept

theorem registerBlock_kept : Memory.Kept s (registerBlock s blk g addr key cover) := by
  unfold registerBlock
  dsimp only
  split
  · split
    · exact Memory.Kept.of_eq
    · exact (recallBlock_reads _ _).1.update
  · exact Memory.Kept.of_eq

theorem publishLine_kept (e : publishLine s g lid asid start c line = .ok t) : Memory.Kept s t := by
  unfold publishLine at e
  dsimp only at e
  split at e
  · cases e; exact Memory.Kept.refl _
  · split at e
    · split at e
      · cases e
      · split at e
        · cases e
        · split at e
          · cases e
          · split at e
            · split at e
              · cases e; exact (captureChord_kept.trans (translate_reads ‹_›).1).trans (State.setCore_kept _ _ _)
              · split at e
                · cases e
                · cases e; exact ((((captureChord_kept.trans (translate_reads ‹_›).1).trans registerBlock_kept).trans
                      (State.setCore_kept _ _ _)).trans (dropLine_stores _ _ _ _).1).trans
                      (wakeWrite_writes _ _ _ _ _).1
            · split at e
              · cases e
              · cases e; exact ((captureChord_kept.trans (translate_reads ‹_›).1).trans (backBytes_kept ‹_›)).trans
                    (State.setCore_kept _ _ _)
    · split at e
      · cases e
      · cases e; exact (captureChord_kept.trans (backBytes_kept ‹_›)).trans (State.setCore_kept _ _ _)

theorem publishLines_kept (e : publishLines lid asid start l s = (t, x)) : Memory.Kept s t := by
  induction l generalizing s t x with
  | nil =>
    unfold publishLines at e
    cases e; exact Memory.Kept.refl _
  | cons a l ih =>
    unfold publishLines at e
    split at e
    · cases e; exact Memory.Kept.refl _
    · exact (publishLine_kept ‹_›).trans (ih e)

theorem publish_kept (e : publish s w = (t, x)) : Memory.Kept s t := publishLines_kept e

theorem clearValid_kept : Memory.Kept s (clearValid s g lid) := by
  unfold clearValid
  dsimp only
  split
  · exact Memory.Kept.refl _
  · exact State.setCore_kept _ _ _

/-! ### The context frame (`Machine/Frame.lean`) -/

theorem State.forgetLines_kept : Memory.Kept s (s.forgetLines g w) := by
  unfold State.forgetLines
  dsimp only
  split
  · exact Memory.Kept.refl _
  · exact State.setCache_kept _ _ _

/-! ### Shared operations (`Machine/Ops.lean`) -/

theorem State.takeLatch_kept : Memory.Kept s s.takeLatch := State.takeLatchAt_kept _ _

/-! ### Lines of the frames in a core (`Machine/Lines.lean`) -/

theorem State.trimLines_kept : Memory.Kept s (s.trimLines g room) := by
  unfold State.trimLines
  dsimp only
  split
  · refine Memory.Kept.foldr _ (fun p s => ?_) _
    split
    · exact State.lineHome_kept _ _
    · exact Memory.Kept.refl _
  · refine Memory.Kept.trans ?_ (State.setCache_kept _ _ _)
    refine Memory.Kept.foldr _ (fun p s => ?_) _
    split
    · exact State.lineHome_kept _ _
    · exact Memory.Kept.refl _

theorem State.landLine_kept : Memory.Kept s (s.landLine w v) := by
  unfold State.landLine
  split
  · exact State.useLine_kept _ _ _ _
  · split
    · exact (framePlace_reads ‹_›).1.trans (State.useLine_kept _ _ _ _)
    · exact State.useLine_kept _ _ _ _
    · exact State.lineFault_kept _ _ _ _

theorem State.useEntry_kept : Memory.Kept s (s.useEntry n) := by
  unfold State.useEntry
  dsimp only
  split
  · exact State.onW_kept _ _
  · split
    · exact (State.frameWrite_kept ‹_›).trans (State.onW_kept _ _)
    · exact State.onW_kept _ _
    · exact (State.onW_kept _ _).trans (State.lineFault_kept _ _ _ _)

theorem State.withEntries_kept (h : Memory.Kept s t) : Memory.Kept s (s.withEntries t) := by
  unfold State.withEntries
  dsimp only
  split
  · exact State.frameMiss_kept _ _ _ _ _ (fun u => State.useEntry_kept.trans (State.stall_kept _))
  · exact h.trans (Memory.Kept.foldl _ (fun s i => State.useEntry_kept) _ _)

/-! ### Operand forms (`Machine/Operands.lean`) -/

theorem State.latchWrite_kept : Memory.Kept s (s.latchWrite act f) := State.latchSince_kept _ _ _ _

/-! ### Accesses of a wave (`Machine/Access.lean`) -/

theorem State.onSlot_kept : Memory.Kept s (s.onSlot w f) := Memory.Kept.of_eq

theorem State.expect_kept : Memory.Kept s s.expect := (State.onW_kept _ _).trans State.onSlot_kept

theorem State.send_kept : Memory.Kept s (s.send r) := by
  unfold State.send
  dsimp only
  split
  · exact State.expect_kept.of_update
  · split
    · exact State.expect_kept.of_update
    · exact State.expect_kept.of_update.trans (State.onW_kept _ _)
  · split
    · exact State.expect_kept.of_update
    · exact State.expect_kept.of_update.trans (State.onW_kept _ _)

theorem State.settle_kept (e : s.settle va acc = .ok (x, t)) : Memory.Kept s t := by
  unfold State.settle at e
  split at e
  · cases e
  · split at e
    · cases e
    · split at e
      · dsimp only at e
        split at e
        · split at e
          · cases e; exact (translate_reads ‹_›).1
          · cases e
        · split at e
          · cases e; exact (translate_reads ‹_›).1
          · cases e
        · cases e; exact (translate_reads ‹_›).1
        · split at e
          · cases e; exact (translate_reads ‹_›).1
          · cases e
        · cases e
      · split at e
        · cases e
        · cases e; exact (translate_reads ‹_›).1

theorem State.markLine_kept : Memory.Kept s (s.markLine va) := by
  unfold State.markLine
  split
  · exact State.onW_kept _ _
  · exact Memory.Kept.refl _

theorem State.loadGlobal_kept (e : s.loadGlobal a va n hint dest lanes = .ok (x, t)) : Memory.Kept s t := by
  unfold State.loadGlobal at e
  dsimp only at e
  split at e
  · split at e
    · cases e
    · split at e
      · cases e
      · cases e; exact State.markLine_kept.trans (coreRead_kept ‹_›)
  · split at e
    · cases e
    · cases e; exact ((State.markLine_kept.trans captureTouchFor_kept).trans (State.settle_kept ‹_›)).trans
          State.send_kept

theorem State.useOwn_kept : Memory.Kept s (s.useOwn off) := by
  unfold State.useOwn
  split
  · exact State.useLine_kept _ _ _ _
  · split
    · exact State.useLine_kept _ _ _ _
    · split
      · exact State.useLine_kept _ _ _ _
      · exact Memory.Kept.refl _

theorem State.markStash_kept : Memory.Kept s (s.markStash g off) := by
  unfold State.markStash
  split
  · exact Memory.Kept.refl _
  · split
    · exact Memory.Kept.refl _
    · split
      · exact State.markLine_kept
      · exact Memory.Kept.refl _

theorem State.firstTouch_kept : Memory.Kept s (s.firstTouch u n) := by
  unfold State.firstTouch
  split
  · split
    · exact Memory.Kept.refl _
    · exact stashTouch_kept
  · exact Memory.Kept.refl _

theorem State.loadParts_kept (e : s.loadParts a o l = .ok (x, t)) : Memory.Kept s t := by
  induction l generalizing s t x with
  | nil =>
    unfold State.loadParts at e
    cases e; exact Memory.Kept.refl _
  | cons a l ih =>
    unfold State.loadParts at e
    split at e
    · split at e
      · cases e
      · cases e; exact ih ‹_›
    · split at e
      · cases e
      · split at e
        · cases e
        · cases e; exact (State.loadGlobal_kept ‹_›).trans (ih ‹_›)

theorem State.loadT_kept (e : s.loadT u a n hint dest lanes = .ok (x, t)) : Memory.Kept s t := by
  unfold State.loadT at e
  split at e
  · cases e
  · exact State.loadGlobal_kept e
  · dsimp only at e
    split at e
    · cases e
    · split at e
      · cases e
      · cases e; exact State.markStash_kept.trans (stashRead_kept ‹_›)
  · dsimp only at e
    split at e
    · exact State.loadGlobal_kept e
    · split at e
      · cases e
      · split at e
        · cases e; exact Memory.Kept.refl _
        · split at e
          · cases e
          · cases e; exact ((State.loadParts_kept ‹_›).of_update).update

theorem State.storeGlobal_kept (e : s.storeGlobal a va bytes lanes ep = .ok t) : Memory.Kept s t := by
  unfold State.storeGlobal at e
  split at e
  · split at e
    · cases e
    · split at e
      · cases e
      · cases e; exact coreWrite_kept ‹_›
  · split at e
    · cases e
    · dsimp only at e
      cases e; exact ((captureTouchFor_kept.trans (State.settle_kept ‹_›)).trans
          (coreStored_stores _ _ _ _ _).1).trans State.send_kept

theorem State.viaCluster_kept : Memory.Kept s (s.viaCluster g path) := by
  unfold State.viaCluster
  split
  · exact State.onW_kept _ _
  · exact Memory.Kept.refl _

theorem State.storeRegs_kept : Memory.Kept s (s.storeRegs off bytes) := by
  unfold State.storeRegs
  dsimp only
  refine Memory.Kept.trans ?_ (Memory.Kept.foldl _ (fun s i => ?_) _ _)
  · split
    · exact State.onW_kept _ _
    · exact (State.onW_kept _ _).update
  · exact State.useOwn_kept

theorem State.storePlain_kept (e : s.storePlain a o bytes lanes ep l = .ok t) : Memory.Kept s t := by
  induction l generalizing s t with
  | nil =>
    unfold State.storePlain at e
    cases e; exact Memory.Kept.refl _
  | cons a l ih =>
    unfold State.storePlain at e
    split at e
    · exact ih e
    · split at e
      · cases e
      · exact (State.storeGlobal_kept ‹_›).trans (ih e)

theorem State.storeT_kept (e : s.storeT u a bytes lanes ep = .ok t) : Memory.Kept s t := by
  unfold State.storeT at e
  split at e
  · cases e
  · exact State.storeGlobal_kept e
  · split at e
    · cases e
    · cases e; exact stashWrite_kept.trans State.viaCluster_kept
  · dsimp only at e
    split at e
    · exact State.storeGlobal_kept e
    · split at e
      · cases e
      · split at e
        · cases e
        · split at e
          · cases e
          · cases e
            refine Memory.Kept.trans ?_ (Memory.Kept.foldl _ (fun s p => ?_) _ _)
            · exact State.storePlain_kept ‹_›
            · split
              · exact State.storeRegs_kept
              · exact Memory.Kept.refl _

theorem State.raiseLate_kept : Memory.Kept s (s.raiseLate code addr pc lanes) := by
  unfold State.raiseLate
  dsimp only
  split
  · exact haltWith_kept _ _ _ _
  · exact State.raiseStop_kept _ _

theorem State.failScalar_kept : Memory.Kept s (s.failScalar access u len n) := by
  unfold State.failScalar
  split
  · dsimp only
    split
    · exact ((integrityRecord_kept _ _ _ _).trans State.advance_kept).trans State.raiseLate_kept
    · exact (integrityRecord_kept _ _ _ _).trans (State.trapS_kept _ _ _ _ _)
  · exact State.advance_kept.trans State.raiseLate_kept
  · exact State.failS_kept _ _ _

/-- The accesses of lanes, one after another. -/
theorem eachLane_kept (hp : ∀ s L, Memory.Kept s (prep s L))
    (hf : ∀ {s t : State} {L : Nat} {x : Option Word64}, f s L = .ok (x, t) → Memory.Kept s t)
    (e : eachLane prep f late l s = (x, t)) : Memory.Kept s t := by
  induction l generalizing s x t with
  | nil => cases e; exact Memory.Kept.refl _
  | cons L l ih =>
    unfold eachLane at e
    dsimp only at e
    split at e
    · cases e; exact (hp _ _).trans (ih rfl)
    · cases e; exact ((hp _ _).trans (hf ‹_›)).trans (ih rfl)

theorem State.laneFailTrap_kept : Memory.Kept s (s.laneFailTrap l pc access parks) := by
  unfold State.laneFailTrap
  dsimp only
  split
  · exact Memory.Kept.foldl _ (fun s p => integrityRecord_kept _ _ _ _) _ _
  · split
    · split
      · exact Memory.Kept.foldl _ (fun s p => integrityRecord_kept _ _ _ _) _ _
      · exact Memory.Kept.trans (Memory.Kept.foldl _ (fun s p => integrityRecord_kept _ _ _ _) _ _)
            (State.onW_kept _ _)
    · split
      · split
        · split
          · exact Memory.Kept.trans (Memory.Kept.foldl _ (fun s p => integrityRecord_kept _ _ _ _) _ _)
                (haltWith_kept _ _ _ _)
          · exact Memory.Kept.trans (Memory.Kept.foldl _ (fun s p => integrityRecord_kept _ _ _ _) _ _)
                (State.raiseStop_kept _ _)
        · split
          · exact Memory.Kept.trans (Memory.Kept.trans (Memory.Kept.foldl _ (fun s p => integrityRecord_kept _ _ _ _)
                _ _) (State.onW_kept _ _)) (haltWith_kept _ _ _ _)
          · exact Memory.Kept.trans (Memory.Kept.trans (Memory.Kept.foldl _ (fun s p => integrityRecord_kept _ _ _ _)
                _ _) (State.onW_kept _ _)) (State.raiseStop_kept _ _)
      · refine Memory.Kept.trans ?_ (State.raise_kept _ _)
        split
        · exact Memory.Kept.foldl _ (fun s p => integrityRecord_kept _ _ _ _) _ _
        · exact Memory.Kept.trans (Memory.Kept.foldl _ (fun s p => integrityRecord_kept _ _ _ _) _ _)
              (State.onW_kept _ _)

theorem State.laneMemEnd_kept : Memory.Kept s (s.laneMemEnd l access latch second) := by
  unfold State.laneMemEnd
  dsimp only
  split
  · split
    · exact State.laneNext_kept _ _
    · split
      · exact State.laneFailTrap_kept
      · exact (State.laneNext_kept _ _).trans State.laneFailTrap_kept
  · split
    · exact ((State.setEntry_kept _ _).trans State.laneFailTrap_kept).trans (State.parkPage_kept _ _ _ _ _ _ _)
    · exact (State.setEntry_kept _ _).trans State.laneFailTrap_kept

/-! ### Lane integer instructions (`Machine/LaneInt.lean`) -/

theorem lane1_kept : Memory.KeptOut s (lane1 a rule f s) := State.laneAlu_kept _ _ _ _ _ _

theorem lane2_kept : Memory.KeptOut s (lane2 a rule f s) := State.laneAlu_kept _ _ _ _ _ _

theorem lane3_kept : Memory.KeptOut s (lane3 a rule f s) := State.laneAlu_kept _ _ _ _ _ _

theorem packedWrap_kept : Memory.KeptOut s (packedWrap a rule f s) := lane2_kept

theorem packedSat_kept : Memory.KeptOut s (packedSat a f s) := lane2_kept

/-! ### Lane control (`Machine/LaneFlow.lean`) -/

theorem State.splitTo_kept : Memory.Kept s (s.splitTo u tgt rg call back k l) :=
  (State.laneNext_kept _ _).trans (State.onW_kept _ _)

theorem State.laneBranch_kept (hwr : ∀ u, Memory.Kept u (wr u)) : Memory.Kept s (s.laneBranch imm tg call wr) := by
  unfold State.laneBranch
  dsimp only
  split
  · exact (hwr _).trans (State.laneNext_kept _ _)
  · split
    · split
      · exact State.trapL_kept _ _ _ _ _ _
      · exact ((hwr _).trans (State.laneNext_kept _ _)).trans (State.setEntry_kept _ _)
    · split
      · exact State.trapDecode_kept _ _
      · split
        · exact State.trapL_kept _ _ _ _ _ _
        · split
          · exact (State.setEntry_kept _ _).trans (State.stall_kept _)
          · exact State.withEntries_kept ((hwr _).trans State.splitTo_kept)

theorem execVbrc_kept : Memory.KeptOut s (execVbrc a s) := by
  unfold execVbrc
  refine State.laneBegin_kept _ _ _ _ (fun act => ?_) _
  dsimp only
  exact State.laneBranch_kept (fun u => Memory.Kept.refl _)

theorem execVcall_kept : Memory.KeptOut s (execVcall a s) := by
  unfold execVcall
  refine State.laneBegin_kept _ _ _ _ (fun act => ?_) _
  dsimp only
  split
  · exact State.trapDecode_kept _ _
  · split
    · exact State.trapL_kept _ _ _ _ _ _
    · refine State.laneBranch_kept (fun u => ?_)
      refine Memory.Kept.trans ?_ State.latchWrite_kept
      split
      · exact Memory.Kept.refl _
      · exact (State.setV_kept _ _ _ _).trans (State.sideWrite_kept _ _ _ _ _ _)

theorem execVret_kept : Memory.KeptOut s (execVret a s) := by
  unfold execVret
  refine State.laneBegin_kept _ _ _ _ (fun act => ?_) _
  dsimp only
  split
  · exact State.trapDecode_kept _ _
  · split
    · split
      · exact State.trapL_kept _ _ _ _ _ _
      · exact (State.laneNext_kept _ _).trans (State.setEntry_kept _ _)
    · exact (State.laneNext_kept _ _).trans (State.setEntry_kept _ _)

theorem State.endBlock_kept : Memory.Kept s s.endBlock := by
  unfold State.endBlock
  split
  · exact State.onW_kept _ _
  · exact Memory.Kept.refl _

theorem State.leaveTable_kept : Memory.Kept s (s.leaveTable arr) := (State.onW_kept _ _).trans State.endBlock_kept

theorem execRegang_kept : Memory.KeptOut s (execRegang a s) := by
  unfold execRegang
  dsimp only
  split
  · split
    · exact State.trapDecode_kept _ _
    · exact State.withEntries_kept State.leaveTable_kept
  · exact State.laneNext_kept _ _

theorem execLend_kept : Memory.KeptOut s (execLend a s) := by
  unfold execLend
  split
  · exact State.trapDecode_kept _ _
  · exact State.withEntries_kept State.leaveTable_kept

theorem State.takeItems_kept : Memory.Kept s (s.takeItems a act) := by
  unfold State.takeItems
  dsimp only
  split
  · exact Memory.Kept.refl _
  · exact (((State.setCore_kept _ _ _).trans (State.setV_kept _ _ _ _)).trans (State.latchWords_kept _ _ _ _)).trans
        (State.onW_kept _ _)

theorem State.handed_kept : Memory.Kept s s.handed := by
  unfold State.handed
  split
  · split
    · exact State.takeItems_kept
    · exact Memory.Kept.refl _
  · exact Memory.Kept.refl _

theorem handItems_kept : Memory.Kept s (handItems s g lid) := by
  unfold handItems
  dsimp only
  refine Memory.Kept.update (Memory.Kept.trans (Memory.Kept.foldl _ (fun t x => ?_) _ _)
      (Memory.Kept.getD State.focus_kept))
  split
  · exact (State.focus_kept ‹_›).trans State.handed_kept.of_update
  · exact Memory.Kept.refl _

theorem State.itemNext_kept : Memory.Kept s (s.itemNext a act) := by
  unfold State.itemNext
  dsimp only
  split
  · exact State.trapL_kept _ _ _ _ _ _
  · split
    · split
      · exact (((State.sideWrite_kept _ _ _ _ _ _).trans State.takeItems_kept).trans (State.setEntry_kept _ _)).trans
            (State.laneNext_kept _ _)
      · split
        · exact ((((State.sideWrite_kept _ _ _ _ _ _).trans State.takeItems_kept).trans
              (State.setEntry_kept _ _)).trans (State.stall_kept _)).trans (State.block_kept _ _)
        · exact (((State.sideWrite_kept _ _ _ _ _ _).trans State.takeItems_kept).trans
              (State.setEntry_kept _ _)).trans (State.stall_kept _)
    · split
      · exact (State.takeItems_kept.trans (State.setEntry_kept _ _)).trans (State.laneNext_kept _ _)
      · split
        · exact ((State.takeItems_kept.trans (State.setEntry_kept _ _)).trans (State.stall_kept _)).trans
              (State.block_kept _ _)
        · exact (State.takeItems_kept.trans (State.setEntry_kept _ _)).trans (State.stall_kept _)

theorem State.loadNow_kept (e : s.loadNow a n = .ok (x, t)) : Memory.Kept s t := by
  unfold State.loadNow at e
  dsimp only at e
  split at e
  · cases e
  · cases e; exact ((State.loadT_kept ‹_›).of_update).update

theorem State.storeNow_kept (e : s.storeNow a bytes = .ok t) : Memory.Kept s t := by
  unfold State.storeNow at e
  dsimp only at e
  split at e
  · cases e
  · cases e; exact ((State.storeT_kept ‹_›).of_update).update

theorem State.failLane_kept : Memory.Kept s (s.failLane access a) := by
  unfold State.failLane
  split
  · exact State.parkPage_kept _ _ _ _ _ _ _
  · exact State.trapL_kept _ _ _ _ _ _
  · exact (integrityRecord_kept _ _ _ _).trans (State.trapL_kept _ _ _ _ _ _)
  · exact State.trapL_kept _ _ _ _ _ _
  · exact State.stall_kept _

theorem execVtramp_kept : Memory.KeptOut s (execVtramp a s) := by
  unfold execVtramp
  dsimp only
  split
  · exact State.trapDecode_kept _ _
  · split
    · exact State.trapL_kept _ _ _ _ _ _
    · split
      · exact State.failLane_kept
      · split
        · exact (State.loadNow_kept ‹_›).trans (State.trapL_kept _ _ _ _ _ _)
        · split
          · exact (State.loadNow_kept ‹_›).trans (State.trapL_kept _ _ _ _ _ _)
          · exact ((State.loadNow_kept ‹_›).trans (State.laneNext_kept _ _)).trans (State.setEntry_kept _ _)

theorem State.handlerOver_kept : Memory.Kept s s.handlerOver := State.onW_kept _ _

theorem State.resumed_kept : Memory.Kept s s.resumed := by
  unfold State.resumed
  split
  · exact State.takeLatch_kept
  · exact Memory.Kept.refl _

theorem State.handlerReturn_kept : Memory.Kept s (s.handlerReturn skip lpc) :=
  ((State.setEntry_kept _ _).trans State.handlerOver_kept).trans State.resumed_kept

theorem State.returnTo_kept (hk : ∀ a0, Memory.Kept s (k a0)) : Memory.Kept s (s.returnTo place skip k) := by
  unfold State.returnTo
  dsimp only
  split
  · split
    · exact hk _
    · exact State.trapL_kept _ _ _ _ _ _
  · split
    · exact hk _
    · exact State.trapL_kept _ _ _ _ _ _

theorem execVtret_kept : Memory.KeptOut s (execVtret a s) := by
  unfold execVtret
  dsimp only
  split
  · split
    · exact haltBlock_kept _ _
    · split
      · exact State.trapL_kept _ _ _ _ _ _
      · exact State.returnTo_kept (fun a0 => State.handlerReturn_kept)
  · split
    · exact State.returnTo_kept (fun a0 => (State.laneNext_kept _ _).trans (State.setEntry_kept _ _))
    · exact State.trapL_kept _ _ _ _ _ _

theorem State.setM_kept : Memory.Kept s (s.setM n act v) := State.onW_kept _ _

theorem maskOp_kept : Memory.KeptOut s (maskOp a f s) :=
  State.laneBegin_kept _ _ _ _ (fun _ => State.setM_kept.trans (State.laneNext_kept _ _)) _

theorem execMcnt_kept : Memory.KeptOut s (execMcnt a s) := by
  unfold execMcnt
  refine State.laneBegin_kept _ _ _ _ (fun act => ?_) _
  dsimp only
  refine Memory.Kept.trans ?_ (State.laneNext_kept _ _)
  split
  · exact Memory.Kept.refl _
  · exact State.setS_kept

theorem execMset_kept : Memory.KeptOut s (execMset a s) := by
  unfold execMset
  refine State.laneBegin_kept _ _ _ _ (fun act => ?_) _
  dsimp only
  exact State.setM_kept.trans (State.laneNext_kept _ _)

theorem moveSlot_kept : Memory.Kept s (moveSlot a s) := by
  unfold moveSlot
  refine State.laneBegin_kept _ _ _ _ (fun act => ?_) _
  split
  · exact State.trapL_kept _ _ _ _ _ _
  · dsimp only
    exact ((State.onW_kept _ _).trans State.latchWrite_kept).trans (State.laneNext_kept _ _)

theorem moveWhole_kept : Memory.Kept s (moveWhole a s) := by
  unfold moveWhole
  refine State.laneBegin_kept _ _ _ _ (fun act => ?_) _
  dsimp only
  refine Memory.Kept.trans ?_ (State.laneNext_kept _ _)
  refine Memory.Kept.trans ?_ State.latchWrite_kept
  split
  · exact Memory.Kept.refl _
  · exact (State.setV_kept _ _ _ _).trans (State.setX_kept _ _ _)

theorem execVmov_kept : Memory.KeptOut s (execVmov a s) := by
  unfold execVmov
  split
  · exact moveSlot_kept
  · split
    · exact moveWhole_kept
    · exact lane1_kept

theorem State.namedTrap_kept : Memory.Kept s (s.namedTrap code detail act sw) := by
  unfold State.namedTrap
  split
  · exact State.laneNext_kept _ _
  · exact State.raise_kept _ _

theorem execVbrk_kept : Memory.KeptOut s (execVbrk a s) := by
  unfold execVbrk
  dsimp only
  split
  · exact haltWith_kept _ _ _ _
  · exact State.namedTrap_kept

/-! ### Fetch and boundaries (`Machine/Issue.lean`) -/

theorem tick_kept : Memory.Kept s (tick s) := (State.mapWaves_kept _ _).of_update

theorem fetchPieces_kept (e : fetchPieces s a l = .ok (x, t)) : Memory.Kept s t := by
  induction l generalizing s a t x with
  | nil =>
    unfold fetchPieces at e
    cases e; exact Memory.Kept.refl _
  | cons a l ih =>
    unfold fetchPieces at e
    split at e
    · cases e
    · split at e
      · cases e
      · cases e; exact (captureTouchFor_kept.trans (homeRead_reads ‹_›).1).trans (ih ‹_›)

theorem fetch_kept (e : fetch s pc n = .ok (x, t)) : Memory.Kept s t := by
  unfold fetch at e
  split at e
  · exact fetchPieces_kept e
  · cases e

theorem fetchFailed_kept : Memory.Kept s (fetchFailed s f) := by
  unfold fetchFailed
  dsimp only
  split
  · exact State.parkPage_kept _ _ _ _ _ _ _
  · split
    · exact State.trapL_kept _ _ _ _ _ _
    · exact State.trapS_kept _ _ _ _ _
  · split
    · exact (integrityRecord_kept _ _ _ _).trans (State.trapL_kept _ _ _ _ _ _)
    · exact (integrityRecord_kept _ _ _ _).trans (State.trapS_kept _ _ _ _ _)
  · split
    · exact State.trapL_kept _ _ _ _ _ _
    · exact State.trapS_kept _ _ _ _ _
  · exact State.stall_kept _

theorem fetchScalar_kept (e : fetchScalar s = .ok (x, t)) : Memory.Kept s t := by
  unfold fetchScalar at e
  split at e
  · cases e
  · dsimp only at e
    split at e
    · split at e
      · cases e
      · cases e; exact (fetch_kept ‹_›).trans (fetch_kept ‹_›)
    · cases e; exact fetch_kept ‹_›

/-- The fetch of a lane word, as a function: where the address is written out, the kernel would compute with it. -/
theorem fetchLane_eq : fetchLane = fun s =>
    match fetch s (s.w.laneAddr s.entry.lpc) 12 with
    | .error e => .error e
    | .ok (b, s) => .ok (decodeLane (BitVec.ofNat 96 (ofBytes b)), s) := rfl

theorem fetchLane_kept (e : fetchLane s = .ok (x, t)) : Memory.Kept s t := by
  rw [fetchLane_eq] at e
  beta_reduce at e
  split at e
  · cases e
  · cases e; exact fetch_kept ‹_›

theorem fetchInstr_kept (e : fetchInstr s = .ok (x, t)) : Memory.Kept s t := by
  unfold fetchInstr at e
  split at e
  · exact fetchLane_kept e
  · exact fetchScalar_kept e

theorem markIssued_kept : Memory.Kept s (markIssued s) := by
  unfold markIssued
  split
  · split
    · exact State.setEntry_kept _ _
    · exact Memory.Kept.refl _
  · exact State.onW_kept _ _

/-! ### Scalar control (`Machine/ScalarFlow.lean`) -/

theorem State.goto_kept : Memory.Kept s (s.goto tgt) := by
  unfold State.goto
  split
  · exact State.trapS_kept _ _ _ _ _
  · exact State.onW_kept _ _

theorem State.backward_kept : Memory.Kept s s.backward := by
  unfold State.backward
  dsimp only
  split
  · split
    · exact (State.onW_kept _ _).trans (State.onW_kept _ _)
    · exact ((State.onW_kept _ _).trans (State.onW_kept _ _)).trans (State.block_kept _ _)
  · exact State.onW_kept _ _

theorem State.branch_kept : Memory.Kept s (s.branch words) := by
  unfold State.branch
  dsimp only
  split
  · exact State.goto_kept.trans State.backward_kept
  · exact State.goto_kept

theorem cond2_kept : Memory.KeptOut s (cond2 a b o f s) := by
  unfold cond2
  refine State.scalar_kept _ _ _ _ ?_
  split
  · exact State.branch_kept
  · exact State.advance_kept

theorem indirect_kept : Memory.KeptOut s (indirect a link s) := by
  unfold indirect
  refine State.scalar_kept _ _ _ _ ?_
  dsimp only
  split
  · exact State.trapS_kept _ _ _ _ _
  · split
    · exact State.goto_kept
    · exact State.setS_kept.trans State.goto_kept

theorem runLrun_kept : Memory.KeptOut s (runLrun d a i len s) := by
  unfold runLrun
  split
  · exact State.trapS_kept _ _ _ _ _
  · refine State.scalar_kept _ _ _ _ ?_
    dsimp only
    split
    · exact State.trapS_kept _ _ _ _ _
    · split
      · exact State.stall_kept _
      · exact (State.onW_kept _ _).trans State.advance_kept

theorem execLwait_kept : Memory.KeptOut s (execLwait n s) := by
  unfold execLwait
  split
  · exact State.advance_kept
  · exact State.stall_kept _

theorem execFmt_kept : Memory.KeptOut s (execFmt d a b s) := by
  unfold execFmt
  refine State.scalar_kept _ _ _ _ ?_
  split
  · exact State.stall_kept _
  · dsimp only
    exact (State.onW_kept _ _).trans (State.retS_kept _ _ _ _)

theorem execSeedld_kept : Memory.KeptOut s (execSeedld z a b s) := by
  unfold execSeedld
  refine State.scalar_kept _ _ _ _ ?_
  split
  · exact State.stall_kept _
  · dsimp only
    exact (State.onW_kept _ _).trans State.advance_kept

/-! ### Scalar integer instructions (`Machine/ScalarInt.lean`) -/

theorem alu2_kept : Memory.KeptOut s (alu2 d a b f s) := State.scalar_kept _ _ _ _ (State.retS_kept _ _ _ _)

theorem alu1_kept : Memory.KeptOut s (alu1 d a f s) := State.scalar_kept _ _ _ _ (State.retS_kept _ _ _ _)

theorem aluI_kept : Memory.KeptOut s (aluI d a i len f s) := State.scalar_kept _ _ _ _ (State.retS_kept _ _ _ _)

theorem runAddi_kept : Memory.KeptOut s (runAddi d a i len s) := aluI_kept

theorem runAndi_kept : Memory.KeptOut s (runAndi d a i len s) := aluI_kept

theorem runOri_kept : Memory.KeptOut s (runOri d a i len s) := aluI_kept

theorem runXori_kept : Memory.KeptOut s (runXori d a i len s) := aluI_kept

theorem runSlti_kept : Memory.KeptOut s (runSlti d a i len s) := aluI_kept

theorem runSltiu_kept : Memory.KeptOut s (runSltiu d a i len s) := aluI_kept

theorem runMuli_kept : Memory.KeptOut s (runMuli d a i len s) := aluI_kept

/-! ### Scalar loads and stores (`Machine/ScalarMem.lean`) -/

theorem scalarLoad_kept : Memory.KeptOut s (scalarLoad n sg d a i len s) := by
  unfold scalarLoad
  refine State.scalar_kept _ _ _ _ ?_
  dsimp only
  split
  · exact State.trapS_kept _ _ _ _ _
  · split
    · exact State.firstTouch_kept.trans State.failScalar_kept
    · exact (State.loadT_kept ‹_›).trans State.advance_kept
    · exact (State.loadT_kept ‹_›).trans (State.retS_kept _ _ _ _)

theorem scalarStore_kept : Memory.KeptOut s (scalarStore n d a i len s) := by
  unfold scalarStore
  refine State.scalar_kept _ _ _ _ ?_
  dsimp only
  split
  · exact State.trapS_kept _ _ _ _ _
  · split
    · exact State.failScalar_kept
    · exact ((State.storeT_kept ‹_›).trans (State.onW_kept _ _)).trans State.advance_kept

theorem runSldB_kept : Memory.KeptOut s (runSldB d a i len s) := scalarLoad_kept

theorem runSldBu_kept : Memory.KeptOut s (runSldBu d a i len s) := scalarLoad_kept

theorem runSldH_kept : Memory.KeptOut s (runSldH d a i len s) := scalarLoad_kept

theorem runSldHu_kept : Memory.KeptOut s (runSldHu d a i len s) := scalarLoad_kept

theorem runSldW_kept : Memory.KeptOut s (runSldW d a i len s) := scalarLoad_kept

theorem runSldWu_kept : Memory.KeptOut s (runSldWu d a i len s) := scalarLoad_kept

theorem runSldD_kept : Memory.KeptOut s (runSldD d a i len s) := scalarLoad_kept

theorem runSstB_kept : Memory.KeptOut s (runSstB d a i len s) := scalarStore_kept

theorem runSstH_kept : Memory.KeptOut s (runSstH d a i len s) := scalarStore_kept

theorem runSstW_kept : Memory.KeptOut s (runSstW d a i len s) := scalarStore_kept

theorem runSstD_kept : Memory.KeptOut s (runSstD d a i len s) := scalarStore_kept

theorem execLongImmediatePrefix_kept : Memory.KeptOut s (execLongImmediatePrefix hi word s) := by
  unfold execLongImmediatePrefix
  split
  · exact runAddi_kept
  · exact runAndi_kept
  · exact runOri_kept
  · exact runXori_kept
  · exact runSlti_kept
  · exact runSltiu_kept
  · exact runMuli_kept
  · exact runSldB_kept
  · exact runSldBu_kept
  · exact runSldH_kept
  · exact runSldHu_kept
  · exact runSldW_kept
  · exact runSldWu_kept
  · exact runSldD_kept
  · exact runSstB_kept
  · exact runSstH_kept
  · exact runSstW_kept
  · exact runSstD_kept
  · exact runLrun_kept
  · exact State.trapDecode_kept _ _

/-! ### The system group (`Machine/System.lean`) -/

theorem State.scalarReturn_kept : Memory.Kept s (s.scalarReturn pc) :=
  ((State.onW_kept _ _).trans State.handlerOver_kept).trans State.resumed_kept

theorem execTret_kept : Memory.KeptOut s (execTret k s) := by
  unfold execTret
  refine Memory.Kept.ite (State.trapS_kept _ _ _ _ _) (.ite (haltBlock_kept _ _) (.ite (State.trapS_kept _ _ _ _ _)
    (.ite State.scalarReturn_kept ?_)))
  split
  · exact fetchFailed_kept
  · exact (fetch_kept ‹_›).trans State.scalarReturn_kept

theorem execBrk_kept : Memory.KeptOut s (execBrk u s) := by
  unfold execBrk
  dsimp only
  split
  · exact haltWith_kept _ _ _ _
  · exact State.raise_kept _ _

theorem State.holdTrap_kept : Memory.Kept s (s.holdTrap u) := State.onW_kept _ _

theorem State.budgetFailed_kept : Memory.Kept s (s.budgetFailed here pc code stop) := by
  unfold State.budgetFailed
  dsimp only
  split
  · exact ((State.onW_kept _ _).of_update).trans (haltWith_kept _ _ _ _)
  · exact ((State.onW_kept _ _).of_update).trans State.holdTrap_kept

theorem readBudget_kept : Memory.Kept s (readBudget s here pc) := by
  unfold readBudget
  dsimp only
  split
  · exact (State.onW_kept _ _).of_update
  · split
    · exact (((State.onW_kept _ _).of_update).trans (State.loadNow_kept ‹_›)).trans (State.onW_kept _ _)
    · exact ((State.onW_kept _ _).of_update).trans (State.park_kept _ _ _)
    · exact ((State.onW_kept _ _).of_update).trans State.budgetFailed_kept
    · exact (((State.onW_kept _ _).of_update).trans (integrityRecord_kept _ _ _ _)).trans State.budgetFailed_kept
    · exact ((State.onW_kept _ _).of_update).trans State.budgetFailed_kept
    · exact ((State.onW_kept _ _).of_update).trans (State.onW_kept _ _)

theorem execStage_kept : Memory.KeptOut s (execStage d n s) := by
  unfold execStage
  refine State.scalar_kept _ _ _ _ ?_
  dsimp only
  split
  · exact State.stall_kept _
  · exact (((State.setS_kept.trans State.advance_kept).trans (State.onW_kept _ _)).trans readBudget_kept).trans
        (traceRecord_writes _ _ _ _ _ _ _).1

theorem State.markPtc_kept : Memory.Kept s (s.markPtc n) := by
  unfold State.markPtc
  split
  · exact State.onW_kept _ _
  · exact Memory.Kept.refl _

theorem execSrdsr_kept : Memory.KeptOut s (execSrdsr d h l s) := by
  unfold execSrdsr
  split
  · exact State.trapDecode_kept _ _
  · exact State.scalar_kept _ _ _ _ (State.markPtc_kept.trans (State.retS_kept _ _ _ _))

theorem execSrdsrSflags_kept : Memory.KeptOut s (execSrdsrSflags d s) := by
  unfold execSrdsrSflags
  refine State.scalar_kept _ _ _ _ ?_
  split
  · exact State.retS_kept _ _ _ _
  · exact State.stall_kept _

theorem execSwrsr_kept : Memory.KeptOut s (execSwrsr d h l s) := by
  unfold execSwrsr
  split
  · exact State.trapDecode_kept _ _
  · exact State.scalar_kept _ _ _ _ ((State.onW_kept _ _).trans State.advance_kept)

theorem execSwrsrSflags_kept : Memory.KeptOut s (execSwrsrSflags d s) := by
  unfold execSwrsrSflags
  refine State.scalar_kept _ _ _ _ ?_
  split
  · exact (State.onW_kept _ _).trans State.advance_kept
  · exact State.stall_kept _

theorem execSwrsrDbgctl_kept : Memory.KeptOut s (execSwrsrDbgctl d s) := by
  unfold execSwrsrDbgctl
  refine State.scalar_kept _ _ _ _ ?_
  split
  · exact (State.onW_kept _ _).trans State.advance_kept
  · exact State.stall_kept _

theorem execVrdsr_kept : Memory.KeptOut s (execVrdsr a s) := by
  unfold execVrdsr
  dsimp only
  split
  · exact State.trapDecode_kept _ _
  · exact State.laneBegin_kept _ _ _ _ (fun act => State.markPtc_kept.trans (State.laneResult_kept _ _ _ _ _ _ _)) _

theorem execFwcall_kept : Memory.KeptOut s (execFwcall d a b s) := by
  unfold execFwcall
  split
  · exact State.trapS_kept _ _ _ _ _
  · refine State.scalar_kept _ _ _ _ ?_
    split
    · exact State.stall_kept _
    · refine State.parkThen_kept _ _ _ (fun u => ?_)
      dsimp only
      exact State.setCcp_kept _ _ _

theorem execTramps_kept : Memory.KeptOut s (execTramps i s) := by
  unfold execTramps
  split
  · exact State.failS_kept _ _ _
  · rename_i h1
    refine (State.loadNow_kept h1).trans ?_
    split
    · exact State.failS_kept _ _ _
    · rename_i h2
      refine (State.loadNow_kept h2).trans ?_
      dsimp only
      split
      · exact State.trapS_kept _ _ _ _ _
      · split
        · exact State.trapS_kept _ _ _ _ _
        · split
          · exact State.failS_kept _ _ _
          · rename_i h3
            exact ((State.storeNow_kept h3).trans (State.onW_kept _ _)).trans State.goto_kept

theorem execTrampsRet_kept : Memory.KeptOut s (execTrampsRet s) := by
  unfold execTrampsRet
  split
  · exact State.failS_kept _ _ _
  · rename_i h1
    refine (State.loadNow_kept h1).trans ?_
    dsimp only
    split
    · exact State.trapS_kept _ _ _ _ _
    · split
      · exact State.failS_kept _ _ _
      · rename_i h2
        exact ((State.storeNow_kept h2).trans (State.onW_kept _ _)).trans State.goto_kept

/-! ### Releases, acquires and barriers (`Machine/Phase.lean`) -/

theorem State.release_kept (e : s.release scope = (t, x)) : Memory.Kept s t := by
  unfold State.release at e
  split at e
  · cases e; exact State.onW_kept _ _
  · split at e
    · cases e; exact publish_kept ‹_›
    · cases e; exact ((publish_kept ‹_›).trans (State.onW_kept _ _)).trans (State.onW_kept _ _)

theorem State.acquire_kept : Memory.Kept s (s.acquire scope) :=
  .thenIf (.thenIf (.unlessIf (.refl _) ((State.setCore_kept _ _ _).trans clearValid_kept)) (State.onW_kept _ _))
    (State.onW_kept _ _)

theorem State.failBack_kept : Memory.Kept s (s.failBack a) := by
  unfold State.failBack
  split
  · dsimp only
    exact State.park_kept _ _ _
  · exact State.raise_kept _ _
  · exact (integrityRecord_kept _ _ _ _).trans (State.raise_kept _ _)
  · exact State.raise_kept _ _
  · exact State.stall_kept _

theorem State.afterRelease_kept (hk : ∀ u, Memory.Kept u (k u)) : Memory.Kept s (s.afterRelease scope k) := by
  unfold State.afterRelease
  split
  · exact State.stall_kept _
  · split
    · exact (State.release_kept ‹_›).trans State.failBack_kept
    · exact (State.release_kept ‹_›).trans (hk _)

theorem execPhase_kept : Memory.KeptOut s (execPhase h sc s) := by
  unfold execPhase
  dsimp only
  split
  · exact State.stall_kept _
  · split
    · refine State.afterRelease_kept (fun u => ?_)
      refine Memory.Kept.trans ?_ State.advance_kept
      split
      · exact State.acquire_kept
      · exact Memory.Kept.refl _
    · refine Memory.Kept.trans ?_ State.advance_kept
      split
      · exact State.acquire_kept
      · exact Memory.Kept.refl _

theorem State.checkBarrier_kept : Memory.Kept s (s.checkBarrier lid blk n) := by
  unfold State.checkBarrier
  split
  · exact Memory.Kept.refl _
  · dsimp only
    split
    · exact (State.onBlock_kept _ _ _ _).trans (State.mapWaves_kept _ _)
    · exact Memory.Kept.refl _

theorem State.leaveBarrier_kept : Memory.Kept s (s.leaveBarrier d n) := by
  unfold State.leaveBarrier
  split
  · exact State.stall_kept _
  · dsimp only
    exact ((State.onW_kept _ _).trans State.acquire_kept).trans (State.retS_kept _ _ _ _)

theorem State.arrive_kept (hk : ∀ u p, Memory.Kept u (k u p)) : Memory.Kept s (s.arrive n k) := by
  unfold State.arrive
  split
  · split
    · exact State.stall_kept _
    · exact (State.release_kept (s := s) (scope := 1) rfl).trans (State.trapS_kept _ _ _ _ _)
  · refine State.afterRelease_kept (fun u => ?_)
    exact ((State.onBlock_kept _ _ _ _).trans State.checkBarrier_kept).trans (hk _ _)

theorem State.barrierOp_kept (hk : ∀ u a1, Memory.Kept u (k u a1)) : Memory.Kept s (s.barrierOp a regs d k) := by
  unfold State.barrierOp
  split
  · exact State.trapS_kept _ _ _ _ _
  · refine State.scalar_kept _ _ _ _ ?_
    split
    · exact State.trapS_kept _ _ _ _ _
    · exact hk _ _

theorem State.awaitBarrier_kept : Memory.Kept s (s.awaitBarrier d n p) := by
  unfold State.awaitBarrier
  split
  · exact State.block_kept _ _
  · exact (State.onW_kept _ _).trans State.leaveBarrier_kept

theorem execBarb_kept : Memory.KeptOut s (execBarb d a s) := by
  unfold execBarb
  refine State.barrierOp_kept (fun u a1 => ?_)
  split
  · exact State.leaveBarrier_kept
  · exact State.arrive_kept (fun u p => State.awaitBarrier_kept)

theorem execBarw_kept : Memory.KeptOut s (execBarw d a b s) := by
  unfold execBarw
  refine State.barrierOp_kept (fun u a1 => ?_)
  split
  · exact State.leaveBarrier_kept
  · exact State.awaitBarrier_kept

theorem gridObject_kept (e : gridObject s va = .ok (x, t)) : Memory.Kept s t := by
  unfold gridObject at e
  dsimp only at e
  split at e
  · cases e
  · split at e
    · cases e
    · split at e
      · cases e
      · split at e
        · cases e; exact (translate_reads ‹_›).1
        · split at e
          · cases e
          · cases e; exact ((((translate_reads ‹_›).1.trans (recallBlock_reads _ _).1).trans
                (State.mend_reads _ _ _).1).trans (State.touch_reads _ _ _ _).1).trans (dropLine_stores _ _ _ _).1

theorem State.gridOp_kept (hk : ∀ u a1 a2, Memory.Kept u (k u a1 a2)) : Memory.Kept s (s.gridOp a regs d k) := by
  unfold State.gridOp
  refine State.scalar_kept _ _ _ _ ?_
  dsimp only
  split
  · exact State.trapS_kept _ _ _ _ _
  · split
    · exact hk _ _ _
    · exact State.trapS_kept _ _ _ _ _

theorem execGarrive_kept : Memory.KeptOut s (execGarrive d a s) := by
  unfold execGarrive
  refine State.gridOp_kept (fun u a1 a2 => ?_)
  refine State.afterRelease_kept (fun u => ?_)
  split
  · exact State.failScalar_kept
  · exact (captureTouchFor_kept.trans (gridObject_kept ‹_›)).trans (State.trapS_kept _ _ _ _ _)
  · dsimp only
    split
    · exact (captureTouchFor_kept.trans (gridObject_kept ‹_›)).trans (State.trapS_kept _ _ _ _ _)
    · split
      · exact (captureTouchFor_kept.trans (gridObject_kept ‹_›)).trans State.failScalar_kept
      · exact (((captureTouchFor_kept.trans (gridObject_kept ‹_›)).trans (putLocal_reads _ _ _ _ _).1).trans
            (wakeWrite_writes _ _ _ _ _).1).trans (State.retS_kept _ _ _ _)

theorem State.unrecord_kept : Memory.Kept s (s.unrecord v) := Memory.Kept.of_eq

theorem State.waitGrid_kept : Memory.Kept s (s.waitGrid v va p) := by
  unfold State.waitGrid
  dsimp only
  refine Memory.Kept.trans ?_ (State.block_kept _ _)
  split
  · exact Memory.Kept.of_eq
  · exact Memory.Kept.refl _

theorem execGwait_kept : Memory.KeptOut s (execGwait d a b s) := by
  unfold execGwait
  refine State.gridOp_kept (fun u a1 a2 => ?_)
  split
  · exact State.failScalar_kept
  · exact (captureTouchFor_kept.trans (gridObject_kept ‹_›)).trans (State.trapS_kept _ _ _ _ _)
  · refine (captureTouchFor_kept.trans (gridObject_kept ‹_›)).trans ?_
    extract_lets ph done
    split
    · exact State.failScalar_kept
    · exact .ite State.waitGrid_kept (.ite (State.stall_kept _)
        (((State.unrecord_kept.trans (State.onW_kept _ _)).trans State.acquire_kept).trans (State.retS_kept _ _ _ _)))

/-! ### The context instructions (`Machine/Context.lean`) -/

theorem State.setPool_kept : Memory.Kept s (s.setPool p) :=
  ((writeOr_writes _ _ _ _).1.of_update).trans (writeOr_writes _ _ _ _).1

theorem State.charge_kept : Memory.Kept s (s.charge p n) := State.setPool_kept

theorem retryAll_kept : Memory.Kept s (retryAll asid desc l s) := by
  induction l generalizing s with
  | nil =>
    unfold retryAll
    exact Memory.Kept.refl _
  | cons a l ih =>
    unfold retryAll
    split
    · split
      · dsimp only
        refine Memory.Kept.trans ?_ ih
        split
        · exact (State.charge_kept.trans (State.mapWaves_kept _ _)).trans (State.putFrame_kept _ _ _)
        · exact State.charge_kept.trans (State.mapWaves_kept _ _)
      · exact ih
    · exact Memory.Kept.refl _

theorem State.retryGrow_kept : Memory.Kept s (s.retryGrow asid desc) := by
  unfold State.retryGrow
  split
  · exact Memory.Kept.refl _
  · exact retryAll_kept

theorem State.growResult_kept : Memory.Kept s (s.growResult d st) :=
  (State.onW_kept _ _).trans (State.retS_kept _ _ _ _)

theorem execCtxgrow_kept : Memory.KeptOut s (execCtxgrow d a s) := by
  unfold execCtxgrow
  refine State.scalar_kept _ _ _ _ ?_
  split
  · exact State.stall_kept _
  · split
    · exact State.growResult_kept
    · dsimp only
      split
      · exact State.growResult_kept
      · split
        · exact State.growResult_kept
        · split
          · exact (State.onW_kept _ _).trans State.growResult_kept
          · split
            · exact (State.charge_kept.trans (State.onW_kept _ _)).trans State.growResult_kept
            · exact State.block_kept _ _

theorem State.dropLinesFrom_kept : Memory.Kept s (s.dropLinesFrom n) := by
  unfold State.dropLinesFrom
  dsimp only
  split
  · exact Memory.Kept.refl _
  · exact State.setCache_kept _ _ _

theorem execCtxshrink_kept : Memory.KeptOut s (execCtxshrink d a s) := by
  unfold execCtxshrink
  refine State.scalar_kept _ _ _ _ ?_
  split
  · exact State.stall_kept _
  · dsimp only
    split
    · exact State.growResult_kept
    · split
      · exact State.growResult_kept
      · split
        · exact State.stall_kept _
        · refine Memory.Kept.trans ?_ State.growResult_kept
          split
          · exact (((State.onW_kept _ _).trans State.dropLinesFrom_kept).trans State.charge_kept).trans
                State.retryGrow_kept
          · exact (State.onW_kept _ _).trans State.dropLinesFrom_kept

theorem moveFrame_kept (e : moveFrame s p dst v = .ok t) : Memory.Kept s t := by
  unfold moveFrame at e
  dsimp only at e
  split at e
  · cases e
  · split at e
    · cases e
    · cases e; exact (((readRange_reads ‹_›).1.trans (writeRange_writes ‹_›).1).update).trans (State.onW_kept _ _)

theorem State.depart_kept : Memory.Kept s (s.depart d b dst copy) := by
  unfold State.depart
  split
  · exact State.stall_kept _
  · split
    · exact State.park_kept _ _ _
    · dsimp only
      split
      · exact (((((writeBack_kept ‹_›).trans (State.retS_kept _ _ _ _)).trans (State.onW_kept _ _)).trans
            (State.leaveCore_kept _)).trans (State.onW_kept _ _)).trans (State.sendHome_kept _)
      · split
        · exact (writeBack_kept ‹_›).trans (State.park_kept _ _ _)
        · exact (writeBack_kept ‹_›).trans State.failBack_kept
        · exact ((((((writeBack_kept ‹_›).trans (moveFrame_kept ‹_›)).trans (State.retS_kept _ _ _ _)).trans
              (State.onW_kept _ _)).trans (State.leaveCore_kept _)).trans (State.onW_kept _ _)).trans
              (State.sendHome_kept _)

theorem execMigrate_kept : Memory.KeptOut s (execMigrate d a b s) := by
  unfold execMigrate
  refine State.scalar_kept _ _ _ _ ?_
  dsimp only
  split
  · exact State.retS_kept _ _ _ _
  · split
    · exact State.depart_kept
    · split
      · split
        · exact State.retS_kept _ _ _ _
        · split
          · exact State.retS_kept _ _ _ _
          · exact State.depart_kept
      · exact State.retS_kept _ _ _ _

/-! ### The chord instructions (`Machine/Chords.lean`) -/

theorem dropChord_kept : Memory.Kept s (dropChord s g lid k c start) := State.setCore_kept _ _ _

theorem State.chordOp_kept (hk : ∀ u a1, Memory.Kept u (k u a1)) : Memory.Kept s (s.chordOp a regs d k) := by
  unfold State.chordOp
  split
  · exact State.trapS_kept _ _ _ _ _
  · refine State.scalar_kept _ _ _ _ ?_
    split
    · exact State.trapS_kept _ _ _ _ _
    · exact hk _ _

theorem setChord_kept (e : setChord s g lid asid k c = (x, t)) : Memory.Kept s t := by
  unfold setChord at e
  dsimp only at e
  cases e; exact State.setCore_kept _ _ _

theorem execChset_kept : Memory.KeptOut s (execChset d a b s) := by
  unfold execChset
  refine State.chordOp_kept (fun u a1 => ?_)
  dsimp only
  split
  · exact State.stall_kept _
  · split
    · exact State.retS_kept _ _ _ _
    · split
      · exact State.failS_kept _ _ _
      · split
        · exact (State.loadNow_kept ‹_›).trans (State.retS_kept _ _ _ _)
        · split
          · exact (State.loadNow_kept ‹_›).trans (State.stall_kept _)
          · split
            · exact ((State.loadNow_kept ‹_›).trans (setChord_kept rfl)).trans (State.retS_kept _ _ _ _)
            · split
              · exact (State.loadNow_kept ‹_›).trans (State.stall_kept _)
              · split
                · exact ((State.loadNow_kept ‹_›).trans (backLines_kept ‹_›)).trans State.failBack_kept
                · exact ((((State.loadNow_kept ‹_›).trans (backLines_kept ‹_›)).trans dropChord_kept).trans
                      (setChord_kept rfl)).trans (State.retS_kept _ _ _ _)

theorem execChrel_kept : Memory.KeptOut s (execChrel d a s) := by
  unfold execChrel
  refine State.chordOp_kept (fun u a1 => ?_)
  dsimp only
  split
  · exact State.stall_kept _
  · split
    · exact State.retS_kept _ _ _ _
    · split
      · exact State.stall_kept _
      · split
        · exact (backLines_kept ‹_›).trans State.failBack_kept
        · exact ((backLines_kept ‹_›).trans dropChord_kept).trans (State.retS_kept _ _ _ _)

theorem State.setMyChord_kept : Memory.Kept s (s.setMyChord k c) := State.setCore_kept _ _ _

theorem execChkey_kept : Memory.KeptOut s (execChkey d a b s) := by
  unfold execChkey
  refine State.chordOp_kept (fun u a1 => ?_)
  split
  · exact State.retS_kept _ _ _ _
  · exact State.setMyChord_kept.trans (State.retS_kept _ _ _ _)

theorem execChfill_kept : Memory.KeptOut s (execChfill d a b s) := by
  unfold execChfill
  refine State.chordOp_kept (fun u a1 => ?_)
  dsimp only
  split
  · exact State.retS_kept _ _ _ _
  · split
    · exact State.stall_kept _
    · exact (State.setCore_kept _ _ _).trans (State.retS_kept _ _ _ _)

theorem execChtag_kept : Memory.KeptOut s (execChtag d a b s) := by
  unfold execChtag
  refine State.chordOp_kept (fun u a1 => ?_)
  split
  · exact State.stall_kept _
  · split
    · exact State.retS_kept _ _ _ _
    · split
      · exact State.stall_kept _
      · exact State.setMyChord_kept.trans (State.retS_kept _ _ _ _)

/-! ### Conversions and blocks (`Machine/Convert.lean`) -/

theorem State.drawn_kept : Memory.Kept s (s.drawn stoch act n) := by
  unfold State.drawn
  split
  · exact State.onW_kept _ _
  · exact Memory.Kept.refl _

theorem State.runResult_kept (hfin : ∀ u, Memory.Kept u (fin u)) :
    Memory.Kept s (s.runResult a act k code tag f scales flags fin) := by
  unfold State.runResult
  dsimp only
  split
  · exact State.trapL_kept _ _ _ _ _ _
  · refine Memory.Kept.trans ?_ (State.laneNext_kept _ _)
    refine Memory.Kept.trans ?_ (State.orFlags_kept _ _)
    refine Memory.Kept.trans ?_ State.latchWrite_kept
    refine Memory.Kept.trans ?_ (hfin _)
    split
    · exact Memory.Kept.refl _
    · exact Memory.Kept.foldl _ (fun s r => (State.setV_kept _ _ _ _).trans (State.sideWrite_kept _ _ _ _ _ _)) _ _

theorem State.convert_kept (hk : ∀ u a1 a2, Memory.Kept u (k u a1 a2)) :
    Memory.Kept s (s.convert a latch u fmterr tag k) := by
  unfold State.convert
  refine State.laneBegin_kept _ _ _ _ (fun act => ?_) _
  split
  · refine Memory.Kept.trans ?_ (State.laneNext_kept _ _)
    split
    · exact State.latchWrite_kept
    · exact Memory.Kept.refl _
  · split
    · exact State.trapL_kept _ _ _ _ _ _
    · split
      · exact State.trapL_kept _ _ _ _ _ _
      · exact hk _ _ _

theorem State.mxResult_kept (hfin : ∀ u, Memory.Kept u (fin u)) : Memory.Kept s (s.mxResult a act c tag bs fin) :=
  State.runResult_kept (fun _ => hfin _)

theorem State.qiParams_kept : Memory.Kept s (s.qiParams a act c g ps) := by
  unfold State.qiParams
  dsimp only
  split
  · exact Memory.Kept.refl _
  · exact (State.setV_kept _ _ _ _).trans (State.setX_kept _ _ _)

theorem execVqnt_kept : Memory.KeptOut s (execVqnt a s) := by
  unfold execVqnt
  dsimp only
  refine State.convert_kept (fun u a1 a2 => ?_)
  split
  · exact State.runResult_kept (fun u => State.qiParams_kept.trans State.drawn_kept)
  · exact State.mxResult_kept (fun u => State.drawn_kept)

theorem rotateInstr_kept : Memory.KeptOut s (rotateInstr inv a s) :=
  State.convert_kept (fun _ _ _ => State.runResult_kept (fun _ => Memory.Kept.refl _))

theorem execVscl_kept : Memory.KeptOut s (execVscl a s) := by
  unfold execVscl
  dsimp only
  refine State.convert_kept (fun u a1 a2 => ?_)
  split <;> exact State.runResult_kept (fun u => Memory.Kept.refl _)

theorem tagWrite_kept : Memory.KeptOut s (tagWrite a u s) := by
  unfold tagWrite
  refine State.laneBegin_kept _ _ _ _ (fun act => ?_) _
  refine Memory.Kept.trans ?_ (State.laneNext_kept _ _)
  split
  · exact Memory.Kept.refl _
  · exact State.setX_kept _ _ _

theorem execVtagGet_kept : Memory.KeptOut s (execVtagGet a s) := by
  unfold execVtagGet
  refine State.laneBegin_kept _ _ _ _ (fun act => ?_) _
  refine Memory.Kept.trans ?_ (State.laneNext_kept _ _)
  split
  · exact Memory.Kept.refl _
  · exact State.setS_kept

theorem execVmxsclGet_kept : Memory.KeptOut s (execVmxsclGet a s) := by
  unfold execVmxsclGet
  refine State.convert_kept (fun u a1 a2 => ?_)
  dsimp only
  exact State.runResult_kept (fun u => Memory.Kept.refl _)

theorem execVmxsclPut_kept : Memory.KeptOut s (execVmxsclPut a s) := by
  unfold execVmxsclPut
  dsimp only
  refine State.laneBegin_kept _ _ _ _ (fun act => ?_) _
  split
  · exact State.trapL_kept _ _ _ _ _ _
  · exact (State.setX_kept _ _ _).trans (State.laneNext_kept _ _)

/-! ### Returns and forks (`Machine/Returns.lean`) -/

theorem State.onFrameSlot_kept : Memory.Kept s (s.onFrameSlot asid frame f) := Memory.Kept.of_eq

theorem State.arrived_kept : Memory.Kept s (s.arrived asid frame) :=
  (State.mapWaves_kept _ _).trans State.onFrameSlot_kept

theorem State.dropReturn_kept : Memory.Kept s (s.dropReturn lid) := onLaunch_kept _ _ _

theorem State.land_kept (e : s.land asid frame gen f words lines = (x, t)) : Memory.Kept s t := by
  unfold State.land at e
  dsimp only at e
  split at e
  · cases e; exact State.arrived_kept
  · cases e
    split
    · exact (State.arrived_kept.trans (State.mapWaves_kept _ _)).trans (State.putFrame_kept _ _ _)
    · exact Memory.Kept.trans (State.arrived_kept.trans (State.mapWaves_kept _ _))
          (Memory.Kept.foldl _ (fun s x => State.landLine_kept) _ _)

theorem State.afterFork_kept (hk : ∀ u, Memory.Kept u (k u)) : Memory.Kept s (s.afterFork k) := by
  unfold State.afterFork
  split
  · exact State.stall_kept _
  · split
    · exact (publish_kept ‹_›).trans State.failBack_kept
    · exact ((publish_kept ‹_›).trans (State.onW_kept _ _)).trans (hk _)

/-! ### Lane memory (`Machine/LaneMem.lean`) -/

theorem State.laneFaults_kept (e : s.laneFaults lanes n addr bad = some t) : Memory.Kept s t := by
  unfold State.laneFaults at e
  dsimp only at e
  split at e
  · cases e; exact State.trapL_kept _ _ _ _ _ _
  · split at e
    · cases e; exact State.trapL_kept _ _ _ _ _ _
    · cases e

theorem laneValue_ok {r : Except AccFail (Option (List Byte) × State)} (e : laneValue signed' n r = .ok (x, t)) :
    ∃ b, r = .ok (b, t) := by
  unfold laneValue at e
  split at e
  · cases e
  · cases e; exact ⟨_, rfl⟩

theorem State.stored_kept : Memory.Kept s s.stored := (State.setEntry_kept _ _).trans (State.onW_kept _ _)

theorem State.loadWrites_kept : Memory.Kept s (s.loadWrites s0 a act l code tag high latch) :=
  .thenIf
    (.unlessIf (.refl _) (.unlessIf (.thenIf (State.setV_kept _ _ _ _) (State.setV_kept _ _ _ _))
      (.thenIf (State.sideWrite_kept _ _ _ _ _ _) (State.sideWrite_kept _ _ _ _ _ _))))
    (State.latchSince_kept _ _ _ _)

theorem State.lastUse_kept : Memory.Kept s (s.lastUse s0 n tgts) := by
  unfold State.lastUse
  dsimp only
  refine Memory.Kept.foldl _ (fun t va => ?_) _ _
  split
  · exact dropHome_kept
  · exact Memory.Kept.refl _

theorem State.laneLoad_kept : Memory.Kept s (s.laneLoad a srcs n signed' hint addr tgt) := by
  unfold State.laneLoad
  refine State.laneBegin_kept _ _ _ _ (fun act => ?_) _
  extract_lets lanes at_ dst one r done u
  split
  · exact State.laneFaults_kept ‹_›
  · split
    · exact State.trapL_kept _ _ _ _ _ _
    · have hr : Memory.Kept s r.2 :=
        eachLane_kept (fun s L => State.firstTouch_kept) (fun e => State.loadT_kept (laneValue_ok e).choose_spec)
          (Prod.mk.eta (p := r)).symm
      clear_value r
      split
      · exact State.stall_kept _
      · refine Memory.Kept.trans (Memory.Kept.trans ?_ State.loadWrites_kept) State.laneMemEnd_kept
        simp only [u]
        split
        · exact hr.trans State.lastUse_kept
        · exact hr

theorem State.laneStore_kept : Memory.Kept s (s.laneStore a srcs adrs n ep addr tgt data group) := by
  unfold State.laneStore
  refine State.laneBegin_kept _ _ _ _ (fun act => ?_) _
  dsimp only
  split
  · exact State.laneFaults_kept ‹_›
  · refine .ite (State.trapL_kept _ _ _ _ _ _) (.ite (State.stall_kept _) (.trans (.thenIf ?_ State.stored_kept)
      State.laneMemEnd_kept))
    refine eachLane_kept (fun _ _ => .refl _) (fun e => ?_) rfl
    split at e
    · cases e
    · cases e; exact State.storeT_kept ‹_›

theorem State.row_kept (hk : ∀ act c o, Memory.Kept s (k act c o)) : Memory.Kept s (s.row a u k latch) := by
  unfold State.row
  refine State.laneBegin_kept _ _ _ _ (fun act => ?_) _
  have trap {code detail addr} : Memory.Kept s (s.trapL code detail addr act false) := State.trapL_kept _ _ _ _ _ _
  refine .ite (.trans (.thenIf (.refl _) State.latchWrite_kept) (State.laneNext_kept _ _)) (.ite trap ?_)
  split
  · exact trap
  · exact .ite trap (.ite trap (.ite trap (hk _ _ _)))

theorem execVldc_kept : Memory.KeptOut s (execVldc a s) := by
  unfold execVldc
  refine State.row_kept (fun a0 a1 a2 => .ite (State.trapL_kept _ _ _ _ _ _) (.ite (State.stall_kept _)
    (.trans (.unlessIf (.trans ?_ State.loadWrites_kept) (.foldl _ (fun _ _ => State.setX_kept _ _ _) _ _))
      State.laneMemEnd_kept)))
  refine eachLane_kept (fun _ _ => State.firstTouch_kept) (fun e => ?_) rfl
  split at e
  · cases e
  · split at e
    · cases e
    · rename_i h
      have hb := State.markStash_kept.trans (stashRead_kept h)
      split at e
      · cases e; exact hb
      · split at e
        · cases e
        · cases e; exact hb.trans (stashRead_kept ‹_›)

theorem execVstsRow_kept : Memory.KeptOut s (execVstsRow a s) := by
  unfold execVstsRow
  refine State.row_kept (fun a0 a1 a2 => ?_)
  dsimp only
  split
  · exact State.trapL_kept _ _ _ _ _ _
  · split
    · exact State.trapL_kept _ _ _ _ _ _
    · split
      · split
        · exact State.stall_kept _
        · exact Memory.Kept.trans (Memory.Kept.trans (Memory.Kept.trans
              (Memory.Kept.trans (Memory.Kept.foldl _ (fun t L => stashWrite_kept) _ _)
              (Memory.Kept.foldl _ (fun t p => stashWrite_kept) _ _)) State.viaCluster_kept) State.stored_kept)
              (State.laneNext_kept _ _)
      · split
        · exact State.stall_kept _
        · exact Memory.Kept.trans (Memory.Kept.trans (Memory.Kept.trans
              (Memory.Kept.trans (Memory.Kept.foldl _ (fun t L => stashWrite_kept) _ _)
              (Memory.Kept.foldl _ (fun t p => stashWrite_kept) _ _)) State.viaCluster_kept) State.stored_kept)
              (State.laneNext_kept _ _)

theorem startFill_kept : Memory.Kept s (startFill s g off) := by
  unfold startFill
  dsimp only
  split
  · exact Memory.Kept.refl _
  · exact State.setCore_kept _ _ _

theorem prefetch_kept : Memory.Kept s (prefetch s a) := by
  unfold prefetch
  dsimp only
  split
  · split
    · split
      · exact Memory.Kept.refl _
      · exact (captureTouchFor_kept.trans (State.settle_kept ‹_›)).trans State.send_kept
    · split
      · exact coreRead_kept ‹_›
      · exact Memory.Kept.refl _
  · split
    · exact startFill_kept
    · exact Memory.Kept.refl _
  · split
    · exact startFill_kept
    · exact Memory.Kept.refl _
  · exact Memory.Kept.refl _

theorem execVpft_kept : Memory.KeptOut s (execVpft a s) := by
  unfold execVpft
  refine State.laneBegin_kept _ _ _ _ (fun act => ?_) _
  split
  · exact State.trapL_kept _ _ _ _ _ _
  · exact Memory.Kept.trans (Memory.Kept.foldl _ (fun t L => prefetch_kept) _ _) (State.laneNext_kept _ _)

theorem checkParts_kept (e : checkParts acc n l s = .ok t) : Memory.Kept s t := by
  induction l generalizing s n t with
  | nil =>
    unfold checkParts at e
    cases e; exact Memory.Kept.refl _
  | cons a l ih =>
    unfold checkParts at e
    split at e
    · split at e
      · cases e
      · exact (State.settle_kept ‹_›).trans (ih e)
    · split at e
      · split at e
        · cases e
        · exact (State.loadT_kept ‹_›).trans (ih e)
      · exact ih e
    · exact ih e

theorem readParts_kept (e : readParts n l s = .ok (x, t)) : Memory.Kept s t := by
  induction l generalizing s n t x with
  | nil =>
    unfold readParts at e
    cases e; exact Memory.Kept.refl _
  | cons a l ih =>
    unfold readParts at e
    dsimp only at e
    split at e
    · cases e
    · split at e
      · cases e
      · cases e; exact (State.loadT_kept ‹_›).trans (ih ‹_›)

theorem writeParts_kept (e : writeParts bytes lanes n l s = .ok t) : Memory.Kept s t := by
  induction l generalizing s bytes n t with
  | nil =>
    unfold writeParts at e
    cases e; exact Memory.Kept.refl _
  | cons a l ih =>
    unfold writeParts at e
    dsimp only at e
    split at e
    · cases e
    · exact (State.storeT_kept ‹_›).trans (ih e)

theorem loadBlock_kept (e : loadBlock a s0 s b = .ok (x, t)) : Memory.Kept s t := by
  unfold loadBlock at e
  dsimp only at e
  split at e
  · cases e
  · split at e
    · cases e
    · cases e; exact (checkParts_kept ‹_›).trans (readParts_kept ‹_›)

theorem storeBlock_kept (e : storeBlock a s0 s b = .ok t) : Memory.Kept s t := by
  unfold storeBlock at e
  dsimp only at e
  split at e
  · cases e
  · exact (checkParts_kept ‹_›).trans (writeParts_kept e)

theorem eachBlock_kept (hprep : ∀ u a1 a2, Memory.Kept u (prep u a1 a2))
    (hf : ∀ {u : State} {a1 : ℕ} {t : State} {x}, f u a1 = .ok (x, t) → Memory.Kept u t)
    (e : eachBlock code prep f l s = (x, x', t)) : Memory.Kept s t := by
  induction l generalizing s t x x' with
  | nil =>
    unfold eachBlock at e
    cases e; exact Memory.Kept.refl _
  | cons a l ih =>
    unfold eachBlock at e
    dsimp only at e
    split at e
    · cases e; exact (hprep _ _ _).trans (ih rfl)
    · cases e; exact (hf ‹_›).trans (ih rfl)

theorem State.packed_kept (hk : ∀ a0 a1, Memory.Kept s (k a0 a1)) : Memory.Kept s (s.packed a u fmterr k) := by
  unfold State.packed
  refine State.laneBegin_kept _ _ _ _ (fun act => ?_) _
  dsimp only
  split
  · exact State.laneFaults_kept ‹_›
  · split
    · exact State.trapL_kept _ _ _ _ _ _
    · exact hk _ _

theorem execVldb_kept : Memory.KeptOut s (execVldb a s) := by
  unfold execVldb
  refine State.packed_kept (fun a0 a1 => ?_)
  split
  · exact State.trapL_kept _ _ _ _ _ _
  · dsimp only
    split
    · exact State.stall_kept _
    · refine Memory.Kept.trans ?_ State.laneMemEnd_kept
      split
      · exact Memory.Kept.trans (Memory.Kept.update (Memory.Kept.trans Memory.Kept.of_eq
            (eachBlock_kept (fun u a1 a2 => Memory.Kept.foldl _ (fun t p => State.firstTouch_kept) _ _)
            (fun e => loadBlock_kept e) rfl))) State.loadWrites_kept
      · exact Memory.Kept.trans (Memory.Kept.trans (Memory.Kept.update
            (Memory.Kept.trans Memory.Kept.of_eq (eachBlock_kept
            (fun u a1 a2 => Memory.Kept.foldl _ (fun t p => State.firstTouch_kept) _ _) (fun e => loadBlock_kept e)
            rfl))) State.loadWrites_kept) (Memory.Kept.foldl _ (fun t b => State.setX_kept _ _ _) _ _)

theorem execVstb_kept : Memory.KeptOut s (execVstb a s) := by
  unfold execVstb
  refine State.packed_kept (fun a0 a1 => .ite (State.stall_kept _)
    (.trans (.thenIf (.update (.trans .of_eq (eachBlock_kept (fun _ _ _ => .refl _) (fun e => ?_) rfl)))
      State.stored_kept) State.laneMemEnd_kept))
  split at e
  · cases e
  · cases e; exact storeBlock_kept ‹_›

/-! ### Atomics (`Machine/Atomics.lean`) -/

theorem bankReady_kept (e : bankReady s o asid pa n = .ok t) : Memory.Kept s t := by
  unfold bankReady at e
  dsimp only at e
  split at e
  · cases e
  · split at e
    · cases e; exact Memory.Kept.refl _
    · split at e
      · cases e
      · split at e
        · cases e; exact fillLine_kept
        · cases e

theorem atomicBank_kept (e : atomicBank s o asid va pa n f = .ok (x, t)) : Memory.Kept s t := by
  unfold atomicBank at e
  dsimp only at e
  split at e
  · cases e
  · split at e
    · cases e; exact bankReady_kept ‹_›
    · cases e; exact ((bankReady_kept ‹_›).trans (State.setCore_kept _ _ _)).trans (wakeWrite_writes _ _ _ _ _).1

theorem atomicLocal_kept (e : atomicLocal s asid va pa k n f = .ok (x, t)) : Memory.Kept s t := by
  unfold atomicLocal at e
  dsimp only at e
  split at e
  · cases e
  · split at e
    · cases e
    · split at e
      · cases e; exact (recallBlock_reads _ _).1.trans (readLocal_reads ‹_›).1
      · split at e
        · cases e
        · cases e; exact (((recallBlock_reads _ _).1.trans (readLocal_reads ‹_›).1).trans
              (writeLocal_reads ‹_›).1).trans (wakeWrite_writes _ _ _ _ _).1

theorem atomicHome_kept (e : atomicHome s asid va pa k n f = .ok (x, t)) : Memory.Kept s t := by
  unfold atomicHome at e
  dsimp only at e
  split at e
  · exact atomicLocal_kept e
  · split at e
    · split at e
      · cases e
      · split at e
        · exact atomicLocal_kept e
        · cases e
      · split at e
        · split at e
          · cases e; exact Memory.Kept.refl _
          · split at e
            · cases e
            · cases e; exact (serveWrite_writes ‹_›).1
        · cases e
      · cases e
      · cases e
    · split at e
      · cases e
      · split at e
        · cases e; exact Memory.Kept.refl _
        · split at e
          · cases e
          · cases e; exact (serveWrite_writes ‹_›).1

theorem atomicAt_kept (e : atomicAt s sent g scope asid va pa k n f = .ok (x, t)) : Memory.Kept s t := by
  unfold atomicAt at e
  split at e
  · split at e
    · exact atomicHome_kept e
    · split at e
      · exact atomicHome_kept e
      · cases e
    · exact atomicBank_kept e
  · exact atomicHome_kept e

theorem bankSettled_kept (e : bankSettled s g scope asid pa n = .ok t) : Memory.Kept s t := by
  unfold bankSettled at e
  split at e
  · cases e; exact Memory.Kept.refl _
  · split at e
    · cases e; exact Memory.Kept.refl _
    · exact bankReady_kept e

theorem atomLane_kept (e : atomLane a returns postpone s0 s L = .ok (x, t)) : Memory.Kept s t := by
  unfold atomLane at e
  dsimp only at e
  split at e
  · rename_i g off path _
    have hm : Memory.Kept s (if returns = true then s.markStash g off else s) := .thenIf (.refl _)
        State.markStash_kept
    generalize (if returns = true then s.markStash g off else s) = u at e hm
    split at e
    · cases e
    · split at e
      · cases e
      · split at e
        · cases e; exact hm.trans (stashRead_kept ‹_›)
        · split at e
          · cases e
          · cases e; exact ((hm.trans (stashRead_kept ‹_›)).trans stashWrite_kept).trans State.viaCluster_kept
  · rename_i va _
    have hm : Memory.Kept s (if returns = true then s.markLine va else s) := .thenIf (.refl _) State.markLine_kept
    generalize (if returns = true then s.markLine va else s) = u at e hm
    split at e
    · cases e
    · split at e
      · cases e
      · rename_i h
        have hd := ((hm.trans captureTouchFor_kept).trans (State.settle_kept h)).trans
            (dropLine_stores _ s0.w.core.toNat s0.w.asid va).1
        split at e
        · split at e
          · cases e
          · cases e; exact (hd.trans (bankSettled_kept ‹_›)).trans State.send_kept
        · split at e
          · cases e
          · cases e; exact hd.trans (atomicAt_kept ‹_›)
  · cases e

theorem State.atomics_kept : Memory.Kept s (s.atomics a returns) := by
  unfold State.atomics
  refine State.laneBegin_kept _ _ _ _ (fun act => ?_) _
  dsimp only
  generalize (if a.mods.getLsbD 4 = true then 2 else 1) = regs
  split
  · exact State.laneFaults_kept ‹_›
  · exact .ite (State.trapL_kept _ _ _ _ _ _) (.ite (State.stall_kept _) (.trans (.thenIf
      (eachLane_kept (fun _ _ => State.firstTouch_kept) (fun e => atomLane_kept e) rfl) State.loadWrites_kept)
      State.laneMemEnd_kept))

/-! ### The copy instructions (`Machine/Copy.lean`) -/

theorem State.setEngine_kept : Memory.Kept s (s.setEngine n q) := Memory.Kept.of_eq

theorem State.enqueueCopy_kept : Memory.Kept s (s.enqueueCopy kind d c n) :=
  (State.setEngine_kept.of_update.trans (State.onW_kept _ _)).trans State.expect_kept

theorem State.copyDesc_kept (e : s.copyDesc a = .ok (x, t)) : Memory.Kept s t := by
  unfold State.copyDesc at e
  split at e
  · cases e; exact Memory.Kept.refl _
  · split at e
    · cases e
    · cases e; exact State.loadNow_kept ‹_›

theorem copyIssue_kept : Memory.KeptOut s (copyIssue kind d a b s) := by
  unfold copyIssue
  split
  · exact State.trapS_kept _ _ _ _ _
  · refine State.scalar_kept _ _ _ _ ?_
    extract_lets c
    split
    · exact State.stall_kept _
    · split
      · exact State.retS_kept _ _ _ _
      · split
        · exact State.failS_kept _ _ _
        · rename_i h
          refine ((State.copyDesc_kept h).trans (State.onW_kept _ (fun w => { w with progress := none }))).trans ?_
          extract_lets keep u st e
          clear_value st e
          have hkeep (v : State) : Memory.Kept v (keep v).stall := (State.onW_kept _ _).trans (State.stall_kept _)
          split
          · exact State.retS_kept _ _ _ _
          · split
            · exact State.retS_kept _ _ _ _
            · split
              · split
                · exact State.retS_kept _ _ _ _
                · exact hkeep _
              · split
                · split
                  · exact State.retS_kept _ _ _ _
                  · exact hkeep _
                · split
                  · exact hkeep _
                  · exact State.afterFork_kept (fun _ => State.enqueueCopy_kept.trans (State.retS_kept _ _ _ _))

theorem State.observe_kept : Memory.Kept s (s.observe d m) := by
  unfold State.observe
  dsimp only
  split
  · exact State.stall_kept _
  · split
    · refine Memory.Kept.trans ?_ (State.retS_kept _ _ _ _)
      split
      · exact State.onW_kept _ _
      · exact (State.onW_kept _ _).trans State.acquire_kept
    · refine Memory.Kept.trans ?_ (State.raise_kept _ _)
      refine Memory.Kept.trans ?_ (State.retS_kept _ _ _ _)
      split
      · exact State.onW_kept _ _
      · exact (State.onW_kept _ _).trans State.acquire_kept

theorem execEwait_kept : Memory.KeptOut s (execEwait d a s) := by
  unfold execEwait
  refine State.scalar_kept _ _ _ _ ?_
  dsimp only
  split
  · exact State.retS_kept _ _ _ _
  · split
    · exact State.observe_kept
    · exact State.block_kept _ _

theorem execEpoll_kept : Memory.KeptOut s (execEpoll d a s) := by
  unfold execEpoll
  refine State.scalar_kept _ _ _ _ ?_
  dsimp only
  split
  · exact State.retS_kept _ _ _ _
  · exact State.observe_kept

/-! ### Launch records (`Machine/Launches.lean`) -/

theorem readPool_kept (e : readPool s asid desc = .ok (x, t)) : Memory.Kept s t := by
  unfold readPool at e
  split at e
  · cases e
  · split at e
    · cases e
    · dsimp only at e
      cases e; exact (readRange_reads ‹_›).1

theorem State.sectorLost_kept : Memory.Kept s (s.sectorLost asid access a) := by
  unfold State.sectorLost
  split
  · exact deliver_kept _ _ _
  · exact Memory.Kept.refl _

theorem checkRecord_kept (e : checkRecord s l parent = .ok (x, x', t)) : Memory.Kept s t := by
  unfold checkRecord at e
  split at e
  · cases e; exact Memory.Kept.refl _
  · split at e
    · cases e
    · cases e
    · cases e; exact State.sectorLost_kept
    · split at e
      · cases e; exact readPool_kept ‹_›
      · split at e
        · cases e; exact readPool_kept ‹_›
        · split at e
          · cases e; exact readPool_kept ‹_›
          · split at e <;> (cases e; exact readPool_kept ‹_›)

theorem loadRecord_kept (e : loadRecord s a n = .ok (x, t)) : Memory.Kept s t := by
  induction n generalizing s t x with
  | zero =>
    unfold loadRecord at e
    cases e; exact Memory.Kept.refl _
  | succ n ih =>
    unfold loadRecord at e
    split at e
    · cases e
    · split at e
      · cases e
      · cases e; exact (ih ‹_›).trans (State.loadNow_kept ‹_›)

theorem State.startChild_kept : Memory.Kept s (s.startChild r d) := (State.retS_kept _ _ _ _).of_update

theorem execLaunch_kept : Memory.KeptOut s (execLaunch d a s) := by
  unfold execLaunch
  refine State.scalar_kept _ _ _ _ ?_
  split
  · exact State.retS_kept _ _ _ _
  · split
    · exact State.trapS_kept _ _ _ _ _
    · split
      · exact State.stall_kept _
      · split
        · exact State.retS_kept _ _ _ _
        · split
          · exact State.failS_kept _ _ _
          · dsimp only
            refine Memory.Kept.trans ?_ (State.afterFork_kept (fun u => ?_))
            · exact loadRecord_kept ‹_›
            · split
              · exact State.park_kept _ _ _
              · exact State.failS_kept _ _ _
              · split
                · exact (checkRecord_kept ‹_›).trans (State.retS_kept _ _ _ _)
                · split
                  · exact (checkRecord_kept ‹_›).trans (State.retS_kept _ _ _ _)
                  · exact (checkRecord_kept ‹_›).trans State.startChild_kept

theorem State.join_kept : Memory.Kept s (s.join d h) := by
  unfold State.join
  split
  · exact State.stall_kept _
  · dsimp only
    exact (((State.onW_kept _ _).of_update).trans State.acquire_kept).trans (State.retS_kept _ _ _ _)

theorem execLjoin_kept : Memory.KeptOut s (execLjoin d a s) := by
  unfold execLjoin
  refine State.scalar_kept _ _ _ _ ?_
  dsimp only
  split
  · exact State.retS_kept _ _ _ _
  · split
    · exact State.join_kept
    · exact State.block_kept _ _

theorem wakeItems_kept : Memory.Kept s (wakeItems s g lid) := State.mapWaves_kept _ _

theorem execItempush_kept : Memory.KeptOut s (execItempush d a b s) := by
  unfold execItempush
  refine State.scalar_kept _ _ _ _ ?_
  dsimp only
  split
  · exact State.retS_kept _ _ _ _
  · refine Memory.Kept.trans ?_ (State.retS_kept _ _ _ _)
    split
    · refine Memory.Kept.trans ?_ wakeItems_kept
      split
      · exact (State.setCore_kept _ _ _).trans handItems_kept
      · exact State.setCore_kept _ _ _
    · split
      · exact (State.setCore_kept _ _ _).trans handItems_kept
      · exact State.setCore_kept _ _ _

/-! ### Requests in flight (`Machine/Requests.lean`) -/

theorem State.setRequest_kept : Memory.Kept s (s.setRequest r) := Memory.Kept.of_eq

theorem State.dropRequest_kept : Memory.Kept s (s.dropRequest k) := Memory.Kept.of_eq

theorem State.requestIntegrity_kept : Memory.Kept s (s.requestIntegrity r va pa) := deliver_kept _ _ _

theorem State.answer_kept {y : Except AccFail (BitVec 64 × State)}
    (h : ∀ {v u}, y = .ok (v, u) → Memory.Kept s u) : Memory.Kept s (s.answer r y) := by
  unfold State.answer
  dsimp only
  split
  · exact Memory.Kept.refl _
  · exact State.requestIntegrity_kept.trans State.setRequest_kept
  · exact State.setRequest_kept
  · exact (deliver_kept _ _ _).trans State.setRequest_kept
  · exact State.setRequest_kept
  · refine Memory.Kept.trans ?_ State.setRequest_kept
    rename_i e
    split at e
    · split at e
      · cases e
      · cases e; exact Memory.Kept.refl _
      · exact h e
    · exact h e

theorem serveAll_kept (hk : ∀ {u : State} {a1 : Request} {t : State} {x}, k u a1 = .ok (x, t) → Memory.Kept u t)
    (e : serveAll k l s = some t) : Memory.Kept s t := by
  induction l generalizing s t with
  | nil =>
    unfold serveAll at e
    cases e; exact Memory.Kept.refl _
  | cons a l ih =>
    unfold serveAll at e
    split at e
    · cases e
    · exact Memory.Kept.trans (State.answer_kept (fun e => hk e)) (ih e)

theorem State.serve_kept (hk : ∀ {u : State} {a1 : Request} {t : State} {x}, k u a1 = .ok (x, t) → Memory.Kept u t)
    (hafter : ∀ a0 u, Memory.Kept u (after a0 u)) : Memory.KeptOut s (s.serve f k after) := by
  unfold State.serve
  split
  · split
    · dsimp only
      split
      · exact Memory.Kept.foldl _ (fun s q => State.setRequest_kept) _ _
      · split
        · exact Memory.Kept.trans (serveAll_kept (fun e => hk e) ‹_›) (hafter _ _)
        · exact Memory.Kept.refl _
    · exact Memory.Kept.refl _
  · exact Memory.Kept.refl _

theorem State.takeLine_kept : Memory.Kept s (s.takeLine r bytes) := by
  unfold State.takeLine
  dsimp only
  split
  · exact (dropL1_reads _ _ _ _).1.trans (dropRdc_stores _ _ _ _).1
  · split
    · split
      · exact (dropL1_reads _ _ _ _).1
      · exact (dropL1_reads _ _ _ _).1.trans (fillL1_reads _ _ _ _ _ _).1
    · split
      · exact (dropL1_reads _ _ _ _).1.trans (fillRdc_reads _ _ _ _ _).1
      · exact ((dropL1_reads _ _ _ _).1.trans (fillRdc_reads _ _ _ _ _).1).trans (fillL1_reads _ _ _ _ _ _).1

theorem serveLoad_kept (e : serveLoad s r = .ok (x, t)) : Memory.Kept s t := by
  unfold serveLoad at e
  dsimp only at e
  split at e
  · cases e; exact (serveRead_reads ‹_›).1.trans State.takeLine_kept
  · split at e
    · cases e
    · cases e; exact (serveRead_reads ‹_›).1

theorem lastDrop_kept : Memory.Kept s (lastDrop r s) := by
  unfold lastDrop
  split
  · split
    · exact dropHome_kept
    · exact Memory.Kept.refl _
  · exact Memory.Kept.refl _

theorem execHomeWrite_kept : Memory.KeptOut s (execHomeWrite s) := by
  unfold execHomeWrite
  refine State.serve_kept (fun e => ?_) (fun a0 u => ?_)
  · dsimp only at e
    split at e
    · cases e
    · cases e; exact (serveWrite_writes ‹_›).1.trans (dropLine_stores _ _ _ _).1
  · exact Memory.Kept.refl _

theorem execAtomicPerform_kept : Memory.KeptOut s (execAtomicPerform s) := by
  unfold execAtomicPerform
  refine State.serve_kept (fun e => ?_) (fun a0 u => ?_)
  · dsimp only at e
    split at e
    · cases e
    · cases e; exact (atomicAt_kept ‹_›).trans (dropLine_stores _ _ _ _).1
  · exact Memory.Kept.refl _

theorem State.lateTrap_kept : Memory.Kept s (s.lateTrap l code) := by
  unfold State.lateTrap
  split
  · exact Memory.Kept.refl _
  · dsimp only
    split
    · exact State.trapOfRetired_kept _ _ _
    · split
      · exact Memory.Kept.refl _
      · split
        · split
          · exact (State.focus_kept ‹_›).trans (haltWith_kept _ _ _ _)
          · exact (State.focus_kept ‹_›).trans (State.onW_kept _ _)
        · split
          · exact (State.focus_kept ‹_›).trans (haltWith_kept _ _ _ _)
          · exact (State.focus_kept ‹_›).trans (State.onW_kept _ _)

theorem State.landed_kept : Memory.Kept s (s.landed r f lines) := by
  unfold State.landed
  dsimp only
  split
  · exact State.land_kept rfl
  · exact (State.land_kept rfl).trans State.dropReturn_kept

theorem State.failAll_kept : Memory.Kept s (s.failAll l code) :=
  Memory.Kept.trans (Memory.Kept.foldl _ (fun _ _ => State.landed_kept) _ _) State.lateTrap_kept

theorem execReturnArrival_kept : Memory.KeptOut s (execReturnArrival s) := by
  unfold execReturnArrival
  split
  · dsimp only
    split
    · exact Memory.Kept.refl _
    · split
      · refine Memory.Kept.foldl _ (fun s q => ?_) _ _
        split
        · exact State.dropRequest_kept.trans State.landed_kept
        · exact Memory.Kept.refl _
      · split
        · exact Memory.Kept.refl _
        · exact Memory.Kept.trans (Memory.Kept.foldl _ (fun s q => State.dropRequest_kept) _ _) State.failAll_kept
      · exact Memory.Kept.refl _
  · exact Memory.Kept.refl _

theorem execRequestTimeout_kept : Memory.KeptOut s (execRequestTimeout s) := by
  unfold execRequestTimeout
  split
  · dsimp only
    split
    · exact Memory.Kept.trans (Memory.Kept.foldl _ (fun s q => State.setRequest_kept) _ _) State.failAll_kept
    · exact Memory.Kept.refl _
  · exact Memory.Kept.refl _

theorem execLateReplyDiscard_kept : Memory.KeptOut s (execLateReplyDiscard s) := by
  unfold execLateReplyDiscard
  split
  · split
    · exact State.dropRequest_kept
    · exact Memory.Kept.refl _
  · exact Memory.Kept.refl _

theorem fillRecord_kept : Memory.Kept s (fillRecord s g asid p) := deliver_kept _ _ _

theorem execStashFill_kept : Memory.KeptOut s (execStashFill s) := by
  unfold execStashFill
  dsimp only
  split
  · exact Memory.Kept.refl _
  · split
    · exact fillLine_kept
    · split
      · exact fillLine_kept.trans (State.setCore_kept _ _ _)
      · exact Memory.Kept.trans (fillLine_kept.trans (State.setCore_kept _ _ _))
            (Memory.Kept.foldl _ (fun t p => fillRecord_kept) _ _)

theorem execDirectoryRegistration_kept : Memory.KeptOut s (execDirectoryRegistration s) := by
  unfold execDirectoryRegistration
  dsimp only
  split
  · exact Memory.Kept.refl _
  · split
    · exact Memory.Kept.refl _
    · split
      · exact Memory.Kept.refl _
      · split
        · exact (translate_reads ‹_›).1.trans registerBlock_kept
        · exact (translate_reads ‹_›).1

theorem execRecall_kept : Memory.KeptOut s (execRecall s) := by
  unfold execRecall
  dsimp only
  split
  · exact Memory.Kept.refl _
  · exact (recallBlock_reads _ _).1

theorem execPageWalk_kept : Memory.KeptOut s (execPageWalk s) := by
  unfold execPageWalk
  dsimp only
  split
  · exact (translate_reads ‹_›).1
  · exact Memory.Kept.refl _

/-! ### The matrix unit (`Machine/Matrix.lean`) -/

theorem State.enqueue_kept : Memory.Kept s (s.enqueue o) :=
  (State.setPair_kept.of_update.trans State.expect_kept).trans (State.onW_kept _ _)

theorem State.matBegin_kept (hk : ∀ a0, Memory.Kept s (k a0)) :
    Memory.Kept s (s.matBegin a named runs dsts tile k) := by
  unfold State.matBegin
  refine State.laneBegin_kept _ _ _ _ (fun act => ?_) _
  split
  · exact State.trapDecode_kept _ _
  · split
    · exact State.laneNext_kept _ _
    · dsimp only
      split
      · exact State.stall_kept _
      · split
        · exact hk _
        · split
          · exact State.fetchLine_kept _ _ _
          · exact (hk _).trans (State.useLines_kept _ _ _ _)

/-- Seven checks that trap, in their order, and the operation queued. -/
theorem State.mmaIssue_kept : Memory.Kept s (s.mmaIssue a kind) := by
  unfold State.mmaIssue
  refine State.matBegin_kept fun act => ?_
  have trap {code detail addr} : Memory.Kept s (s.trapL code detail addr act false) := State.trapL_kept _ _ _ _ _ _
  exact .ite trap (.ite trap (.ite trap (.ite trap (.ite trap (.ite trap (.ite trap
    (State.enqueue_kept.trans (State.laneNext_kept _ _))))))))

theorem State.maccOut_kept : Memory.Kept s (s.maccOut a kind) := by
  unfold State.maccOut
  refine State.matBegin_kept (fun a0 => ?_)
  dsimp only
  split
  · exact State.trapL_kept _ _ _ _ _ _
  · split
    · exact State.trapL_kept _ _ _ _ _ _
    · exact Memory.Kept.trans (Memory.Kept.trans (State.enqueue_kept.trans (State.onW_kept _ _))
          (Memory.Kept.foldl _ (fun s n => State.setX_kept _ _ _) _ _)) (State.laneNext_kept _ _)

theorem execMaccIn_kept : Memory.KeptOut s (execMaccIn a s) := by
  unfold execMaccIn
  dsimp only
  refine State.matBegin_kept (fun a0 => ?_)
  split
  · exact State.trapL_kept _ _ _ _ _ _
  · split
    · exact State.trapL_kept _ _ _ _ _ _
    · split
      · exact State.trapL_kept _ _ _ _ _ _
      · exact State.enqueue_kept.trans (State.laneNext_kept _ _)

theorem State.paired_kept (h : Memory.Kept s k) : Memory.Kept s (s.paired act k) := by
  unfold State.paired
  split
  · exact State.trapL_kept _ _ _ _ _ _
  · exact h

theorem execMfence_kept : Memory.KeptOut s (execMfence a s) := by
  unfold execMfence
  refine State.laneBegin_kept _ _ _ _ (fun act => ?_) _
  refine State.paired_kept ?_
  split
  · exact State.laneNext_kept _ _
  · dsimp only
    exact ((State.markPtc_kept.of_update.trans (State.onW_kept _ _)).trans State.setS_kept).trans
        (State.laneNext_kept _ _)

theorem execMwait_kept : Memory.KeptOut s (execMwait a s) := by
  unfold execMwait
  refine State.laneBegin_kept _ _ _ _ (fun act => ?_) _
  dsimp only
  refine State.paired_kept ?_
  split
  · split
    · exact State.laneNext_kept _ _
    · exact State.stall_kept _
  · split
    · exact State.laneNext_kept _ _
    · exact State.stall_kept _

theorem landColumn_kept : Memory.Kept s (landColumn s o j c) :=
  (State.setCore_kept _ _ _).trans (State.setCore_kept _ _ _)

theorem readRanges_kept (e : readRanges g lid asid l s = .ok (x, t)) : Memory.Kept s t := by
  induction l generalizing s t x with
  | nil =>
    unfold readRanges at e
    cases e; exact Memory.Kept.refl _
  | cons a l ih =>
    unfold readRanges at e
    split at e
    · cases e
    · split at e
      · cases e
      · cases e; exact (stashRead_kept ‹_›).trans (ih ‹_›)

theorem State.setHead_kept : Memory.Kept s (s.setHead q o) := State.setPair_kept

theorem opTrap_kept : Memory.Kept s (opTrap s o code addr) := by
  unfold opTrap
  dsimp only
  split
  · exact State.mapWaves_kept _ _
  · exact State.trapOfRetired_kept _ _ _

theorem matCancel_kept : Memory.Kept s (matCancel s q o code addr) := State.setPair_kept.trans opTrap_kept

theorem matFail_kept : Memory.Kept s (matFail s q o a) := by
  unfold matFail
  split
  · exact State.setHead_kept
  · exact State.setHead_kept.trans (deliver_kept _ _ _)
  · exact (deliver_kept _ _ _).trans matCancel_kept
  · exact matCancel_kept
  · exact matCancel_kept

theorem matColumns_kept : Memory.Kept s (matColumns q n a s) := by
  induction n generalizing s a with
  | zero =>
    unfold matColumns
    exact State.setHead_kept
  | succ n ih =>
    unfold matColumns
    dsimp only
    split
    · exact matFail_kept
    · exact ((readRanges_kept ‹_›).trans landColumn_kept).trans ih

theorem setTiles_kept : Memory.Kept s (setTiles s o ws) := (State.setCore_kept _ _ _).trans (State.setCore_kept _ _ _)

theorem collect_kept : Memory.Kept s (collect s o) := by
  unfold collect
  dsimp only
  split
  · exact Memory.Kept.refl _
  · exact State.setCore_kept _ _ _

theorem holdImage_kept : Memory.Kept s (holdImage s o) := State.setCore_kept _ _ _

theorem streamOn_kept : Memory.Kept s (streamOn s q o) := by
  unfold streamOn
  dsimp only
  split
  · split
    · exact matColumns_kept.trans holdImage_kept
    · exact matColumns_kept
  · split
    · exact (collect_kept.trans matColumns_kept).trans holdImage_kept
    · exact collect_kept.trans matColumns_kept

theorem execMatrixOpExecute_kept : Memory.KeptOut s (execMatrixOpExecute s) := by
  unfold execMatrixOpExecute
  dsimp only
  split
  · exact Memory.Kept.refl _
  · split
    · exact Memory.Kept.refl _
    · split
      · exact streamOn_kept
      · exact streamOn_kept
      · exact State.setHead_kept
      · exact setTiles_kept.trans State.setHead_kept
      · exact setTiles_kept.trans State.setHead_kept
      · exact Memory.Kept.refl _

theorem leaveQueue_kept : Memory.Kept s (leaveQueue s q o) := by
  unfold leaveQueue
  dsimp only
  split
  · split
    · exact State.setPair_kept.trans (State.land_kept rfl)
    · exact (State.setPair_kept.trans (State.land_kept rfl)).trans State.dropReturn_kept
  · split
    · exact State.setPair_kept.trans (State.land_kept rfl)
    · exact (State.setPair_kept.trans (State.land_kept rfl)).trans State.dropReturn_kept

theorem execMatrixOpRetire_kept : Memory.KeptOut s (execMatrixOpRetire s) := by
  unfold execMatrixOpRetire
  dsimp only
  split
  · exact Memory.Kept.refl _
  · split
    · exact Memory.Kept.refl _
    · refine Memory.Kept.trans ?_ leaveQueue_kept
      split
      · exact Memory.Kept.refl _
      · exact State.setPair_kept

theorem stampDone_kept : Memory.Kept s (stampDone s q o) := State.setPair_kept.trans leaveQueue_kept

theorem stampDiscard_kept : Memory.Kept s (stampDiscard s q o) := stampDone_kept.trans (deliver_kept _ _ _)

theorem execStampRecordWrite_kept : Memory.KeptOut s (execStampRecordWrite s) := by
  unfold execStampRecordWrite
  dsimp only
  split
  · exact Memory.Kept.refl _
  · split
    · exact Memory.Kept.refl _
    · split
      · exact stampDiscard_kept
      · split
        · exact (coreWrite_kept ‹_›).trans stampDone_kept
        · exact Memory.Kept.refl _
        · exact State.setHead_kept.trans (deliver_kept _ _ _)
        · exact (stampDone_kept.trans (deliver_kept _ _ _)).trans opTrap_kept
        · exact stampDone_kept.trans opTrap_kept
        · exact stampDiscard_kept

/-! ### The life of a launch (`Machine/Grid.lean`) -/

theorem State.launchFault_kept : Memory.Kept s (s.launchFault l access f va pa) := deliver_kept _ _ _

theorem execLaunchRecordParse_kept : Memory.KeptOut s (execLaunchRecordParse s) := by
  unfold execLaunchRecordParse
  split
  · exact Memory.Kept.refl _
  · split
    · exact Memory.Kept.refl _
    · split
      · exact Memory.Kept.refl _
      · dsimp only
        exact ((readLocal_reads ‹_›).1.trans (putLocal_reads _ _ _ _ _).1).update

theorem State.bindPool_kept : Memory.Kept s (s.bindPool l p) := by
  unfold State.bindPool
  dsimp only
  refine Memory.Kept.trans ?_ State.setPool_kept
  split
  · exact Memory.Kept.refl _
  · exact Memory.Kept.of_eq

theorem State.openCapture_kept : Memory.Kept s (s.openCapture l) := by
  unfold State.openCapture
  dsimp only
  split
  · exact Memory.Kept.refl _
  · split
    · exact (writeOr_writes _ _ _ _).1.trans (onLaunch_kept _ _ _)
    · refine Memory.Kept.trans ?_ (onLaunch_kept _ _ _)
      split
      · exact (((writeOr_writes _ _ _ _).1.trans (writeOr_writes _ _ _ _).1).trans (readRange_reads ‹_›).1).trans
            (writeOr_writes _ _ _ _).1
      · exact (writeOr_writes _ _ _ _).1.trans (writeOr_writes _ _ _ _).1

theorem State.placeBlock_kept (e : s.placeBlock lid = some t) : Memory.Kept s t := by
  unfold State.placeBlock at e
  split at e
  · cases e
  · split at e
    · cases e
    · split at e
      · cases e
      · dsimp only at e
        cases e; exact (onLaunch_kept _ _ _).of_update

theorem placeMany_kept : Memory.Kept s (placeMany lid n s) := by
  induction n generalizing s with
  | zero =>
    unfold placeMany
    exact Memory.Kept.refl _
  | succ n ih =>
    unfold placeMany
    exact Memory.Kept.trans (Memory.Kept.getD (fun e => State.placeBlock_kept e)) ih

theorem State.admitLaunch_kept : Memory.Kept s (s.admitLaunch l p) := by
  unfold State.admitLaunch
  dsimp only
  split
  · exact ((State.bindPool_kept.trans (onLaunch_kept _ _ _)).trans State.openCapture_kept).trans placeMany_kept
  · exact (State.bindPool_kept.trans (onLaunch_kept _ _ _)).trans State.openCapture_kept

theorem execLaunchAdmission_kept : Memory.KeptOut s (execLaunchAdmission s) := by
  unfold execLaunchAdmission
  split
  · exact Memory.Kept.refl _
  · split
    · exact State.launchFault_kept
    · exact Memory.Kept.refl _
    · dsimp only
      split
      · split
        · exact (checkRecord_kept ‹_›).trans (onLaunch_kept _ _ _)
        · split
          · split
            · exact (checkRecord_kept ‹_›).trans State.admitLaunch_kept
            · exact (checkRecord_kept ‹_›).trans (onLaunch_kept _ _ _)
          · split
            · exact (checkRecord_kept ‹_›).trans State.admitLaunch_kept
            · exact (checkRecord_kept ‹_›).trans (onLaunch_kept _ _ _)
      · exact (checkRecord_kept ‹_›).trans (onLaunch_kept _ _ _)

theorem zeroFrame_kept : Memory.Kept s (zeroFrame s w pa k) := by
  unfold zeroFrame
  dsimp only
  refine Memory.Kept.trans ?_ (Memory.Kept.foldl _ (fun s g => State.forgetLines_kept) _ _)
  refine Memory.Kept.update ?_
  split
  · exact (zeroRange_reads _ _ _ _).1
  · exact (Memory.Reads.maps s s.directory (Sparse.wf_clear _ _ _) id id id id).1

theorem State.captureStart_kept : Memory.Kept s (s.captureStart l) := by
  unfold State.captureStart
  split
  · exact (writeOr_writes _ _ _ _).1
  · exact Memory.Kept.refl _

theorem State.createWave_kept (e : s.createWave l b p = .ok t) : Memory.Kept s t := by
  unfold State.createWave at e
  split at e
  · cases e
  · dsimp only at e
    split at e
    · cases e
    · split at e
      · cases e
      · split at e
        · cases e
        · cases e; exact Memory.Kept.trans (((((((translate_reads ‹_›).1.trans State.captureStart_kept).trans
              zeroFrame_kept).trans (writeBack_kept ‹_›)).trans State.setPool_kept).update).trans
              (State.onBlock_kept _ _ _ _)) (Memory.Kept.mapGetD
              (fun e => ((State.focus_kept e).trans (State.onW_kept _ _)).trans readBudget_kept))

theorem createMany_kept (e : createMany lid blk n s = (t, x)) : Memory.Kept s t := by
  induction n generalizing s t x with
  | zero =>
    unfold createMany at e
    cases e; exact Memory.Kept.refl _
  | succ n ih =>
    unfold createMany at e
    split at e
    · split at e
      · cases e; exact Memory.Kept.refl _
      · split at e
        · cases e; exact Memory.Kept.refl _
        · exact (State.createWave_kept ‹_›).trans (ih e)
    · cases e; exact Memory.Kept.refl _

theorem execWaveCreation_kept : Memory.KeptOut s (execWaveCreation s) := by
  unfold execWaveCreation
  split
  · split
    · exact (createMany_kept ‹_›).trans (deliver_kept _ _ _)
    · exact createMany_kept ‹_›
  · exact Memory.Kept.refl _

theorem setChords_kept (e : setChords g l l' s = .ok (x, t)) : Memory.Kept s t := by
  induction l' generalizing s t x with
  | nil =>
    unfold setChords at e
    cases e; exact Memory.Kept.refl _
  | cons a l ih =>
    unfold setChords at e
    split at e
    · cases e
    · dsimp only at e
      split at e
      · cases e; exact (readRange_reads ‹_›).1
      · split at e
        · cases e
        · split at e
          · cases e; exact (readRange_reads ‹_›).1.trans (readRange_reads ‹_›).1
          · refine Memory.Kept.trans ?_ (ih e)
            refine Memory.Kept.trans ?_ (setChord_kept rfl)
            split
            · exact ((readRange_reads ‹_›).1.trans (readRange_reads ‹_›).1).trans dropChord_kept
            · exact (readRange_reads ‹_›).1.trans (readRange_reads ‹_›).1

theorem execBlockStart_kept : Memory.KeptOut s (execBlockStart s) := by
  unfold execBlockStart
  split
  · dsimp only
    split
    · exact Memory.Kept.refl _
    · split
      · exact State.launchFault_kept
      · exact Memory.Kept.refl _
      · exact State.sectorLost_kept.trans (endLaunch_kept _ _ _)
      · exact (setChords_kept ‹_›).trans (State.onBlock_kept _ _ _ _)
      · exact (setChords_kept ‹_›).trans (endLaunch_kept _ _ _)
  · exact Memory.Kept.refl _

theorem State.checkBarriers_kept : Memory.Kept s (s.checkBarriers lid blk) :=
  Memory.Kept.foldl _ (fun _ _ => State.checkBarrier_kept) _ _

theorem State.freeWave_kept : Memory.Kept s s.freeWave := by
  unfold State.freeWave
  dsimp only
  refine Memory.Kept.trans ?_ State.checkBarriers_kept
  refine Memory.Kept.trans ?_ (State.onBlock_kept _ _ _ _)
  refine Memory.Kept.update ?_
  split
  · exact (State.leaveCore_kept _).trans State.forgetLines_kept
  · exact (((State.leaveCore_kept _).trans State.forgetLines_kept).trans State.setPool_kept).trans
        State.retryGrow_kept

theorem execWaveRetirement_kept : Memory.KeptOut s (execWaveRetirement s) := by
  unfold execWaveRetirement
  split
  · exact Memory.Kept.refl _
  · split
    · exact Memory.Kept.refl _
    · split
      · split
        · exact (State.focus_kept ‹_›).trans State.freeWave_kept
        · exact Memory.Kept.refl _
      · split
        · exact Memory.Kept.refl _
        · split
          · exact (State.focus_kept ‹_›).trans State.freeWave_kept
          · exact (State.focus_kept ‹_›).trans (State.block_kept _ _)

theorem State.backFailed_kept : Memory.Kept s (s.backFailed l g who code a) := by
  unfold State.backFailed
  split
  · dsimp only
    exact deliver_kept _ _ _
  · exact deliver_kept _ _ _
  · exact endLaunch_kept _ _ _
  · exact Memory.Kept.refl _

theorem State.endChord_kept (e : s.endChord l g retain k c = .ok t) : Memory.Kept s t := by
  unfold State.endChord at e
  dsimp only at e
  split at e
  · cases e
    split
    · exact ((backLines_kept ‹_›).trans dropChord_kept).trans (State.setCore_kept _ _ _)
    · exact (backLines_kept ‹_›).trans dropChord_kept
  · split at e
    · cases e
    · cases e
      split
      · exact ((((backLines_kept ‹_›).trans backLossy_kept).trans State.backFailed_kept).trans dropChord_kept).trans
            (State.setCore_kept _ _ _)
      · exact (((backLines_kept ‹_›).trans backLossy_kept).trans State.backFailed_kept).trans dropChord_kept

theorem endChords_kept (e : endChords l g retain l' s = (t, x)) : Memory.Kept s t := by
  induction l' generalizing s t x with
  | nil =>
    unfold endChords at e
    cases e; exact Memory.Kept.refl _
  | cons a l ih =>
    unfold endChords at e
    split at e
    · cases e; exact Memory.Kept.refl _
    · exact (State.endChord_kept ‹_›).trans (ih e)

theorem State.coreEnded_kept : Memory.Kept s (s.coreEnded l b g) := by
  unfold State.coreEnded
  split
  · exact Memory.Kept.of_eq
  · exact State.onBlock_kept _ _ _ _

theorem execBlockEnd_kept : Memory.KeptOut s (execBlockEnd s) := by
  unfold execBlockEnd
  split
  · dsimp only
    split
    · exact Memory.Kept.refl _
    · split
      · exact (endChords_kept ‹_›).trans State.backFailed_kept
      · exact (endChords_kept ‹_›).trans State.coreEnded_kept
  · exact Memory.Kept.refl _

theorem freeWaves_kept : Memory.Kept s (freeWaves l s) := by
  induction l generalizing s with
  | nil =>
    unfold freeWaves
    exact Memory.Kept.refl _
  | cons a l ih =>
    unfold freeWaves
    split
    · exact ((State.focus_kept ‹_›).trans State.freeWave_kept).trans ih
    · exact ih

theorem endCores_kept (e : endCores l l' s = (t, x)) : Memory.Kept s t := by
  induction l' generalizing s t x with
  | nil =>
    unfold endCores at e
    cases e; exact Memory.Kept.refl _
  | cons a l ih =>
    unfold endCores at e
    split at e
    · cases e; exact endChords_kept ‹_›
    · exact (endChords_kept ‹_›).trans (ih e)

theorem State.completed_kept : Memory.Kept s (s.completed l written) := (State.mapWaves_kept _ _).of_update

theorem execGridCompletion_kept : Memory.KeptOut s (execGridCompletion s) := by
  unfold execGridCompletion
  split
  · exact Memory.Kept.refl _
  · refine .ite (.refl _) ?_
    split
    · exact (endCores_kept ‹_›).trans State.backFailed_kept
    · refine (endCores_kept ‹_›).trans ?_
      extract_lets u l v
      have hv : Memory.Kept _ v := .thenIf freeWaves_kept (writeOr_writes ..).1
      refine .ite (hv.trans State.completed_kept) ?_
      split
      · exact (hv.trans (writeRange_writes ‹_›).1).trans State.completed_kept
      · exact hv.trans State.launchFault_kept
      · exact hv
      · exact (hv.trans State.sectorLost_kept).trans State.completed_kept

theorem watchStalls_kept : Memory.Kept s (watchStalls s) := by
  unfold watchStalls
  split
  · exact Memory.Kept.refl _
  · exact Memory.Kept.of_eq

theorem State.barrierStalled_kept : Memory.Kept s s.barrierStalled := by
  unfold State.barrierStalled
  dsimp only
  split
  · exact Memory.Kept.of_eq
  · split
    · exact (haltWith_kept _ _ _ _).of_update
    · exact (State.onW_kept _ _).of_update

theorem execLaunchStall_kept : Memory.KeptOut s (execLaunchStall s) := by
  unfold execLaunchStall
  split
  · exact Memory.Kept.refl _
  · split
    · exact Memory.Kept.refl _
    · split
      · dsimp only
        exact Memory.Kept.trans (onLaunch_kept _ _ _) (Memory.Kept.foldl _
            (fun s w => Memory.Kept.mapGetD (fun e => (State.focus_kept e).trans State.barrierStalled_kept)) _ _)
      · exact Memory.Kept.refl _

theorem execPooldeadlock_kept : Memory.KeptOut s (execPooldeadlock s) := by
  unfold execPooldeadlock
  split
  · exact Memory.Kept.refl _
  · split
    · exact Memory.Kept.refl _
    · split
      · exact Memory.Kept.refl _
      · dsimp only
        split
        · split
          · exact State.setPool_kept.trans State.retryGrow_kept
          · exact State.mapWaves_kept _ _
        · exact Memory.Kept.refl _

/-! ### Residency (`Machine/Banks.lean`) -/

theorem State.refresh_kept (hk : ∀ u, Memory.Kept u (k u)) : Memory.Kept s (s.refresh k) := by
  unfold State.refresh
  dsimp only
  split
  · exact hk _
  · split
    · exact (((reload_reads ‹_›).1.trans (State.onW_kept _ _)).trans State.forgetLines_kept).trans (hk _)
    · exact (State.onW_kept _ _).trans (deliver_kept _ _ _)
    · exact (((integrityRecord_kept _ _ _ _).of_update).trans (State.onW_kept _ _)).trans (hk _)
    · exact (State.onW_kept _ _).trans (hk _)
    · exact Memory.Kept.refl _

theorem State.begin_kept : Memory.Kept s s.begin := by
  unfold State.begin
  dsimp only
  split
  · exact (State.onW_kept _ _).trans readBudget_kept
  · exact State.onW_kept _ _

theorem execWaveActivation_kept : Memory.KeptOut s (execWaveActivation s) := by
  unfold execWaveActivation
  split
  · exact Memory.Kept.refl _
  · split
    · exact Memory.Kept.refl _
    · refine Memory.Kept.trans ?_ (State.refresh_kept (fun u => ?_))
      · exact State.focus_kept ‹_›
      · dsimp only
        exact (State.setCore_kept _ _ _).trans State.begin_kept

theorem execEntryHoldExpiry_kept : Memory.KeptOut s (execEntryHoldExpiry s) := by
  unfold execEntryHoldExpiry
  split
  · exact Memory.Kept.refl _
  · split
    · exact (State.focus_kept ‹_›).trans (State.orderSwitch_kept _)
    · exact Memory.Kept.refl _

theorem execVoluntarySwitch_kept : Memory.KeptOut s (execVoluntarySwitch s) := by
  unfold execVoluntarySwitch
  split
  · exact Memory.Kept.refl _
  · split
    · exact (State.focus_kept ‹_›).trans (State.switchOut_kept _)
    · exact Memory.Kept.refl _

theorem preloadWaves_kept : Memory.Kept s (preloadWaves l s) := by
  induction l generalizing s with
  | nil =>
    unfold preloadWaves
    exact Memory.Kept.refl _
  | cons a l ih =>
    unfold preloadWaves
    split
    · exact ih
    · split
      · exact Memory.Kept.trans (Memory.Kept.trans (State.focus_kept ‹_›)
            (State.refresh_kept (fun u => State.onW_kept _ _))) ih
      · exact ih

theorem State.saveMemory_kept : Memory.Kept s (s.saveMemory g lid) := by
  unfold State.saveMemory
  dsimp only
  split
  · exact Memory.Kept.refl _
  · split
    · exact Memory.Kept.refl _
    · split
      · exact (putLocal_reads _ _ _ _ _).1
      · split
        · exact Memory.Kept.refl _
        · exact State.takeFrame_kept.trans (putLocal_reads _ _ _ _ _).1

theorem execShadowBankPreload_kept : Memory.KeptOut s (execShadowBankPreload s) := by
  unfold execShadowBankPreload
  dsimp only
  split
  · exact Memory.Kept.refl _
  · split
    · exact Memory.Kept.refl _
    · refine Memory.Kept.trans ?_ (Memory.Kept.foldl _ (fun s g => ?_) _ _)
      · exact State.setPair_kept
      · refine Memory.Kept.trans ?_ (State.setCore_kept _ _ _)
        split
        · split
          · exact preloadWaves_kept
          · exact preloadWaves_kept.trans State.saveMemory_kept
        · exact preloadWaves_kept

theorem execSliceExpiry_kept : Memory.KeptOut s (execSliceExpiry s) := by
  unfold execSliceExpiry
  dsimp only
  split
  · exact Memory.Kept.refl _
  · split
    · exact Memory.Kept.refl _
    · exact State.setPair_kept

theorem arrive_kept (e : arrive s g l lossy = .ok t) : Memory.Kept s t := by
  unfold arrive at e
  extract_lets c c' n put at e
  split at e
  · cases e; exact State.setCore_kept _ _ _
  · split at e
    · cases e; exact (State.setCore_kept _ _ _).of_update
    · split at e
      · cases e
      · cases e; exact (readRange_reads ‹_›).1.trans (State.setCore_kept _ _ _)

theorem beginAll_kept : Memory.Kept s (beginAll g l s) := by
  induction l generalizing s with
  | nil =>
    unfold beginAll
    exact Memory.Kept.refl _
  | cons a l ih =>
    unfold beginAll
    split
    · exact ih
    · split
      · dsimp only
        exact (((State.focus_kept ‹_›).trans (State.setCore_kept _ _ _)).trans State.begin_kept).trans ih
      · exact ih

theorem switchCore_kept : Memory.Kept s (switchCore incoming g s) :=
  (((State.mapWaves_kept _ _).trans (State.setCore_kept _ _ _)).trans State.trimLines_kept).trans beginAll_kept

theorem arriveAll_kept (e : arriveAll l l' s = (t, x)) : Memory.Kept s t := by
  induction l' generalizing s t x with
  | nil =>
    unfold arriveAll at e
    cases e; exact Memory.Kept.refl _
  | cons a l ih =>
    unfold arriveAll at e
    split at e
    · exact ih e
    · split at e
      · exact (arrive_kept ‹_›).trans (ih e)
      · split at e
        · cases e; exact Memory.Kept.refl _
        · split at e
          · exact ((arrive_kept ‹_›).trans State.backFailed_kept).trans (ih e)
          · exact ih e

theorem execShadowBankSwitch_kept : Memory.KeptOut s (execShadowBankSwitch s) := by
  unfold execShadowBankSwitch
  dsimp only
  split
  · exact Memory.Kept.refl _
  · split
    · exact Memory.Kept.refl _
    · split
      · exact (arriveAll_kept ‹_›).trans State.backFailed_kept
      · exact Memory.Kept.trans (Memory.Kept.trans (arriveAll_kept ‹_›)
            (Memory.Kept.foldl _ (fun s g => switchCore_kept) _ _)) State.setPair_kept

theorem spillWaves_kept : Memory.Kept s (spillWaves g l s) := by
  induction l generalizing s with
  | nil =>
    unfold spillWaves
    exact Memory.Kept.refl _
  | cons a l ih =>
    unfold spillWaves
    split
    · exact ih
    · dsimp only
      split
      · exact ((writeBack_kept ‹_›).trans (State.mapWaves_kept _ _)).trans ih
      · exact ((State.mapWaves_kept _ _).trans (deliver_kept _ _ _)).trans ih
      · exact ih
      · exact ((State.frameLost_kept _ _ _ _ _ _).trans (State.mapWaves_kept _ _)).trans ih

theorem spillChords_kept (e : spillChords l g l' s = (t, x)) : Memory.Kept s t := by
  induction l' generalizing s t x with
  | nil =>
    unfold spillChords at e
    cases e; exact Memory.Kept.refl _
  | cons a l ih =>
    unfold spillChords at e
    dsimp only at e
    split at e
    · exact ((backLines_kept ‹_›).trans (State.setCore_kept _ _ _)).trans (ih e)
    · split at e
      · cases e; exact backLines_kept ‹_›
      · exact ((((backLines_kept ‹_›).trans backLossy_kept).trans State.backFailed_kept).trans
            (State.setCore_kept _ _ _)).trans (ih e)

theorem saveTiles_kept (e : saveTiles s g l = .ok t) : Memory.Kept s t := by
  unfold saveTiles at e
  split at e
  · cases e; exact Memory.Kept.refl _
  · dsimp only at e
    split at e
    · cases e
    · cases e; exact (writeRange_writes ‹_›).1.trans (State.setCore_kept _ _ _)

theorem spillDone_kept : Memory.Kept s (spillDone s g) := by
  unfold spillDone
  dsimp only
  split
  · exact State.setCore_kept _ _ _
  · split
    · exact (arrive_kept ‹_›).trans (State.setCore_kept _ _ _)
    · split
      · exact State.backFailed_kept
      · split
        · exact ((arrive_kept ‹_›).trans State.backFailed_kept).trans (State.setCore_kept _ _ _)
        · exact Memory.Kept.refl _

theorem execSpillWriteback_kept : Memory.KeptOut s (execSpillWriteback s) := by
  unfold execSpillWriteback
  dsimp only
  split
  · exact Memory.Kept.refl _
  · split
    · exact Memory.Kept.refl _
    · split
      · exact spillWaves_kept
      · split
        · exact spillWaves_kept.trans (State.setCore_kept _ _ _)
        · split
          · exact ((spillWaves_kept.trans (State.setCore_kept _ _ _)).trans (spillChords_kept ‹_›)).trans
                State.backFailed_kept
          · split
            · exact (((spillWaves_kept.trans (State.setCore_kept _ _ _)).trans (spillChords_kept ‹_›)).trans
                  (saveTiles_kept ‹_›)).trans spillDone_kept
            · split
              · exact ((spillWaves_kept.trans (State.setCore_kept _ _ _)).trans (spillChords_kept ‹_›)).trans
                    State.backFailed_kept
              · exact (((spillWaves_kept.trans (State.setCore_kept _ _ _)).trans (spillChords_kept ‹_›)).trans
                    State.backFailed_kept).trans spillDone_kept

theorem execLandingSlotAcquire_kept : Memory.KeptOut s (execLandingSlotAcquire s) := by
  unfold execLandingSlotAcquire
  split
  · exact Memory.Kept.refl _
  · split
    · exact Memory.Kept.refl _
    · split
      · exact (State.focus_kept ‹_›).trans (State.onW_kept _ _)
      · dsimp only
        split
        · exact Memory.Kept.refl _
        · split
          · exact Memory.Kept.refl _
          · exact Memory.Kept.trans ((State.focus_kept ‹_›).trans (State.onW_kept _ _))
                (State.refresh_kept (fun u => ((State.setCore_kept _ _ _).trans (State.onW_kept _ _)).trans
                State.begin_kept))

theorem execLandingSlotExpiry_kept : Memory.KeptOut s (execLandingSlotExpiry s) := by
  unfold execLandingSlotExpiry
  split
  · exact Memory.Kept.refl _
  · dsimp only
    split
    · split
      · exact (State.focus_kept ‹_›).trans (State.orderSwitch_kept _)
      · exact Memory.Kept.refl _
    · split
      · exact (State.focus_kept ‹_›).trans (State.orderSwitch_kept _)
      · exact Memory.Kept.refl _

theorem State.fill_kept (hk : ∀ u, Memory.Kept u (k u)) : Memory.KeptOut s (s.fill ok k) := by
  unfold State.fill
  split
  · exact Memory.Kept.refl _
  · split
    · exact ((State.focus_kept ‹_›).update).trans (hk _)
    · exact Memory.Kept.refl _

theorem execRegisterCacheFill_kept : Memory.KeptOut s (execRegisterCacheFill s) := by
  unfold execRegisterCacheFill
  dsimp only
  refine State.fill_kept (fun u => ?_)
  split
  · exact Memory.Kept.refl _
  · exact State.fetchLine_kept _ _ _

theorem execOperandFileFill_kept : Memory.KeptOut s (execOperandFileFill s) := by
  unfold execOperandFileFill
  dsimp only
  refine State.fill_kept (fun u => ?_)
  split
  · exact Memory.Kept.refl _
  · exact State.fetchLine_kept _ _ _

theorem execSplitEntryFill_kept : Memory.KeptOut s (execSplitEntryFill s) := by
  unfold execSplitEntryFill
  dsimp only
  exact State.fill_kept (fun u => Memory.Kept.update (Memory.Kept.trans Memory.Kept.of_eq
      (State.frameMiss_kept _ _ _ _ _ (fun u => State.useEntry_kept))))

/-! ### Cross-lane operations (`Machine/CrossLane.lean`) -/

theorem State.crossLane_kept : Memory.Kept s (s.crossLane a srcs wide code f) := by
  unfold State.crossLane
  dsimp only
  refine State.laneBegin_kept _ _ _ _ (fun act => ?_) _
  split
  · exact State.trapL_kept _ _ _ _ _ _
  · exact State.laneResult_kept _ _ _ _ _ _ _

theorem State.crossLaneAny_kept : Memory.Kept s (s.crossLaneAny a code f) := by
  unfold State.crossLaneAny
  split
  · exact State.laneBegin_kept _ _ _ _ (fun act => State.laneNext_kept _ _) _
  · exact State.crossLane_kept

/-! ### The copy engines (`Machine/Engines.lean`) -/

theorem engRead_kept (e : engRead s m q va n = .ok (x, t)) : Memory.Kept s t :=
  captureTouchFor_kept.trans (homeReadAll_reads _ e).1

theorem engLastUse_kept : Memory.Kept s (engLastUse s s0 q vas next) := by
  unfold engLastUse
  split
  · exact Memory.Kept.refl _
  · dsimp only
    refine Memory.Kept.foldl _ (fun t l => ?_) _ _
    split
    · exact dropHome_kept
    · exact Memory.Kept.refl _

theorem engWrite_kept (e : engWrite s n q va bytes = .ok t) : Memory.Kept s t :=
  captureTouchFor_kept.trans (homeWriteAll_writes _ e).1

theorem readRuns_kept : Memory.Kept s (readRuns e q down fuel l s).2.1 := by
  induction fuel generalizing l s with
  | zero => exact Memory.Kept.refl _
  | succ fuel ih =>
    unfold readRuns
    split
    · exact Memory.Kept.refl _
    · dsimp only
      split
      · exact Memory.Kept.refl _
      · exact (engRead_kept ‹_›).trans ih

theorem copyChunk_kept (e : copyChunk lim s n q = (t, x)) : Memory.Kept s t := by
  unfold copyChunk at e
  extract_lets total down place js m js' src r r' bytes fail at e
  have hr : Memory.Kept s r'.2.1 := readRuns_kept.trans engLastUse_kept
  split at e
  · cases e; exact hr
  · rename_i first w _
    have hw : ∀ {u}, w = .ok u → Memory.Kept r'.2.1 u := by
      intro u h
      dsimp only [w] at h
      split at h
      · exact engWrite_kept h
      · exact engWrite_kept h
    clear_value w
    split at e
    · cases e; exact hr
    · cases e; exact hr.trans (hw rfl)

theorem reduceRead_kept (e : reduceRead s n q = (t, x)) : Memory.Kept s t := by
  unfold reduceRead at e
  dsimp only at e
  split at e
  · cases e; exact Memory.Kept.refl _
  · split at e
    · cases e; exact (engRead_kept ‹_›).trans engLastUse_kept
    · cases e; exact ((engRead_kept ‹_›).trans engLastUse_kept).trans (engRead_kept ‹_›)

theorem reduceElement_kept (e : reduceElement s n q = (t, x)) : Memory.Kept s t := by
  unfold reduceElement at e
  dsimp only at e
  split at e
  · exact reduceRead_kept e
  · split at e
    · cases e; exact Memory.Kept.refl _
    · cases e; exact engWrite_kept ‹_›

theorem tileChecks_kept (e : tileChecks n q a s = .ok t) : Memory.Kept s t := by
  induction a generalizing s t with
  | nil =>
    unfold tileChecks at e
    cases e; exact Memory.Kept.refl _
  | cons a l ih =>
    unfold tileChecks at e
    dsimp only at e
    split at e
    · cases e
    · split at e
      · cases e
      · split at e
        · exact (captureTouchFor_kept.trans (translate_reads ‹_›).1).trans (ih e)
        · split at e
          · cases e
          · exact ((captureTouchFor_kept.trans (translate_reads ‹_›).1).trans (engRead_kept ‹_›)).trans (ih e)

theorem cellWrites_kept (e : cellWrites m q n l s = .ok t) : Memory.Kept s t := by
  induction n generalizing s l t with
  | zero =>
    unfold cellWrites at e
    cases e; exact Memory.Kept.refl _
  | succ n ih =>
    unfold cellWrites at e
    split at e
    · cases e; exact Memory.Kept.refl _
    · dsimp only at e
      split at e
      · cases e
      · exact (engWrite_kept ‹_›).trans (ih e)

theorem copyTile_kept (e : copyTile lim s n q = (t, x)) : Memory.Kept s t := by
  unfold copyTile at e
  dsimp only at e
  split at e
  · cases e; exact readRuns_kept.trans engLastUse_kept
  · split at e
    · cases e; exact readRuns_kept.trans engLastUse_kept
    · split at e
      · cases e
        rename_i e _
        split at e
        · exact (readRuns_kept.trans engLastUse_kept).trans (tileChecks_kept e)
        · cases e; exact readRuns_kept.trans engLastUse_kept
      · cases e
        refine Memory.Kept.trans ?_ (cellWrites_kept ‹_›)
        rename_i e _ _
        split at e
        · exact (readRuns_kept.trans engLastUse_kept).trans (tileChecks_kept e)
        · cases e; exact readRuns_kept.trans engLastUse_kept

theorem runCommand_kept (e : runCommand eng fuel lim s q = (t, x)) : Memory.Kept s t := by
  induction fuel generalizing s t lim q x with
  | zero => cases e; exact Memory.Kept.refl _
  | succ fuel ih =>
    unfold runCommand at e
    split at e
    · cases e; exact Memory.Kept.refl _
    · extract_lets r at e
      have hr : Memory.Kept s r.1 := by
        simp only [r]
        split
        · exact copyTile_kept rfl
        · split
          · exact reduceElement_kept rfl
          · exact copyChunk_kept rfl
      clear_value r
      split at e
      · cases e; exact hr
      · exact hr.trans (ih e)

theorem engFailed_kept (e : engFailed s n q write a = (t, x)) : Memory.Kept s t := by
  unfold engFailed at e
  split at e
  · dsimp only at e
    split at e <;> (cases e; exact deliver_kept _ _ _)
  · cases e; exact Memory.Kept.refl _
  · cases e; exact deliver_kept _ _ _
  · cases e; exact Memory.Kept.refl _
  · cases e; exact Memory.Kept.refl _

theorem engStep_kept (e : engStep s n parts q = (t, x)) : Memory.Kept s t := by
  unfold engStep at e
  extract_lets q' at e
  split at e
  · cases e; exact Memory.Kept.refl _
  · split at e
    · cases e; exact Memory.Kept.refl _
    · split at e
      · exact (runCommand_kept ‹_›).trans (engFailed_kept e)
      · exact (runCommand_kept ‹_›).trans (engFailed_kept e)
      · cases e; exact runCommand_kept ‹_›

theorem execEngineCommandStart_kept : Memory.KeptOut s (execEngineCommandStart s) := by
  unfold execEngineCommandStart
  dsimp only
  split
  · exact Memory.Kept.refl _
  · split
    · exact Memory.Kept.refl _
    · exact (engStep_kept rfl).trans State.setEngine_kept

theorem wakeEngine_kept : Memory.Kept s (wakeEngine s) := State.mapWaves_kept _ _

theorem slotReturn_kept : Memory.Kept s (slotReturn s e q code) := by
  unfold slotReturn
  extract_lets n img u x
  have hx : Memory.Kept s x.2 := State.setEngine_kept.trans (State.land_kept (Prod.mk.eta (p := x)).symm)
  clear_value x
  refine Memory.Kept.trans ?_ wakeEngine_kept
  split
  · exact hx
  · exact hx.trans State.dropReturn_kept

theorem execEngineCompletion_kept : Memory.KeptOut s (execEngineCompletion s) := by
  unfold execEngineCompletion
  dsimp only
  split
  · exact Memory.Kept.refl _
  · split
    · exact Memory.Kept.refl _
    · split
      · exact Memory.Kept.refl _
      · split
        · split
          · exact Memory.Kept.refl _
          · exact State.setEngine_kept.trans slotReturn_kept
        · split
          · refine Memory.Kept.trans ?_ State.setEngine_kept
            split
            · exact State.setCcp_kept _ _ _
            · exact Memory.Kept.refl _
          · refine Memory.Kept.trans ?_ slotReturn_kept
            refine Memory.Kept.trans ?_ State.setEngine_kept
            split
            · exact State.setCcp_kept _ _ _
            · exact Memory.Kept.refl _

theorem execEventRecordRead_kept : Memory.KeptOut s (execEventRecordRead s) := by
  unfold execEventRecordRead
  dsimp only
  split
  · exact Memory.Kept.refl _
  · exact State.setCcp_kept _ _ _

/-! ### What comes due in a wave (`Machine/Events.lean`) -/

theorem State.about_kept (hk : ∀ u, Memory.Kept u (k u)) : Memory.KeptOut s (s.about ok k) := by
  unfold State.about
  split
  · exact Memory.Kept.refl _
  · split
    · exact (State.focus_kept ‹_›).trans (hk _)
    · exact Memory.Kept.refl _

theorem execLaneBlockStart_kept : Memory.KeptOut s (execLaneBlockStart s) := by
  unfold execLaneBlockStart
  refine State.about_kept (fun u => ?_)
  dsimp only
  exact ((State.onW_kept _ _).of_update).trans State.endBlock_kept

theorem execSplitTableExhaustion_kept : Memory.KeptOut s (execSplitTableExhaustion s) := by
  unfold execSplitTableExhaustion
  refine State.about_kept (fun u => ?_)
  split
  · exact Memory.Kept.refl _
  · dsimp only
    exact ((State.setEntry_kept _ _).of_update).trans (State.trapL_kept _ _ _ _ _ _)

theorem execIssueBoost_kept : Memory.KeptOut s (execIssueBoost s) := by
  unfold execIssueBoost
  dsimp only
  refine State.about_kept (fun u => ?_)
  split
  · split
    · split
      · exact (State.setEntry_kept _ _).of_update
      · exact Memory.Kept.refl _
    · exact Memory.Kept.refl _
  · split
    · exact State.onW_kept _ _
    · exact Memory.Kept.refl _

theorem execGwaitPollExpiry_kept : Memory.KeptOut s (execGwaitPollExpiry s) := by
  unfold execGwaitPollExpiry
  refine State.about_kept (fun u => ?_)
  split
  · split
    · split
      · exact gridObject_kept ‹_›
      · exact (gridObject_kept ‹_›).trans (State.onW_kept _ _)
    · exact Memory.Kept.refl _
  · exact Memory.Kept.refl _

theorem execHaltLatchTimeout_kept : Memory.KeptOut s (execHaltLatchTimeout s) := by
  unfold execHaltLatchTimeout
  refine State.about_kept (fun u => ?_)
  dsimp only
  exact State.takeLatchAt_kept _ _

theorem State.timerTrap_kept : Memory.Kept s (s.timerTrap code detail) := by
  unfold State.timerTrap
  dsimp only
  split
  · exact State.onW_kept _ _
  · exact (takeTrap_kept _ _).of_update

theorem execSampleTimerExpiry_kept : Memory.KeptOut s (execSampleTimerExpiry s) := by
  unfold execSampleTimerExpiry
  refine State.about_kept (fun u => ?_)
  dsimp only
  exact (State.onW_kept _ _).trans (traceRecord_writes _ _ _ _ _ _ _).1

/-! ### What firmware does for a wave (`Machine/Service.lean`) -/

theorem State.staysHalted_kept : Memory.Kept s s.staysHalted :=
  (State.onW_kept _ _).trans (State.storeHalted_kept _ _)

theorem State.inTransit_kept : Memory.Kept s s.inTransit := by
  unfold State.inTransit
  split
  · exact State.sendHome_kept _
  · exact Memory.Kept.refl _

theorem State.unpark_kept : Memory.Kept s s.unpark := by
  unfold State.unpark
  split
  · exact Memory.Kept.refl _
  · split
    · exact State.staysHalted_kept
    · split
      · exact State.onW_kept _ _
      · exact State.refresh_kept (fun u => (State.onW_kept _ _).trans State.inTransit_kept)

theorem State.performed_kept (hk : ∀ u, Memory.Kept u (k u)) : Memory.Kept s (s.performed k) := by
  unfold State.performed
  refine State.refresh_kept (fun u => ?_)
  dsimp only
  split
  · exact ((hk _).trans (State.onW_kept _ _)).trans State.staysHalted_kept
  · exact ((hk _).trans (State.onW_kept _ _)).trans State.inTransit_kept

theorem pathEntry_kept (e : pathEntry es s table i = (t, x)) : Memory.Kept s t := by
  unfold pathEntry at e
  dsimp only at e
  split at e
  · cases e; exact Memory.Kept.refl _
  · cases e
    split
    · exact (putLocal_reads _ _ _ _ _).1.trans (zeroRange_reads _ _ _ _).1
    · exact (putLocal_reads _ _ _ _ _).1

theorem writePath_kept : Memory.Kept s (writePath es s asid va) := by
  unfold writePath
  split
  · exact Memory.Kept.refl _
  · dsimp only
    exact ((pathEntry_kept rfl).trans (pathEntry_kept rfl)).trans (pathEntry_kept rfl)

theorem mapPage_kept (e : mapPage s r es = some t) : Memory.Kept s t := by
  unfold mapPage at e
  dsimp only at e
  split at e
  · cases e
  · split at e
    · cases e; exact writePath_kept
    · cases e
  · split at e
    · cases e
    · split at e
      · cases e
        split
        · exact writePath_kept.trans (zeroRange_reads _ _ _ _).1
        · exact writePath_kept
      · split at e
        · cases e
          refine Memory.Kept.trans ?_ State.takeFrame_kept
          split
          · exact writePath_kept.trans (zeroRange_reads _ _ _ _).1
          · exact writePath_kept
        · cases e

theorem State.deliverTrap_kept : Memory.Kept s (s.deliverTrap u halts) := by
  unfold State.deliverTrap
  dsimp only
  split
  · split
    · exact haltWith_kept _ _ _ _
    · split <;> exact State.onW_kept _ _
  · split
    · exact haltWith_kept _ _ _ _
    · split <;> exact State.onW_kept _ _

theorem loseChords_kept : Memory.Kept s (loseChords s g l) := Memory.Kept.foldl _ (fun _ _ => backLossy_kept) _ _

theorem State.launchFatal_kept : Memory.Kept s (s.launchFatal lid r) := by
  unfold State.launchFatal
  split
  · exact Memory.Kept.refl _
  · split
    · exact loseChords_kept.trans (endLaunch_kept _ _ _)
    · split
      · exact Memory.Kept.refl _
      · split
        · exact State.completed_kept
        · split
          · exact onLaunch_kept _ _ _
          · exact endLaunch_kept _ _ _

theorem State.spillFatal_kept : Memory.Kept s (s.spillFatal g r) := by
  unfold State.spillFatal
  dsimp only
  split
  · exact Memory.Kept.refl _
  · refine Memory.Kept.trans ?_ (endLaunch_kept _ _ _)
    split
    · exact loseChords_kept
    · exact Memory.Kept.refl _

theorem State.fatal_kept : Memory.Kept s (s.fatal r) := by
  unfold State.fatal
  split
  · exact Memory.Kept.refl _
  · split
    · exact Memory.Kept.refl _
    · exact ((State.focus_kept ‹_›).trans State.unpark_kept).trans (.ite (.refl _) State.deliverTrap_kept)
  · split
    · exact Memory.Kept.refl _
    · exact (State.focus_kept ‹_›).trans (.ite State.unpark_kept (haltWith_kept _ _ _ _))
  · split
    · exact Memory.Kept.refl _
    · exact (((State.focus_kept ‹_›).trans State.unpark_kept).trans (State.onW_kept _ _)).trans
        (.ite (haltWith_kept _ _ _ _) State.holdTrap_kept)
  · split
    · exact Memory.Kept.refl _
    · exact (State.focus_kept ‹_›).trans (State.performed_kept (fun _ => State.retS_kept _ _ _ _))
  · split
    · exact Memory.Kept.refl _
    · exact State.setEngine_kept
  · split
    · exact Memory.Kept.refl _
    · exact .ite stampDiscard_kept matCancel_kept
  · exact State.spillFatal_kept
  · exact State.launchFatal_kept

theorem State.served_kept : Memory.Kept s (s.served r) := by
  unfold State.served
  split
  · exact Memory.Kept.mapGetD (fun e => (State.focus_kept e).trans State.unpark_kept)
  · exact Memory.Kept.mapGetD (fun e => (State.focus_kept e).trans State.unpark_kept)
  · exact Memory.Kept.mapGetD (fun e => (State.focus_kept e).trans State.unpark_kept)
  · exact Memory.Kept.mapGetD (fun e => ((State.focus_kept e).trans State.unpark_kept).trans (State.onW_kept _ _))
  · split
    · exact Memory.Kept.refl _
    · exact State.setEngine_kept
  · split
    · exact Memory.Kept.refl _
    · exact State.setHead_kept
  · exact Memory.Kept.refl _

/-- A record's service keeps the form where it does so after the record is taken out. -/
theorem State.withRecord_kept {k : State → FaultRecord → Out}
    (hk : ∀ u r, Memory.Kept s u → Memory.KeptOut s (k u r)) :
    Memory.KeptOut s (s.withRecord f k) := by
  unfold State.withRecord
  split
  · exact Memory.Kept.refl _
  · exact hk _ _ (State.setCcp_kept _ _ _)

theorem execFaultRecordService_kept : Memory.KeptOut s (execFaultRecordService s) := by
  unfold execFaultRecordService
  refine State.withRecord_kept (fun u r a => ?_)
  split
  · exact a.trans State.fatal_kept
  · split
    · split
      · exact a.trans State.fatal_kept
      · exact Memory.Kept.refl _
    · split
      · exact a.trans State.fatal_kept
      · exact Memory.Kept.refl _
    · split
      · exact Memory.Kept.refl _
      · dsimp only
        exact ((a.trans (mapPage_kept ‹_›)).trans State.setDie_kept).trans State.served_kept

theorem State.past_kept : Memory.Kept s (s.past f) := by
  unfold State.past
  split
  · exact State.onW_kept _ _
  · dsimp only
    exact State.onW_kept _ _

theorem State.emuFrame_kept : Memory.Kept s (s.emuFrame l) := by
  unfold State.emuFrame
  split
  · exact Memory.Kept.trans (framePlace_reads ‹_›).1 (Memory.Kept.foldl _ (fun s p => (putLocal_reads _ _ _ _ _).1) _
        _)
  · exact Memory.Kept.refl _

theorem State.emuMemory_kept : Memory.Kept s (s.emuMemory l) := by
  unfold State.emuMemory
  refine Memory.Kept.foldl _ (fun s p => ?_) _ _
  split
  · exact State.storeNow_kept ‹_›
  · exact Memory.Kept.refl _

theorem execEmuHandler_kept : Memory.KeptOut s (execEmuHandler s) := by
  unfold execEmuHandler
  refine State.withRecord_kept (fun u r a => ?_)
  split
  · split
    · exact a
    · split
      · exact (a.trans (State.focus_kept ‹_›)).trans State.unpark_kept
      · split
        · dsimp only
          exact Memory.Kept.trans ((((a.trans (State.focus_kept ‹_›)).update).trans (fetch_kept ‹_›)).trans
              State.emuFrame_kept) (State.performed_kept (fun u => State.emuMemory_kept.trans State.past_kept))
        · dsimp only
          exact ((((a.trans (State.focus_kept ‹_›)).update).trans (fetch_kept ‹_›)).trans State.unpark_kept).trans
              State.deliverTrap_kept
  · exact a

theorem execFwcallService_kept : Memory.KeptOut s (execFwcallService s) := by
  unfold execFwcallService
  dsimp only
  split
  · exact Memory.Kept.refl _
  · split
    · exact State.setCcp_kept _ _ _
    · split
      · exact State.setCcp_kept _ _ _
      · exact Memory.Kept.trans ((State.setCcp_kept _ _ _).trans (State.focus_kept ‹_›))
            (State.performed_kept (fun u => State.retS_kept _ _ _ _))

/-! ### Firmware commands and resets (`Machine/Firmware.lean`) -/

theorem State.onFw_kept : Memory.Kept s (s.onFw f) := Memory.Kept.of_eq

theorem State.respond_kept : Memory.Kept s (s.respond st result) := State.onFw_kept

theorem State.command_kept (hk : ∀ u, Memory.Kept u (k u)) : Memory.KeptOut s (s.command opc k) := by
  unfold State.command
  split
  · exact hk _
  · exact Memory.Kept.refl _

theorem endAll_kept : Memory.Kept s (endAll s st) := Memory.Kept.foldl _ (fun _ _ => endLaunch_kept _ _ _) _ _

theorem State.notReady_kept : Memory.Kept s s.notReady := State.onFw_kept.trans endAll_kept

theorem State.cleared_kept : Memory.Kept s s.cleared := Memory.Kept.of_eq

theorem State.initMemory_kept : Memory.Kept s s.initMemory :=
  (Memory.Reads.maps s s.directory (Sparse.wf_filter _ _) (fun _ => rfl) (fun _ => rfl) (fun _ => rfl)
      (fun _ => rfl)).1

theorem State.alignDies_kept : Memory.Kept s (s.alignDies skew) :=
  (State.setDie_kept.trans State.setDie_kept).trans State.setDie_kept

theorem State.bringUpStep_kept : Memory.Kept s (s.bringUpStep n) := by
  unfold State.bringUpStep
  split
  · exact State.cleared_kept.trans State.onFw_kept
  · exact State.initMemory_kept
  · dsimp only
    exact (State.alignDies_kept.trans State.spend_kept).trans State.onFw_kept
  · exact State.onFw_kept
  · exact Memory.Kept.refl _

theorem execBringUp_kept : Memory.KeptOut s (execBringUp s) := by
  unfold execBringUp
  split
  · exact Memory.Kept.refl _
  · dsimp only
    split
    · split
      · refine Memory.Kept.trans ?_ State.onFw_kept
        split
        · exact State.cleared_kept
        · exact Memory.Kept.refl _
      · exact Memory.Kept.refl _
    · exact State.bringUpStep_kept.trans State.onFw_kept

theorem execInvalidCommand_kept : Memory.KeptOut s (execInvalidCommand s) := by
  unfold execInvalidCommand
  split
  · exact State.respond_kept
  · exact Memory.Kept.refl _

theorem execQuery_kept : Memory.KeptOut s (execQuery s) := by
  unfold execQuery
  refine State.command_kept (fun u => ?_)
  dsimp only
  exact State.respond_kept

theorem execPowercap_kept : Memory.KeptOut s (execPowercap s) := by
  unfold execPowercap
  refine State.command_kept (fun u => ?_)
  split
  · exact State.respond_kept
  · exact State.onFw_kept.trans State.respond_kept

theorem State.warmClear_kept : Memory.Kept s s.warmClear := Memory.Kept.of_eq

theorem execResetWarm_kept : Memory.KeptOut s (execResetWarm s) := by
  unfold execResetWarm
  split
  · exact Memory.Kept.refl _
  · dsimp only
    split
    · exact endAll_kept.trans State.onFw_kept
    · exact (endAll_kept.trans State.respond_kept).trans State.warmClear_kept

theorem execAsidset_kept : Memory.KeptOut s (execAsidset s) := by
  unfold execAsidset
  refine State.command_kept (fun u => ?_)
  split
  · exact State.respond_kept
  · split
    · exact State.respond_kept
    · exact State.onFw_kept.trans State.respond_kept

theorem execAsidclr_kept : Memory.KeptOut s (execAsidclr s) := by
  unfold execAsidclr
  refine State.command_kept (fun u => ?_)
  split
  · exact State.respond_kept
  · split
    · exact State.respond_kept
    · exact State.onFw_kept.trans State.respond_kept

theorem invalidate_kept : Memory.Kept s (invalidate s asid va n) := Memory.Kept.of_eq

theorem execPartition_kept : Memory.KeptOut s (execPartition s) := by
  unfold execPartition
  refine State.command_kept (fun u => ?_)
  split
  · exact State.respond_kept
  · split
    · exact State.respond_kept
    · exact State.onFw_kept.trans State.respond_kept

theorem execKeyload_kept : Memory.KeptOut s (execKeyload s) := by
  unfold execKeyload
  refine State.command_kept (fun u => ?_)
  split
  · exact State.respond_kept
  · split
    · exact State.respond_kept
    · exact State.onFw_kept.trans State.respond_kept

theorem execKeyclr_kept : Memory.KeptOut s (execKeyclr s) := by
  unfold execKeyclr
  refine State.command_kept (fun u => ?_)
  split
  · exact State.respond_kept
  · split
    · exact State.respond_kept
    · split
      · exact State.respond_kept
      · exact State.onFw_kept.trans State.respond_kept

theorem Sparse.wf_copy {m : Sparse k} (h : Sparse.wf m = true) : Sparse.wf (Sparse.copy m a b n) = true :=
  Sparse.wf_foldl _ (fun m _ hm => Sparse.wf_set m _ _ hm) _ _ (Sparse.wf_clear _ _ _ h)

theorem copyFrame_kept : Memory.Kept s (copyFrame s old new size k) := by
  have h := (((recallRange_reads s new size).trans (State.mend_reads _ old size)).trans
      (State.touchRange_reads _ old size)).1
  unfold copyFrame
  extract_lets bad u m v
  refine (h.trans ?_).trans (State.touchRange_reads _ _ _).1
  exact (Memory.Reads.maps u u.directory
    (fun h => Sparse.wf_foldl _ (fun m c hm => Sparse.wf_set m _ _ hm) _ _ (Sparse.wf_copy h)) id
    (Sparse.wf_clear _ _ _) (Sparse.wf_rekey _ _ _ _) (fun h => Sparse.wf_puts _ _ _ _ (Sparse.wf_clear _ _ _ h))).1

theorem State.movePage_kept : Memory.Kept s (s.movePage asid u new) :=
  Memory.Kept.trans (Memory.Kept.trans (Memory.Kept.update (Memory.Kept.trans
    (Memory.Kept.trans copyFrame_kept (Memory.Kept.foldl _ (fun _ _ => (putLocal_reads _ _ _ _ _).1) _ _))
    invalidate_kept)) State.setDie_kept) State.respond_kept

theorem execPgmove_kept : Memory.KeptOut s (execPgmove s) := by
  unfold execPgmove
  split
  · exact Memory.Kept.refl _
  · split
    · split
      · exact State.respond_kept
      · exact Memory.Kept.refl _
    · dsimp only
      split
      · split
        · exact Memory.Kept.refl _
        · exact State.movePage_kept
      · split
        · exact Memory.Kept.refl _
        · split
          · exact State.respond_kept
          · split
            · exact Memory.Kept.refl _
            · split
              · exact (recallRange_reads _ _ _).1.trans State.setDie_kept
              · exact ((recallRange_reads _ _ _).1.trans State.setDie_kept).trans State.movePage_kept

theorem execQueuecfg_kept : Memory.KeptOut s (execQueuecfg s) := by
  unfold execQueuecfg
  refine State.command_kept (fun u => ?_)
  dsimp only
  split
  · exact State.respond_kept
  · split
    · exact State.respond_kept
    · exact State.respond_kept.of_update

theorem execKill_kept : Memory.KeptOut s (execKill s) := by
  unfold execKill
  refine State.command_kept (fun u => ?_)
  split
  · exact State.respond_kept
  · exact (endLaunch_kept _ _ _).trans State.respond_kept

theorem State.onPool_kept : Memory.Kept s (s.onPool asid desc f) := Memory.Kept.of_eq

theorem execPoolres_kept : Memory.KeptOut s (execPoolres s) := by
  unfold execPoolres
  refine State.command_kept (fun u => ?_)
  split
  · exact State.respond_kept
  · split
    · exact State.respond_kept
    · dsimp only
      refine Memory.Kept.trans ?_ State.respond_kept
      refine Memory.Kept.trans ?_ State.onPool_kept
      split
      · exact Memory.Kept.refl _
      · exact Memory.Kept.of_eq

theorem execPoolrel_kept : Memory.KeptOut s (execPoolrel s) := by
  unfold execPoolrel
  refine State.command_kept (fun u => ?_)
  split
  · exact State.respond_kept
  · split
    · exact State.respond_kept
    · exact State.onPool_kept.trans State.respond_kept

theorem execDomain_kept : Memory.KeptOut s (execDomain s) := by
  unfold execDomain
  refine State.command_kept (fun u => ?_)
  split
  · exact State.respond_kept
  · split
    · exact State.respond_kept
    · exact State.onFw_kept.trans State.respond_kept

theorem execExportEntry_kept : Memory.KeptOut s (execExportEntry s) := by
  unfold execExportEntry
  refine State.command_kept (fun u => ?_)
  split
  · exact State.respond_kept
  · exact State.onFw_kept.trans State.respond_kept

theorem execTrace_kept : Memory.KeptOut s (execTrace s) := by
  unfold execTrace
  refine State.command_kept (fun u => ?_)
  split
  · exact State.respond_kept
  · split
    · exact State.onFw_kept.trans State.respond_kept
    · split
      · exact State.respond_kept
      · exact State.onFw_kept.trans State.respond_kept

theorem execDbgattach_kept : Memory.KeptOut s (execDbgattach s) := by
  unfold execDbgattach
  refine State.command_kept (fun u => ?_)
  split
  · exact State.respond_kept
  · exact (onLaunch_kept _ _ _).trans State.respond_kept

theorem execDbghalt_kept : Memory.KeptOut s (execDbghalt s) := by
  unfold execDbghalt
  refine State.command_kept (fun u => ?_)
  split
  · exact (spreadHalt_kept _ _ _ _ _ _ _ _).trans State.respond_kept
  · exact State.respond_kept

theorem State.resumeHalted_kept : Memory.Kept s (s.resumeHalted i) := by
  unfold State.resumeHalted
  split
  · exact Memory.Kept.refl _
  · split
    · exact (State.focus_kept ‹_›).trans (State.onW_kept _ _)
    · refine Memory.Kept.trans ?_ (State.refresh_kept (fun u => ?_))
      · exact State.focus_kept ‹_›
      · dsimp only
        split
        · exact (State.onW_kept _ _).trans (State.storeHalted_kept _ _)
        · exact State.onW_kept _ _

theorem execDbgresume_kept : Memory.KeptOut s (execDbgresume s) := by
  unfold execDbgresume
  refine State.command_kept (fun u => ?_)
  split
  · split
    · exact State.respond_kept
    · dsimp only
      exact Memory.Kept.trans (Memory.Kept.trans (Memory.Kept.trans
          (Memory.Kept.foldl _ (fun s a => State.resumeHalted_kept) _ _) (State.onBlock_kept _ _ _ _))
          (State.setCcp_kept _ _ _)) State.respond_kept
  · exact State.respond_kept

theorem execDbgdetach_kept : Memory.KeptOut s (execDbgdetach s) := by
  unfold execDbgdetach
  refine State.command_kept (fun u => ?_)
  split
  · exact State.respond_kept
  · split
    · exact State.respond_kept
    · dsimp only
      exact Memory.Kept.trans (Memory.Kept.trans (onLaunch_kept _ _ _)
          (Memory.Kept.foldl _ (fun t b => settleHalt_kept _ _ _) _ _)) State.respond_kept

theorem execAttest_kept : Memory.KeptOut s (execAttest s) := by
  unfold execAttest
  refine State.command_kept (fun u => ?_)
  dsimp only
  split
  · exact State.respond_kept
  · exact (putLocal_reads _ _ _ _ _).1.trans State.respond_kept

theorem execPatch_kept : Memory.KeptOut s (execPatch s) := by
  unfold execPatch
  refine State.command_kept (fun u => .ite State.respond_kept (.ite State.respond_kept ?_))
  split
  · exact State.respond_kept
  · exact .ite State.respond_kept (.ite State.respond_kept (.ite State.respond_kept
      (State.onFw_kept.trans State.respond_kept)))

/-! ### What reaches the package from outside (`Machine/Package.lean`) -/

theorem wakePhys_kept : Memory.Kept s (wakePhys s pa n) := (wakeWrite_writes _ _ _ _ _).1

theorem hostRecord_kept : Memory.Kept s (hostRecord s access addr sec) := deliver_kept _ _ _

theorem State.replyErr_kept : Memory.Kept s s.replyErr := Memory.Kept.of_eq

theorem State.replyWith_kept : Memory.Kept s (s.replyWith l) := Memory.Kept.of_eq

theorem outsideAccess_kept : Memory.Kept s (outsideAccess s addr pa k a) := by
  unfold outsideAccess
  split
  · dsimp only
    exact Memory.Kept.trans (Memory.Kept.trans (Memory.Kept.trans (State.mend_reads _ _ _).1
        (Memory.Kept.foldl _ (fun s sec => hostRecord_kept) _ _)) (State.touch_reads _ _ _ _).1) State.replyWith_kept
  · split
    · exact Memory.Kept.refl _
    · split
      · exact ((writeLocal_reads ‹_›).1.trans wakePhys_kept).trans State.replyWith_kept
      · exact hostRecord_kept.trans State.replyErr_kept
      · exact Memory.Kept.refl _
  · split
    · exact ((atomicLocal_kept ‹_›).trans wakePhys_kept).trans State.replyWith_kept
    · exact hostRecord_kept.trans State.replyErr_kept
    · exact Memory.Kept.refl _

theorem barAccess_kept : Memory.Kept s (barAccess s o a) := by
  unfold barAccess
  split
  · split
    · exact State.replyWith_kept
    · exact State.replyErr_kept
  · split
    · exact State.replyErr_kept
    · refine Memory.Kept.trans ?_ State.replyWith_kept
      refine Memory.Kept.foldl _ (fun s i => ?_) _ _
      dsimp only
      split
      · exact State.onFw_kept
      · exact Memory.Kept.refl _
  · exact State.replyErr_kept

theorem execHostMemoryAccess_kept : Memory.KeptOut s (execHostMemoryAccess s) := by
  unfold execHostMemoryAccess
  dsimp only
  split
  · exact Memory.Kept.refl _
  · split
    · exact barAccess_kept
    · split
      · exact State.replyErr_kept
      · exact outsideAccess_kept

theorem execRemoteAccessTarget_kept : Memory.KeptOut s (execRemoteAccessTarget s) := by
  unfold execRemoteAccessTarget
  dsimp only
  split
  · exact Memory.Kept.refl _
  · split
    · split
      · split
        · exact State.replyErr_kept
        · exact outsideAccess_kept
      · split
        · exact State.replyErr_kept
        · exact outsideAccess_kept
    · exact State.replyErr_kept
    · exact State.replyErr_kept
    · exact Memory.Kept.refl _

theorem State.linkDown_kept : Memory.Kept s (s.linkDown l) := by
  unfold State.linkDown
  dsimp only
  split
  · refine Memory.Kept.trans ?_ State.notReady_kept
    split
    · exact Memory.Kept.refl _
    · exact State.onFw_kept
  · split
    · exact Memory.Kept.refl _
    · exact State.onFw_kept

theorem execLinkCrcError_kept : Memory.KeptOut s (execLinkCrcError s) := by
  unfold execLinkCrcError
  split
  · exact Memory.Kept.refl _
  · exact State.linkDown_kept

theorem State.joinStep_kept : Memory.Kept s (s.joinStep off) := Memory.Kept.of_eq

theorem State.publishPkg_kept : Memory.Kept s s.publishPkg := by
  unfold State.publishPkg
  dsimp only
  split
  · exact State.spend_kept.trans State.onFw_kept
  · exact Memory.Kept.refl _

theorem State.publishDom_kept : Memory.Kept s s.publishDom := by
  unfold State.publishDom
  dsimp only
  split
  · exact State.spend_kept.trans State.onFw_kept
  · exact Memory.Kept.refl _

theorem execTimeAlignmentExchange_kept : Memory.KeptOut s (execTimeAlignmentExchange s) := by
  unfold execTimeAlignmentExchange
  dsimp only
  split
  · exact Memory.Kept.refl _
  · split
    · split
      · exact Memory.Kept.refl _
      · exact State.setDie_kept.trans State.publishPkg_kept
    · split
      · exact Memory.Kept.refl _
      · split
        · exact State.publishDom_kept
        · split
          · exact Memory.Kept.refl _
          · split
            · exact State.joinStep_kept.trans State.onFw_kept
            · exact State.setDie_kept.trans State.publishDom_kept

theorem execThermalThrottle_kept : Memory.KeptOut s (execThermalThrottle s) := by
  unfold execThermalThrottle
  split
  · exact State.onFw_kept
  · exact Memory.Kept.refl _

theorem execThermalExit_kept : Memory.KeptOut s (execThermalExit s) := by
  unfold execThermalExit
  split
  · exact State.onFw_kept
  · exact Memory.Kept.refl _

theorem execThermalTrip_kept : Memory.KeptOut s (execThermalTrip s) := by
  unfold execThermalTrip
  split
  · exact State.notReady_kept.trans State.onFw_kept
  · exact Memory.Kept.refl _

theorem execBoardPowerLimit_kept : Memory.KeptOut s (execBoardPowerLimit s) := by
  unfold execBoardPowerLimit
  split
  · exact State.onFw_kept
  · exact Memory.Kept.refl _

theorem execHostLinkTraining_kept : Memory.KeptOut s (execHostLinkTraining s) := by
  unfold execHostLinkTraining
  split
  · exact State.onFw_kept
  · exact Memory.Kept.refl _

theorem execBaseDieHbmLoss_kept : Memory.KeptOut s (execBaseDieHbmLoss s) := by
  unfold execBaseDieHbmLoss
  split
  · dsimp only
    exact State.setDie_kept.trans State.notReady_kept
  · exact Memory.Kept.refl _

/-! ### One instruction or event (`Machine/Dispatch.lean`) -/

/-- Each instruction and event keeps the form of memory: one case for each, those that share an operation together. -/
theorem exec_kept : Memory.KeptOut s (exec i s) := by
  unfold exec
  cases i with
  | longImmediatePrefix => exact execLongImmediatePrefix_kept
  | add | sub | and | or | xor | andn | shl | shr | sra | slt | sltu | min | max | minu | maxu | mul | mulh
  | mulhu | div | divu | rem | remu => exact alu2_kept
  | shli | shri | srai | clz | ctz | popc | sextb | sexth | sextw => exact alu1_kept
  | addi => exact runAddi_kept
  | andi => exact runAndi_kept
  | ori => exact runOri_kept
  | xori => exact runXori_kept
  | slti => exact runSlti_kept
  | sltiu => exact runSltiu_kept
  | muli => exact runMuli_kept
  | sldB => exact runSldB_kept
  | sldBu => exact runSldBu_kept
  | sldH => exact runSldH_kept
  | sldHu => exact runSldHu_kept
  | sldW => exact runSldW_kept
  | sldWu => exact runSldWu_kept
  | sldD => exact runSldD_kept
  | sstB => exact runSstB_kept
  | sstH => exact runSstH_kept
  | sstW => exact runSstW_kept
  | sstD => exact runSstD_kept
  | b => exact State.branch_kept
  | call => exact State.setS_kept.trans State.branch_kept
  | beq | bne | blt | bge | bltu | bgeu => exact cond2_kept
  | jr | callr | ret => exact indirect_kept
  | lrun => exact runLrun_kept
  | lwait => exact execLwait_kept
  | fmt => exact execFmt_kept
  | seedld => exact execSeedld_kept
  | seedtag => exact State.scalar_kept _ _ _ _ (State.retS_kept _ _ _ _)
  | chset => exact execChset_kept
  | chrel => exact execChrel_kept
  | chkey => exact execChkey_kept
  | chfill => exact execChfill_kept
  | chtag => exact execChtag_kept
  | cpy | cpyt | cpyr | cpyc => exact copyIssue_kept
  | ewait => exact execEwait_kept
  | epoll => exact execEpoll_kept
  | phase => exact execPhase_kept
  | barb => exact execBarb_kept
  | bara => exact State.barrierOp_kept (fun u a1 => State.arrive_kept (fun u p => State.retS_kept _ _ _ _))
  | barw => exact execBarw_kept
  | garrive => exact execGarrive_kept
  | gwait => exact execGwait_kept
  | ctxgrow => exact execCtxgrow_kept
  | ctxshrink => exact execCtxshrink_kept
  | migrate => exact execMigrate_kept
  | yield => exact State.advance_kept.trans (State.orderSwitch_kept _)
  | spin => exact (State.onW_kept _ _).trans State.advance_kept
  | launch => exact execLaunch_kept
  | ljoin => exact execLjoin_kept
  | itempush => exact execItempush_kept
  | nop => exact State.advance_kept
  | trap => exact State.scalar_kept _ _ _ _ (State.raise_kept _ _)
  | tret => exact execTret_kept
  | halt => exact State.scalar_kept _ _ _ _ (haltWith_kept _ _ _ _)
  | brk => exact execBrk_kept
  | stage => exact execStage_kept
  | srdsr => exact execSrdsr_kept
  | srdsrSflags => exact execSrdsrSflags_kept
  | srdsrPtc => exact State.scalar_kept _ _ _ _ (State.markPtc_kept.trans (State.retS_kept _ _ _ _))
  | swrsr => exact execSwrsr_kept
  | swrsrSflags => exact execSwrsrSflags_kept
  | swrsrDbgctl => exact execSwrsrDbgctl_kept
  | swrsrDeadline | swrsrTrampbase => exact State.scalar_kept _ _ _ _ ((State.onW_kept _ _).trans State.advance_kept)
  | fwcall => exact execFwcall_kept
  | tramps => exact execTramps_kept
  | trampsRet => exact execTrampsRet_kept
  | extensionInstruction => exact State.park_kept _ _ _
  | vadd | vsub | vmul | vmulh | vand | vor | vxor | vandn | vshl | vshr | vmin | vmax | vcmp | vshrr | vadds
  | vsubs | vshls | vpshrr | vpcmp | vfadd | vfsub | vfmul | vfmin | vfmax | vfdiv => exact lane2_kept
  | vmad | vsel | vfma => exact lane3_kept
  | vabs | vneg | vclz | vpopc | vfabs | vfneg | vrcp | vrsq | vsqrt | vexp2 | vlog2 | vsin | vcos | vtanh =>
    exact lane1_kept
  | vpadd | vpsub | vpmul | vpmin | vpmax => exact packedWrap_kept
  | vpmad2 | vfcmp | vlid => exact State.laneAlu_kept _ _ _ _ _ _
  | vpadds | vpsubs => exact packedSat_kept
  | vcvt | vcvtn => exact State.convert_kept (fun u a1 a2 => State.runResult_kept (fun u => State.drawn_kept))
  | vcvtw | vdqnt => exact State.convert_kept (fun u a1 a2 => State.runResult_kept (fun u => Memory.Kept.refl _))
  | vqnt => exact execVqnt_kept
  | vrot | virot => exact rotateInstr_kept
  | vscl => exact execVscl_kept
  | vtagSet | vtagClr => exact tagWrite_kept
  | vtagGet => exact execVtagGet_kept
  | vtagFmt =>
    exact State.laneBegin_kept _ _ _ _ (fun act => (State.setEntry_kept _ _).trans (State.laneNext_kept _ _)) _
  | vmxadd => exact State.convert_kept (fun u a1 a2 => State.mxResult_kept (fun u => State.drawn_kept))
  | vmxsclGet => exact execVmxsclGet_kept
  | vmxsclPut => exact execVmxsclPut_kept
  | vslide | vshuf | vbcast | vscan => exact State.crossLane_kept
  | vred | vballot => exact State.crossLaneAny_kept
  | mand | mor | mxor | mandn | mnot | mmov => exact maskOp_kept
  | mcnt => exact execMcnt_kept
  | mset => exact execMset_kept
  | vld | vgth | vlds => exact State.laneLoad_kept
  | vst | vsct | vsts => exact State.laneStore_kept
  | vstsRow => exact execVstsRow_kept
  | vldc => exact execVldc_kept
  | vpft => exact execVpft_kept
  | vldb => exact execVldb_kept
  | vstb => exact execVstb_kept
  | vatom | vatomr => exact State.atomics_kept
  | mma | mmaz => exact State.mmaIssue_kept
  | maccOut | maccz => exact State.maccOut_kept
  | maccIn => exact execMaccIn_kept
  | mfence => exact execMfence_kept
  | mwait => exact execMwait_kept
  | mstamp =>
    exact State.matBegin_kept (fun a0 => State.paired_kept (State.enqueue_kept.trans (State.laneNext_kept _ _)))
  | vbr => exact State.laneBranch_kept (fun u => Memory.Kept.refl _)
  | vbrc => exact execVbrc_kept
  | vcall => exact execVcall_kept
  | vret => exact execVret_kept
  | regang => exact execRegang_kept
  | lend => exact execLend_kept
  | itemnext => exact State.laneBegin_kept _ _ _ _ (fun act => State.itemNext_kept) _
  | vtrap | vtool => exact State.namedTrap_kept
  | vbrk => exact execVbrk_kept
  | vmov => exact execVmov_kept
  | vrdsr => exact execVrdsr_kept
  | vnop => exact State.laneNext_kept _ _
  | vtramp => exact execVtramp_kept
  | vtret => exact execVtret_kept
  | illegalInstruction => exact State.trapDecode_kept _ _
  | bringUp => exact execBringUp_kept
  | invalidCommand => exact execInvalidCommand_kept
  | query => exact execQuery_kept
  | resetWarm => exact execResetWarm_kept
  | resetFull =>
    exact State.command_kept (fun u => (State.respond_kept.trans State.notReady_kept).trans State.onFw_kept)
  | asidset => exact execAsidset_kept
  | asidclr => exact execAsidclr_kept
  | inval => exact State.command_kept (fun u => invalidate_kept.trans State.respond_kept)
  | partition => exact execPartition_kept
  | keyload => exact execKeyload_kept
  | keyclr => exact execKeyclr_kept
  | pgmove => exact execPgmove_kept
  | queuecfg => exact execQueuecfg_kept
  | kill => exact execKill_kept
  | poolres => exact execPoolres_kept
  | poolrel => exact execPoolrel_kept
  | domain => exact execDomain_kept
  | exportEntry => exact execExportEntry_kept
  | trace => exact execTrace_kept
  | dbgattach => exact execDbgattach_kept
  | dbghalt => exact execDbghalt_kept
  | dbgresume => exact execDbgresume_kept
  | dbgdetach => exact execDbgdetach_kept
  | attest => exact execAttest_kept
  | patch => exact execPatch_kept
  | powercap => exact execPowercap_kept
  | powerstat => exact State.command_kept (fun u => State.respond_kept)
  | launchRecordParse => exact execLaunchRecordParse_kept
  | launchAdmission => exact execLaunchAdmission_kept
  | blockPlacement => exact Memory.Kept.getD (fun e => State.placeBlock_kept e)
  | waveCreation => exact execWaveCreation_kept
  | blockStart => exact execBlockStart_kept
  | waveRetirement => exact execWaveRetirement_kept
  | gridCompletion => exact execGridCompletion_kept
  | launchStall => exact execLaunchStall_kept
  | waveActivation => exact execWaveActivation_kept
  | entryHoldExpiry => exact execEntryHoldExpiry_kept
  | voluntarySwitch => exact execVoluntarySwitch_kept
  | shadowBankPreload => exact execShadowBankPreload_kept
  | shadowBankSwitch => exact execShadowBankSwitch_kept
  | sliceExpiry => exact execSliceExpiry_kept
  | spillWriteback => exact execSpillWriteback_kept
  | registerCacheFill => exact execRegisterCacheFill_kept
  | operandFileFill => exact execOperandFileFill_kept
  | splitEntryFill => exact execSplitEntryFill_kept
  | returnArrival => exact execReturnArrival_kept
  | pooldeadlock => exact execPooldeadlock_kept
  | landingSlotAcquire => exact execLandingSlotAcquire_kept
  | landingSlotExpiry => exact execLandingSlotExpiry_kept
  | laneBlockStart => exact execLaneBlockStart_kept
  | splitTableExhaustion => exact execSplitTableExhaustion_kept
  | issueBoost => exact execIssueBoost_kept
  | spinWaitEnd => exact State.about_kept (fun u => State.onW_kept _ _)
  | stashFill => exact execStashFill_kept
  | directoryRegistration => exact execDirectoryRegistration_kept
  | forwardedRead | homeRead => exact State.serve_kept (fun e => serveLoad_kept e) (fun a0 u => lastDrop_kept)
  | blockEnd => exact execBlockEnd_kept
  | matrixOpExecute => exact execMatrixOpExecute_kept
  | matrixOpRetire => exact execMatrixOpRetire_kept
  | stampRecordWrite => exact execStampRecordWrite_kept
  | pageWalk => exact execPageWalk_kept
  | faultRecordService => exact execFaultRecordService_kept
  | emuHandler => exact execEmuHandler_kept
  | homeWrite => exact execHomeWrite_kept
  | atomicPerform => exact execAtomicPerform_kept
  | hostMemoryAccess => exact execHostMemoryAccess_kept
  | remoteAccessTarget => exact execRemoteAccessTarget_kept
  | linkCrcError => exact execLinkCrcError_kept
  | linkDown => exact State.linkDown_kept
  | requestTimeout => exact execRequestTimeout_kept
  | lateReplyDiscard => exact execLateReplyDiscard_kept
  | timeAlignmentExchange => exact execTimeAlignmentExchange_kept
  | skewBoundLoss | powerCapThrottle | coreRailPeakLimit => exact State.onFw_kept
  | engineCommandStart => exact execEngineCommandStart_kept
  | engineCompletion => exact execEngineCompletion_kept
  | eventRecordRead => exact execEventRecordRead_kept
  | gwaitPollExpiry => exact execGwaitPollExpiry_kept
  | haltLatchTimeout => exact execHaltLatchTimeout_kept
  | deadlineExpiry | stageBudgetExpiry =>
    exact State.about_kept (fun u => (State.onW_kept _ _).trans State.timerTrap_kept)
  | sampleTimerExpiry => exact execSampleTimerExpiry_kept
  | captureFirstTouch => exact captureTouchFor_kept
  | fwcallService => exact execFwcallService_kept
  | thermalThrottle => exact execThermalThrottle_kept
  | thermalTrip => exact execThermalTrip_kept
  | supplyRemoval => exact (State.cleared_kept.trans State.initMemory_kept).trans State.onFw_kept
  | hostLinkTraining => exact execHostLinkTraining_kept
  | boardPowerLimit => exact execBoardPowerLimit_kept
  | baseDieHbmLoss => exact execBaseDieHbmLoss_kept
  | thermalExit => exact execThermalExit_kept
  -- the recall of a line, whose name is a keyword of Mathlib's
  | _ => exact execRecall_kept

/-! ### The undo log (`Machine/Undo.lean`) -/

theorem writeEntry_kept (e : writeEntry s u = .ok t) : Memory.Kept s t := by
  unfold writeEntry at e
  extract_lets a b at e
  clear_value a b
  split at e
  · cases e
  · rename_i h1
    split at e
    · cases e
    · rename_i h2
      cases e; exact ((coreWrite_kept h1).trans (coreWrite_kept h2)).trans (State.onW_kept _ _)

theorem writeLog_kept (e : writeLog l s = .ok t) : Memory.Kept s t := by
  induction l generalizing s t with
  | nil =>
    unfold writeLog at e
    cases e; exact Memory.Kept.refl _
  | cons a l ih =>
    unfold writeLog at e
    split at e
    · cases e
    · exact (writeEntry_kept ‹_›).trans (ih e)

/-! ### What surrounds an instruction (`Machine/Program.lean`) -/

/-- A trap that a stream takes at its boundary keeps memory's form. -/
theorem boundary_trap_kept (e : boundary s = .trap t) : Memory.Kept s t := by
  unfold boundary at e
  split at e
  · cases e
  · split at e
    · cases e; exact (State.onW_kept _ _).trans (takeTrap_kept _ _)
    · split at e
      · cases e
      · split at e <;> cases e

theorem State.refers_kept : Memory.Kept s s.refers := by
  unfold State.refers
  split
  · exact State.useEntry_kept
  · exact Memory.Kept.refl _

theorem passTime_kept : Memory.Kept s (passTime s) := tick_kept.trans watchStalls_kept

theorem logUndo_kept (e : logUndo i s u = .ok t) : Memory.Kept s t := by
  unfold logUndo at e
  dsimp only at e
  split at e
  · cases e
  · exact writeLog_kept e

theorem logFailed_kept : Memory.Kept s (logFailed s n) := by
  unfold logFailed
  dsimp only
  split
  · split
    · exact State.parkPage_kept _ _ _ _ _ _ _
    · exact State.trapL_kept _ _ _ _ _ _
    · exact (integrityRecord_kept _ _ _ _).trans (State.raise_kept _ _)
    · exact State.trapL_kept _ _ _ _ _ _
    · exact State.stall_kept _
  · exact State.failS_kept _ _ _

theorem singleStep_kept : Memory.Kept t (singleStep s t) := by
  unfold singleStep
  dsimp only
  split
  · exact haltWith_kept _ _ _ _
  · exact Memory.Kept.refl _

theorem afterIssue_kept : Memory.Kept t (afterIssue s t) := by
  unfold afterIssue
  dsimp only
  refine Memory.Kept.trans ?_ passTime_kept
  refine Memory.Kept.trans ?_ singleStep_kept
  split
  · exact markIssued_kept
  · exact markIssued_kept.trans (State.onW_kept _ _)

theorem State.given_kept : Memory.Kept s (s.given i) :=
  (Memory.Reads.maps s s.directory id id id id (fun h => Sparse.wf_foldl _ (fun m _ hm => Sparse.wf_set m _ _ hm) _ _
      h)).1.update

theorem State.settleAges_kept : Memory.Kept s s.settleAges := State.mapWaves_kept _ _

/-! ### One step (`Machine/Step.lean`) -/

theorem onNext_kept {f : State → State} {o : Out} (ho : Memory.KeptOut s o) (hf : ∀ u, Memory.Kept u (f u)) :
    Memory.KeptOut s (onNext f o) := by
  cases o with
  | next t => exact Memory.Kept.trans ho (hf t)
  | fault r => exact ho
  | refused r => exact ho

/-- An instruction with the entries of the undo log that go before it, and single step after it. -/
theorem runInstr_kept : Memory.KeptOut s (runInstr i s) := by
  unfold runInstr
  split
  · rename_i u h
    split
    · split
      · rename_i hl
        exact onNext_kept ((logUndo_kept hl).transOut exec_kept) (fun _ => afterIssue_kept)
      · exact Memory.Kept.trans logFailed_kept passTime_kept
    · exact Memory.Kept.trans (exec_kept.next h) afterIssue_kept
  · exact exec_kept

/-- The stream that moves: its boundary, its instruction fetched and decoded, its meaning, and time. -/
theorem issue_kept : Memory.KeptOut s (issue s wave lane' frag' defer') := by
  unfold issue
  split
  · exact passTime_kept
  · rename_i u h
    refine (State.focus_kept h).transOut ?_
    extract_lets v
    have hv : Memory.Kept u v := Memory.Kept.of_eq
    clear_value v
    refine hv.transOut ?_
    split
    · exact passTime_kept
    · exact (boundary_trap_kept ‹_›).trans passTime_kept
    · exact onNext_kept (State.given_kept.transOut exec_kept) (fun _ => passTime_kept)
    · split
      · exact (State.refers_kept.trans fetchFailed_kept).trans passTime_kept
      · exact (State.refers_kept.trans (fetchInstr_kept ‹_›)).transOut runInstr_kept

/-- What moves next, an event or a stream. -/
theorem perform_kept : Memory.KeptOut s (perform s p) := by
  cases p with
  | event i inp => exact onNext_kept (State.given_kept.transOut exec_kept) (fun _ => passTime_kept)
  | issue w lane frag d => exact issue_kept

/-- One step keeps the form of memory, whatever moves. -/
theorem step_kept : Memory.KeptOut s (step s) := by
  unfold step
  split
  · exact Memory.Kept.transOut Memory.Kept.of_eq perform_kept
  · dsimp only
    split
    · exact State.settleAges_kept.transOut perform_kept
    · exact State.settleAges_kept.trans passTime_kept

/-- Settles O57: `step_kept`, read for a state whose memory has the form. -/
theorem memoryCanonical : Obligations.MemoryCanonical := fun _ _ hs h => step_kept.next h hs

end Sys2Proof.Machine

/-!
# Bring-up, the resets and the supplies (O49)

The rules of the operations that these steps share come first: how firmware takes a command and answers it, what ending
the launches changes, what power-on clears and what memory initialisation leaves.  Each step of the device then has one
equation for each of its branches, and the obligation's clauses are read off those.
-/

namespace Sys2Proof.Machine

open Sys2Proof.Claims

variable {s : State}

/-! ### Sparse maps and tables -/

/-- The entries whose keys a predicate keeps read as before, every other key as zero. -/
theorem Sparse.get_filter {w : Nat} (f : Nat → Bool) (m : Sparse w) (a : Nat) :
    Sparse.get (m.filter (fun c => f c.1)) a = if f a then Sparse.get m a else 0 := by
  induction m with
  | nil => simp
  | cons c m ih =>
    obtain ⟨k, v⟩ := c
    by_cases hf : f k <;> by_cases hk : a = k <;> simp_all [Sparse.get]

theorem Table.find_mapVal {α : Type} (f : α → α) (m : Table α) (a : Nat) :
    Table.find (m.map (fun p => (p.1, f p.2))) a = (Table.find m a).map f := by
  induction m with
  | nil => rfl
  | cons c m ih =>
    obtain ⟨k, v⟩ := c
    by_cases hk : a = k <;> simp [Table.find, hk, ih]

/-! ### Firmware's state -/

@[simp] theorem State.onFw_fw (f : Fw → Fw) : (s.onFw f).fw = f s.fw := rfl
@[simp] theorem State.onFw_mem (f : Fw → Fw) : (s.onFw f).mem = s.mem := rfl
@[simp] theorem State.onFw_dies (f : Fw → Fw) : (s.onFw f).dies = s.dies := rfl
@[simp] theorem State.onFw_die (f : Fw → Fw) (b : Nat) : (s.onFw f).die b = s.die b := rfl
@[simp] theorem State.onFw_launches (f : Fw → Fw) : (s.onFw f).launches = s.launches := rfl
@[simp] theorem State.onFw_launch (f : Fw → Fw) (lid : BitVec 32) : (s.onFw f).launch lid = s.launch lid := rfl
@[simp] theorem State.onFw_live (f : Fw → Fw) : (s.onFw f).live = s.live := rfl
@[simp] theorem State.onFw_cell (f : Fw → Fw) (y : Nat) : (s.onFw f).cell y = s.cell y := rfl
@[simp] theorem State.respond_mem (st : Nat) (l : List (BitVec 64)) : (s.respond st l).mem = s.mem := rfl

/-! ### Commands (R439, R440) -/

theorem commandOffered_eq_attends : commandOffered s = s.attends := by
  unfold commandOffered State.attends
  exact Bool.and_right_comm _ _ _

/-- The four bytes of OPC and of the reserved bytes hold a code where OPC does and the reserved bytes are zero. -/
theorem codeGiven_eq_iff {c : Nat} (hc : c < 65536) : codeGiven s = c ↔ s.fw.opc = c ∧ s.fw.opcZero = true := by
  have hcode : codeGiven s = (theCommand s).body.toNat % 2 ^ 32 := by simp [codeGiven]
  have hopc : s.fw.opc = (theCommand s).body.toNat % 2 ^ 16 := by simp [Fw.opc, Fw.head, theCommand]
  have hzero : s.fw.opcZero = true ↔ (theCommand s).body.toNat / 2 ^ 16 % 2 ^ 16 = 0 := by
    simp [Fw.opcZero, Fw.head, theCommand, ← BitVec.toNat_inj, Nat.shiftRight_eq_div_pow]
  rw [hcode, hopc, hzero]
  omega

/-- A command of a single code is ready where firmware attends and its slot holds that code. -/
theorem commandReady_eq {i : Instr} {c : Nat} (hc : c < 65536) (hi : ∀ n, commandCode.contains (i, n) = true ↔ n = c) :
    commandReady s i = (s.attends && s.fw.opc == c && s.fw.opcZero) := by
  have h : commandCode.contains (i, codeGiven s) = (s.fw.opc == c && s.fw.opcZero) := by
    rw [Bool.eq_iff_iff, hi, codeGiven_eq_iff hc, Bool.and_eq_true, beq_iff_eq]
  rw [commandReady, commandOffered_eq_attends, h, Bool.and_assoc]

theorem commandReady_resetWarm : commandReady s .resetWarm = (s.attends && s.fw.opc == 2 && s.fw.opcZero) :=
  commandReady_eq (by decide) (fun n => by simp [commandCode])

theorem commandReady_resetFull : commandReady s .resetFull = (s.attends && s.fw.opc == 2 && s.fw.opcZero) :=
  commandReady_eq (by decide) (fun n => by simp [commandCode])

/-- Firmware attends to no command while a warm reset waits. -/
theorem State.not_warm_of_attends (h : s.attends = true) : s.fw.warm = false := by
  simp only [State.attends, Bool.and_eq_true, Bool.not_eq_true'] at h
  obtain ⟨⟨⟨_, hwarm⟩, _⟩, _⟩ := h
  exact hwarm

/-- The TAG of the command that firmware attends to is that of its slot. -/
theorem Fw.tag_of_attends (h : s.attends = true) : s.fw.tag = (theCommand s).body.extractLsb' 32 32 := by
  rw [Fw.tag, State.not_warm_of_attends h]
  rfl

theorem respond_answersAs (st : Nat) (result : List (BitVec 64)) : answersAs s (s.respond st result) s.fw.tag st result :=
  ⟨Table.find_put_same _ _ _, rfl, rfl⟩

/-! ### Ending launches (R368, R444) -/

@[simp] theorem endLaunch_fw (lid : BitVec 32) (st : BitVec 8) : (endLaunch s lid st).fw = s.fw := by
  unfold endLaunch
  split
  · rfl
  · split <;> rfl

@[simp] theorem endLaunch_mem (lid : BitVec 32) (st : BitVec 8) : (endLaunch s lid st).mem = s.mem := by
  unfold endLaunch
  split
  · rfl
  · split <;> rfl

@[simp] theorem endLaunch_dies (lid : BitVec 32) (st : BitVec 8) : (endLaunch s lid st).dies = s.dies := by
  unfold endLaunch
  split
  · rfl
  · split <;> rfl

theorem State.lid_of_launch {k : BitVec 32} {l : Launch} (h : s.launch k = some l) : l.lid = k := by
  have hfound := List.find?_some h
  rw [Bool.and_eq_true, beq_iff_eq] at hfound
  exact hfound.1

section
variable {f : Launch → Launch} (hphase : ∀ l, (f l).phase = l.phase)
include hphase

/-- A change of a launch that keeps its identifier and its phase leaves it, and every other, to be found as before. -/
theorem State.onLaunch_launch (hlid : ∀ l, (f l).lid = l.lid) (lid k : BitVec 32) :
    (s.onLaunch lid f).launch k = if k = lid then (s.launch k).map f else s.launch k := by
  have hfind : (fun l : Launch => l.lid == k && l.phase != .completed) ∘ (fun l => if l.lid == lid then f l else l)
      = fun l => l.lid == k && l.phase != .completed := by
    funext l
    dsimp only [Function.comp]
    split <;> simp [hlid, hphase]
  have hmap : (s.onLaunch lid f).launch k = (s.launch k).map (fun l => if l.lid == lid then f l else l) := by
    rw [State.launch, State.onLaunch_launches, List.find?_map, hfind]
    rfl
  rw [hmap]
  cases h : s.launch k with
  | none => simp
  | some l => rw [← State.lid_of_launch h]; by_cases hl : l.lid = lid <;> simp [hl]

theorem State.onLaunch_live (lid : BitVec 32) : (s.onLaunch lid f).live = s.live := by
  rw [State.live, State.onLaunch_launches, List.any_map, State.live]
  congr 1
  funext l
  dsimp only [Function.comp]
  split <;> simp [hphase]

end

/-- A launch once it ends with a status; one that is ending already keeps its own. -/
def Launch.endedWith (st : BitVec 8) (l : Launch) : Launch := if l.ending then l else { l with ending := true, status := st }

theorem Launch.endedWith_ending (st : BitVec 8) (l : Launch) : (l.endedWith st).ending = true := by
  unfold Launch.endedWith
  split
  · assumption
  · rfl

/-- The live launch of that identifier ends, and no other changes. -/
theorem endLaunch_launch (lid k : BitVec 32) (st : BitVec 8) :
    (endLaunch s lid st).launch k = if k = lid then (s.launch k).map (Launch.endedWith st) else s.launch k := by
  unfold endLaunch
  split
  · rename_i h
    split
    · simp_all
    · rfl
  · rename_i l hl
    split
    · rename_i hend
      split
      · simp_all [Launch.endedWith]
      · rfl
    · rename_i hend
      refine (State.onLaunch_launch (f := fun l => { l with ending := true, status := st }) (fun _ => rfl) (fun _ => rfl)
        lid k).trans ?_
      split
      · simp_all [Launch.endedWith]
      · rfl

/-- Ending a launch leaves which launches are live. -/
@[simp] theorem endLaunch_live (lid : BitVec 32) (st : BitVec 8) : (endLaunch s lid st).live = s.live := by
  unfold endLaunch
  split
  · rfl
  · split
    · rfl
    · exact State.onLaunch_live (f := fun l => { l with ending := true, status := st }) (fun _ => rfl) lid

/-- Where the launch of an identifier is live, it is ending. -/
def State.ended (s : State) (lid : BitVec 32) : Prop := ∀ l, s.launch lid = some l → l.ending = true

theorem endLaunch_ended_same (lid : BitVec 32) (st : BitVec 8) : (endLaunch s lid st).ended lid := by
  intro l hl
  rw [endLaunch_launch, if_pos rfl, Option.map_eq_some_iff] at hl
  obtain ⟨l, _, rfl⟩ := hl
  exact l.endedWith_ending st

theorem endLaunch_ended_of_ended {k : BitVec 32} (lid : BitVec 32) (st : BitVec 8) (h : s.ended k) :
    (endLaunch s lid st).ended k := by
  by_cases hk : k = lid
  · rw [hk]
    exact endLaunch_ended_same lid st
  · intro l hl
    rw [endLaunch_launch, if_neg hk] at hl
    exact h l hl

/-- What each single end keeps, the end of every live launch keeps. -/
theorem endAll_keeps {P : State → Prop} {st : BitVec 8} (h : P s) (hP : ∀ u lid, P u → P (endLaunch u lid st)) :
    P (endAll s st) :=
  List.foldlRecOn _ _ h (fun u hu l _ => hP u l.lid hu)

@[simp] theorem endAll_fw (st : BitVec 8) : (endAll s st).fw = s.fw :=
  endAll_keeps (P := fun u => u.fw = s.fw) rfl (fun _ _ h => (endLaunch_fw _ _).trans h)

@[simp] theorem endAll_mem (st : BitVec 8) : (endAll s st).mem = s.mem :=
  endAll_keeps (P := fun u => u.mem = s.mem) rfl (fun _ _ h => (endLaunch_mem _ _).trans h)

@[simp] theorem endAll_dies (st : BitVec 8) : (endAll s st).dies = s.dies :=
  endAll_keeps (P := fun u => u.dies = s.dies) rfl (fun _ _ h => (endLaunch_dies _ _).trans h)

@[simp] theorem endAll_live (st : BitVec 8) : (endAll s st).live = s.live :=
  endAll_keeps (P := fun u => u.live = s.live) rfl (fun _ _ h => (endLaunch_live _ _).trans h)

/-- Where no launch is live there is none to end. -/
theorem endAll_of_not_live (h : s.live = false) (st : BitVec 8) : endAll s st = s := by
  have hnone : s.launches.filter (fun l => l.phase != .completed) = [] := by simpa [State.live] using h
  rw [endAll, hnone, List.foldl_nil]

/-- Ending the launches of a list, one after another, leaves each of them ending, whatever else ended before. -/
theorem foldl_endLaunch_ended {st : BitVec 8} {k : BitVec 32} (ls : List Launch) {u : State}
    (h : u.ended k ∨ ∃ l ∈ ls, l.lid = k) : (ls.foldl (fun s l => endLaunch s l.lid st) u).ended k := by
  induction ls generalizing u with
  | nil => simpa using h
  | cons l ls ih =>
    apply ih
    rcases h with h | ⟨l', hl', rfl⟩
    · exact .inl (endLaunch_ended_of_ended _ _ h)
    · rcases List.mem_cons.mp hl' with rfl | hmem
      · exact .inl (endLaunch_ended_same _ _)
      · exact .inr ⟨l', hmem, rfl⟩

/-- After the end of every live launch each launch that is still live is ending. -/
theorem endAll_ended (st : BitVec 8) (k : BitVec 32) : (endAll s st).ended k := by
  apply foldl_endLaunch_ended
  cases h : s.launch k with
  | none => exact .inl (fun l hl => by simp [h] at hl)
  | some l =>
    have hl := List.find?_some h
    simp only [Bool.and_eq_true, beq_iff_eq] at hl
    exact .inr ⟨l, List.mem_filter.mpr ⟨List.mem_of_find?_eq_some h, hl.2⟩, hl.1⟩

@[simp] theorem State.notReady_fw : s.notReady.fw = { s.fw with ready := false } := endAll_fw _
@[simp] theorem State.notReady_mem : s.notReady.mem = s.mem := endAll_mem _
@[simp] theorem State.notReady_dies : s.notReady.dies = s.dies := endAll_dies _

theorem State.notReady_stopped : stopped s.notReady :=
  ⟨by rw [State.notReady_fw], endAll_ended _⟩

/-! ### Power-on and memory initialisation (R28, R443) -/

@[simp] theorem State.cleared_mem : s.cleared.mem = s.mem := rfl

/-- Memory initialisation zeroes local memory; what lies beyond it, the host's and the other packages', reads as before. -/
theorem State.initMemory_get (y : Nat) :
    Sparse.get s.initMemory.mem y = if y < 0x8000000000 then 0 else Sparse.get s.mem y := by
  refine (Sparse.get_filter (fun a => !isLocal a) s.mem y).trans ?_
  by_cases h : y < 0x8000000000 <;> simp [isLocal, h]

/-- No second value of a byte outlives memory initialisation. -/
theorem State.initMemory_memByte (y : Nat) : s.initMemory.memByte y = Sparse.get s.initMemory.mem y := by
  simp [State.memByte, State.initMemory]

/-- With no block registered by a core, a byte at its home is the byte of memory. -/
theorem State.cell_of_directory_nil (h : s.directory = []) (y : Nat) : s.cell y = s.memByte y := by
  simp [State.cell, h]

/-! ### The copies of the time counter (R395, R397) -/

theorem State.skewBound_le {lo hi : Nat} (h : lo ≤ hi) : (s.skewBound lo hi).toNat ≤ hi := by
  have hmod := Nat.mod_lt (Config.freeWord s.free).toNat (show 0 < hi - lo + 1 by omega)
  rw [State.skewBound, BitVec.toNat_ofNat]
  exact (Nat.mod_le _ _).trans (by omega)

/-- An operand taken within a bound sets a counter ahead by no more than the bound. -/
theorem ahead_le (t d : BitVec 64) (k : Nat) : (t + BitVec.ofNat 64 (d.toNat % (k + 1)) - t).toNat ≤ k := by
  rw [BitVec.add_comm, BitVec.add_sub_cancel, BitVec.toNat_ofNat]
  exact (Nat.mod_le _ _).trans (Nat.le_of_lt_succ (Nat.mod_lt _ k.succ_pos))

/-- After the alignment each copy is ahead of base die 0's by no more than the bound. -/
theorem State.alignDies_ahead (k : Nat) {b : Nat} (hb : b < 4) :
    (((s.alignDies k).die b).ptc - (s.die 0).ptc).toNat ≤ k := by
  unfold State.alignDies
  match b, hb with
  | 0, _ => simp [State.die_setDie_other]
  | 1, _ => simpa [State.die_setDie_other] using ahead_le (s.die 0).ptc s.input.t2 k
  | 2, _ => simpa [State.die_setDie_other] using ahead_le (s.die 0).ptc s.input.t3 k
  | 3, _ => simpa using ahead_le (s.die 0).ptc s.input.t4 k

/-! ### The steps of bring-up (R443) -/

theorem Fw.nextStep_toNat (f : Fw) : (BitVec.ofNat 4 f.nextStep).toNat = f.nextStep := by
  have h : f.nextStep < 16 := by unfold Fw.nextStep; split <;> omega
  exact (BitVec.toNat_ofNat _ _).trans (Nat.mod_eq_of_lt h)

theorem State.bringUpStep_diemap (n : Nat) : (s.bringUpStep n).fw.diemap = s.fw.diemap := by
  unfold State.bringUpStep
  split <;> rfl

/-- Only memory initialisation changes memory, and only local memory. -/
theorem State.bringUpStep_get (n : Nat) {y : Nat} (hy : 0x8000000000 ≤ y) :
    Sparse.get (s.bringUpStep n).mem y = Sparse.get s.mem y := by
  unfold State.bringUpStep
  split
  case h_2 => rw [State.initMemory_get, if_neg (Nat.not_lt.mpr hy)]
  all_goals rfl

/-- Bring-up stays due until its last step. -/
theorem State.bringUpStep_due {n : Nat} (hn : n ≠ 6) (h : s.fw.due = true) : (s.bringUpStep n).fw.due = true := by
  unfold State.bringUpStep
  split
  case h_1 => rfl
  case h_4 => exact absurd rfl hn
  all_goals exact h

/-- The state after the step of bring-up that comes next, recorded in STEP. -/
def State.broughtUp (s : State) : State :=
  (s.bringUpStep s.fw.nextStep).onFw (fun f => { f with step := BitVec.ofNat 4 s.fw.nextStep })

/-- The state after a failure of the step of bring-up that comes next. -/
def State.bringUpFailed (s : State) (x : StepFailure) : State :=
  (if s.fw.nextStep = 1 then s.cleared else s).onFw (fun f =>
    { f with
      due := false, fail := true, failcode := x.step, step := BitVec.ofNat 4 s.fw.nextStep,
      faildie := if x.step == 5 then x.die else 0xF, failb := if x.step == 5 then 0xF else x.die })

theorem execBringUp_idle (h : s.fw.due = false ∨ s.live = true) : execBringUp s = .next s := by
  rw [execBringUp, if_pos (by simpa using h)]

theorem execBringUp_succeeds (hdue : s.fw.due = true) (hlive : s.live = false) (hfail : s.input.fail = none) :
    execBringUp s = .next s.broughtUp := by
  simp [execBringUp, hdue, hlive, hfail, State.broughtUp]

theorem execBringUp_fails {x : StepFailure} (hdue : s.fw.due = true) (hlive : s.live = false)
    (hfail : s.input.fail = some x) :
    execBringUp s = .next (if stepOf x.step = s.fw.nextStep then s.bringUpFailed x else s) := by
  simp [execBringUp, hdue, hlive, hfail, State.bringUpFailed]

/-- The table of failure codes, as a list. -/
theorem stepOf_eq_getD (c : BitVec 4) : [0, 1, 2, 2, 3, 4, 5].getD c.toNat 0 = stepOf c := by
  revert c
  decide

theorem bringUpFailed_ready {x : StepFailure} (h : s.fw.ready = false) : (s.bringUpFailed x).fw.ready = false := by
  rw [State.bringUpFailed, State.onFw_fw]
  split
  · rfl
  · exact h

/-! ### The resets (R445) -/

theorem State.warmMay_eq :
    s.warmMay = if s.fw.warm then s.fw.ready && s.fw.barUp else commandReady s .resetWarm := by
  rw [State.warmMay, commandReady_resetWarm]

theorem execResetWarm_not (h : s.warmMay = false) : execResetWarm s = .next s := by
  simp [execResetWarm, h]

/-- A warm reset ends the launches and waits for them. -/
theorem execResetWarm_waits (h : s.warmMay = true) (hlive : s.live = true) :
    execResetWarm s = .next ((endAll s 7).onFw (fun f => { f with warm := true, warmTag := s.fw.tag })) := by
  simp [execResetWarm, h, hlive]

/-- A warm reset with no launch left is answered and clears. -/
theorem execResetWarm_clears (h : s.warmMay = true) (hlive : s.live = false) :
    execResetWarm s = .next (s.respond 0 []).warmClear := by
  simp [execResetWarm, h, endAll_of_not_live hlive, hlive]

theorem State.warmClear_retained (g : Nat) : (s.warmClear.core g).retained = [] := by
  rw [State.core, Table.getD, State.warmClear, Table.find_mapVal (fun c : Core => { c with retained := [] })]
  cases Table.find s.cores g <;> rfl

/-- The state that a full reset leaves, bring-up due. -/
def State.fullReset (s : State) : State :=
  (s.respond 0 []).notReady.onFw (fun f => { f with due := true, feat0 := 0, feat2 := 0, patchHash := 0, fwrev := f.romrev })

theorem execResetFull_ready (h : commandReady s .resetFull = true) : execResetFull s = .next s.fullReset := by
  rw [commandReady_resetFull] at h
  rw [execResetFull, State.command, if_pos h, State.fullReset]

theorem State.fullReset_answers (h : commandReady s .resetFull = true) : answers s s.fullReset 0 [] := by
  rw [commandReady_resetFull, Bool.and_eq_true, Bool.and_eq_true] at h
  obtain ⟨⟨hattends, _⟩, _⟩ := h
  rw [answers, ← Fw.tag_of_attends hattends]
  simpa [answersAs, State.fullReset] using respond_answersAs (s := s) 0 []

theorem State.fullReset_stopped : stopped s.fullReset := by
  obtain ⟨hready, hended⟩ := State.notReady_stopped (s := s.respond 0 [])
  exact ⟨hready, hended⟩

/-! ### The supplies and HBM (R28, R444) -/

/-- Without its supplies the device keeps no memory. -/
theorem State.powerLess_cell (f : Fw → Fw) {y : Nat} (hy : y < 0x8000000000) :
    (s.cleared.initMemory.onFw f).cell y = 0 := by
  rw [State.onFw_cell, State.cell_of_directory_nil rfl, State.initMemory_memByte, State.initMemory_get, if_pos hy]

/-! ### The obligation's clauses -/

/-- What a step of bring-up that succeeds leaves, step by step. -/
theorem State.broughtUp_spec (hdue : s.fw.due = true) : let n := s.fw.nextStep; let t := s.broughtUp
    t.fw.step.toNat = n ∧ t.fw.diemap = s.fw.diemap ∧ (∀ y, 0x8000000000 ≤ y → Sparse.get t.mem y = Sparse.get s.mem y)
    ∧ (n = 1 → t.fw.ready = false ∧ t.fw.fail = false ∧ t.fw.asids = [] ∧ t.fw.keys = [] ∧ t.queues = [] ∧ t.pools = []
        ∧ t.launches = [] ∧ t.w.id = 0 ∧ t.mem = s.mem)
    ∧ (n = 3 → ∀ y, y < 0x8000000000 → Sparse.get t.mem y = 0)
    ∧ (n = 5 → t.fw.skewPkg.toNat ≤ 2 ∧ ∀ b, b < 4 → ((t.die b).ptc - (s.die 0).ptc).toNat ≤ t.fw.skewPkg.toNat)
    ∧ (n = 6 → t.fw.ready = true ∧ t.fw.due = false ∧ t.fw.cmdHead = 0 ∧ t.fw.cmdExpect = 1 ∧ t.mem = s.mem)
    ∧ (n ≠ 6 → t.fw.due = true) := by
  intro n t
  refine ⟨Fw.nextStep_toNat _, State.bringUpStep_diemap _, fun y hy => State.bringUpStep_get _ hy, fun h => ?first,
    fun h y hy => ?third, fun h => ?fifth, fun h => ?last, fun h => State.bringUpStep_due h hdue⟩ <;>
    simp only [t, State.broughtUp, show s.fw.nextStep = _ from h]
  case first => exact ⟨rfl, rfl, rfl, rfl, rfl, rfl, rfl, rfl, rfl⟩
  case third => exact (State.initMemory_get y).trans (if_pos hy)
  case fifth => exact ⟨State.skewBound_le (by decide), fun b hb => State.alignDies_ahead _ hb⟩
  case last => exact ⟨rfl, rfl, rfl, rfl, rfl⟩

/-- What a failure of a step of bring-up records. -/
theorem State.bringUpFailed_spec (x : StepFailure) : let t := s.bringUpFailed x
    t.fw.fail = true ∧ t.fw.failcode = x.step ∧ t.fw.step.toNat = s.fw.nextStep ∧ t.fw.due = false
    ∧ (x.step = 5 → t.fw.faildie = x.die ∧ t.fw.failb = 0xF) ∧ (x.step ≠ 5 → t.fw.faildie = 0xF ∧ t.fw.failb = x.die) := by
  refine ⟨rfl, rfl, Fw.nextStep_toNat _, rfl, fun h => ?_, fun h => ?_⟩
  · exact ⟨if_pos (beq_iff_eq.mpr h), if_pos (beq_iff_eq.mpr h)⟩
  · exact ⟨if_neg (mt beq_iff_eq.mp h), if_neg (mt beq_iff_eq.mp h)⟩

/-- What a warm reset leaves while it waits for the launches that it has ended. -/
theorem execResetWarm_waits_spec (h : s.warmMay = true) (hlive : s.live = true) : ∃ t, execResetWarm s = .next t
    ∧ t.fw.warm = true ∧ t.fw.warmTag = s.fw.tag ∧ t.fw.responses = s.fw.responses ∧ t.mem = s.mem
    ∧ ∀ lid l, t.launch lid = some l → l.ending = true :=
  ⟨_, execResetWarm_waits h hlive, rfl, rfl, by simp, by simp, endAll_ended 7⟩

/-- What a warm reset clears, and what it leaves. -/
theorem execResetWarm_clears_spec (h : s.warmMay = true) (hlive : s.live = false) : ∃ t, execResetWarm s = .next t
    ∧ answersAs s t s.fw.tag 0 [] ∧ t.fw.warm = false ∧ t.queues = [] ∧ t.parsed = [] ∧ t.pools = [] ∧ t.fw.asids = []
    ∧ t.fw.keys = [] ∧ t.fw.traces = [] ∧ (∀ g, (t.core g).retained = []) ∧ t.mem = s.mem ∧ t.dies = s.dies
    ∧ t.fw.feat0 = s.fw.feat0 :=
  ⟨_, execResetWarm_clears h hlive, respond_answersAs 0 [], rfl, rfl, rfl, rfl, rfl, rfl, rfl, State.warmClear_retained,
    rfl, rfl, rfl⟩

theorem execResetFull_spec (h : commandReady s .resetFull = true) : ∃ t, execResetFull s = .next t ∧ answers s t 0 []
    ∧ stopped t ∧ t.fw.due = true ∧ t.fw.feat0 = 0 ∧ t.fw.feat2 = 0 ∧ t.fw.fwrev = s.fw.romrev ∧ t.mem = s.mem :=
  ⟨_, execResetFull_ready h, State.fullReset_answers h, State.fullReset_stopped, rfl, rfl, rfl,
    by simp [State.fullReset, State.respond], by simp [State.fullReset]⟩

theorem execSupplyRemoval_spec : ∃ t, execSupplyRemoval s = .next t ∧ t.fw.ready = false ∧ t.fw.barUp = false
    ∧ t.fw.step = 0 ∧ t.launches = [] ∧ t.cores = [] ∧ (∀ y, y < 0x8000000000 → t.cell y = 0) :=
  ⟨_, rfl, rfl, rfl, rfl, rfl, rfl, fun _ hy => State.powerLess_cell _ hy⟩

theorem execBaseDieHbmLoss_spec (h : s.input.die < 4) : ∃ t, execBaseDieHbmLoss s = .next t ∧ stopped t
    ∧ (t.die s.input.die).hbmLost = true ∧ t.mem = s.mem := by
  refine ⟨_, by rw [execBaseDieHbmLoss, if_pos h], State.notReady_stopped, ?_, ?_⟩
  · simp [State.die, Table.getD]
  · simp

/-- Settles O49: bring-up by `execBringUp_idle`, `State.broughtUp_spec` and `State.bringUpFailed_spec`, then each reset and
each loss by its own lemma. -/
theorem bringUpAndResets : Obligations.BringUpAndResets := by
  intro s
  refine ⟨execBringUp_idle, fun hdue hlive hfail => ⟨_, execBringUp_succeeds hdue hlive hfail, State.broughtUp_spec hdue⟩,
    fun x hdue hlive hfail => ?failure, ?warm, execResetFull_spec, execSupplyRemoval_spec, fun h => ?link,
    execBaseDieHbmLoss_spec⟩
  case failure =>
    have hexec := execBringUp_fails hdue hlive hfail
    dsimp only
    rw [stepOf_eq_getD]
    refine ⟨fun h => hexec.trans (congrArg _ (if_neg h)), fun h => ⟨_, hexec.trans (congrArg _ (if_pos h)),
      bringUpFailed_ready, State.bringUpFailed_spec x⟩⟩
  case warm =>
    dsimp only
    rw [← State.warmMay_eq]
    exact ⟨execResetWarm_not, execResetWarm_waits_spec, execResetWarm_clears_spec⟩
  case link => exact congrArg _ (if_pos h)

end Sys2Proof.Machine

section

-- One proof after another: checked side by side, in a text of this length, they need more memory than the limit leaves.
set_option Elab.async false

/-!
# Encoding and decoding (O56)

A word is its fields side by side, so the fields of a packed word are the ones packed, and a word packed from its own fields
is itself.  Lane words then need one fact of the opcode map: each part gives an instruction the opcode under which it lists it.
Scalar words are compared row by row.
-/

namespace Sys2Proof

/-! ### Words and their fields -/

/-- Two words in two parts are equal just where both parts are. -/
theorem append_inj {m n : Nat} {x x' : BitVec m} {y y' : BitVec n} :
    x ++ y = x' ++ y' ↔ x = x' ∧ y = y' := by
  refine ⟨fun h => ⟨?_, ?_⟩, fun h => by rw [h.1, h.2]⟩
  · simpa only [BitVec.extractLsb'_append_eq_left] using congrArg (BitVec.extractLsb' n m) h
  · simpa only [BitVec.extractLsb'_append_eq_right] using congrArg (BitVec.extractLsb' 0 n) h

theorem ofBool_getLsbD {n : Nat} (w : BitVec n) (i : Nat) : BitVec.ofBool (w.getLsbD i) = w.extractLsb' i 1 := by
  apply BitVec.eq_of_getLsbD_eq
  intro j hj
  obtain rfl : j = 0 := by omega
  simp

theorem encodeSrc_decodeSrc (f : BitVec 10) : encodeSrc (decodeSrc f) = f := by
  revert f; decide +kernel

theorem decodeSrc_encodeSrc {u : SrcUse} {free : Bool} {ty : BitVec 4} {x : Src} (h : u.ok free ty x = true) :
    decodeSrc (encodeSrc x) = x := by
  cases x with
  | reserved raw => cases h
  | imm => decide
  | reg n | slot n | latch n | konst n | small n => clear h; revert n; decide +kernel

theorem packLane_decodeLaneArgs (w : BitVec 96) : packLane (w.extractLsb' 86 10) (decodeLaneArgs w) = w := by
  simp only [packLane, decodeLaneArgs, encodeSrc_decodeSrc, ofBool_getLsbD]
  iterate 10 rw [BitVec.extractLsb'_append_extractLsb'_eq_extractLsb' (by omega)]
  exact BitVec.extractLsb'_eq_self

theorem packLane_inj {op op' : BitVec 10} {a a' : LaneArgs} (h : packLane op a = packLane op' a') :
    op = op' ∧ a.vd = a'.vd ∧ BitVec.ofBool a.w = BitVec.ofBool a'.w ∧ BitVec.ofBool a.h = BitVec.ofBool a'.h
      ∧ encodeSrc a.sa = encodeSrc a'.sa ∧ encodeSrc a.sb = encodeSrc a'.sb ∧ encodeSrc a.sc = encodeSrc a'.sc
      ∧ a.mask = a'.mask ∧ a.ty = a'.ty ∧ a.mods = a'.mods ∧ a.imm = a'.imm := by
  obtain ⟨h, himm⟩ := append_inj.mp h
  obtain ⟨h, hmods⟩ := append_inj.mp h
  obtain ⟨h, hty⟩ := append_inj.mp h
  obtain ⟨h, hmask⟩ := append_inj.mp h
  obtain ⟨h, hsc⟩ := append_inj.mp h
  obtain ⟨h, hsb⟩ := append_inj.mp h
  obtain ⟨h, hsa⟩ := append_inj.mp h
  obtain ⟨h, hh⟩ := append_inj.mp h
  obtain ⟨h, hw⟩ := append_inj.mp h
  obtain ⟨h, hvd⟩ := append_inj.mp h
  exact ⟨h, hvd, hw, hh, hsa, hsb, hsc, hmask, hty, hmods, himm⟩

theorem extractLsb'_packLane (op : BitVec 10) (a : LaneArgs) : (packLane op a).extractLsb' 86 10 = op :=
  (packLane_inj (packLane_decodeLaneArgs (packLane op a))).1

theorem decodeLaneArgs_packLane (op : BitVec 10) {a : LaneArgs} (ha : decodeSrc (encodeSrc a.sa) = a.sa)
    (hb : decodeSrc (encodeSrc a.sb) = a.sb) (hc : decodeSrc (encodeSrc a.sc) = a.sc) :
    decodeLaneArgs (packLane op a) = a := by
  obtain ⟨-, hvd, hw, hh, hsa, hsb, hsc, hmask, hty, hmods, himm⟩ := packLane_inj (packLane_decodeLaneArgs (packLane op a))
  have src (f : BitVec 10) {x : Src} (hx : decodeSrc (encodeSrc x) = x) (e : encodeSrc (decodeSrc f) = encodeSrc x) :
      decodeSrc f = x := by rw [← hx, ← e, encodeSrc_decodeSrc]
  have bit {x y : Bool} (e : BitVec.ofBool x = BitVec.ofBool y) : x = y := by revert x y; decide
  cases a
  simp only [decodeLaneArgs, LaneArgs.mk.injEq] at *
  exact ⟨hvd, bit hw, bit hh, src _ ha hsa, src _ hb hsb, src _ hc hsc, hmask, hty, hmods, himm⟩

/-! ### Lane words (R40, R41, R45) -/

/-- A well-formed instruction with lane fields is the one that the opcode map lists under its opcode. -/
theorem laneRow_elim_laneParts {i : Instr} (hw : i.wf = true) :
    i.laneParts.elim (some i) (fun p => laneRow p.1.toNat p.2) = some i := by
  cases i with
  | vtagSet b | vtagClr b | vtagGet b | vtagFmt b =>
    obtain ⟨hm, -⟩ := Bool.and_eq_true_iff.mp hw
    show laneRow 0x0A8 b = _
    simp [laneRow, laneRowConvert, eq_of_beq hm]
  | vmxsclGet b | vmxsclPut b =>
    obtain ⟨hm, -⟩ := Bool.and_eq_true_iff.mp hw
    show laneRow 0x0AA b = _
    simp [laneRow, laneRowConvert, eq_of_beq hm]
  | vsts b | vstsRow b | maccOut b | maccIn b =>
    obtain ⟨hm, -⟩ := Bool.and_eq_true_iff.mp hw
    show (if _ then _ else _) = _
    simp_all
  | vtool n b =>
    obtain ⟨hn, -⟩ := Bool.and_eq_true_iff.mp hw
    have tool : ∀ n : BitVec 3, n.toNat < 6 → 0x3F2 ≤ (0x3F2 + n.zeroExtend 10 : BitVec 10).toNat
        ∧ (0x3F2 + n.zeroExtend 10 : BitVec 10).toNat ≤ 0x3F7
        ∧ BitVec.ofNat 3 ((0x3F2 + n.zeroExtend 10 : BitVec 10).toNat - 0x3F2) = n := by decide
    obtain ⟨hlo, hhi, he⟩ := tool n (of_decide_eq_true hn)
    show laneRow (0x3F2 + n.zeroExtend 10 : BitVec 10).toNat b = _
    unfold laneRow
    iterate 11 rw [if_neg (by omega)]
    rw [if_pos ⟨hlo, hhi⟩, he]
  | _ => rfl

theorem laneRow_of_laneParts {i : Instr} {op : BitVec 10} {a : LaneArgs} (hp : i.laneParts = some (op, a)) (hw : i.wf = true) :
    laneRow op.toNat a = some i := by
  simpa only [hp, Option.elim_some] using laneRow_elim_laneParts hw

theorem encode_eq_elim_laneParts (i : Instr) :
    i.laneParts.elim (encode i) (fun p => some (.lane (packLane p.1 p.2))) = encode i := by
  cases i <;> rfl

theorem encode_of_laneParts {i : Instr} {op : BitVec 10} {a : LaneArgs} (hp : i.laneParts = some (op, a)) :
    encode i = some (.lane (packLane op a)) := by
  rw [← encode_eq_elim_laneParts, hp]
  rfl

theorem laneOk_elim_laneParts {i : Instr} (hi : ∀ n a, i ≠ .vtool n a) (hw : i.wf = true) :
    i.laneParts.elim i.wf (fun p => laneOk p.1.toNat p.2) = true := by
  cases i with
  | vtagSet b | vtagClr b | vtagGet b | vtagFmt b | vmxsclGet b | vmxsclPut b | vsts b | vstsRow b | maccOut b | maccIn b =>
    exact (Bool.and_eq_true_iff.mp hw).2
  | vtool n a => exact absurd rfl (hi n a)
  | _ => exact hw

theorem laneOk_of_wf {i : Instr} {op : BitVec 10} {a : LaneArgs} (hp : i.laneParts = some (op, a)) (hw : i.wf = true) :
    ∃ n, laneOk n a = true := by
  by_cases hi : ∃ n b, i = .vtool n b
  · obtain ⟨n, b, rfl⟩ := hi
    cases hp
    exact ⟨0x3F2, (Bool.and_eq_true_iff.mp hw).2⟩
  · have h := laneOk_elim_laneParts (fun n b e => hi ⟨n, b, e⟩) hw
    rw [hp] at h
    exact ⟨_, h⟩

/-- The sources of a legal lane instruction are none of the reserved encodings. -/
theorem LaneForm.sources_of_ok {f : LaneForm} {a : LaneArgs} (h : f.ok a = true) :
    decodeSrc (encodeSrc a.sa) = a.sa ∧ decodeSrc (encodeSrc a.sb) = a.sb ∧ decodeSrc (encodeSrc a.sc) = a.sc := by
  simp only [LaneForm.ok, Bool.and_eq_true] at h
  obtain ⟨⟨⟨⟨⟨⟨-, hsa⟩, hsb⟩, hsc⟩, -⟩, -⟩, -⟩ := h
  exact ⟨decodeSrc_encodeSrc hsa, decodeSrc_encodeSrc hsb, decodeSrc_encodeSrc hsc⟩

theorem laneOk_form {n : Nat} {a : LaneArgs} (h : laneOk n a = true) : ∃ f : LaneForm, f.ok a = true := by
  unfold laneOk at h
  split at h
  · simp only [Bool.and_eq_true] at h
    exact ⟨_, h.1.1.1⟩
  · cases h

/-- A part of the opcode map gives an instruction the opcode under which it lists it. -/
def RowOk (row : Nat → LaneArgs → Option Instr) : Prop :=
  ∀ n a i, row n a = some i → i.laneParts = some (BitVec.ofNat 10 n, a)

theorem laneRowInt_ok : RowOk laneRowInt := by
  intro n a i h
  unfold laneRowInt at h
  split at h <;> cases h <;> rfl

theorem laneRowPacked_ok : RowOk laneRowPacked := by
  intro n a i h
  unfold laneRowPacked at h
  split at h <;> cases h <;> rfl

theorem laneRowFloat_ok : RowOk laneRowFloat := by
  intro n a i h
  unfold laneRowFloat at h
  split at h <;> cases h <;> rfl

theorem laneRowSpecial_ok : RowOk laneRowSpecial := by
  intro n a i h
  unfold laneRowSpecial at h
  split at h <;> cases h <;> rfl

theorem laneRowCross_ok : RowOk laneRowCross := by
  intro n a i h
  unfold laneRowCross at h
  split at h <;> cases h <;> rfl

theorem laneRowMask_ok : RowOk laneRowMask := by
  intro n a i h
  unfold laneRowMask at h
  split at h <;> cases h <;> rfl

theorem laneRowControl_ok : RowOk laneRowControl := by
  intro n a i h
  unfold laneRowControl at h
  split at h <;> cases h <;> rfl

theorem laneRowMove_ok : RowOk laneRowMove := by
  intro n a i h
  unfold laneRowMove at h
  split at h <;> cases h <;> rfl

theorem laneRowTramp_ok : RowOk laneRowTramp := by
  intro n a i h
  unfold laneRowTramp at h
  split at h <;> cases h <;> rfl

theorem laneRowConvert_ok : RowOk laneRowConvert := by
  intro n a i h
  unfold laneRowConvert at h
  split at h
  case h_9 | h_11 => split at h <;> cases h <;> rfl
  all_goals cases h <;> rfl

theorem laneRowMemory_ok : RowOk laneRowMemory := by
  intro n a i h
  unfold laneRowMemory at h
  split at h
  case h_6 => split at h <;> cases h <;> rfl
  all_goals cases h <;> rfl

theorem laneRowMatrix_ok : RowOk laneRowMatrix := by
  intro n a i h
  unfold laneRowMatrix at h
  split at h
  case h_3 => split at h <;> cases h <;> rfl
  all_goals cases h <;> rfl

theorem tool_parts {n : Nat} (a : LaneArgs) (h : 0x3F2 ≤ n ∧ n ≤ 0x3F7) :
    (Instr.vtool (BitVec.ofNat 3 (n - 0x3F2)) a).laneParts = some (BitVec.ofNat 10 n, a) := by
  have tool : ∀ k < 6, (0x3F2 + (BitVec.ofNat 3 k).zeroExtend 10 : BitVec 10) = BitVec.ofNat 10 (0x3F2 + k) := by decide
  obtain ⟨k, rfl⟩ := Nat.exists_eq_add_of_le h.1
  rw [Nat.add_sub_cancel_left]
  exact congrArg (fun op => some (op, a)) (tool k (by omega))

theorem RowOk.ite {p : Nat → Prop} [DecidablePred p] {row row' : Nat → LaneArgs → Option Instr} (h : RowOk row)
    (h' : RowOk row') : RowOk (fun n a => if p n then row n a else row' n a) := by
  intro n a i e
  dsimp only at e
  split at e
  · exact h n a i e
  · exact h' n a i e

theorem laneRowTool_ok : RowOk (fun n a =>
    if 0x3F2 ≤ n ∧ n ≤ 0x3F7 then some (.vtool (BitVec.ofNat 3 (n - 0x3F2)) a) else laneRowTramp n a) := by
  intro n a i e
  dsimp only at e
  split at e
  · cases e
    exact tool_parts a ‹_›
  · exact laneRowTramp_ok n a i e

/-- The opcode map (R46, R51) gives every instruction the opcode that the instruction has. -/
theorem laneRow_ok : RowOk laneRow :=
  laneRowInt_ok.ite (laneRowPacked_ok.ite (laneRowFloat_ok.ite (laneRowSpecial_ok.ite (laneRowConvert_ok.ite
    (laneRowCross_ok.ite (laneRowMask_ok.ite (laneRowMemory_ok.ite (laneRowMatrix_ok.ite (laneRowControl_ok.ite
      (laneRowMove_ok.ite laneRowTool_ok))))))))))

/-- The extension space holds no assigned opcode. -/
theorem laneRow_extension {n : Nat} {a : LaneArgs} (h : 0x300 ≤ n ∧ n ≤ 0x3EF) : laneRow n a = none := by
  unfold laneRow
  iterate 11 rw [if_neg (by omega)]
  rw [if_neg (by omega)]
  exact laneRowTramp.eq_3 _ _ (by omega) (by omega)

/-- A well-formed lane instruction is what its word decodes to. -/
theorem decodeLane_packLane {i : Instr} {op : BitVec 10} {a : LaneArgs} (hp : i.laneParts = some (op, a)) (hw : i.wf = true) :
    decodeLane (packLane op a) = i := by
  obtain ⟨n, hok⟩ := laneOk_of_wf hp hw
  obtain ⟨f, hf⟩ := laneOk_form hok
  obtain ⟨ha, hb, hc⟩ := LaneForm.sources_of_ok hf
  have hrow := laneRow_of_laneParts hp hw
  have hext : ¬(0x300 ≤ op.toNat ∧ op.toNat ≤ 0x3EF) := fun h => by simp [laneRow_extension h] at hrow
  unfold decodeLane
  simp only [extractLsb'_packLane, decodeLaneArgs_packLane op ha hb hc, hrow, hw, if_neg hext, if_true]

/-- What a lane word decodes to when it is well formed: an extension, or its opcode's instruction. -/
theorem decodeLane_cases {w : BitVec 96} (h : (decodeLane w).wf = true) :
    decodeLane w = .extensionInstruction (.lane w)
      ∨ laneRow (w.extractLsb' 86 10).toNat (decodeLaneArgs w) = some (decodeLane w) := by
  unfold decodeLane at h ⊢
  dsimp only at h ⊢
  split
  · exact .inl rfl
  · rw [if_neg ‹_›] at h
    split
    · next i hrow =>
      simp only [hrow] at h
      split
      · exact .inr hrow
      · rw [if_neg ‹_›] at h
        cases h
    · next hrow =>
      rw [hrow] at h
      cases h

/-- A lane word that decodes to a well-formed instruction is that instruction's encoding. -/
theorem encode_decodeLane {w : BitVec 96} (h : (decodeLane w).wf = true) : encode (decodeLane w) = some (.lane w) := by
  obtain he | hrow := decodeLane_cases h
  · rw [he]
    rfl
  · have hp := laneRow_ok _ _ _ hrow
    rw [BitVec.ofNat_toNat, BitVec.setWidth_eq] at hp
    rw [encode_of_laneParts hp, packLane_decodeLaneArgs]

/-! ### Scalar words (R35) -/

theorem packR_inj {m d a b m' d' a' b' : BitVec 6} {f f' : BitVec 8} (h : packR m d a b f = packR m' d' a' b' f') :
    m = m' ∧ d = d' ∧ a = a' ∧ b = b' ∧ f = f' := by
  obtain ⟨h, hf⟩ := append_inj.mp h
  obtain ⟨h, hb⟩ := append_inj.mp h
  obtain ⟨h, ha⟩ := append_inj.mp h
  obtain ⟨hm, hd⟩ := append_inj.mp h
  exact ⟨hm, hd, ha, hb, hf⟩

theorem packI_inj {m d a m' d' a' : BitVec 6} {i i' : BitVec 14} (h : packI m d a i = packI m' d' a' i') :
    m = m' ∧ d = d' ∧ a = a' ∧ i = i' := by
  obtain ⟨h, hi⟩ := append_inj.mp h
  obtain ⟨h, ha⟩ := append_inj.mp h
  obtain ⟨hm, hd⟩ := append_inj.mp h
  exact ⟨hm, hd, ha, hi⟩

theorem packR_fields (w : BitVec 32) : packR (fieldMajor w) (fieldD w) (fieldA w) (fieldB w) (fieldF w) = w := by
  unfold packR fieldMajor fieldD fieldA fieldB fieldF
  iterate 4 rw [BitVec.extractLsb'_append_extractLsb'_eq_extractLsb' (by omega)]
  exact BitVec.extractLsb'_eq_self

theorem packI_fields (w : BitVec 32) : packI (fieldMajor w) (fieldD w) (fieldA w) (fieldI w) = w := by
  unfold packI fieldMajor fieldD fieldA fieldI
  iterate 3 rw [BitVec.extractLsb'_append_extractLsb'_eq_extractLsb' (by omega)]
  exact BitVec.extractLsb'_eq_self

section
variable (m d a b : BitVec 6) (f : BitVec 8) (i : BitVec 14)
@[simp] theorem fieldMajor_packR : fieldMajor (packR m d a b f) = m := (packR_inj (packR_fields _)).1
@[simp] theorem fieldD_packR : fieldD (packR m d a b f) = d := (packR_inj (packR_fields _)).2.1
@[simp] theorem fieldA_packR : fieldA (packR m d a b f) = a := (packR_inj (packR_fields _)).2.2.1
@[simp] theorem fieldB_packR : fieldB (packR m d a b f) = b := (packR_inj (packR_fields _)).2.2.2.1
@[simp] theorem fieldF_packR : fieldF (packR m d a b f) = f := (packR_inj (packR_fields _)).2.2.2.2
@[simp] theorem fieldMajor_packI : fieldMajor (packI m d a i) = m := (packI_inj (packI_fields _)).1
@[simp] theorem fieldD_packI : fieldD (packI m d a i) = d := (packI_inj (packI_fields _)).2.1
@[simp] theorem fieldA_packI : fieldA (packI m d a i) = a := (packI_inj (packI_fields _)).2.2.1
@[simp] theorem fieldI_packI : fieldI (packI m d a i) = i := (packI_inj (packI_fields _)).2.2.2
end

/-- An assigned, well-formed word of the scalar stream decodes to its row's instruction. -/
theorem decodeScalar_of_row {w : BitVec 32} (next : BitVec 32) {i : Instr}
    (hm : (fieldMajor w).toNat < 0x30 ∨ 0x3D < (fieldMajor w).toNat) (hr : scalarRow w next = some i) (hw : i.wf = true) :
    decodeScalar w next = i := by
  unfold decodeScalar
  rw [if_neg (by omega), hr]
  exact if_pos hw

theorem extractLsb'_within {n s k t m : Nat} (x : BitVec n) (h : t + m ≤ k) :
    (x.extractLsb' s k).extractLsb' t m = x.extractLsb' (s + t) m := by
  apply BitVec.eq_of_getLsbD_eq
  intro i hi
  simp [hi, show t + i < k by omega, Nat.add_assoc]

/-- The parts of the sd field and of the sb field that single rows read by themselves (R36). -/
theorem fieldD_parts (w : BitVec 32) :
    w.extractLsb' 23 3 = (fieldD w).extractLsb' 3 3 ∧ w.extractLsb' 20 3 = (fieldD w).extractLsb' 0 3 :=
  have within (t : Nat) (h : t + 3 ≤ 6) : w.extractLsb' (20 + t) 3 = (fieldD w).extractLsb' t 3 :=
    (extractLsb'_within w h).symm
  ⟨within 3 (by decide), within 0 (by decide)⟩

theorem fieldB_parts (w : BitVec 32) :
    w.extractLsb' 13 1 = (fieldB w).extractLsb' 5 1 ∧ w.extractLsb' 11 2 = (fieldB w).extractLsb' 3 2
      ∧ w.extractLsb' 8 3 = (fieldB w).extractLsb' 0 3 ∧ w.extractLsb' 9 5 = (fieldB w).extractLsb' 1 5
      ∧ w.extractLsb' 8 1 = (fieldB w).extractLsb' 0 1 :=
  have within (t m : Nat) (h : t + m ≤ 6) : w.extractLsb' (8 + t) m = (fieldB w).extractLsb' t m :=
    (extractLsb'_within w h).symm
  ⟨within 5 1 (by decide), within 3 2 (by decide), within 0 3 (by decide), within 1 5 (by decide), within 0 1 (by decide)⟩

theorem phase_parts (h : BitVec 2) (z : BitVec 3) : (0#1 ++ h ++ z : BitVec 6).extractLsb' 5 1 = 0#1
    ∧ (0#1 ++ h ++ z : BitVec 6).extractLsb' 3 2 = h ∧ (0#1 ++ h ++ z : BitVec 6).extractLsb' 0 3 = z := by
  revert h z; decide

theorem tret_parts (k : BitVec 1) : (0#5 ++ k : BitVec 6).extractLsb' 1 5 = 0#5 ∧ (0#5 ++ k : BitVec 6).extractLsb' 0 1 = k := by
  revert k; decide

theorem seed_parts (z : BitVec 3) :
    (0#3 ++ z : BitVec 6).extractLsb' 3 3 = 0#3 ∧ (0#3 ++ z : BitVec 6).extractLsb' 0 3 = z := by
  revert z; decide

/-- The fields of a branch word: the major opcode, the link bit's field, the offset (R36). -/
theorem fields_jump (k : BitVec 4) (o : BitVec 22) : let w : BitVec 32 := 0x15#6 ++ k ++ o
    fieldMajor w = 0x15 ∧ w.extractLsb' 22 4 = k ∧ w.extractLsb' 0 22 = o := by
  refine ⟨?_, ?_, BitVec.extractLsb'_append_eq_right⟩
  · unfold fieldMajor
    rw [BitVec.extractLsb'_append_eq_of_le (by omega)]
    exact BitVec.extractLsb'_append_eq_left
  · rw [BitVec.extractLsb'_append_eq_of_le (by omega)]
    exact BitVec.extractLsb'_append_eq_right

/-- The fields of a trampoline word (R51). -/
theorem fields_tramps (k : BitVec 6) (i : BitVec 20) : let w : BitVec 32 := 0x3E#6 ++ k ++ i
    fieldMajor w = 0x3E ∧ w.extractLsb' 20 6 = k ∧ w.extractLsb' 0 20 = i := by
  refine ⟨?_, ?_, BitVec.extractLsb'_append_eq_right⟩
  · unfold fieldMajor
    rw [BitVec.extractLsb'_append_eq_of_le (by omega)]
    exact BitVec.extractLsb'_append_eq_left
  · rw [BitVec.extractLsb'_append_eq_of_le (by omega)]
    exact BitVec.extractLsb'_append_eq_right

section
variable {w next : BitVec 32}

theorem scalarRow_pair (h : fieldMajor w = 0x01) :
    scalarRow w next = some (.longImmediatePrefix (w.extractLsb' 0 26) next) := by simp [scalarRow, h]

theorem scalarRow_b (h : fieldMajor w = 0x15) (hk : w.extractLsb' 22 4 = 0) :
    scalarRow w next = some (.b (w.extractLsb' 0 22)) := by simp [scalarRow, isImmediateWord, h, hk]

theorem scalarRow_call (h : fieldMajor w = 0x15) (hk : w.extractLsb' 22 4 = 1) :
    scalarRow w next = some (.call (w.extractLsb' 0 22)) := by simp [scalarRow, isImmediateWord, h, hk]

theorem scalarRow_tramps (h : fieldMajor w = 0x3E) (hk : w.extractLsb' 20 6 = 0) :
    scalarRow w next = some (.tramps (w.extractLsb' 0 20)) := by simp [scalarRow, isImmediateWord, h, hk]

end

theorem decodeCode_of_row {w : BitVec 32} {c : Code} {i : Instr} (he : some (Code.scalar w) = some c)
    (hm : (fieldMajor w).toNat < 0x30 ∨ 0x3D < (fieldMajor w).toNat) (hr : scalarRow w 0 = some i) (hw : i.wf = true) :
    decodeCode c = i := by
  cases he
  exact decodeScalar_of_row 0 hm hr hw

/-- A well-formed instruction without lane fields is what its encoding decodes to. -/
theorem decodeCode_encode_scalar {i : Instr} {c : Code} (hp : i.laneParts = none) (hw : i.wf = true) (he : encode i = some c) :
    decodeCode c = i := by
  have hcode : (i.laneParts.isNone && (encode i).isSome) = true := by
    rw [hp, he]
    rfl
  cases i with
  | add | sub | and | or | xor | andn | shl | shr | sra | shli | shri | srai | slt | sltu | min | max | minu | maxu | mul
  | mulh | mulhu | div | divu | rem | remu | clz | ctz | popc | sextb | sexth | sextw =>
    exact decodeCode_of_row he (by simp) (by simp [scalarRow, rowInteger, onlyIf]) hw
  | addi | andi | ori | xori | slti | sltiu | muli | sldB | sldBu | sldH | sldHu | sldW | sldWu | sldD | sstB | sstH | sstW
  | sstD | lrun =>
    exact decodeCode_of_row he (by simp) (by simp [scalarRow, rowImmediate, isImmediateWord]) hw
  | beq | bne | blt | bge | bltu | bgeu =>
    exact decodeCode_of_row he (by simp) (by simp [scalarRow, rowCompare, isImmediateWord]) hw
  | jr | callr | ret =>
    exact decodeCode_of_row he (by simp) (by simp [scalarRow, rowIndirect, isImmediateWord, onlyIf]) hw
  | lwait | fmt | seedtag =>
    exact decodeCode_of_row he (by simp) (by simp [scalarRow, rowStream, isImmediateWord, onlyIf]) hw
  | seedld z a b =>
    exact decodeCode_of_row he (by simp) (by simp [scalarRow, rowStream, isImmediateWord, onlyIf, fieldD_parts, seed_parts]) hw
  | chset | chrel | chkey | chfill | chtag =>
    exact decodeCode_of_row he (by simp) (by simp [scalarRow, rowChord, isImmediateWord, onlyIf]) hw
  | cpy | cpyt | cpyr | cpyc | ewait | epoll =>
    exact decodeCode_of_row he (by simp) (by simp [scalarRow, rowEngine, isImmediateWord, onlyIf]) hw
  | barb | bara | barw | garrive | gwait =>
    exact decodeCode_of_row he (by simp) (by simp [scalarRow, rowPhase, isImmediateWord, onlyIf]) hw
  | ctxgrow | ctxshrink | migrate | yield | spin =>
    exact decodeCode_of_row he (by simp) (by simp [scalarRow, rowContext, isImmediateWord, onlyIf]) hw
  | launch | ljoin | itempush =>
    exact decodeCode_of_row he (by simp) (by simp [scalarRow, rowLaunch, isImmediateWord, onlyIf]) hw
  | nop | trap | halt | brk | stage | fwcall | srdsrSflags | srdsrPtc | swrsrSflags | swrsrDbgctl | swrsrDeadline
  | swrsrTrampbase =>
    exact decodeCode_of_row he (by simp) (by simp [scalarRow, rowSystem, isImmediateWord, onlyIf]) hw
  | longImmediatePrefix hi word =>
    cases he
    have hm : fieldMajor (0x01#6 ++ hi : BitVec 32) = 1 := BitVec.extractLsb'_append_eq_left
    have hh : (0x01#6 ++ hi : BitVec 32).extractLsb' 0 26 = hi := BitVec.extractLsb'_append_eq_right
    exact decodeScalar_of_row word (by simp [hm]) (by simp [scalarRow, hm, hh]) hw
  | b o =>
    cases he
    obtain ⟨hm, hk, ho⟩ := fields_jump 0#4 o
    exact decodeScalar_of_row 0 (by rw [hm]; decide) (by rw [scalarRow_b hm hk, ho]) hw
  | call o =>
    cases he
    obtain ⟨hm, hk, ho⟩ := fields_jump 1#4 o
    exact decodeScalar_of_row 0 (by rw [hm]; decide) (by rw [scalarRow_call hm hk, ho]) hw
  | tramps i =>
    cases he
    obtain ⟨hm, hk, hi⟩ := fields_tramps 0#6 i
    exact decodeScalar_of_row 0 (by rw [hm]; decide) (by rw [scalarRow_tramps hm hk, hi]) hw
  | trampsRet =>
    cases he
    decide
  | phase h s =>
    cases he
    exact decodeScalar_of_row 0 (by simp) (by simp [scalarRow, rowPhase, isImmediateWord, onlyIf, fieldB_parts, phase_parts]) hw
  | tret k =>
    cases he
    exact decodeScalar_of_row 0 (by simp) (by simp [scalarRow, rowSystem, isImmediateWord, onlyIf, fieldB_parts, tret_parts]) hw
  | srdsr d h l =>
    cases he
    have hrow : (!srdsrOwnRow h l) = true := hw
    have hown : (h = 0 → ¬l = 0) ∧ (h = 1 → ¬l = 0x20) := by simpa [srdsrOwnRow, imp_iff_not_or] using hrow
    refine decodeScalar_of_row 0 (by simp) ?_ hw
    simp [scalarRow, rowSystem, isImmediateWord]
    rw [if_neg (fun e => hown.1 e.1 e.2), if_neg (fun e => hown.2 e.1 e.2)]
  | swrsr d h l =>
    cases he
    have hrow : (!swrsrOwnRow h l) = true := hw
    have hown : (h = 1 → (¬l = 0x20 ∧ ¬l = 0x10) ∧ ¬l = 0) ∧ (h = 0 → ¬l = 0x20) := by
      simpa [swrsrOwnRow, imp_iff_not_or] using hrow
    refine decodeScalar_of_row 0 (by simp) ?_ hw
    simp [scalarRow, rowSystem, isImmediateWord]
    rw [if_neg (fun e => (hown.1 e.1).1.1 e.2), if_neg (fun e => (hown.1 e.1).1.2 e.2), if_neg (fun e => (hown.1 e.1).2 e.2),
      if_neg (fun e => hown.2 e.1 e.2)]
  | extensionInstruction k =>
    cases k with
    | scalar w =>
      cases he
      exact if_pos (of_decide_eq_true hw)
    | lane w =>
      cases he
      exact if_pos (of_decide_eq_true hw)
  | illegalInstruction k => cases hw
  | _ => exact absurd hcode Bool.false_ne_true

/-! ### From words back to words -/

@[simp] theorem onlyIf_eq_some {c : Bool} {i j : Instr} : onlyIf c i = some j ↔ c = true ∧ i = j := by
  cases c <;> simp [onlyIf]

/-- The fields of SEEDLD, PHASE and TRET that stand in parts of a register field, put together again (R36). -/
theorem fieldD_of_seed {w : BitVec 32} (h : w.extractLsb' 23 3 = 0#3) : fieldD w = 0#3 ++ w.extractLsb' 20 3 := by
  rw [← h, BitVec.extractLsb'_append_extractLsb'_eq_extractLsb' (by omega)]
  rfl

theorem fieldB_of_phase {w : BitVec 32} (h : w.extractLsb' 13 1 = 0#1) :
    fieldB w = 0#1 ++ w.extractLsb' 11 2 ++ w.extractLsb' 8 3 := by
  rw [← h, BitVec.extractLsb'_append_extractLsb'_eq_extractLsb' (by omega),
    BitVec.extractLsb'_append_extractLsb'_eq_extractLsb' (by omega)]
  rfl

theorem fieldB_of_tret {w : BitVec 32} (h : w.extractLsb' 9 5 = 0#5) : fieldB w = 0#5 ++ w.extractLsb' 8 1 := by
  rw [← h, BitVec.extractLsb'_append_extractLsb'_eq_extractLsb' (by omega)]
  rfl

/-- Where a row of an opcode map gives an instruction, the instruction's encoding is this code. -/
def Encodes (c : Code) (o : Option Instr) : Prop := ∀ i, o = some i → encode i = some c

theorem Encodes.none {c : Code} : Encodes c none := fun _ h => nomatch h

theorem Encodes.ite {p : Prop} [Decidable p] {c : Code} {o o' : Option Instr} (h : p → Encodes c o) (h' : ¬p → Encodes c o') :
    Encodes c (if p then o else o') := by
  split
  · exact h ‹_›
  · exact h' ‹_›

section
variable {w : BitVec 32}

/-- A word in format S-R is the one that its fields give. -/
theorem scalar_packR {m d a b : BitVec 6} {f : Nat} (hm : fieldMajor w = m) (hd : fieldD w = d) (ha : fieldA w = a)
    (hb : fieldB w = b) (hf : (fieldF w).toNat = f) :
    some (Code.scalar (packR m d a b (BitVec.ofNat 8 f))) = some (.scalar w) := by
  rw [← hm, ← hd, ← ha, ← hb, ← hf, BitVec.ofNat_toNat, BitVec.setWidth_eq, packR_fields]

/-- A word in format S-I or S-CB is the one that its fields give. -/
theorem scalar_packI {m : Nat} (hm : (fieldMajor w).toNat = m) :
    some (Code.scalar (packI (BitVec.ofNat 6 m) (fieldD w) (fieldA w) (fieldI w))) = some (.scalar w) := by
  rw [← hm, BitVec.ofNat_toNat, BitVec.setWidth_eq, packI_fields]

theorem encodes_rowInteger (hm : fieldMajor w = 0x02) : Encodes (.scalar w) (rowInteger w) := by
  intro i h
  unfold rowInteger at h
  dsimp only at h
  split at h <;> simp only [onlyIf_eq_some, beq_iff_eq, Option.some.injEq, reduceCtorEq] at h
  case h_26 hf | h_27 hf | h_28 hf | h_29 hf | h_30 hf | h_31 hf =>
    obtain ⟨hb, rfl⟩ := h
    exact scalar_packR hm rfl rfl hb hf
  all_goals
    subst h
    exact scalar_packR hm rfl rfl rfl ‹_›

theorem encodes_rowImmediate : Encodes (.scalar w) (rowImmediate w) := by
  intro i h
  unfold rowImmediate at h
  dsimp only at h
  split at h <;> cases h <;> exact scalar_packI ‹_›

theorem encodes_rowCompare : Encodes (.scalar w) (rowCompare w) := by
  intro i h
  unfold rowCompare at h
  dsimp only at h
  split at h <;> cases h <;> exact scalar_packI ‹_›

theorem encodes_rowIndirect (hm : fieldMajor w = 0x1C) : Encodes (.scalar w) (rowIndirect w) := by
  intro i h
  unfold rowIndirect at h
  dsimp only at h
  split at h <;> simp only [onlyIf_eq_some, Bool.and_eq_true, beq_iff_eq, reduceCtorEq] at h
  case h_1 hf | h_3 hf =>
    obtain ⟨⟨hd, hb⟩, rfl⟩ := h
    exact scalar_packR hm hd rfl hb hf
  case h_2 hf =>
    obtain ⟨hb, rfl⟩ := h
    exact scalar_packR hm rfl rfl hb hf

theorem encodes_rowStream (hm : fieldMajor w = 0x1E) : Encodes (.scalar w) (rowStream w) := by
  intro i h
  unfold rowStream at h
  dsimp only at h
  split at h <;> simp only [onlyIf_eq_some, Bool.and_eq_true, beq_iff_eq, Option.some.injEq, reduceCtorEq] at h
  case h_1 hf =>
    obtain ⟨⟨hd, ha⟩, rfl⟩ := h
    exact scalar_packR hm hd ha rfl hf
  case h_3 hf =>
    obtain ⟨hz, rfl⟩ := h
    exact scalar_packR hm (fieldD_of_seed hz) rfl rfl hf
  case h_2 hf | h_4 hf =>
    subst h
    exact scalar_packR hm rfl rfl rfl hf

theorem encodes_rowChord (hm : fieldMajor w = 0x1F) : Encodes (.scalar w) (rowChord w) := by
  intro i h
  unfold rowChord at h
  dsimp only at h
  split at h <;> simp only [onlyIf_eq_some, beq_iff_eq, Option.some.injEq, reduceCtorEq] at h
  case h_2 hf =>
    obtain ⟨hb, rfl⟩ := h
    exact scalar_packR hm rfl rfl hb hf
  all_goals
    subst h
    exact scalar_packR hm rfl rfl rfl ‹_›

theorem encodes_rowEngine (hm : fieldMajor w = 0x20) : Encodes (.scalar w) (rowEngine w) := by
  intro i h
  unfold rowEngine at h
  dsimp only at h
  split at h <;> simp only [onlyIf_eq_some, beq_iff_eq, Option.some.injEq, reduceCtorEq] at h
  case h_5 hf | h_6 hf =>
    obtain ⟨hb, rfl⟩ := h
    exact scalar_packR hm rfl rfl hb hf
  all_goals
    subst h
    exact scalar_packR hm rfl rfl rfl ‹_›

theorem encodes_rowPhase (hm : fieldMajor w = 0x21) : Encodes (.scalar w) (rowPhase w) := by
  intro i h
  unfold rowPhase at h
  dsimp only at h
  split at h <;> simp only [onlyIf_eq_some, Bool.and_eq_true, beq_iff_eq, Option.some.injEq, reduceCtorEq] at h
  case h_1 hf =>
    obtain ⟨⟨⟨hd, ha⟩, hz⟩, rfl⟩ := h
    exact scalar_packR hm hd ha (fieldB_of_phase hz) hf
  case h_2 hf | h_3 hf | h_5 hf =>
    obtain ⟨hb, rfl⟩ := h
    exact scalar_packR hm rfl rfl hb hf
  case h_4 hf | h_6 hf =>
    subst h
    exact scalar_packR hm rfl rfl rfl hf

theorem encodes_rowContext (hm : fieldMajor w = 0x22) : Encodes (.scalar w) (rowContext w) := by
  intro i h
  unfold rowContext at h
  dsimp only at h
  split at h <;> simp only [onlyIf_eq_some, Bool.and_eq_true, beq_iff_eq, Option.some.injEq, reduceCtorEq] at h
  case h_1 hf | h_2 hf =>
    obtain ⟨hb, rfl⟩ := h
    exact scalar_packR hm rfl rfl hb hf
  case h_3 hf =>
    subst h
    exact scalar_packR hm rfl rfl rfl hf
  case h_4 hf | h_5 hf =>
    obtain ⟨⟨⟨hd, ha⟩, hb⟩, rfl⟩ := h
    exact scalar_packR hm hd ha hb hf

theorem encodes_rowLaunch (hm : fieldMajor w = 0x23) : Encodes (.scalar w) (rowLaunch w) := by
  intro i h
  unfold rowLaunch at h
  dsimp only at h
  split at h <;> simp only [onlyIf_eq_some, beq_iff_eq, Option.some.injEq, reduceCtorEq] at h
  case h_1 hf | h_2 hf =>
    obtain ⟨hb, rfl⟩ := h
    exact scalar_packR hm rfl rfl hb hf
  case h_3 hf =>
    subst h
    exact scalar_packR hm rfl rfl rfl hf

theorem encodes_rowSystem (hm : fieldMajor w = 0x24) : Encodes (.scalar w) (rowSystem w) := by
  intro i h
  unfold rowSystem at h
  dsimp only at h
  split at h <;> simp only [onlyIf_eq_some, Bool.and_eq_true, beq_iff_eq, Option.some.injEq, reduceCtorEq] at h
  case h_1 hf =>
    obtain ⟨⟨⟨hd, ha⟩, hb⟩, rfl⟩ := h
    exact scalar_packR hm hd ha hb hf
  case h_2 hf =>
    obtain ⟨hd, rfl⟩ := h
    exact scalar_packR hm hd rfl rfl hf
  case h_3 hf =>
    obtain ⟨⟨⟨hd, ha⟩, hz⟩, rfl⟩ := h
    exact scalar_packR hm hd ha (fieldB_of_tret hz) hf
  case h_4 hf =>
    obtain ⟨⟨hd, hb⟩, rfl⟩ := h
    exact scalar_packR hm hd rfl hb hf
  case h_5 hf =>
    obtain ⟨⟨hd, ha⟩, rfl⟩ := h
    exact scalar_packR hm hd ha rfl hf
  case h_6 hf =>
    obtain ⟨ha, rfl⟩ := h
    exact scalar_packR hm rfl ha rfl hf
  case h_7 hf =>
    subst h
    split_ifs with h0 h1
    · exact scalar_packR hm rfl h0.1 h0.2 hf
    · exact scalar_packR hm rfl h1.1 h1.2 hf
    · exact scalar_packR hm rfl rfl rfl hf
  case h_8 hf =>
    subst h
    split_ifs with h0 h1 h2 h3
    · exact scalar_packR hm rfl h0.1 h0.2 hf
    · exact scalar_packR hm rfl h1.1 h1.2 hf
    · exact scalar_packR hm rfl h2.1 h2.2 hf
    · exact scalar_packR hm rfl h3.1 h3.2 hf
    · exact scalar_packR hm rfl rfl rfl hf
  case h_9 hf =>
    subst h
    exact scalar_packR hm rfl rfl rfl hf

/-- A branch's or a call's word. -/
theorem scalar_jump {k : Nat} (hm : fieldMajor w = 0x15#6) (hk : (w.extractLsb' 22 4).toNat = k) :
    some (Code.scalar (0x15#6 ++ BitVec.ofNat 4 k ++ w.extractLsb' 0 22)) = some (.scalar w) := by
  rw [← hk, BitVec.ofNat_toNat, BitVec.setWidth_eq, ← hm, fieldMajor,
    BitVec.extractLsb'_append_extractLsb'_eq_extractLsb' (by omega),
    BitVec.extractLsb'_append_extractLsb'_eq_extractLsb' (by omega)]
  exact congrArg (fun x => some (Code.scalar x)) BitVec.extractLsb'_eq_self

/-- A trampoline's word. -/
theorem scalar_tramps {k : Nat} (hm : fieldMajor w = 0x3E#6) (hk : (w.extractLsb' 20 6).toNat = k) :
    some (Code.scalar (0x3E#6 ++ BitVec.ofNat 6 k ++ w.extractLsb' 0 20)) = some (.scalar w) := by
  rw [← hk, BitVec.ofNat_toNat, BitVec.setWidth_eq, ← hm, fieldMajor,
    BitVec.extractLsb'_append_extractLsb'_eq_extractLsb' (by omega),
    BitVec.extractLsb'_append_extractLsb'_eq_extractLsb' (by omega)]
  exact congrArg (fun x => some (Code.scalar x)) BitVec.extractLsb'_eq_self

theorem scalar_pair {next : BitVec 32} (hm : fieldMajor w = 0x01#6) :
    some (Code.pair (0x01#6 ++ w.extractLsb' 0 26) next) = some (.pair w next) := by
  rw [← hm, fieldMajor, BitVec.extractLsb'_append_extractLsb'_eq_extractLsb' (by omega)]
  exact congrArg (fun x => some (Code.pair x next)) BitVec.extractLsb'_eq_self

/-- Each row of the scalar map (R38, R39) gives an instruction whose encoding is the word. -/
theorem encodes_scalarRow {next : BitVec 32} :
    Encodes (if fieldMajor w = 1 then .pair w next else .scalar w) (scalarRow w next) := by
  by_cases hm : fieldMajor w = 1
  · rw [if_pos hm, scalarRow_pair hm]
    intro i h
    cases h
    exact scalar_pair hm
  · rw [if_neg hm]
    refine .ite (fun h => absurd (BitVec.eq_of_toNat_eq h) hm)
      fun _ => .ite (fun h => encodes_rowInteger (BitVec.eq_of_toNat_eq h))
      fun _ => .ite (fun _ => encodes_rowImmediate) fun _ => .ite ?jump fun _ => .ite (fun _ => encodes_rowCompare)
      fun _ => .ite (fun h => encodes_rowIndirect (BitVec.eq_of_toNat_eq h))
      fun _ => .ite (fun h => encodes_rowStream (BitVec.eq_of_toNat_eq h))
      fun _ => .ite (fun h => encodes_rowChord (BitVec.eq_of_toNat_eq h))
      fun _ => .ite (fun h => encodes_rowEngine (BitVec.eq_of_toNat_eq h))
      fun _ => .ite (fun h => encodes_rowPhase (BitVec.eq_of_toNat_eq h))
      fun _ => .ite (fun h => encodes_rowContext (BitVec.eq_of_toNat_eq h))
      fun _ => .ite (fun h => encodes_rowLaunch (BitVec.eq_of_toNat_eq h))
      fun _ => .ite (fun h => encodes_rowSystem (BitVec.eq_of_toNat_eq h)) fun _ => .ite ?tramps fun _ => .none
    case jump =>
      intro hm i h
      split at h <;> cases h <;> exact scalar_jump (BitVec.eq_of_toNat_eq hm) ‹_›
    case tramps =>
      intro hm i h
      have hm : fieldMajor w = 0x3E#6 := BitVec.eq_of_toNat_eq hm
      split at h <;> simp only [onlyIf_eq_some, beq_iff_eq, Option.some.injEq, reduceCtorEq] at h
      case h_1 hk =>
        subst h
        exact scalar_tramps hm hk
      case h_2 hk =>
        obtain ⟨hi, rfl⟩ := h
        rw [← scalar_tramps hm hk, hi]
        decide

end

/-- What a scalar word decodes to when it is well formed: an extension, or its row's instruction. -/
theorem decodeScalar_cases {w next : BitVec 32} (h : (decodeScalar w next).wf = true) :
    (0x30 ≤ (fieldMajor w).toNat ∧ decodeScalar w next = .extensionInstruction (.scalar w))
      ∨ scalarRow w next = some (decodeScalar w next) := by
  unfold decodeScalar at h ⊢
  split
  · next hm => exact .inl ⟨hm.1, rfl⟩
  · rw [if_neg ‹_›] at h
    split
    · next i hrow =>
      simp only [hrow] at h
      split
      · exact .inr hrow
      · rw [if_neg ‹_›] at h
        cases h
    · next hrow =>
      rw [hrow] at h
      cases h

/-- A scalar word that decodes to a well-formed instruction is that instruction's encoding, with the word after it where the
instruction is a long-immediate pair. -/
theorem encode_decodeScalar {w next : BitVec 32} (h : (decodeScalar w next).wf = true) :
    encode (decodeScalar w next) = some (if fieldMajor w = 1 then .pair w next else .scalar w) := by
  obtain ⟨hm, he⟩ | hrow := decodeScalar_cases h
  · rw [he, if_neg (fun e => by simp [e] at hm)]
    rfl
  · exact encodes_scalarRow _ hrow

/-- A well-formed instruction is what its encoding decodes to. -/
theorem decodeCode_encode {i : Instr} {c : Code} (hw : i.wf = true) (he : encode i = some c) : decodeCode c = i := by
  cases hp : i.laneParts with
  | none => exact decodeCode_encode_scalar hp hw he
  | some p =>
    obtain ⟨op, a⟩ := p
    rw [encode_of_laneParts hp] at he
    cases he
    exact decodeLane_packLane hp hw

/-- Settles O56: each half of a word's decoding puts its fields back where its encoding takes them from, lane words by their
opcode's one row, scalar words row by row. -/
theorem encodeDecode : Obligations.EncodeDecode :=
  ⟨fun _ _ => decodeCode_encode, fun _ => encode_decodeLane, fun _ _ => encode_decodeScalar⟩

end Sys2Proof

/-!
# A step runs what it fetches, and the worked words (O54, O55)
-/

namespace Sys2Proof.Machine

open Sys2Proof.Claims

variable {s v x : State} {i : Instr}

/-- A read or a write of memory leaves the stream that moves as it is. -/
theorem Memory.ReadFrame.lane {t : State} (h : Memory.ReadFrame s t) : t.lane = s.lane := by rw [h]

@[simp] theorem deliver_lane (c : Nat) (r : FaultRecord) : (deliver s c r).lane = s.lane := by
  obtain ⟨p, h⟩ := deliver_spec s c r
  rw [h, State.setCcp_lane]

theorem State.frameBad_lane (w : Wave) (g : BitVec 4) (nr : Bool) (l : List (BitVec 64 × BitVec 64)) :
    (s.frameBad w g nr l).lane = s.lane := by
  have records (f : BitVec 64 × BitVec 64 → State → FaultRecord) (l : List (BitVec 64 × BitVec 64)) (u : State) :
      (l.foldl (fun s p => deliver s (ccpOf w) (f p s)) u).lane = u.lane := by
    induction l generalizing u with
    | nil => rfl
    | cons p l ih => rw [List.foldl_cons, ih, deliver_lane]
  cases l with
  | nil => rfl
  | cons p l => exact records (fun p s => sectorRecord s w 5 g p.1 w.spc p.2) (p :: l) s

theorem State.frameLost_lane (w : Wave) (g : BitVec 4) (va : BitVec 64) (nr : Bool) (e : AccFail) :
    (s.frameLost w g va nr e).lane = s.lane := by
  cases e with
  | integrity v pa => exact State.frameBad_lane _ _ _ _
  | _ => rfl

theorem State.lineFault_lane (w : Wave) (off : Nat) (e : AccFail) : (s.lineFault w off e).lane = s.lane := by
  cases e with
  | wait => rfl
  | page f va pa => exact deliver_lane _ _
  | mem a | integrity va pa | link va late => exact State.frameLost_lane _ _ _ _ _

theorem State.frameWrite_lane {t : State} {w : Wave} {off : Nat} {b : List Byte} (h : s.frameWrite w off b = .ok t) :
    t.lane = s.lane := by
  unfold State.frameWrite at h
  split at h
  · cases h
  · next hp =>
    have hread := (framePlace_reads hp).2.lane
    split at h
    · exact (writeLocal_reads h).2.lane.trans hread
    · cases h
      exact (putLocal_reads _ _ _ _ _).2.lane.trans hread

/-- A fragment that refers to its split entry is still the stream that moves. -/
theorem State.useEntry_lane (e : Nat) : (s.useEntry e).lane = s.lane := by
  unfold State.useEntry
  dsimp only
  split
  · rfl
  · split
    · next t h => exact (State.onW_lane (s := t) _).trans (State.frameWrite_lane h)
    · rfl
    · exact State.lineFault_lane _ _ _

theorem State.refers_lane : s.refers.lane = s.lane := by
  unfold State.refers
  split
  · exact State.useEntry_lane _
  · rfl

/-- A stream whose boundary lets it go on runs what is fetched. -/
theorem issue_runs {w : Nat} {lane : Bool} {f : Nat} {d : Bool} (hf : s.focus w = some v)
    (hb : boundary { v with lane := lane, frag := f, defer := d, stalled := false } = .go)
    (hi : fetchInstr ({ v with lane := lane, frag := f, defer := d, stalled := false } : State).refers = .ok (i, x)) :
    issue s w lane f d = runInstr i x := by
  unfold issue
  simp only [hf, hb, hi]

/-- With nothing logged an instruction has its meaning, and what follows an issue. -/
theorem runInstr_unlogged {t : State} (he : exec i s = .next t) (hl : logs s t = false) :
    runInstr i s = .next (afterIssue s t) := by
  simp [runInstr, he, hl]

theorem step_issue {w : Nat} {lane : Bool} {f : Nat} {d : Bool} {rest : List Pick} (h : s.agenda = .issue w lane f d :: rest) :
    step s = issue { s with agenda := rest } w lane f d := by
  simp [step, h, perform]

theorem fetchInstr_word {b : List Byte} (hl : s.lane = false) (hf : fetch s s.w.spc 4 = .ok (b, x))
    (hb : ofBytes b / 2 ^ 26 ≠ 1) : fetchInstr s = .ok (decodeScalar (BitVec.ofNat 32 (ofBytes b)) 0, x) := by
  simp only [fetchInstr, fetchScalar, hl, hf, if_neg hb, Bool.false_eq_true, if_false]

theorem fetchInstr_pair {b c : List Byte} {y : State} (hl : s.lane = false) (hf : fetch s s.w.spc 4 = .ok (b, x))
    (hb : ofBytes b / 2 ^ 26 = 1) (hg : fetch x (x.w.spc + 4) 4 = .ok (c, y)) :
    fetchInstr s = .ok (decodeScalar (BitVec.ofNat 32 (ofBytes b)) (BitVec.ofNat 32 (ofBytes c)), y) := by
  simp only [fetchInstr, fetchScalar, hl, hf, if_pos hb, hg, Bool.false_eq_true, if_false]

theorem fetchInstr_lane {b : List Byte} (hl : s.lane = true) (hf : fetch s (s.w.laneAddr s.entry.lpc) 12 = .ok (b, x)) :
    fetchInstr s = .ok (decodeLane (BitVec.ofNat 96 (ofBytes b)), x) := by
  rw [fetchInstr, if_pos hl, fetchLane_eq]
  beta_reduce
  rw [hf]

/-- Settles O55: a fragment that refers to its split entry stays the stream that moves, so what is fetched is what its kind of
stream fetches. -/
theorem stepRunsDecoded : Obligations.StepRunsDecoded := by
  intro s v w lane f d rest ha hf u r hb
  have hlane : r.lane = lane := State.refers_lane
  refine ⟨fun i x hi => ?_, fun b x hl => fetchInstr_word (hlane.trans hl), fun b x c y hl => fetchInstr_pair (hlane.trans hl),
    fun b x hl => fetchInstr_lane (hlane.trans hl)⟩
  have hstep : step s = runInstr i x := (step_issue ha).trans (issue_runs hf hb hi)
  exact ⟨hstep, fun t he hlog => hstep.trans (runInstr_unlogged he hlog)⟩

/-- Settles O54: each word is decoded. -/
theorem decodeWords : Obligations.DecodeWords := by
  unfold Obligations.DecodeWords
  decide +kernel

end Sys2Proof.Machine

/-!
# Every step goes on (O58)

Four instructions and events pick a next state by a split of their own; every other one is written as a next state.
-/

namespace Sys2Proof.Machine

variable {s : State} {o : Out}

/-- An outcome with a next state: neither a fault nor a refusal. -/
def GoesOn (o : Out) : Prop := ∃ t, o = .next t

theorem GoesOn.next (t : State) : GoesOn (.next t) := ⟨t, rfl⟩

theorem GoesOn.onNext (h : GoesOn o) (f : State → State) : GoesOn (onNext f o) := by
  obtain ⟨t, rfl⟩ := h
  exact .next _

/-- The pair's second word decides which operation runs, ILLOP where it is none of the listed ones (R37). -/
theorem execLongImmediatePrefix_goesOn (hi : BitVec 26) (word : BitVec 32) (s : State) :
    GoesOn (execLongImmediatePrefix hi word s) := by
  unfold execLongImmediatePrefix
  split <;> exact ⟨_, rfl⟩

theorem execVmov_goesOn (a : LaneArgs) (s : State) : GoesOn (execVmov a s) := by
  unfold execVmov
  split
  · exact .next _
  · split <;> exact ⟨_, rfl⟩

/-- With no record of the kind in the queue nothing happens. -/
theorem State.withRecord_goesOn {f : FaultRecord → Bool} {k : State → FaultRecord → Out} (hk : ∀ t r, GoesOn (k t r)) :
    GoesOn (s.withRecord f k) := by
  unfold State.withRecord
  split
  · exact .next _
  · exact hk _ _

theorem exec_goesOn (i : Instr) (s : State) : GoesOn (exec i s) := by
  cases i with
  | longImmediatePrefix hi word => exact execLongImmediatePrefix_goesOn hi word s
  | vmov a => exact execVmov_goesOn a s
  | faultRecordService =>
    show GoesOn (execFaultRecordService s)
    exact State.withRecord_goesOn fun _ _ => .next _
  | emuHandler =>
    show GoesOn (execEmuHandler s)
    exact State.withRecord_goesOn fun _ _ => .next _
  | _ => exact ⟨_, rfl⟩

theorem runInstr_goesOn (i : Instr) (s : State) : GoesOn (runInstr i s) := by
  obtain ⟨t, ht⟩ := exec_goesOn i s
  unfold runInstr
  simp only [ht]
  split
  · split
    · exact (exec_goesOn _ _).onNext _
    · exact .next _
  · exact .next _

theorem issue_goesOn (s : State) (w : Nat) (lane : Bool) (f : Nat) (d : Bool) : GoesOn (issue s w lane f d) := by
  unfold issue
  split
  · exact .next _
  · dsimp only
    split
    · exact .next _
    · exact .next _
    · exact (exec_goesOn _ _).onNext _
    · split
      · exact .next _
      · exact runInstr_goesOn _ _

theorem perform_goesOn (s : State) (p : Pick) : GoesOn (perform s p) := by
  cases p with
  | event i inp => exact (exec_goesOn _ _).onNext _
  | issue w lane f d => exact issue_goesOn s w lane f d

theorem step_goesOn (s : State) : GoesOn (step s) := by
  unfold step
  split
  · exact perform_goesOn _ _
  · dsimp only
    split
    · exact perform_goesOn _ _
    · exact .next _

/-- Settles O58: `step_goesOn` and `exec_goesOn`. -/
theorem everyStepGoesOn : Obligations.EveryStepGoesOn := ⟨step_goesOn, exec_goesOn⟩

end Sys2Proof.Machine

/-!
# The special registers (O16)

Which numbers are assigned, what a write leaves in each register, and the two shapes of the instructions: a read writes one
scalar register, a write changes the wave and goes on.
-/

namespace Sys2Proof.Machine

open Sys2Proof.Claims

variable {s : State} {d h l : BitVec 6} {n : Nat}

/-! ### Numbers and fields (R54) -/

theorem State.readSr_isSome_iff : (s.readSr n).isSome = true ↔ n ∈ assignedSrs := by
  unfold State.readSr
  split
  case h_25 =>
    simp only [assignedSrs, List.mem_cons, List.not_mem_nil, Option.isSome_none]
    grind
  all_goals exact iff_of_true rfl (by decide)

theorem State.readSr_unassigned (hn : n ∉ assignedSrs) : s.readSr n = none := by
  rw [← Option.not_isSome_iff_eq_none, State.readSr_isSome_iff]
  exact hn

theorem State.readSr_drops {x : Launch} (hx : s.launch s.w.lid = some x) : s.readSr 0x002 = some x.drops := by
  simp [State.readSr, hx]

/-- The registers that no instruction writes (R54). -/
def readOnlySrs : List Nat :=
  [0x000, 0x001, 0x002, 0x003, 0x004, 0x005, 0x006, 0x008, 0x009, 0x010, 0x011, 0x012, 0x013, 0x030, 0x031, 0x032, 0x033, 0x042]

theorem readOnlySrs_assigned : readOnlySrs ⊆ assignedSrs := by decide

theorem Wave.writeSr_readOnly (w : Wave) (x : Word64) (hn : n ∈ readOnlySrs) : w.writeSr n x = w := by
  unfold Wave.writeSr
  split
  case h_7 => rfl
  all_goals exact absurd hn (by decide)

/-- What a write of DBGCTL leaves in it: UNDO keeps its value where LOGBASE would be zero (R418). -/
def dbgctlAfter (old x : Word64) : Word64 :=
  if x.getLsbD 1 = true ∧ x.extractLsb' 20 36 = 0#36 then (x &&& 0x00FFFFFFFFFFFFFD) ||| (old &&& 2)
  else x &&& 0x00FFFFFFFFFFFFFF

theorem undo_masked (x : Word64) : (x &&& 0x00FFFFFFFFFFFFFF#64).getLsbD 1 = x.getLsbD 1 := by
  simp

theorem logbase_masked (x : Word64) : (x &&& 0x00FFFFFFFFFFFFFF#64).extractLsb' 20 36 = x.extractLsb' 20 36 := by
  have hones : (0x00FFFFFFFFFFFFFF#64).extractLsb' 20 36 = BitVec.allOnes 36 := by decide
  rw [BitVec.extractLsb'_and, hones, BitVec.and_allOnes]

theorem Wave.writeSr_dbgctl (w : Wave) (x : Word64) :
    w.writeSr 0x050 x = { w with sampled := w.wclk, dbgctl := dbgctlAfter w.dbgctl x } := by
  have hundo : (x &&& 0x00FFFFFFFFFFFFFF#64) &&& ~~~2#64 = x &&& 0x00FFFFFFFFFFFFFD := by
    rw [BitVec.and_assoc]
    rfl
  simp only [Wave.writeSr, undo_masked, logbase_masked, hundo, dbgctlAfter, Bool.and_eq_true, beq_iff_eq]
  rfl

/-! ### Reads (R54, R433) -/

theorem State.retS_scalarFrame (s : State) (d : BitVec 6) (x : Word64) (k : Nat) : scalarFrame s (s.retS d x k) [d] := by
  obtain ⟨-, hrs, hpend, -, hstate⟩ := s.retS_spec d x k
  exact ⟨hstate, fun r hr => hrs r (by simpa using hr), fun r hr => hpend r (by simpa using hr), s.retS_cell d x k⟩

/-- An instruction that waits for its registers and then returns `x` in `d`. -/
theorem writesScalar_of_exec {i : Instr} {srcs : List (BitVec 6)} {x : Word64} {len : Nat} {k : State → State}
    (he : exec i s = .next (s.scalar srcs [d] k)) (hk : k s = s.retS d x len) : writesScalar s i srcs d x len := by
  refine ⟨fun hr => ⟨s.retS d x len, ?_, (s.retS_spec d x len).1, ?_, s.retS_scalarFrame d x len⟩, fun hr => ?_⟩
  · rw [he, State.scalar_ready k hr, hk]
  · obtain ⟨-, -, -, hspc, -⟩ := s.retS_spec d x len
    exact hspc
  · rw [he, State.scalar_waits k hr]
    rfl

theorem exec_srdsr {x : Word64} (hx : s.readSr (srNo h l) = some x) :
    exec (.srdsr d h l) s = .next (s.scalar [] [d] (fun s => (s.markPtc (srNo h l)).retS d x 4)) := by
  show execSrdsr d h l s = _
  unfold execSrdsr
  rw [hx]

/-- A special register other than PTC is read as it stands. -/
theorem srdsr_writes {x : Word64} (hn : srNo h l ≠ 0) (hx : s.readSr (srNo h l) = some x) :
    writesScalar s (.srdsr d h l) [] d x 4 :=
  writesScalar_of_exec (exec_srdsr hx) (by simp [State.markPtc, hn])

theorem srdsrSflags_writes (hq : s.w.lq = []) : writesScalar s (.srdsrSflags d) [] d s.w.sflags 4 :=
  writesScalar_of_exec rfl (by simp [hq])

/-- A read of PTC returns it, never smaller than an earlier read, and remembers it (R398). -/
theorem readsPtc_of_exec {i : Instr} (he : exec i s = .next (s.scalar [] [d] (fun s => (s.markPtc 0).retS d s.ptcRead 4)))
    (hr : s.scalarReady [] [d] = true) : ∃ t, exec i s = .next t ∧ goesOn s t ∧ setsOnly s t d s.ptcRead
      ∧ t.w.lastPtc = s.ptcRead ∧ scalarFrame { s with w := { s.w with lastPtc := s.ptcRead } } t [d] := by
  obtain ⟨hd, hrs, -, hspc, hstate⟩ := (s.markPtc 0).retS_spec d s.ptcRead 4
  rw [State.scalar_ready _ hr] at he
  refine ⟨_, he, hspc, ⟨hd, hrs⟩, ?_, (s.markPtc 0).retS_scalarFrame d s.ptcRead 4⟩
  rw [hstate]
  rfl

theorem exec_srdsr_ptc (hn : srNo h l = 0) :
    exec (.srdsr d h l) s = .next (s.scalar [] [d] (fun s => (s.markPtc 0).retS d s.ptcRead 4)) := by
  rw [exec_srdsr (x := s.ptcRead) (by rw [hn]; rfl), hn]
  unfold State.scalar
  rfl

theorem exec_srdsr_unassigned (hl : s.lane = false) (hn : srNo h l ∉ assignedSrs) :
    exec (.srdsr d h l) s = .next (s.trapS 0x03 0 0 false) := by
  show execSrdsr d h l s = _
  unfold execSrdsr
  simp [State.readSr_unassigned hn, State.trapDecode, hl]

theorem specialRegisterReads_holds : specialRegisterReads := by
  intro s d h l n i w is ptc readsPtc
  have reads (m : Nat) (x : Word64) (hm : m ≠ 0) (hx : s.readSr m = some x) : is m x := fun e =>
    srdsr_writes (fun e0 => hm (e.symm.trans e0)) ((congrArg s.readSr e).trans hx)
  refine ⟨⟨?_, ?_, ?_, ?_, ?_, ?_, ?_, ?_, ?_, ?_, ?_, ?_, ?_⟩, ⟨?_, ?_, ?_, ?_, ?_, ?_, ?_, ?_, ?_⟩,
    fun x hx => reads _ _ (by decide) (State.readSr_drops hx), fun e => readsPtc_of_exec (exec_srdsr_ptc e),
    readsPtc_of_exec rfl, srdsrSflags_writes, exec_srdsr_unassigned⟩
  all_goals exact reads _ _ (by decide) rfl

/-! ### Writes (R433) -/

/-- An instruction that waits for its source and then changes the wave by `f`. -/
theorem setsWave_of_exec {i : Instr} {f : Wave → Wave} {k : State → State}
    (he : exec i s = .next (s.scalar [d] [] k)) (hk : k s = (s.onW f).advance 4) (hspc : (f s.w).spc = s.w.spc) :
    setsWave s i d f := by
  intro hr
  rw [he, State.scalar_ready k hr, hk, ← hspc]
  rfl

theorem exec_swrsr (hn : srNo h l ∈ assignedSrs) : exec (.swrsr d h l) s
    = .next (s.scalar [d] [] (fun s => (s.onW (fun w => w.writeSr (srNo h l) (s.rs d))).advance 4)) := by
  obtain ⟨x, hx⟩ := Option.isSome_iff_exists.mp (State.readSr_isSome_iff (s := s).mpr hn)
  show execSwrsr d h l s = _
  unfold execSwrsr
  rw [hx]

theorem exec_swrsr_unassigned (hl : s.lane = false) (hn : srNo h l ∉ assignedSrs) :
    exec (.swrsr d h l) s = .next (s.trapS 0x03 0 0 false) := by
  show execSwrsr d h l s = _
  unfold execSwrsr
  simp [State.readSr_unassigned hn, State.trapDecode, hl]

/-- SWRSR of register `n`, by what a write of it leaves in the wave. -/
theorem swrsr_sets {f : Wave → Wave} (hn : srNo h l = n) (ha : n ∈ assignedSrs) (hf : s.w.writeSr n (s.rs d) = f s.w)
    (hspc : (f s.w).spc = s.w.spc) : setsWave s (.swrsr d h l) d f := by
  subst hn
  refine setsWave_of_exec (exec_swrsr ha) ?_ hspc
  simp only [State.onW, hf]

theorem specialRegisterWrites_holds : specialRegisterWrites := by
  intro s d h l n i x tramp flags ctl dbg line
  have hdbg : s.w.writeSr 0x050 x = dbg s.w := s.w.writeSr_dbgctl x
  refine ⟨fun e => swrsr_sets e (by decide) rfl rfl, fun e => swrsr_sets e (by decide) rfl rfl,
    fun e => swrsr_sets e (by decide) rfl rfl, fun e => swrsr_sets e (by decide) rfl rfl,
    fun e => swrsr_sets e (by decide) hdbg rfl, fun e => swrsr_sets e (by decide) rfl rfl,
    fun e => swrsr_sets rfl (readOnlySrs_assigned e) (s.w.writeSr_readOnly x e) rfl, exec_swrsr_unassigned,
    setsWave_of_exec rfl rfl rfl, setsWave_of_exec rfl rfl rfl, fun hq => ⟨?_, ?_⟩⟩
  · refine setsWave_of_exec rfl ?_ rfl
    simp only [hq, List.isEmpty_nil, if_true]
    rfl
  · refine setsWave_of_exec rfl ?_ rfl
    simp only [hq, List.isEmpty_nil, if_true, State.onW]
    exact congrArg (fun w => ({ s with w := w } : State).advance 4) hdbg

/-- Settles O16: register by register, from what one reads as and what a write leaves in it. -/
theorem specialRegisters : Obligations.SpecialRegisters := ⟨specialRegisterReads_holds, specialRegisterWrites_holds⟩

end Sys2Proof.Machine

/-!
# The service of an emulation record under first-touch capture (O50)

The clause on emulation records says that serving the oldest one leaves the rest of the queue.  The handler fetches the
instruction, and that fetch may be the first touch of its granule by a launch under capture (R425): the home then writes the
capture buffer, whose block a core may own.  The recall of the block meets a sector that fails its check, which the core's
bytes cover in part, and leaves a record of it (R303) at the same control processor.  So the queue is not the rest of the old one.
-/

namespace Sys2Proof.Machine

open Sys2Proof.Claims

/-- A launch record that asks for capture: CAPTURE at 0x5B, address space 1, and its buffer at 0xA0000 (R363, R424). -/
def captureRecord : BitVec 2048 :=
  1#2048 <<< (8 * 0x5B) ||| 1#2048 <<< (8 * 0x58) ||| 0xA0000#2048 <<< (8 * 0x70)

/-- A running launch under capture that has touched nothing. -/
def captureLaunch : Launch :=
  { lid := 5, record := captureRecord, queue := none, parent := none, depth := 0, phase := .admitted, status := 0,
    ending := false, joined := false, parsedAt := 0, admittedAt := 0, mask := 0x3FFFFF, nextBlock := 0, drops := 0,
    debugger := false, stalledAt := none, captured := [], capUsed := 0, capOver := false }

/-- The emulation record of wave 1, at the instruction at 0x10000. -/
def emuRecord : FaultRecord :=
  { code := 0x03, access := 0, agent := 0, second := false, prot := false, core := 0, asid := 1, time := 0, vaddr := 0,
    frame := 0, pc := 0x10000, lmask := 0, gen := 0, detail := 0, paddr := 0, wave := 0, frag := none, who := .wave 1 }

/-- Wave 1, of the launch under capture, waits for its emulation record to be served.  Its code page stands at 0x200000, the
capture buffer at 0x240000; core 0 owns the buffer's first block and has published byte 64 of it, in a sector with three byte
errors. -/
def emuUnderCapture : State :=
  { State.reset with
    w := { Wave.blank with id := 1, asid := 1, lid := 5, spc := 0x10000, residency := .parked, parkc := .emu }
    mem := (testTables 0 0x200000 ++ testTables 0xA0000 0x240000).foldl (fun m p => Sparse.setList m p.1 (toBytes 8 p.2)) []
    poison := [(0x240040 / 64, 3)]
    cores := [(0, { Core.empty with pub := [(0, 1 <<< 64)] })]
    directory := [(0x240000 / 512, { core := 0, addr := 0, cover := BitVec.allOnes 512 })]
    launches := [captureLaunch]
    ccps := [(0, { Ccp.empty with faults := [emuRecord] })]
    fw := { Fw.reset with asids := [(1, { top := 0x100000, clusters := 0x3FFFFF })] } }

/-- The handler's fetch of the instruction, the record taken out of its queue. -/
def emuFetch : Except (AccFail × Bool) (List Byte × State) :=
  fetch { emuUnderCapture.setCcp 0 ((emuUnderCapture.ccp 0).without 0) with lane := false } emuRecord.pc 4

/-- The fetch succeeds and leaves the parked wave as it is. -/
theorem emuFetch_wave : emuFetch.toOption.map (fun p => p.2.w) = some emuUnderCapture.w := by decide +kernel

theorem emuFetch_ok : ∃ b x, emuFetch = .ok (b, x) ∧ x.w = emuUnderCapture.w := by
  have h := emuFetch_wave
  cases hf : emuFetch with
  | error e =>
    rw [hf] at h
    cases h
  | ok p => exact ⟨p.1, p.2, rfl, by simpa [hf, Except.toOption] using h⟩

/-- The queue of control processor 0 after an outcome. -/
def faultsAfter (o : Out) : List FaultRecord :=
  match o with
  | .next t => (t.ccp 0).faults
  | _ => []

/-- Once the record is served, another one, of INTEGRITY, stands in the queue. -/
theorem emuHandler_leaves_record : (faultsAfter (exec .emuHandler emuUnderCapture)).map (fun r => r.code) = [0x04] := by
  decide +kernel

/-- Refutes O50: an emulation record is alone in its queue, and once it is served the queue holds the record of the sector that
the recall of the capture buffer's block could not write. -/
theorem not_faultService : ¬ Obligations.FaultService := by
  intro h
  obtain ⟨-, -, -, -, emu, -⟩ := h emuUnderCapture
  obtain ⟨b, x, hfetch, hw⟩ := emuFetch_ok
  have hparked : parkedFor x .emu x.w x := by
    rw [parkedFor, hw]
    exact ⟨rfl, rfl, rfl, rfl, rfl, rfl, by decide, rfl, .inl ⟨rfl, rfl, rfl⟩⟩
  obtain ⟨t, -, hexec, hfaults, -⟩ :=
    emu emuRecord [] b x x.w x ⟨rfl, rfl⟩ rfl rfl (by decide) rfl rfl hfetch hparked
  have hleft := emuHandler_leaves_record
  rw [hexec] at hleft
  have hempty : faultsAfter (.next t) = [] := hfaults
  rw [hempty] at hleft
  cases hleft

end Sys2Proof.Machine

end

/-!
# A halt among waves of one number (O5)

The clause on a nested fault says how the origin of the halt ends: parked for the debugger, or parked for a context fault with
its state still at its core.  A halt stores the newly halted waves one after another, and finds the wave that it has stored by
its number (`State.storeHalted`).  Nothing in the statement keeps two waves of a block from carrying one number: then the store
of the second, whose frame has no page, marks the origin with a context fault when the origin's state is already in its frame.
-/

namespace Sys2Proof.Machine

open Sys2Proof.Claims

/-- A writable page of host memory at address 0 of address space 0 (R285, R290). -/
def hostPage : TlbEntry := { asid := 0, base := 0, size := 131072, leaf := 0x800000000007 }

/-- Two waves of one block and one number.  The first runs its scalar handler, at an instruction that goes to address 0, with
its frame in the page above; the frame of the second has no page. -/
def twinWaves : State :=
  { State.reset with
    w := { Wave.blank with id := 1, residency := .active, inhandler := true }
    others := [{ Wave.blank with id := 1, residency := .active, frame := 0x20000 }]
    dies := [(0, { Die.empty with tlb := [hostPage] })] }

/-- Why the wave that moves is parked after an outcome, and whether its frame holds it. -/
def parkedAfter (o : Out) : Option (ParkCause × Bool) :=
  match o with
  | .next t => some (t.w.parkc, t.w.swapped)
  | _ => none

theorem nestedFault_twinWaves : parkedAfter (exec (.jr 0) twinWaves) = some (.ctxFault, true) := by
  decide +kernel

/-- Refutes O5: with a second wave of its number in the block, the origin of a nested fault parks for a context fault while its
frame holds its state. -/
theorem not_scalarControlFlow : ¬ Obligations.ScalarControlFlow := by
  rintro ⟨-, -, -, hzero⟩
  obtain ⟨-, hnested⟩ := hzero twinWaves 0 rfl rfl rfl rfl
  obtain ⟨t, hexec, -, -, -, hparked, -⟩ := hnested rfl (.jr 0) (by simp)
  have hend : parkedAfter (.next t) = some (.ctxFault, true) := hexec ▸ nestedFault_twinWaves
  simp only [parkedAfter, Option.some.injEq, Prod.mk.injEq] at hend
  obtain ⟨hcause, hframe⟩ := hend
  simp [hcause, hframe] at hparked

end Sys2Proof.Machine

/-!
# Lane queue, waits and formats (O6)
-/

namespace Sys2Proof.Machine

open Sys2Proof.Claims

variable {s : State} {d a b n : BitVec 6}

/-! ### The lane queue (R132, R133) -/

/-- LRUN with its registers readable, an aligned start and room in the queue appends its block (R132). -/
theorem runLrun_enqueues {x : Word64} {len : Nat} (hccp : s.w.ccp = false)
    (hready : s.scalarReady (a :: runRegs d) [] = true) (hpc : (lrunBlock s d a x).pc.extractLsb' 0 2 = 0)
    (hroom : s.w.lq.length < 8) : runLrun d a x len s = .next { s with w := { s.w with
      lq := s.w.lq ++ [lrunBlock s d a x], spinf := false, spc := s.w.spc + BitVec.ofNat 64 len } } := by
  have halign : (s.rs a + x).extractLsb' 0 2 = 0 := hpc
  have hfull : ¬ 8 ≤ s.w.lq.length := by omega
  have hcore : ¬ s.w.ccp = true := by simp [hccp]
  refine congrArg Host.Outcome.next ((if_neg hcore).trans ((State.scalar_ready _ hready).trans ?_))
  exact (if_neg (not_not.mpr halign)).trans (if_neg hfull)

/-- The first word of a pair before an LRUN word makes it that LRUN with a 40-bit offset, 8 bytes long (R37). -/
theorem exec_prefixed_lrun (hi : BitVec 26) (i : BitVec 14) (hd : d.toNat ≤ 56) :
    exec (prefixed hi 0x1D d a i) s = runLrun d a (BitVec.ofInt 64 (hi ++ i).toInt) 8 s := by
  have hwf : (Instr.lrun d a i).wf = true := decide_eq_true (by omega)
  have hdec : decodeScalar (packI 0x1D d a i) 0 = .lrun d a i := decodeCode_encode (c := .scalar _) hwf rfl
  have hexec : exec (prefixed hi 0x1D d a i) s = execLongImmediatePrefix hi (packI 0x1D d a i) s := rfl
  rw [hexec, execLongImmediatePrefix, hdec]
  rfl

theorem laneBlockQueue_holds : laneBlockQueue := by
  intro s d a n i hi enqueues
  refine ⟨fun hd hccp hready hpc hroom => runLrun_enqueues hccp hready hpc hroom, fun hd hccp hready hpc hroom => ?_,
    fun h => ?_, fun h => ?_, fun h => ?_, fun h => ?_, rfl⟩
  · rw [exec_prefixed_lrun hi i hd]
    exact runLrun_enqueues hccp hready hpc hroom
  · exact congrArg Host.Outcome.next (if_pos h)
  · exact congrArg Host.Outcome.next (if_neg (by omega))
  · exact congrArg (fun w => Host.Outcome.next (State.advance { s with w := w } 4)) (if_neg (by simp [h]))
  · exact congrArg (fun w => Host.Outcome.next (State.advance { s with w := w } 4)) (if_pos h)

/-! ### Formats and seeds (R172 to R174) -/

/-- Words set one after another at a list of keys, read back. -/
theorem Sparse.get_foldl_set {w : Nat} (f : Nat → BitVec w) (l : List Nat) (m : Sparse w) (k : Nat) :
    Sparse.get (l.foldl (fun m i => Sparse.set m i (f i)) m) k = if k ∈ l then f k else Sparse.get m k := by
  induction l generalizing m with
  | nil => simp
  | cons i l ih =>
    rw [List.foldl_cons, ih, Sparse.get_set]
    by_cases hk : k = i <;> by_cases hl : k ∈ l <;> simp [hk, hl]

theorem get_seedAll (seed : Word32) (gen : BitVec 16) (m : Sparse 32) {L : Nat} (hL : L < 32) :
    Sparse.get (seedAll seed gen m) L = seedGenerator seed gen L := by
  rw [seedAll, Sparse.get_foldl_set, if_pos (List.mem_range.mpr hL)]

/-- A scalar result after a change of the wave that leaves its scalar registers alone. -/
theorem State.retS_w_fmtw (s : State) (d : BitVec 6) (x : Word64) (k : Nat) : (s.retS d x k).w.fmtw = s.w.fmtw := by
  simp [State.retS]

theorem State.retS_w_gens (s : State) (d : BitVec 6) (x : Word64) (k : Nat) : (s.retS d x k).w.gens = s.w.gens := by
  simp [State.retS]

/-- The wave with its format register written, and its generators. -/
def State.withFormat (s : State) (x : Word64) (gens : Sparse 32) : State :=
  s.onW (fun w => { w with fmtw := writeFmt s.w.fmtw (x.setWidth 32), gens := gens })

/-- The part that both forms of FMT share: the old format register is the result, and nothing but the format register, the
generators and the result changes. -/
theorem withFormat_retS_spec (s : State) (d : BitVec 6) (x : Word64) (gens : Sparse 32) :
    let t := (s.withFormat x gens).retS d (s.w.fmtw.setWidth 64) 4
    t.w.fmtw = writeFmt s.w.fmtw (x.setWidth 32) ∧ t.w.gens = gens ∧ t.rs d = (if d = 0 then 0 else s.w.fmtw.setWidth 64)
      ∧ t.w.spc = s.w.spc + 4 ∧ scalarFrame { s with w := { s.w with fmtw := t.w.fmtw, gens := t.w.gens } } t [d] := by
  intro t
  obtain ⟨hrs, -, -, hspc, -⟩ := (s.withFormat x gens).retS_spec d (s.w.fmtw.setWidth 64) 4
  have hfmt : t.w.fmtw = writeFmt s.w.fmtw (x.setWidth 32) := State.retS_w_fmtw _ _ _ _
  have hgens : t.w.gens = gens := State.retS_w_gens _ _ _ _
  refine ⟨hfmt, hgens, hrs, hspc, ?_⟩
  rw [hfmt, hgens]
  exact State.retS_scalarFrame _ _ _ _

theorem exec_fmt_unseeded (h : s.scalarReady [a] [d] = true) :
    exec (.fmt d a 0) s = .next ((s.withFormat (s.rs a) s.w.gens).retS d (s.w.fmtw.setWidth 64) 4) :=
  congrArg Host.Outcome.next (State.scalar_ready _ h)

theorem exec_fmt_seeded (hb : b ≠ 0) (hq : s.w.lq = []) (h : s.scalarReady [a, b] [d] = true) :
    exec (.fmt d a b) s = .next ((s.withFormat (s.rs a) (seedAll ((s.rs b).setWidth 32) s.w.gen s.w.gens)).retS d
      (s.w.fmtw.setWidth 64) 4) := by
  change execFmt d a b s = _
  simp only [execFmt, if_neg hb, State.scalar_ready _ h, hq, List.isEmpty_nil, Bool.not_true, Bool.and_false,
    Bool.false_eq_true, if_false]
  rfl

/-- What SEEDLD writes to a seed register: S in bits 63:0, BS in bit 64 (R173). -/
def seedWord (x : Word64) (bs : Bool) : BitVec 65 := x.setWidth 65 ||| (if bs then 1#65 <<< 64 else 0)

theorem seedS_seedWord (x : Word64) (bs : Bool) : seedS (seedWord x bs) = x := by
  apply BitVec.eq_of_getLsbD_eq
  intro i hi
  cases bs <;> simp [seedS, seedWord, hi]

theorem seedWord_bs (x : Word64) (bs : Bool) : (seedWord x bs).getLsbD 64 = bs := by
  cases bs <;> simp [seedWord]

theorem exec_seedld {z : BitVec 3} (hq : s.w.lq = []) (h : s.scalarReady [a, b] [] = true) :
    exec (.seedld z a b) s = .next ((s.onW (fun w =>
      { w with z := Sparse.set w.z z.toNat (seedWord (s.rs a) ((s.rs b).getLsbD 0)) })).advance 4) := by
  change execSeedld z a b s = _
  simp only [execSeedld, State.scalar_ready _ h, hq, List.isEmpty_nil, Bool.not_true, Bool.false_eq_true, if_false]
  rfl

theorem formatAndSeeds_holds : formatAndSeeds := by
  intro s d a b z
  refine ⟨fun h => ?_, fun hb hq h => ?_, fun hq h => ?_, ?_⟩
  · obtain ⟨hfmt, hgens, hrs, hspc, hframe⟩ := withFormat_retS_spec s d (s.rs a) s.w.gens
    rw [hgens] at hframe
    exact ⟨_, exec_fmt_unseeded h, hfmt, hrs, hspc, hframe⟩
  · obtain ⟨hfmt, hgens, hrs, hspc, hframe⟩ :=
      withFormat_retS_spec s d (s.rs a) (seedAll ((s.rs b).setWidth 32) s.w.gen s.w.gens)
    exact ⟨_, exec_fmt_seeded hb hq h, hfmt, hrs, fun L hL => by rw [hgens, get_seedAll _ _ _ hL], hspc, hframe⟩
  · refine ⟨_, exec_seedld hq h, ?_, ?_, fun k hk => Sparse.get_set_other _ _ hk, rfl, rfl, fun _ _ => rfl,
      fun _ _ => rfl, fun _ => rfl⟩
    · exact (congrArg seedS (Sparse.get_set_same _ _ _)).trans (seedS_seedWord _ _)
    · exact (congrArg (BitVec.getLsbD · 64) (Sparse.get_set_same _ _ _)).trans (seedWord_bs _ _)
  · exact writesScalar_of_exec rfl rfl

/-- Settles O6: each instruction's effect once it may issue, the prefixed LRUN through what its encoding decodes to. -/
theorem laneQueueFormatAndSeeds : Obligations.LaneQueueFormatAndSeeds := ⟨laneBlockQueue_holds, formatAndSeeds_holds⟩

end Sys2Proof.Machine

/-!
# Steps about one wave (O43, O44)
-/

namespace Sys2Proof.Machine

open Sys2Proof.Claims

variable {s : State}

/-! ### The wave of a device step -/

theorem State.focus_here (h : here s) : s.focus s.input.wave = some s := by
  simp only [State.focus, h.1, if_true]

/-- A step about the wave in focus happens where its condition holds. -/
theorem State.about_here {ok : State → Bool} (k : State → State) (h : here s) (hok : ok s = true) :
    s.about ok k = .next (k s) := by
  simp [State.about, State.focus_here h, h.2, hok]

theorem State.about_not {ok : State → Bool} (k : State → State) (h : here s) (hok : ok s = false) :
    s.about ok k = .next s := by
  simp [State.about, State.focus_here h, hok]

/-! ### Lane blocks (R106) -/

/-- The root fragment stands at the block's start (R106). -/
theorem laneAddr_rootEntry {b : LaneBlock} {w : Wave} (m0 : Word32) (now : Nat)
    (hw : w.lbase = BitVec.ofNat 22 (bits b.pc.toNat 55 34)) (hpc : b.pc.toNat < 2 ^ 56) (h4 : b.pc.toNat % 4 = 0) :
    w.laneAddr (rootEntry b m0 now).lpc = b.pc := by
  apply BitVec.eq_of_toNat_eq
  simp only [Wave.laneAddr, hw, rootEntry, bits, BitVec.toNat_ofNat]
  omega

/-- The state in which the head lane block of the wave has started, before it completes for want of lanes (R106). -/
def State.blockStarted (s : State) (b : LaneBlock) (rest : List LaneBlock) : State :=
  { s with
    requests := s.requests.map (fun r => if r.wave == s.w.id then { r with latch := 4 } else r)
    w := { s.w with
      lbase := BitVec.ofNat 22 (bits b.pc.toNat 55 34)
      splitCache := if s.w.rm 0 = 0 then [] else [0]
      lq := { b with started := true } :: rest
      split := if s.w.rm 0 = 0 then [] else [(0, rootEntry b (s.w.rm 0) s.now)] } }

theorem exec_laneBlockStart {b : LaneBlock} {rest : List LaneBlock} (h : here s) (hact : s.w.residency = .active)
    (hq : s.w.lq = b :: rest) (hb : b.started = false) : exec .laneBlockStart s = .next (s.blockStarted b rest).endBlock := by
  have hdue : s.w.blockDue = true := by simp [Wave.blockDue, hact, hq, hb]
  refine (State.about_here _ h hdue).trans ?_
  simp only [State.onW, Wave.head, hq, List.headD_cons, List.tail_cons]
  rfl

theorem exec_laneBlockStart_started {b : LaneBlock} {rest : List LaneBlock} (h : here s) (hq : s.w.lq = b :: rest)
    (hb : b.started = true) : exec .laneBlockStart s = .next s :=
  State.about_not _ h (by simp [Wave.blockDue, hq, hb])

theorem laneBlockStart_holds : laneBlockStart := by
  intro s b rest h hact hq
  refine ⟨exec_laneBlockStart_started h hq, fun hb hm => ?_, fun hb hm => ?_⟩
  · have hsplit : (s.blockStarted b rest).w.split = [(0, rootEntry b (s.w.rm 0) s.now)] := by
      simp only [State.blockStarted, if_neg hm]
    have hend : (s.blockStarted b rest).endBlock = s.blockStarted b rest := by
      simp [State.endBlock, hsplit]
    refine ⟨_, _, (exec_laneBlockStart h hact hq hb).trans (congrArg _ hend), hsplit, rfl, rfl, rfl, rfl, rfl, rfl, rfl, rfl,
      rfl, rfl, rfl, fun hpc h4 => laneAddr_rootEntry _ _ rfl hpc h4, rfl, fun _ => rfl, fun _ => rfl⟩
  · have hend : (s.blockStarted b rest).endBlock = (s.blockStarted b rest).onW
        (fun w => { w with lq := w.lq.tail, lqhead := (w.lqhead + 1) % 8 }) := by
      simp [State.endBlock, State.blockStarted, hm]
    refine ⟨_, (exec_laneBlockStart h hact hq hb).trans (congrArg _ hend), ?_, rfl, rfl, rfl, fun _ => rfl, fun _ => rfl⟩
    simp [State.blockStarted, hm]

/-! ### Waits and the selector (R101, R112, R379) -/

/-- What waking changes: the wait is over, and a waiting wave is ready (R73). -/
theorem Wave.wake_of_wait {w : Wave} {p : Wait} (h : w.wait = some p) : w.wake.wait = none ∧ (w.residency = .waiting → w.wake.residency = .ready) := by
  simp only [Wave.wake, h, true_and]
  intro hr
  simp [hr]

theorem Wave.wake_spin {w : Wave} {x : Nat} (h : w.wait = some (.spin x)) : w.wake.progress = none ∧ w.wake.spinCount = 0 := by
  simp [Wave.wake, h]

theorem Wave.wake_grid {w : Wave} {a : BitVec 64} {p : BitVec 32} (h : w.wait = some (.grid a p)) :
    w.wake.progress = some (.grid a p) := by
  simp [Wave.wake, h]

theorem State.wake_sameContext (s : State) : sameContext s (s.onW Wave.wake) := by
  unfold sameContext State.onW Wave.wake
  split <;> exact ⟨fun _ => rfl, rfl, rfl, rfl, rfl, rfl, rfl, fun _ => rfl⟩

theorem spinWaitEnd_spec {x : Nat} (h : here s) (hw : s.w.wait = some (.spin x)) :
    (s.now < x → exec .spinWaitEnd s = .next s)
      ∧ (x ≤ s.now → exec .spinWaitEnd s = .next (s.onW Wave.wake)) := by
  refine ⟨fun hx => State.about_not _ h ?_, fun hx => State.about_here _ h ?_⟩ <;> simp [State.spinDue, hw, hx]

/-- The scalar stream's boost (R112). -/
theorem issueBoost_scalar (h : here s) (hi : s.input.index = 0) (hm : mayIssue s.w false 0 = true) :
    exec .issueBoost s = .next (if s.w.age + 64 ≤ s.now then s.onW (fun w => { w with boost := true }) else s) := by
  change execIssueBoost s = _
  unfold execIssueBoost
  rw [hi]
  exact State.about_here _ h hm

/-- A fragment's boost (R112). -/
theorem issueBoost_fragment {f : Nat} {e : SplitEntry} (h : here s) (hi : s.input.index = f + 1)
    (hm : mayIssue s.w true f = true) (he : Table.find s.w.split f = some e) :
    exec .issueBoost s = .next (if e.age + 64 ≤ s.now then ({ s with frag := f } : State).setEntry { e with boost := true } else s) := by
  change execIssueBoost s = _
  unfold execIssueBoost
  rw [hi]
  refine (State.about_here _ h hm).trans ?_
  simp [he]

/-- The poll of a grid barrier's phase (R379). -/
theorem gwaitPollExpiry_spec {a : BitVec 64} {p : BitVec 32} {o : GridObject} {s1 : State} (h : here s)
    (hw : s.w.wait = some (.grid a p)) (hu : s.unrecorded s.w = true) (hg : gridObject s a.toNat = .ok (some o, s1)) :
    exec .gwaitPollExpiry s = .next (if gridField o.bytes 8 = p then s1 else s1.onW Wave.wake) := by
  refine (State.about_here _ h hu).trans ?_
  simp only [hw, hg]

theorem selectorAndWaits_holds : selectorAndWaits := by
  intro s h
  refine ⟨fun x hw => ⟨(spinWaitEnd_spec h hw).1, fun hx => ?_⟩, fun hi hm => ⟨fun ha => ?_, fun ha => ?_⟩,
    fun f e hi hm he => ⟨fun ha => ?_, fun ha => ?_⟩, fun a p o s1 hw hu hg hs1 => ⟨fun hp => ?_, fun hp => ?_⟩⟩
  · obtain ⟨hwait, hready⟩ := Wave.wake_of_wait hw
    obtain ⟨hprog, hcount⟩ := Wave.wake_spin hw
    exact ⟨_, (spinWaitEnd_spec h hw).2 hx, hwait, hprog, hcount, hready, s.wake_sameContext⟩
  · rw [issueBoost_scalar h hi hm, if_pos ha]
    rfl
  · rw [issueBoost_scalar h hi hm, if_neg (by omega)]
  · rw [issueBoost_fragment h hi hm he, if_pos ha]
    exact ⟨_, rfl, Table.find_put_same _ _ _, fun k hk => Table.find_put_other _ _ hk, fun _ => rfl, rfl, rfl, rfl, rfl, rfl,
      rfl, fun _ => rfl⟩
  · rw [issueBoost_fragment h hi hm he, if_neg (by omega)]
  · rw [gwaitPollExpiry_spec h hw hu hg, if_pos hp]
  · rw [gwaitPollExpiry_spec h hw hu hg, if_neg hp]
    rw [← hs1] at hw
    obtain ⟨hwait, hready⟩ := Wave.wake_of_wait hw
    exact ⟨_, rfl, hwait, Wave.wake_grid hw, fun hr => hready (hs1 ▸ hr)⟩

/-- Settles O43: a step about the wave in focus is what its event does there (`State.about_here`). -/
theorem laneBlockStartAndWaits : Obligations.LaneBlockStartAndWaits := ⟨laneBlockStart_holds, selectorAndWaits_holds⟩

end Sys2Proof.Machine

/-!
# What an access leaves in place

An access at a home moves lines between caches, corrects sectors and caches a translation; every byte of memory reads as before
(`Memory.SameBytes`), and the move locks and the sectors that pass their check stay (`Memory.Serves`).  A write changes the
bytes that it names (`putLocal_unregistered`).
-/

namespace Sys2Proof.Machine

open Sys2Proof.Claims

variable {s t u : State}

/-! ### Every byte as before -/

theorem Memory.ReadFrame.now (h : Memory.ReadFrame s t) : t.now = s.now := by rw [h]
theorem Memory.ReadFrame.fw (h : Memory.ReadFrame s t) : t.fw = s.fw := by rw [h]
theorem Memory.ReadFrame.w (h : Memory.ReadFrame s t) : t.w = s.w := by rw [h]
theorem Memory.ReadFrame.frag (h : Memory.ReadFrame s t) : t.frag = s.frag := by rw [h]
theorem Memory.ReadFrame.launches (h : Memory.ReadFrame s t) : t.launches = s.launches := by rw [h]

/-- A step in the frame of a read that changes nothing that a byte of memory is read from. -/
structure Memory.SameBytes (s t : State) : Prop where
  frame : Memory.ReadFrame s t
  mem : t.mem = s.mem
  limbo : t.limbo = s.limbo
  directory : t.directory = s.directory
  cores : t.cores = s.cores

theorem Memory.SameBytes.refl (s : State) : Memory.SameBytes s s := ⟨.refl s, rfl, rfl, rfl, rfl⟩

theorem Memory.SameBytes.trans (h : Memory.SameBytes s t) (g : Memory.SameBytes t u) : Memory.SameBytes s u :=
  ⟨h.frame.trans g.frame, g.mem.trans h.mem, g.limbo.trans h.limbo, g.directory.trans h.directory, g.cores.trans h.cores⟩

/-- A byte of memory is read from its maps, the directory and the cores. -/
theorem State.cell_congr (hmem : t.mem = s.mem) (hlimbo : t.limbo = s.limbo) (hdir : t.directory = s.directory)
    (hcores : ∀ g, (t.core g).pub = (s.core g).pub ∧ (t.core g).store = (s.core g).store) (hnow : t.now = s.now) (y : Nat) :
    t.cell y = s.cell y := by
  simp only [State.cell, State.memByte, State.pubAt, hmem, hlimbo, hdir, hnow, fun g => (hcores g).1, fun g => (hcores g).2]

theorem Memory.SameBytes.cell (h : Memory.SameBytes s t) (y : Nat) : t.cell y = s.cell y :=
  State.cell_congr h.mem h.limbo h.directory (fun g => by simp only [State.core, h.cores, and_self])
    h.frame.now y

theorem Memory.SameBytes.memSame (h : Memory.SameBytes s t) : memSame s t := h.cell

/-- The same, with the move locks as before, no sector's key changed and none with more errors than before. -/
structure Memory.Serves (s t : State) : Prop extends Memory.SameBytes s t where
  keyed : t.keyed = s.keyed
  locks : ∀ b, (t.die b).locks = (s.die b).locks
  poison : ∀ sec, (Sparse.get t.poison sec).toNat ≤ (Sparse.get s.poison sec).toNat

theorem Memory.Serves.refl (s : State) : Memory.Serves s s := ⟨.refl s, rfl, fun _ => rfl, fun _ => le_refl _⟩

theorem Memory.Serves.trans (h : Memory.Serves s t) (g : Memory.Serves t u) : Memory.Serves s u :=
  ⟨h.toSameBytes.trans g.toSameBytes, g.keyed.trans h.keyed, fun b => (g.locks b).trans (h.locks b),
    fun sec => (g.poison sec).trans (h.poison sec)⟩

theorem Memory.Serves.foldl {α : Type} (f : State → α → State) (hf : ∀ s a, Memory.Serves s (f s a)) (l : List α) (s : State) :
    Memory.Serves s (l.foldl f s) := by
  induction l generalizing s with
  | nil => exact .refl s
  | cons a l ih => exact (hf s a).trans (ih (f s a))

/-- A sector that passes its check still does. -/
theorem Memory.Serves.sectorOk (h : Memory.Serves s t) {sec k : Nat} (hok : s.sectorOk sec k = true) :
    t.sectorOk sec k = true := by
  have hkey : t.keyOf k = s.keyOf k := by simp only [State.keyOf, h.frame.fw]
  simp only [State.sectorOk, Bool.and_eq_true, decide_eq_true_eq, h.keyed, hkey] at hok ⊢
  exact ⟨(h.poison sec).trans hok.1, hok.2⟩

theorem Memory.Serves.locked (h : Memory.Serves s t) (pa n : Nat) : t.locked pa n = s.locked pa n := by
  simp only [State.locked, h.locks]

/-! ### Caches at the homes, corrections, translations -/

theorem Memory.Serves.setDie (s : State) (b : Nat) (d : Die) (h : d.locks = (s.die b).locks) :
    Memory.Serves s (s.setDie b d) := by
  refine ⟨⟨rfl, rfl, rfl, rfl, rfl⟩, rfl, fun c => ?_, fun _ => le_refl _⟩
  by_cases hc : c = b
  · rw [hc, State.die_setDie_same, h]
  · rw [State.die_setDie_other _ _ hc]

theorem State.touchL2_serves (s : State) (b : Nat) (l : List Nat) : Memory.Serves s (s.touchL2 b l) := by
  unfold State.touchL2
  dsimp only
  split <;> exact .setDie _ _ _ rfl

theorem lineToHbm_serves (s : State) (line : Nat) : Memory.Serves s (lineToHbm s line) :=
  ⟨⟨rfl, rfl, rfl, rfl, rfl⟩, rfl, fun _ => rfl, fun _ => le_refl _⟩

theorem evictLines_serves (n : Nat) (s : State) (b : Nat) : Memory.Serves s (evictLines s b n) := by
  induction n generalizing s with
  | zero => exact .refl s
  | succ n ih =>
    unfold evictLines
    split
    · exact .refl s
    · refine Memory.Serves.trans ?_ (ih _)
      exact (lineToHbm_serves s _).trans (.setDie _ _ _ rfl)

/-- Lines put first among those of a memory-side cache and of the home L2. -/
theorem State.cacheLines_serves (s : State) (b : Nat) (l : List CacheLine) (lines : List Nat) :
    Memory.Serves s ((s.setDie b { s.die b with msc := l }).touchL2 b lines) :=
  (Memory.Serves.setDie s b { s.die b with msc := l } rfl).trans (State.touchL2_serves _ _ _)

theorem State.touch_serves (s : State) (pa n : Nat) (ep : BitVec 2) : Memory.Serves s (s.touch pa n ep) := by
  unfold State.touch
  dsimp only
  refine Memory.Serves.trans ?_ (State.cacheLines_serves _ _ _ _)
  refine Memory.Serves.trans ?_ (evictLines_serves _ _ _)
  exact .setDie _ _ _ rfl

/-- A corrected sector has no errors. -/
theorem State.mend_serves (s : State) (pa n : Nat) : Memory.Serves s (s.mend pa n) := by
  unfold State.mend
  split
  · exact .refl s
  · refine Memory.Serves.foldl _ (fun s sec => ?_) _ s
    dsimp only
    split
    · exact .refl s
    · refine Memory.Serves.trans (t := { s with poison := Sparse.set s.poison sec 0 })
        ⟨⟨rfl, rfl, rfl, rfl, rfl⟩, rfl, fun _ => rfl, fun x => ?_⟩ (.setDie _ _ _ rfl)
      simp only [Sparse.get_set]
      split <;> simp

theorem State.mendParts_serves (s : State) (pa n : Nat) : Memory.Serves s (s.mendParts pa n) := by
  unfold State.mendParts
  split
  · exact .refl s
  · exact Memory.Serves.foldl _ (fun s sec => State.mend_serves s _ _) _ s

theorem State.rekeyed_sameBytes (s : State) (l : List Nat) (k : Nat) : Memory.SameBytes s (s.rekeyed l k) :=
  ⟨rfl, rfl, rfl, rfl, rfl⟩

theorem translate_serves {asid : BitVec 16} {va : Nat} {acc : Acc} {p : Nat × Nat}
    (h : translate s asid va acc = .ok (p, t)) : Memory.Serves s t := by
  unfold translate at h
  dsimp only at h
  split at h
  · split at h <;> cases h
    exact .setDie _ _ _ rfl
  · split at h
    · cases h
    · split at h
      · cases h
      · split at h <;> cases h
        exact (Memory.Serves.foldl (fun s sec => (s.mend (sec * 64) 64).touch (sec * 64) 64 1)
          (fun s sec => (State.mend_serves _ _ _).trans (State.touch_serves _ _ _ _)) _ s).trans (.setDie _ _ _ rfl)

theorem framePlace_serves {w : Wave} {p : Nat × Nat} (h : framePlace s w = .ok (p, t)) : Memory.Serves s t := by
  unfold framePlace at h
  split at h
  · cases h
  · split at h
    · cases h
    · exact translate_serves h

/-! ### Bytes put to memory -/

theorem Sparse.get_clear {w : Nat} (m : Sparse w) (a n y : Nat) :
    Sparse.get (Sparse.clear m a n) y = if y < a ∨ a + n ≤ y then Sparse.get m y else 0 := by
  simpa [Sparse.clear] using Sparse.get_filter (fun k => decide (k < a) || decide (a + n ≤ k)) m y

/-- The second values of dropped bytes after a write of some bytes (R299). -/
theorem Sparse.clear_of_isEmpty {w : Nat} (m : Sparse w) (a n : Nat) :
    (if m.isEmpty then m else Sparse.clear m a n) = Sparse.clear m a n := by
  cases m <;> rfl

/-- The bytes of a range replaced, with their second values dropped. -/
def State.put (s : State) (pa : Nat) (bytes : List Byte) : State :=
  { s with mem := Sparse.setList s.mem pa bytes, limbo := Sparse.clear s.limbo pa bytes.length }

theorem State.put_cell_other (s : State) (pa : Nat) (bytes : List Byte) {y : Nat} (h : y < pa ∨ pa + bytes.length ≤ y) :
    (s.put pa bytes).cell y = s.cell y := by
  have hbyte : (s.put pa bytes).memByte y = s.memByte y := by
    simp only [State.memByte, State.put, Sparse.get_setList_other _ _ _ h, Sparse.get_clear, if_pos h]
  simp only [State.cell, hbyte]
  rfl

theorem State.put_cell_same (s : State) (pa : Nat) (bytes : List Byte) {i : Nat} (h : i < bytes.length)
    (hdir : Table.find s.directory ((pa + i) / 512) = none) : (s.put pa bytes).cell (pa + i) = bytes[i] := by
  have hlimbo : Sparse.get (Sparse.clear s.limbo pa bytes.length) (pa + i) = 0 := by
    rw [Sparse.get_clear, if_neg (by omega)]
  have hcell : (s.put pa bytes).cell (pa + i) = (s.put pa bytes).memByte (pa + i) := by
    simp only [State.cell, State.put, hdir]
  rw [hcell]
  simp [State.memByte, State.put, hlimbo, Sparse.get_setList_same _ _ _ _ h]

/-! ### Writes at a home -/

theorem recallBlock_unregistered {b : Nat} (h : Table.find s.directory b = none) : recallBlock s b = s := by
  simp only [recallBlock, h]

/-- A write within one block that no core owns is a write of its bytes (R237, R303). -/
theorem putLocal_unregistered {pa : Nat} (k : Nat) (bytes : List Byte) (ep : BitVec 2)
    (hdir : Table.find s.directory (pa / 512) = none) (hlen : 0 < bytes.length) (hblk : pa % 512 + bytes.length ≤ 512) :
    Memory.SameBytes (s.put pa bytes) (putLocal s pa k bytes ep) := by
  have hone : (pa + bytes.length + 511) / 512 - pa / 512 = 1 := by omega
  unfold putLocal
  simp only [hone, List.range_one, List.foldl_cons, List.foldl_nil, Nat.add_zero, recallBlock_unregistered hdir,
    Sparse.clear_of_isEmpty]
  exact (State.rekeyed_sameBytes _ _ _).trans (State.touch_serves _ _ _ _).toSameBytes

end Sys2Proof.Machine

/-!
# Where a frame stands, and its write-back

Where a wave's frame stands is read from the homes (`State.SameHomes.framePlace`); a write-back to a frame that no core has a block of and
whose sectors pass their check changes bytes of the frame only (`writeBack_spec`).
-/

namespace Sys2Proof.Machine

open Sys2Proof.Claims

variable {s t u : State}

/-! ### Translations from the same homes -/

/-- The homes, the firmware's tables and the requests on their way are the same, and every byte of memory reads the same. -/
structure State.SameHomes (s t : State) : Prop where
  fw : t.fw = s.fw
  dies : t.dies = s.dies
  requests : t.requests = s.requests
  peers : t.peers = s.peers
  keyed : t.keyed = s.keyed
  poison : t.poison = s.poison
  cell : t.cell = s.cell

theorem State.SameHomes.cell64 (h : State.SameHomes s t) : t.cell64 = s.cell64 := by
  funext a
  simp only [State.cell64, h.cell]

theorem State.SameHomes.die (h : State.SameHomes s t) (b : Nat) : t.die b = s.die b := by
  simp only [State.die, h.dies]

theorem State.SameHomes.sectorOk (h : State.SameHomes s t) (sec k : Nat) : t.sectorOk sec k = s.sectorOk sec k := by
  simp only [State.sectorOk, State.keyOf, h.keyed, h.poison, h.fw]

theorem State.SameHomes.locked (h : State.SameHomes s t) (pa n : Nat) : t.locked pa n = s.locked pa n := by
  simp only [State.locked, h.die]

theorem State.SameHomes.walkSectors (h : State.SameHomes s t) (asid : BitVec 16) (va : Nat) :
    walkSectors t asid va = walkSectors s asid va := by
  simp only [Machine.walkSectors, h.fw, h.cell64]

theorem State.SameHomes.badTable (h : State.SameHomes s t) (asid : BitVec 16) (va : Nat) :
    badTable t asid va = badTable s asid va := by
  simp only [Machine.badTable, h.walkSectors, h.sectorOk]

theorem State.SameHomes.leafOk (h : State.SameHomes s t) : leafOk t = leafOk s := by
  funext e base size
  simp only [Machine.leafOk, State.keyLoaded, h.fw]

theorem State.SameHomes.walk (h : State.SameHomes s t) (asid : BitVec 16) (va : Nat) : walk t asid va = walk s asid va := by
  unfold Machine.walk
  rw [h.fw, h.cell64, h.leafOk]

/-- A translation gives the same address and key slot. -/
theorem State.SameHomes.translate (h : State.SameHomes s t) {asid : BitVec 16} {va : Nat} {acc : Acc} {p : Nat × Nat}
    (e : translate s asid va acc = .ok (p, u)) : ∃ u', translate t asid va acc = .ok (p, u') := by
  unfold Machine.translate at e ⊢
  dsimp only at e ⊢
  rw [h.die, h.badTable, h.walk]
  split at e
  · split at e
    · next hp => cases e; simp [hp]
    · cases e
  · split at e
    · cases e
    · split at e
      · cases e
      · split at e
        · next hp => cases e; simp [hp]
        · cases e

theorem State.SameHomes.remote (h : State.SameHomes s t) : t.remote = s.remote := by
  funext b pa
  unfold State.remote State.keyLoaded State.pathUp
  rw [h.fw, h.peers]

theorem State.SameHomes.behind (h : State.SameHomes s t) (g b : Nat) : t.behind g b = s.behind g b := by
  simp only [State.behind, State.inFront, State.heldHome, h.remote, State.pathUp, State.dieOf, h.requests, h.fw, h.locked]

theorem State.SameHomes.reaches (h : State.SameHomes s t) (a b : Nat) : t.reaches a b = s.reaches a b := by
  simp only [State.reaches, State.pathUp, h.fw, h.die]

/-- A wave's frame stands in the same place, whatever else of the wave changes. -/
theorem State.SameHomes.framePlace (h : State.SameHomes s t) {w w' : Wave} (hcore : w'.core = w.core) (hframe : w'.frame = w.frame)
    (hasid : w'.asid = w.asid) {p : Nat × Nat} (e : framePlace s w = .ok (p, u)) : ∃ u', framePlace t w' = .ok (p, u') := by
  unfold Machine.framePlace at e ⊢
  have hdie : t.dieOf w.core.toNat = s.dieOf w.core.toNat := by rw [State.dieOf, State.dieOf, h.fw]
  rw [hcore, hframe, hasid, h.behind, hdie, h.reaches]
  split at e
  · cases e
  · next hb =>
    rw [if_neg hb]
    split at e
    · cases e
    · next hr =>
      rw [if_neg hr]
      exact h.translate e

/-! ### The words of a frame -/

/-- Words that lie in the 64 KiB of a frame. -/
def inFrame (l : List (Nat × Nat × Nat)) : Prop := ∀ p ∈ l, p.1 + p.2.1 ≤ 65536

theorem inFrame_append {l m : List (Nat × Nat × Nat)} (hl : inFrame l) (hm : inFrame m) : inFrame (l ++ m) := by
  intro p hp
  rcases List.mem_append.mp hp with h | h
  · exact hl p h
  · exact hm p h

theorem inFrame_map {α : Type} (f : α → Nat × Nat × Nat) (l : List α) (h : ∀ a ∈ l, (f a).1 + (f a).2.1 ≤ 65536) :
    inFrame (l.map f) := by
  intro p hp
  obtain ⟨a, ha, rfl⟩ := List.mem_map.mp hp
  exact h a ha

theorem Wave.registerWords_inFrame {w : Wave} (h : fitsFrame w = true) : inFrame w.registerWords := by
  simp only [fitsFrame, Bool.and_eq_true, decide_eq_true_eq, List.all_eq_true] at h
  obtain ⟨⟨⟨⟨⟨⟨⟨⟨hreg, hs⟩, hm⟩, ho⟩, hl⟩, -⟩, -⟩, -⟩, -⟩ := h
  unfold Wave.registerWords
  refine inFrame_append (inFrame_append (inFrame_append (inFrame_append (inFrame_append (inFrame_append ?_ ?_) ?_) ?_) ?_) ?_) ?_
    <;> refine inFrame_map _ _ fun a ha => ?_ <;> dsimp only
  · simp only [List.mem_filter, decide_eq_true_eq] at ha; omega
  · simp only [List.mem_filter, decide_eq_true_eq] at ha; omega
  · have := hs a ha; omega
  · have := hm a ha; omega
  · simp only [List.mem_range] at ha; omega
  · have := ho a ha; omega
  · have := hl a ha; omega

theorem Wave.statusWords_inFrame {w : Wave} (h : fitsFrame w = true) : inFrame w.statusWords := by
  simp only [fitsFrame, Bool.and_eq_true, decide_eq_true_eq, List.all_eq_true] at h
  obtain ⟨⟨⟨⟨-, hsplit⟩, hslots⟩, hgens⟩, -⟩ := h
  have hlq : inFrame ((w.lq.zipIdx).flatMap (fun p =>
      let e := 0xA280 + 80 * ((w.lqhead + p.2) % 8)
      [(e, 8, p.1.pc.toNat)] ++ ((p.1.k.take 8).zipIdx).map (fun q => (e + 8 + 8 * q.2, 8, q.1.toNat))
        ++ [(e + 0x48, 4, p.1.fmt.toNat), (e + 0x4C, 4, 1 + 2 * p.1.started.toNat)])) := by
    intro p hp
    obtain ⟨a, -, hp⟩ := List.mem_flatMap.mp hp
    dsimp only at hp
    have hmod : (w.lqhead + a.2) % 8 < 8 := Nat.mod_lt _ (by decide)
    refine inFrame_append (inFrame_append ?_ (inFrame_map _ _ fun q hq => ?_)) ?_ p hp
    · simp only [inFrame, List.mem_singleton, forall_eq]; omega
    · have hq := (List.mem_zipIdx hq).2.1
      simp only [List.length_take] at hq
      dsimp only
      omega
    · simp only [inFrame, List.mem_cons, List.not_mem_nil, or_false, forall_eq_or_imp, forall_eq]; omega
  unfold Wave.statusWords
  refine inFrame_append (inFrame_append (inFrame_append (inFrame_append (inFrame_append (inFrame_append ?_
    (inFrame_map _ _ fun a ha => ?_)) ?_) (inFrame_map _ _ fun a ha => ?_)) hlq) (inFrame_map _ _ fun a ha => ?_)) ?_
  · simp [inFrame]
  · have := hsplit a ha; dsimp only; omega
  · simp [inFrame]
  · have := hslots a ha; dsimp only; omega
  · have := hgens a ha; dsimp only; omega
  · simp [inFrame]

/-! ### The bytes of a frame -/

/-- The ranges that a write-back writes lie in the frame. -/
theorem frameRanges_inFrame {n : Nat} {r : Nat × Nat} (h : r ∈ frameRanges (min n 256)) : r.1 + r.2 ≤ 65536 := by
  have hn : min n 256 ≤ 256 := Nat.min_le_right _ _
  simp only [frameRanges, List.mem_cons, List.not_mem_nil, or_false] at h
  rcases h with rfl | rfl | rfl <;> dsimp only <;> omega

/-- Zeros put over ranges leave what stands outside them. -/
theorem get_clears {w : Nat} (l : List (Nat × Nat)) (m : Sparse w) {y : Nat} (h : ∀ r ∈ l, y < r.1 ∨ r.1 + r.2 ≤ y) :
    Sparse.get (l.foldl (fun m r => Sparse.clear m r.1 r.2) m) y = Sparse.get m y := by
  induction l generalizing m with
  | nil => rfl
  | cons r l ih =>
    rw [List.foldl_cons, ih _ fun q hq => h q (List.mem_cons_of_mem _ hq), Sparse.get_clear, if_pos (h r List.mem_cons_self)]

theorem get_putFrameWords {pa y : Nat} {w : Wave} (h : fitsFrame w = true) (hy : y < pa ∨ pa + 65536 ≤ y) (m : Sparse 8) :
    Sparse.get (putFrameWords pa w m) y = Sparse.get m y := by
  have hwords : ∀ (l : List (Nat × Nat × Nat)) (m : Sparse 8), inFrame l →
      Sparse.get (l.foldl (fun m p => Sparse.setList m (pa + p.1) (toBytes p.2.1 p.2.2)) m) y = Sparse.get m y := by
    intro l
    induction l with
    | nil => exact fun _ _ => rfl
    | cons p l ih =>
      intro m hl
      have hp := hl p List.mem_cons_self
      rw [List.foldl_cons, ih _ fun q hq => hl q (List.mem_cons_of_mem _ hq),
        Sparse.get_setList_other _ _ _ (by rw [toBytes_length]; omega)]
  have hclear : ∀ (l : List (Nat × Nat)) (m : Sparse 8), (∀ r ∈ l, r.1 + r.2 ≤ 65536) →
      Sparse.get (l.foldl (fun m r => Sparse.clear m (pa + r.1) r.2) m) y = Sparse.get m y := by
    intro l
    induction l with
    | nil => exact fun _ _ => rfl
    | cons r l ih =>
      intro m hl
      have hr := hl r List.mem_cons_self
      rw [List.foldl_cons, ih _ fun q hq => hl q (List.mem_cons_of_mem _ hq), Sparse.get_clear, if_pos (by omega)]
  unfold putFrameWords
  rw [hwords _ _ (inFrame_append (Wave.registerWords_inFrame h) (Wave.statusWords_inFrame h)),
    hclear _ _ fun r hr => frameRanges_inFrame hr]

/-! ### Write-back -/

theorem State.mendRanges_serves (l : List (Nat × Nat)) (s : State) :
    Memory.Serves s (l.foldl (fun s r => s.mendParts r.1 r.2) s) :=
  Memory.Serves.foldl _ (fun s r => State.mendParts_serves s r.1 r.2) l s

theorem State.touchRanges_serves (l : List (Nat × Nat)) (s : State) :
    Memory.Serves s (l.foldl (fun s r => s.touch r.1 r.2 1) s) :=
  Memory.Serves.foldl (fun (s : State) (r : Nat × Nat) => s.touch r.1 r.2 1) (fun s r => State.touch_serves s r.1 r.2 1) l s

theorem mem_sectorsOf {pa n sec : Nat} : sec ∈ sectorsOf pa n ↔ 0 < n ∧ pa / 64 ≤ sec ∧ sec ≤ (pa + n - 1) / 64 := by
  simp only [sectorsOf, List.mem_map, List.mem_range]
  constructor
  · rintro ⟨i, hi, rfl⟩
    split at hi <;> omega
  · rintro ⟨hn, h1, h2⟩
    exact ⟨sec - pa / 64, by rw [if_neg (by omega)]; omega, by omega⟩

/-- The sectors of a part of a range are sectors of the range. -/
theorem sectorsOf_part {pa o m n sec : Nat} (h : sec ∈ sectorsOf (pa + o) m) (hn : o + m ≤ n) : sec ∈ sectorsOf pa n := by
  rw [mem_sectorsOf] at h ⊢
  omega

/-- Memory's bytes and the second values of dropped bytes replaced by others that agree outside a frame (R74). -/
theorem State.replaced_outside (hdir : s.directory = []) (m : Sparse 8) (l : Sparse 9) {pa : Nat}
    (hm : ∀ y, y < pa ∨ pa + 65536 ≤ y → Sparse.get m y = Sparse.get s.mem y)
    (hl : ∀ y, y < pa ∨ pa + 65536 ≤ y → Sparse.get l y = Sparse.get s.limbo y) :
    memOutside s { s with mem := m, limbo := l } pa := by
  intro y hy
  simp only [State.cell, State.memByte, hdir, Table.find_nil, hm y hy, hl y hy]

/-- The bytes of memory replaced, the second values of some ranges dropped and the sectors in them under a key (R74). -/
def State.filled (s : State) (words : Sparse 8) (l : List (Nat × Nat)) (k : Nat) : State :=
  ({ s with mem := words, limbo := if s.limbo.isEmpty then s.limbo else l.foldl (fun m r => Sparse.clear m r.1 r.2) s.limbo } :
    State).rekeyed (l.flatMap fun r => wholeSectors r.1 r.2) k

theorem State.filled_readFrame (s : State) (words : Sparse 8) (l : List (Nat × Nat)) (k : Nat) :
    Memory.ReadFrame s (s.filled words l k) := rfl

theorem State.filled_outside (hdir : s.directory = []) {words : Sparse 8} {l : List (Nat × Nat)} (k : Nat) {pa : Nat}
    (hwords : ∀ y, y < pa ∨ pa + 65536 ≤ y → Sparse.get words y = Sparse.get s.mem y)
    (hl : ∀ r ∈ l, pa ≤ r.1 ∧ r.1 + r.2 ≤ pa + 65536) : memOutside s (s.filled words l k) pa := by
  have hlimbo : ∀ y, y < pa ∨ pa + 65536 ≤ y →
      Sparse.get (if s.limbo.isEmpty then s.limbo else l.foldl (fun m r => Sparse.clear m r.1 r.2) s.limbo) y
        = Sparse.get s.limbo y := by
    intro y hy
    split
    · rfl
    · exact get_clears _ _ fun r hr => by have := hl r hr; omega
  have hout := State.replaced_outside hdir words _ hwords hlimbo
  exact fun y hy => ((State.rekeyed_sameBytes _ _ _).cell y).trans (hout y hy)

/-- A frame whose sectors all pass their check takes a write-back with no sector left out. -/
theorem frame_noBad {l : List (Nat × Nat)} {pa k : Nat} (whole : List Nat) (hl : ∀ r ∈ l, r.1 + r.2 ≤ 65536)
    (hok : ∀ sec ∈ sectorsOf pa 65536, s.sectorOk sec k = true) :
    ((l.map (fun r => (pa + r.1, r.2))).flatMap (fun r => sectorsOf r.1 r.2)).filter
      (fun sec => !whole.contains sec && !s.sectorOk sec k) = [] := by
  rw [List.filter_eq_nil_iff]
  intro sec hsec
  obtain ⟨r, hr, hsec⟩ := List.mem_flatMap.mp hsec
  obtain ⟨q, hq, rfl⟩ := List.mem_map.mp hr
  simp [hok sec (sectorsOf_part hsec (hl q hq))]

/-- A frame written back: the wave, its waits and the rest of the machine stay, and so does memory outside the frame. -/
theorem writeBack_spec {w : Wave} {pa k : Nat} (hp : framePlace s w = .ok ((pa, k), u)) (hdir : s.directory = [])
    (hfit : fitsFrame w = true)
    (hlocal : isLocal pa = true → s.locked pa 65536 = false ∧ ∀ sec ∈ sectorsOf pa 65536, s.sectorOk sec k = true) :
    ∃ t, writeBack s w = .ok t ∧ Memory.ReadFrame s t ∧ memOutside s t pa := by
  have hserve := framePlace_serves hp
  have hdir' : u.directory = [] := hserve.directory.trans hdir
  have hrecall : (if u.directory.isEmpty then u else (List.range 128).foldl (fun s i => recallBlock s (pa / 512 + i)) u) = u :=
    if_pos (by rw [hdir']; rfl)
  simp only [writeBack, hp, hrecall]
  by_cases hl : isLocal pa = true
  · obtain ⟨hlock, hok⟩ := hlocal hl
    rw [if_neg (by simp [hl]), if_neg (by simp [hserve.locked, hlock]),
      frame_noBad _ (fun r hr => frameRanges_inFrame hr) fun sec hsec => hserve.sectorOk (hok sec hsec)]
    have hin : ∀ r ∈ (frameRanges (min w.regcnt 256)).map (fun r => (pa + r.1, r.2)), pa ≤ r.1 ∧ r.1 + r.2 ≤ pa + 65536 := by
      intro r hr
      obtain ⟨q, hq, rfl⟩ := List.mem_map.mp hr
      have := frameRanges_inFrame hq
      dsimp only
      omega
    have hwords := fun y (hy : y < pa ∨ pa + 65536 ≤ y) => get_putFrameWords (pa := pa) hfit hy u.mem
    generalize putFrameWords pa w u.mem = words at hwords ⊢
    generalize (frameRanges (min w.regcnt 256)).map (fun r => (pa + r.1, r.2)) = l at hin ⊢
    have hmend := State.mendRanges_serves l u
    generalize l.foldl (fun s r => s.mendParts r.1 r.2) u = v at hmend ⊢
    have hbytes := hserve.toSameBytes.trans hmend.toSameBytes
    have htouch := (State.touchRanges_serves l (v.filled words l k)).toSameBytes
    refine ⟨_, rfl, (hbytes.frame.trans (State.filled_readFrame ..)).trans htouch.frame, fun y hy => (htouch.cell y).trans ?_⟩
    have hout := State.filled_outside (hbytes.directory.trans hdir) k (fun y hy => by rw [hwords y hy, hmend.mem]) hin
    exact (hout y hy).trans (hbytes.cell y)
  · rw [if_pos (by simpa using hl)]
    exact ⟨_, rfl, hserve.frame.trans rfl, fun y hy => (State.replaced_outside hdir' (putFrameWords pa w u.mem) u.limbo
      (fun y hy => get_putFrameWords hfit hy _) (fun _ _ => rfl) y hy).trans (hserve.cell y)⟩

end Sys2Proof.Machine

/-!
# What comes due in a wave (O44)
-/

namespace Sys2Proof.Machine

open Sys2Proof.Claims

variable {s : State}

/-! ### The first of a sorted list -/

/-- An inserted element, or the head of the list that it was put into, comes first. -/
theorem insertBy_cons {α : Type} (le : α → α → Bool) (x y : α) (l : List α) :
    ∃ r, insertBy le x (y :: l) = (if le x y then x else y) :: r := by
  unfold insertBy
  split <;> exact ⟨_, rfl⟩

/-- Sorting by a number puts a least element first. -/
theorem sortBy_least {α : Type} (f : α → Nat) (x : α) (l : List α) :
    ∃ y r, sortBy (fun a b => decide (f a ≤ f b)) (x :: l) = y :: r ∧ y ∈ x :: l ∧ ∀ z, z ∈ x :: l → f y ≤ f z := by
  induction l generalizing x with
  | nil => exact ⟨x, [], rfl, by simp, by simp⟩
  | cons z l ih =>
    obtain ⟨y, r, hsort, hmem, hleast⟩ := ih z
    obtain ⟨r', hins⟩ := insertBy_cons (fun a b => decide (f a ≤ f b)) x y r
    refine ⟨_, r', (congrArg (insertBy _ x) hsort).trans hins, ?_, ?_⟩
    · split
      · simp
      · exact List.mem_cons_of_mem _ hmem
    · intro v hv
      rcases List.mem_cons.mp hv with rfl | hv
      · split
        · exact le_refl _
        · next h => simp only [decide_eq_true_eq] at h; omega
      · have := hleast v hv
        split
        · next h => simp only [decide_eq_true_eq] at h; omega
        · exact this

/-! ### Split-table exhaustion (R120) -/

/-- A live fragment that waits for split entries, as every live one does, is among the starved. -/
theorem Wave.mem_starved {w : Wave} {f k : Nat} {e : SplitEntry} (h : waitsLongest w f k e) : (k, f) ∈ w.starved := by
  obtain ⟨hfull, -, hmem, hlive, hwait, hall⟩ := h
  have hevery : (w.split.filter (fun p => p.2.state != .waiting)).all (fun p => p.2.entryWait.isSome) = true := by
    rw [List.all_eq_true]
    intro p hp
    obtain ⟨hp, hst⟩ := List.mem_filter.mp hp
    obtain ⟨j, hj, -⟩ := hall p.1 p.2 hp (by simpa using hst)
    simp [hj]
  simp only [Wave.starved, hfull, hevery, Bool.and_self, if_true]
  exact List.mem_map.mpr ⟨(f, e), List.mem_filter.mpr ⟨hmem, by simpa using hlive⟩, by simp [hwait]⟩

/-- Any other of the starved has waited less long. -/
theorem Wave.starved_later {w : Wave} {f k : Nat} {e : SplitEntry} (h : waitsLongest w f k e) {y : Nat × Nat}
    (hy : y ∈ w.starved) (hle : y.1 ≤ k) : y.2 = f := by
  obtain ⟨-, -, -, -, -, hall⟩ := h
  unfold Wave.starved at hy
  dsimp only at hy
  split at hy
  · obtain ⟨p, hp, rfl⟩ := List.mem_map.mp hy
    obtain ⟨hp, hst⟩ := List.mem_filter.mp hp
    obtain ⟨j, hj, hor⟩ := hall p.1 p.2 hp (by simpa using hst)
    simp only [hj, Option.getD_some] at hle
    rcases hor with h | h
    · exact h
    · omega
  · cases hy

/-- The fragment that has waited longest comes first. -/
theorem Wave.starved_first {w : Wave} {f k : Nat} {e : SplitEntry} (h : waitsLongest w f k e) :
    ∃ j r, sortBy (fun a b => decide (a.1 ≤ b.1)) w.starved = (j, f) :: r := by
  have hmem := Wave.mem_starved h
  cases hl : w.starved with
  | nil => rw [hl] at hmem; cases hmem
  | cons x l =>
    obtain ⟨⟨j, g⟩, r, hsort, hin, hleast⟩ := sortBy_least (α := Nat × Nat) (·.1) x l
    rw [← hl] at hin hleast
    obtain rfl : g = f := Wave.starved_later h hin (hleast _ hmem)
    exact ⟨j, r, hsort⟩

/-- Where fragment `f`, with entry `e`, no longer waits for split entries and is the stream that moves. -/
def State.starving (s : State) (f : Nat) (e : SplitEntry) : State :=
  ({ s with lane := true, frag := f } : State).setEntry { e with entryWait := none }

theorem exec_splitTableExhaustion {f k : Nat} {e : SplitEntry} (h : here s) (hact : s.w.residency = .active)
    (hw : waitsLongest s.w f k e) :
    exec .splitTableExhaustion s = .next ((s.starving f e).raise (starvedTrap e (s.starving f e).pcNow f)) := by
  have hne : s.w.starved.isEmpty = false := by
    rw [List.isEmpty_eq_false_iff]
    exact List.ne_nil_of_mem (Wave.mem_starved hw)
  obtain ⟨j, r, hfirst⟩ := Wave.starved_first hw
  obtain ⟨-, hfind, -⟩ := hw
  have hentry : ({ s with lane := true, frag := f } : State).entry = e := by
    simp [State.entry, Table.getD, hfind]
  refine (State.about_here _ h (by simp [hact, hne])).trans ?_
  simp only [hfirst, hentry]
  simp only [State.trapL, State.starving, starvedTrap, State.entry_setEntry]
  rfl

theorem exec_splitTableExhaustion_not (h : here s) (hw : s.w.starved = []) : exec .splitTableExhaustion s = .next s :=
  State.about_not _ h (by simp [hw])

/-- A trap of the stream that moves, while another stream's handler runs, is held (R406). -/
theorem State.raise_held {t : TrapInfo} (hin : s.w.inhandler = true) (hown : s.inOwnHandler = false) (hlane : s.lane = true) :
    s.raise t = (s.onW (fun w => { w with heldTraps := w.heldTraps ++ [t] })).setEntry { s.entry with held := true } := by
  simp only [State.raise, hin, hown, hlane, Bool.false_eq_true, if_false, if_true, State.onW_lane]
  rfl

theorem State.raise_taken {t : TrapInfo} (hin : s.w.inhandler = false) : s.raise t = takeTrap s t := by
  simp [State.raise, State.inOwnHandler, hin]

/-! ### Timers (R416, R417) -/

theorem State.timerTrap_held (code : BitVec 8) (detail : BitVec 24) (hin : s.w.inhandler = true) :
    s.timerTrap code detail = s.onW (fun w => { w with heldTraps := w.heldTraps ++ [timerOf code detail s.w.spc] }) := by
  simp only [State.timerTrap, hin, if_true]
  rfl

theorem State.timerTrap_taken (code : BitVec 8) (detail : BitVec 24) (hin : s.w.inhandler = false) :
    s.timerTrap code detail = takeTrap { s with lane := false } (timerOf code detail s.w.spc) := by
  simp only [State.timerTrap, hin, Bool.false_eq_true, if_false]
  rfl

/-- The deadline disarmed (R416). -/
def State.disarmed (s : State) : State := s.onW (fun w => { w with deadline := 0 })

/-- FIRED set (R417). -/
def State.fired (s : State) : State := s.onW (fun w => { w with stagecnt := w.stagecnt ||| 0x8000000000000000#64 })

theorem exec_deadlineExpiry (h : here s) (hact : s.w.residency = .active) (hd : timerDue s = true) :
    exec .deadlineExpiry s = .next (s.disarmed.timerTrap 0x0B 0) :=
  State.about_here _ h (by simp [hact, hd])

theorem exec_stageBudgetExpiry (h : here s) (hact : s.w.residency = .active) (hd : stageDue s.w = true) :
    exec .stageBudgetExpiry s = .next (s.fired.timerTrap 0x0A (s.w.stage.setWidth 24)) :=
  State.about_here _ h (by simp [hact, hd])

theorem fired_bit (s : State) : s.fired.w.stagecnt.getLsbD 63 = true := by
  simp [State.fired]

theorem sameContext_refl (s : State) : sameContext s s := ⟨fun _ => rfl, rfl, rfl, rfl, rfl, rfl, rfl, fun _ => rfl⟩

/-! ### Samples (R418) -/

theorem traceRecord_untraced (w : Wave) (type code : BitVec 8) (pc cause : BitVec 64) (lmask : BitVec 32)
    (h : Table.find s.fw.traces w.asid.toNat = none) : traceRecord s w type code pc cause lmask = s := by
  simp only [traceRecord, h]

theorem exec_sampleTimerExpiry (h : here s) (hact : s.w.residency = .active) (hd : sampleDue s.w = true)
    (ht : Table.find s.fw.traces s.w.asid.toNat = none) :
    exec .sampleTimerExpiry s = .next (s.onW (fun w => { w with sampled := w.wclk })) :=
  (State.about_here _ h (by simp [hact, hd])).trans (congrArg Host.Outcome.next (traceRecord_untraced _ _ _ _ _ _ ht))

theorem sampleDue_sampled (w : Wave) : sampleDue { w with sampled := w.wclk } = false := by
  simp [sampleDue]

end Sys2Proof.Machine

/-!
# A halt latched too long is taken (O44)
-/

namespace Sys2Proof.Machine

open Sys2Proof.Claims

variable {s t u : State}

/-! ### A wave leaves its core (R84, R96) -/

/-- Leaving a core changes a wave's place, its target and a copy that stalls. -/
theorem Wave.restart_unland (w : Wave) : w.unland.restart
    = { w with place := w.unland.restart.place, target := w.unland.restart.target, progress := w.unland.restart.progress } := by
  unfold Wave.restart Wave.unland
  split <;> split <;> rfl

theorem State.leaveCore_w (s : State) : s.leaveCore.w = s.w.unland.restart := by
  unfold State.leaveCore
  dsimp only
  split <;> rfl

/-- With no block of memory registered, the homes are the same after a wave has left its core. -/
theorem State.leaveCore_homes (hdir : s.directory = []) (f : Wave → Wave) : State.SameHomes s (s.leaveCore.onW f) := by
  rw [State.leaveCore_spec]
  refine ⟨rfl, rfl, rfl, rfl, rfl, rfl, funext fun y => ?_⟩
  simp only [State.cell, State.memByte, State.onW, hdir, Table.find_nil]

/-! ### The frame of a halted wave (R74) -/

/-- The state of a wave that a halt has parked stands in its frame, where nothing holds it back. -/
theorem State.storeHalted_spec {pa k : Nat} (hsw : s.w.swapped = false)
    (hp : framePlace s { s.w with swapped := true } = .ok ((pa, k), u)) (hdir : s.directory = []) (hfit : fitsFrame s.w = true)
    (hlocal : isLocal pa = true → s.locked pa 65536 = false ∧ ∀ sec ∈ sectorsOf pa 65536, s.sectorOk sec k = true) :
    ∃ t, s.storeHalted s.w = t ∧ t.w = { s.w with swapped := true } ∧ t.fw = s.fw ∧ t.launches = s.launches
      ∧ memOutside s t pa := by
  obtain ⟨t, hwrite, hframe, hout⟩ := writeBack_spec hp hdir hfit hlocal
  refine ⟨t.mapWaves (fun x => if x.id == s.w.id then { x with swapped := true } else x), ?_, ?_, hframe.fw, hframe.launches, hout⟩
  · simp [State.storeHalted, hsw, hwrite]
  · simp [hframe.w]

/-- Halts settle where a debugger watches the launch (R412). -/
theorem settleHalt_debugger {lid : BitVec 32} {l : Launch} (blk : Nat) (hl : s.launch lid = some l) (hdbg : l.debugger = true) :
    settleHalt s lid blk = s := by
  simp [settleHalt, hl, hdbg]

/-! ### The latched halt (R413) -/

theorem exec_haltLatchTimeout (h : here s) (hlatch : s.w.haltlatch = true)
    (htime : s.w.haltAt + 1000000 ≤ (s.ptcOf s.w.core.toNat).toNat) (hscalar : s.w.handler.bind (·.frag) = none) :
    exec .haltLatchTimeout s = .next (s.takeLatchAt s.w.spc) := by
  refine (State.about_here _ h (by simp [State.latchDue, hlatch, htime])).trans ?_
  simp only [hscalar]

theorem exec_haltLatchTimeout_not (h : here s) (hlatch : s.w.haltlatch = false) : exec .haltLatchTimeout s = .next s :=
  State.about_not _ h (by simp [State.latchDue, hlatch])

/-- A halt recorded in a wave whose frame can be written: the wave parks, its state in its frame. -/
theorem State.takeLatchAt_spec {l : Launch} {pa k : Nat} (pc : Addr) (hsw : s.w.swapped = false) (hframe : frameAt s pa k = true)
    (hl : s.launch s.w.lid = some l) (hdbg : l.debugger = true) (htrace : Table.find s.fw.traces s.w.asid.toNat = none) :
    ∃ t, s.takeLatchAt pc = t ∧ t.w.trapcause = (BitVec.ofNat 64 (0x0E + s.w.haltInfo.toNat * 256) ||| haltedBit)
      ∧ t.w.trappc = pc ∧ t.w.trapmask = 0 ∧ t.w.haltlatch = false ∧ t.w.residency = .parked
      ∧ t.w.parkc = .debugHalt ∧ t.w.swapped = true ∧ (∀ r, t.rs r = s.rs r) ∧ memOutside s t pa := by
  simp only [frameAt, Bool.and_eq_true, Bool.or_eq_true, Bool.not_eq_true', List.all_eq_true, List.isEmpty_iff] at hframe
  obtain ⟨⟨⟨hdir, hfit⟩, hlocal⟩, hplace⟩ := hframe
  have hlocal' : isLocal pa = true → s.locked pa 65536 = false ∧ ∀ sec ∈ sectorsOf pa 65536, s.sectorOk sec k = true := by
    intro hl
    simpa [hl] using hlocal
  obtain ⟨u, hplace⟩ : ∃ u, framePlace s s.w = .ok ((pa, k), u) := by
    split at hplace
    · next x u hx => exact ⟨u, by rw [hx, eq_of_beq hplace]⟩
    · cases hplace
  unfold State.takeLatchAt
  dsimp only
  have hspec := (State.leaveCore_w s).trans (Wave.restart_unland s.w)
  generalize hv : s.leaveCore.onW _ = v
  have hhomes : State.SameHomes s v := hv ▸ State.leaveCore_homes hdir _
  have hvdir : v.directory = [] := by rw [← hv, State.leaveCore_spec]; exact hdir
  have hvl : v.launches = s.launches := by rw [← hv, State.leaveCore_spec]; rfl
  have hvw : v.w = _ := (congrArg State.w hv).symm
  rw [State.onW_w, hspec] at hvw
  obtain ⟨u', hplace'⟩ := hhomes.framePlace (w := s.w) (w' := { v.w with swapped := true }) (by rw [hvw]) (by rw [hvw])
    (by rw [hvw]) hplace
  obtain ⟨t, ht, htw, htfw, htl, hout⟩ := State.storeHalted_spec (by rw [hvw]; exact hsw) hplace' hvdir
    (by rw [hvw]; exact hfit) fun hl => by
      obtain ⟨hlock, hok⟩ := hlocal' hl
      exact ⟨hhomes.locked pa 65536 ▸ hlock, fun sec hsec => hhomes.sectorOk sec k ▸ hok sec hsec⟩
  have htlid : t.w.lid = s.w.lid := by rw [htw, hvw]
  have htasid : t.w.asid = s.w.asid := by rw [htw, hvw]
  rw [ht, traceRecord_untraced _ _ _ _ _ _ (by rw [htasid, htfw, hhomes.fw]; exact htrace),
    settleHalt_debugger (l := l) _ (by rw [htlid, State.launch, htl, hvl]; exact hl) hdbg]
  refine ⟨t, rfl, ?_, ?_, ?_, ?_, ?_, ?_, ?_, fun r => ?_, fun y hy => (hout y hy).trans (congrFun hhomes.cell y)⟩
  all_goals simp [htw, hvw, State.rs]

end Sys2Proof.Machine

/-! # What is due in a wave (O44) -/

namespace Sys2Proof.Machine

open Sys2Proof.Claims

variable {s t u : State}

/-! ### Settled -/

/-- No fragment is starved while one can go on. -/
theorem Wave.starved_of_running {w : Wave} (h : w.split.any (fun p => p.2.state != .waiting && p.2.entryWait.isNone) = true) :
    w.starved = [] := by
  obtain ⟨p, hp, hgo⟩ := List.any_eq_true.mp h
  simp only [Bool.and_eq_true] at hgo
  obtain ⟨hlive, hwait⟩ := hgo
  have hsome : ((w.split.filter (fun p => p.2.state != .waiting)).all (fun p => p.2.entryWait.isSome)) = false := by
    rw [List.all_eq_false]
    exact ⟨p, List.mem_filter.mpr ⟨hp, hlive⟩, by simpa using hwait⟩
  simp only [Wave.starved, hsome]
  simp

theorem Wave.starved_of_free {w : Wave} (h : (freePair w.split).isSome = true) : w.starved = [] := by
  simp only [Option.isSome_iff_ne_none] at h
  simp [Wave.starved, h]

/-- The fragment is not in a handler that another stream runs. -/
theorem State.starving_notOwn {f : Nat} (e : SplitEntry) {h0 : Handler} (hh : s.w.handler = some h0) (hother : h0.frag ≠ some f) :
    (s.starving f e).inOwnHandler = false := by
  have hhandler : (s.starving f e).w.handler = some h0 := hh
  have hlane : (if (s.starving f e).lane then some (s.starving f e).frag else none) = some f := rfl
  simp only [State.inOwnHandler, hhandler, hlane, beq_eq_false_iff_ne.mpr hother, Bool.and_false]

theorem memSame_trans (h : memSame s t) (g : memSame t u) : memSame s u := fun y => (g y).trans (h y)

theorem memSame_onW (f : Wave → Wave) : memSame s (s.onW f) := fun _ => rfl

theorem memSame_setEntry (e : SplitEntry) : memSame s (s.setEntry e) := fun _ => rfl

theorem State.starving_memSame {f : Nat} (e : SplitEntry) : memSame s (s.starving f e) := fun _ => rfl

theorem sameContext_trans (h : sameContext s t) (g : sameContext t u) : sameContext s u := by
  obtain ⟨hrs, hv, hx, hm, hz, hspc, hlq, hmem⟩ := h
  obtain ⟨grs, gv, gx, gm, gz, gspc, glq, gmem⟩ := g
  exact ⟨fun r => (grs r).trans (hrs r), gv.trans hv, gx.trans hx, gm.trans hm, gz.trans hz, gspc.trans hspc, glq.trans hlq,
    memSame_trans hmem gmem⟩

theorem sameContext_disarmed (s : State) : sameContext s s.disarmed := sameContext_refl s

theorem sameContext_fired (s : State) : sameContext s s.fired := sameContext_refl s

/-- A held trap leaves the context. -/
theorem sameContext_hold (s : State) (t : TrapInfo) :
    sameContext s (s.onW fun w => { w with heldTraps := w.heldTraps ++ [t] }) := sameContext_refl s

/-- Settles O44: a clause for each step, from what the step does when it is due (`exec_splitTableExhaustion`,
`State.takeLatchAt_spec`, `State.timerTrap_held`, `State.timerTrap_taken`) and that it does nothing before. -/
theorem waveTimers : Obligations.WaveTimers := by
  intro s h
  refine ⟨?_, ?_, ?_, ?_, ?_, ?_, ?_, ?_, ?_, ?_, ?_, ?_, ?_, ?_⟩
  · intro f k e h0 hact hw hin hhandler hother
    rw [exec_splitTableExhaustion h hact hw, State.raise_held (s := s.starving f e) hin (State.starving_notOwn e hhandler hother) rfl]
    exact ⟨_, starvedTrap e (s.starving f e).pcNow f, rfl, rfl, rfl, rfl, rfl, rfl, rfl,
      memSame_trans (State.starving_memSame e) (memSame_trans (memSame_onW _) (memSame_setEntry _))⟩
  · intro f k e hact hw hin
    rw [exec_splitTableExhaustion h hact hw, State.raise_taken (s := s.starving f e) hin]
    exact ⟨s.starving f e, rfl, rfl, rfl, rfl, rfl, State.starving_memSame e⟩
  · exact fun hgo => exec_splitTableExhaustion_not h (Wave.starved_of_running hgo)
  · exact fun hfree => exec_splitTableExhaustion_not h (Wave.starved_of_free hfree)
  · exact fun hlatch => exec_haltLatchTimeout_not h hlatch
  · intro l pa key hsw hframe hlatch htime hscalar hl hdbg htrace
    rw [exec_haltLatchTimeout h hlatch htime hscalar]
    obtain ⟨t, rfl, ht⟩ := State.takeLatchAt_spec s.w.spc hsw hframe hl hdbg htrace
    exact ⟨_, rfl, ht⟩
  · exact fun hdue => State.about_not _ h (by simp [hdue])
  · intro hact hdue hin
    rw [exec_deadlineExpiry h hact hdue, State.timerTrap_held (s := s.disarmed) _ _ hin]
    exact ⟨_, timerOf 0x0B 0 s.w.spc, rfl, rfl, rfl, rfl, rfl, sameContext_trans (sameContext_disarmed s) (sameContext_hold _ _)⟩
  · intro hact hdue hin
    rw [exec_deadlineExpiry h hact hdue, State.timerTrap_taken (s := s.disarmed) _ _ hin]
    exact ⟨_, rfl, rfl, sameContext_refl s⟩
  · exact fun hdue => State.about_not _ h (by simp [hdue])
  · intro hact hdue hin
    rw [exec_stageBudgetExpiry h hact hdue, State.timerTrap_held (s := s.fired) _ _ hin]
    exact ⟨_, timerOf 0x0A (s.w.stage.setWidth 24) s.w.spc, rfl, fired_bit s, rfl, rfl, rfl, sameContext_trans (sameContext_fired s) (sameContext_hold _ _)⟩
  · intro hact hdue hin
    rw [exec_stageBudgetExpiry h hact hdue, State.timerTrap_taken (s := s.fired) _ _ hin]
    exact ⟨_, rfl, fired_bit s, sameContext_refl s⟩
  · exact fun hdue => State.about_not _ h (by simp [hdue])
  · intro hact hdue htrace
    rw [exec_sampleTimerExpiry h hact hdue htrace]
    exact ⟨_, rfl, rfl, sampleDue_sampled s.w, sameContext_refl s⟩

end Sys2Proof.Machine

/-!
# A store that reaches its home at once

A store of some bytes of a line in a place where nothing holds it back leaves those bytes there, and every other byte of memory
and the stream that moves as they were (`coreWrite_spec`, `State.storeNow_link`).
-/

namespace Sys2Proof.Machine

open Sys2Proof.Claims

variable {s t u : State}

/-- The bytes stand at an address, every other byte of memory reads as before, and so does the stream that moves. -/
structure State.Written (s t : State) (pa : Nat) (bytes : List Byte) : Prop where
  w : t.w = s.w
  lane : t.lane = s.lane
  frag : t.frag = s.frag
  inside : ∀ i (h : i < bytes.length), t.cell (pa + i) = bytes[i]
  outside : ∀ y, y < pa ∨ pa + bytes.length ≤ y → t.cell y = s.cell y

/-- What keeps every byte of memory and the stream that moves. -/
structure State.Quiet (s t : State) : Prop where
  w : t.w = s.w
  lane : t.lane = s.lane
  frag : t.frag = s.frag
  cell : ∀ y, t.cell y = s.cell y

theorem State.Quiet.trans (h : State.Quiet s t) (g : State.Quiet t u) : State.Quiet s u :=
  ⟨g.w.trans h.w, g.lane.trans h.lane, g.frag.trans h.frag, fun y => (g.cell y).trans (h.cell y)⟩

theorem Memory.SameBytes.quiet (h : Memory.SameBytes s t) : State.Quiet s t :=
  ⟨h.frame.w, by rw [h.frame], h.frame.frag, h.cell⟩

theorem State.Written.after {pa : Nat} {bytes : List Byte} (h : State.Quiet s t) (g : State.Written t u pa bytes) :
    State.Written s u pa bytes :=
  ⟨g.w.trans h.w, g.lane.trans h.lane, g.frag.trans h.frag, g.inside, fun y hy => (g.outside y hy).trans (h.cell y)⟩

theorem State.Written.then {pa : Nat} {bytes : List Byte} (h : State.Written s t pa bytes) (g : State.Quiet t u) :
    State.Written s u pa bytes :=
  ⟨g.w.trans h.w, g.lane.trans h.lane, g.frag.trans h.frag, fun i hi => (g.cell _).trans (h.inside i hi),
    fun y hy => (g.cell y).trans (h.outside y hy)⟩

/-! ### The home (R296, R303, R317) -/

/-- No entry of a table has a key that it does not find. -/
theorem Table.not_mem_of_find {α : Type} {m : Table α} {a : Nat} (h : Table.find m a = none) : ∀ p ∈ m, p.1 ≠ a := by
  induction m with
  | nil => simp
  | cons p m ih =>
    unfold Table.find at h
    split at h
    · cases h
    · next hne =>
      rintro q hq rfl
      rcases List.mem_cons.mp hq with rfl | hq
      · exact hne rfl
      · exact ih h q hq rfl

/-- Bytes within one block that no core owns wait for no recall. -/
theorem State.recallHeld_unregistered {pa n own : Nat} (hdir : Table.find s.directory (pa / 512) = none)
    (hblk : pa % 512 + n ≤ 512) : s.recallHeld pa n own = false := by
  simp only [State.recallHeld, Bool.and_eq_false_iff]
  refine Or.inr (List.any_eq_false.mpr fun p hp => ?_)
  have hne := Table.not_mem_of_find hdir p hp
  have hfar : ¬ (pa < p.1 * 512 + 512 ∧ p.1 * 512 < pa + n) := by omega
  simp only [Bool.and_eq_true, decide_eq_true_eq]
  exact fun h => hfar h.1.1

theorem State.put_written {pa : Nat} {bytes : List Byte} (hdir : Table.find s.directory (pa / 512) = none)
    (hblk : pa % 512 + bytes.length ≤ 512) : State.Written s (s.put pa bytes) pa bytes :=
  ⟨rfl, rfl, rfl, fun i hi => State.put_cell_same s pa bytes hi (by rwa [show (pa + i) / 512 = pa / 512 by omega]),
    fun y hy => State.put_cell_other s pa bytes hy⟩

/-- A write in one block that no core owns, no lock holds and whose sectors pass their check is performed. -/
theorem writeLocal_written {va : BitVec 64} {pa k : Nat} {bytes : List Byte} {ep : BitVec 2} (hlock : s.locked pa bytes.length = false)
    (hdir : Table.find s.directory (pa / 512) = none) (hlen : 0 < bytes.length) (hblk : pa % 512 + bytes.length ≤ 512)
    (hok : ∀ sec ∈ sectorsOf pa bytes.length, s.sectorOk sec k = true) :
    ∃ t, writeLocal s va pa k bytes ep = .ok t ∧ State.Written s t pa bytes := by
  have hfind : (sectorsOf pa bytes.length).find? (fun sec => !s.sectorOk sec k && !(wholeSectors pa bytes.length).contains sec)
      = none := by
    rw [List.find?_eq_none]
    intro sec hsec
    simp [hok sec hsec]
  have hmend := (State.mendParts_serves s pa bytes.length).toSameBytes
  have hdir' : Table.find (s.mendParts pa bytes.length).directory (pa / 512) = none := by rw [hmend.directory, hdir]
  refine ⟨putLocal (s.mendParts pa bytes.length) pa k bytes ep, ?_, ?_⟩
  · simp only [writeLocal, hlock, State.recallHeld_unregistered hdir hblk, hfind, Bool.or_self, Bool.false_eq_true, if_false]
  · exact ((State.put_written hdir' hblk).then (putLocal_unregistered k bytes ep hdir' hlen hblk).quiet).after hmend.quiet

/-- The wave that moves is not woken where it waits for nothing. -/
theorem wakeWrite_quiet (asid : BitVec 16) (va pa n : Nat) (h : s.w.wait = none) : State.Quiet s (wakeWrite s asid va pa n) :=
  ⟨by simp [wakeWrite, h], rfl, rfl, fun _ => rfl⟩

/-! ### The core (R321) -/

theorem dropRdc_quiet (s : State) (b : Nat) (asid : BitVec 16) (line : Nat) : State.Quiet s (dropRdc s b asid line) := by
  unfold dropRdc
  dsimp only
  split <;> split <;> exact ⟨rfl, rfl, rfl, fun _ => rfl⟩

/-- Lines of a core's L1 replaced. -/
theorem State.setL1_quiet (s : State) (g : Nat) (l : List L1Line) : State.Quiet s (s.setCore g { s.core g with l1 := l }) := by
  refine ⟨rfl, rfl, rfl, fun y => State.cell_congr (s := s) (t := s.setCore g { s.core g with l1 := l }) rfl rfl rfl
    (fun h => ?_) rfl y⟩
  by_cases e : h = g
  · rw [e, State.core_setCore_same]
    exact ⟨rfl, rfl⟩
  · rw [State.core_setCore_other (s := s) _ e]
    exact ⟨rfl, rfl⟩

theorem coreStored_quiet (s : State) (g : Nat) (asid : BitVec 16) (va : Nat) (bytes : List Byte) :
    State.Quiet s (coreStored s g asid va bytes) := by
  unfold coreStored
  dsimp only
  split
  · exact dropRdc_quiet _ _ _ _
  · exact (State.setL1_quiet s g _).trans (dropRdc_quiet _ _ _ _)

theorem captureTouch_none {va : Nat} (h : ∀ l, s.launch s.w.lid = some l → l.capture = false) :
    captureTouch s s.w.lid va = s := by
  unfold captureTouch
  split
  · rfl
  · next l hl =>
    have hcap := h l hl
    simp only [Launch.capture, Launch.f, beq_eq_false_iff_ne] at hcap
    rw [if_pos (by simp; omega)]

/-- A store that nothing holds back is made at its home (`reachesHbm`). -/
theorem coreWrite_spec {va pa k : Nat} {bytes : List Byte} (ep : BitVec 2) (h : reachesHbm s va bytes.length .write pa k = true)
    (hlen : 0 < bytes.length) :
    ∃ t, coreWrite s s.w.core.toNat s.w.lid s.w.asid va bytes ep = .ok t ∧ State.Written s t pa bytes := by
  simp only [reachesHbm, Bool.and_eq_true, decide_eq_true_eq, Option.isNone_iff_eq_none, List.isEmpty_iff] at h
  obtain ⟨⟨⟨⟨⟨⟨⟨⟨⟨⟨⟨-, -⟩, -⟩, hline⟩, hcap⟩, hreach⟩, htrans⟩, hend⟩, hbad⟩, hdir⟩, hlocks⟩, hwait⟩ := h
  obtain ⟨u, htrans⟩ : ∃ u, translate s s.w.asid va .write = .ok ((pa, k), u) := by
    split at htrans
    · next x u hx => exact ⟨u, by rw [hx, eq_of_beq htrans]⟩
    · cases htrans
  have hcapture : captureTouch s s.w.lid va = s := captureTouch_none fun l hl => by simpa [hl] using hcap
  have hlocal : isLocal pa = true := by simp only [isLocal, decide_eq_true_eq]; omega
  have hserve := translate_serves htrans
  have hsectors : ∀ sec ∈ sectorsOf pa bytes.length, u.sectorOk sec k = true := by
    simp only [State.badSector, hlocal, if_true, List.find?_eq_none] at hbad
    exact fun sec hsec => hserve.sectorOk (by simpa using hbad sec hsec)
  obtain ⟨v, hwrite, hwritten⟩ := writeLocal_written (s := u) (va := BitVec.ofNat 64 va) (ep := ep)
    (by rw [hserve.locked]; simp [State.locked, hlocks]) (by rw [hserve.directory, hdir]) hlen (by omega) hsectors
  have hwritten := hwritten.after hserve.toSameBytes.quiet
  refine ⟨coreStored (wakeWrite v s.w.asid va pa bytes.length) s.w.core.toNat s.w.asid va bytes, ?_, ?_⟩
  · simp only [coreWrite, homeWrite, hcapture, hreach, htrans, serveWrite, hlocal, hwrite, Bool.not_true, Bool.false_eq_true,
      if_false, if_true]
  · exact (hwritten.then (wakeWrite_quiet _ _ _ _ (by rw [hwritten.w, hwait]))).then (coreStored_quiet _ _ _ _ _)

/-! ### The link word of the tool area (R135) -/

theorem State.defer_off (h : s.defer = false) : ({ s with defer := false } : State) = s := by
  cases s
  cases h
  rfl

/-- The link word lies in plain memory of the frame (R71). -/
theorem Wave.frameParts_link (w : Wave) : w.frameParts 8 0xCFF8 8 = [(0xCFF8, 8, false)] := by
  have hplain : w.frameOwned 0xCFF8 = false := by simp [Wave.frameOwned]
  simp [Wave.frameParts, hplain]

/-- A store to the link word lands in memory before the instruction goes on. -/
theorem State.storeNow_link {pa k : Nat} {bytes : List Byte} (h : linkAt s pa k = true) (hlen : bytes.length = 8) :
    ∃ t, s.storeNow s.linkAddr bytes = .ok t ∧ State.Written s t pa bytes := by
  simp only [linkAt, Bool.and_eq_true, decide_eq_true_eq] at h
  obtain ⟨htarget, hreach⟩ := h
  rw [← hlen] at hreach
  obtain ⟨t, hwrite, hwritten⟩ := coreWrite_spec 1 hreach (by omega)
  obtain ⟨hdefer, hover⟩ : s.defer = false ∧ s.overtakes (s.w.frame.toNat + 0xCFF8) bytes.length = false := by
    simp only [reachesHbm, Bool.and_eq_true, Bool.not_eq_true'] at hreach
    obtain ⟨⟨⟨⟨⟨⟨⟨⟨⟨⟨⟨hdefer, hover⟩, -⟩, -⟩, -⟩, -⟩, -⟩, -⟩, -⟩, -⟩, -⟩, -⟩ := hreach
    exact ⟨hdefer, hover⟩
  have hstore : s.storeT (.self 0xCFF8) s.linkAddr bytes 0 = .ok t := by
    simp only [State.storeT, hlen, Wave.frameParts_link, List.all_cons, List.all_nil, Bool.not_false, Bool.and_self, if_true,
      State.storeGlobal, hdefer]
    rw [← hlen, if_neg (by simp [hover]), hwrite]
  refine ⟨{ t with defer := s.defer }, ?_, ?_⟩
  · simp only [State.storeNow, State.defer_off hdefer]
    rw [State.linkAddr, htarget, ← State.linkAddr, hstore]
  · exact hwritten.then ⟨rfl, rfl, rfl, fun _ => rfl⟩

end Sys2Proof.Machine

/-!
# Trampolines (O18)
-/

namespace Sys2Proof.Machine

open Sys2Proof.Claims

variable {s t u : State}

/-! ### Scalar trampolines (R135) -/

theorem State.goto_eq {tgt : Word64} (h : tgt ≠ 0 ∨ s.inOwnHandler = false) :
    s.goto tgt = s.onW (fun w => { w with spc := tgt }) := by
  have hno : ¬ ((decide (tgt = 0) && s.inOwnHandler) = true) := by
    simp only [Bool.and_eq_true, decide_eq_true_eq, not_and, Bool.not_eq_true]
    exact fun hz => h.resolve_left (not_not_intro hz)
  rw [State.goto, if_neg hno]

/-- A byte of a word as a store writes it (R3). -/
theorem toBytes_getElem (x : Word64) {j : Nat} (h : j < (toBytes 8 x.toNat).length) :
    (toBytes 8 x.toNat)[j] = x.extractLsb' (8 * j) 8 := by
  simp [toBytes, BitVec.extractLsb', Nat.shiftRight_eq_div_pow]

/-- The link word written, then the transfer: what both scalar trampolines end with. -/
theorem linked_goto {pa : Nat} {x tgt : Word64} (hw : State.Written s u pa (toBytes 8 x.toNat))
    (htgt : tgt ≠ 0 ∨ s.inOwnHandler = false) : linked s ((u.onW Wave.stored).goto tgt) pa x tgt := by
  have hown : (u.onW Wave.stored).inOwnHandler = s.inOwnHandler := by
    simp only [State.inOwnHandler, State.onW, Wave.stored, hw.w, hw.lane, hw.frag]
  rw [State.goto_eq (by rwa [hown])]
  refine ⟨?_, fun j hj => ?_, fun y hy => ?_⟩
  · simp only [State.onW, Wave.stored, hw.w]
  · have hlen : j < (toBytes 8 x.toNat).length := by rwa [toBytes_length]
    exact (hw.inside j hlen).trans (toBytes_getElem x hlen)
  · exact hw.outside y (by rwa [toBytes_length])

/-- An entry whose address is word-aligned and in the lower 56 bits (R135). -/
theorem entry_ok {e : Nat} (h56 : e / 2 ^ 56 % 256 = 0) (h4 : e % 4 = 0) : ¬ (bits e 63 56 ≠ 0 ∨ bits e 1 0 ≠ 0) := by
  simp only [bits]
  omega

/-- TRAMPS with a free link, once both words are loaded and the link is stored. -/
theorem exec_tramps {i : BitVec 20} {l b : List Byte} {v : State} (hlink : s.loadNow s.linkAddr 8 = .ok (l, t))
    (hentry : t.loadNow (t.w.trampbase + BitVec.ofNat 64 (8 * i.toNat)) 8 = .ok (b, u)) (hfree : ¬ ofBytes l % 2 = 1)
    (hok : ¬ (bits (ofBytes b) 63 56 ≠ 0 ∨ bits (ofBytes b) 1 0 ≠ 0))
    (hstore : u.storeNow u.linkAddr (toBytes 8 (u.w.spc + 1).toNat) = .ok v) :
    exec (.tramps i) s = .next ((v.onW Wave.stored).goto (BitVec.ofNat 64 (ofBytes b))) := by
  change execTramps i s = _
  simp only [execTramps, hlink, hentry, if_neg hfree, if_neg hok, hstore]

theorem exec_tramps_held {i : BitVec 20} {l b : List Byte} (hlink : s.loadNow s.linkAddr 8 = .ok (l, t))
    (hentry : t.loadNow (t.w.trampbase + BitVec.ofNat 64 (8 * i.toNat)) 8 = .ok (b, u)) (hheld : ofBytes l % 2 = 1) :
    exec (.tramps i) s = .next (u.trapS 0x15 6 0 false) := by
  change execTramps i s = _
  simp only [execTramps, hlink, hentry, if_pos hheld]

/-- Bit 0 of a loaded word says whether its number is odd. -/
theorem word64_bit0 (l : List Byte) : (word64 l).getLsbD 0 = decide (ofBytes l % 2 = 1) := by
  rw [word64, BitVec.getLsbD_ofNat, Nat.testBit_zero]
  rfl

/-- TRAMPS.RET with a link held, once the link is loaded and cleared. -/
theorem exec_trampsRet {l : List Byte} (hlink : s.loadNow s.linkAddr 8 = .ok (l, t)) (hheld : ofBytes l % 2 = 1)
    (hstore : t.storeNow t.linkAddr (toBytes 8 0) = .ok u) :
    exec .trampsRet s = .next ((u.onW Wave.stored).goto ((word64 l &&& ~~~3#64) + 4)) := by
  change execTrampsRet s = _
  have hbit : (!(word64 l).getLsbD 0) = false := by rw [word64_bit0]; simp [hheld]
  simp only [execTrampsRet, hlink, hbit, hstore, Bool.false_eq_true, if_false]

theorem exec_trampsRet_free {l : List Byte} (hlink : s.loadNow s.linkAddr 8 = .ok (l, t)) (hfree : ofBytes l % 2 = 0) :
    exec .trampsRet s = .next (t.trapS 0x07 2 0 false) := by
  change execTrampsRet s = _
  have hbit : (!(word64 l).getLsbD 0) = true := by rw [word64_bit0]; simp [hfree]
  simp only [execTrampsRet, hlink, hbit, if_true]

theorem scalarTrampolines_holds : scalarTrampolines := by
  intro s s1 s2 i l b pa k link e old hload1 hw1
  refine ⟨fun hload2 hw2 => ⟨fun hat heven h56 h4 hzero => ?_, fun hodd => ?_⟩, fun hat hodd hzero => ?_, fun heven => ?_⟩
  · obtain ⟨t, hstore, hwritten⟩ := State.storeNow_link hat (toBytes_length 8 (s2.w.spc + 1).toNat)
    exact ⟨_, exec_tramps hload1 (hw1 ▸ hload2) (by omega) (entry_ok h56 h4) hstore, hw2 ▸ linked_goto hwritten hzero⟩
  · exact exec_tramps_held hload1 (hw1 ▸ hload2) hodd
  · obtain ⟨t, hstore, hwritten⟩ := State.storeNow_link hat (toBytes_length 8 (0 : Word64).toNat)
    exact ⟨_, exec_trampsRet hload1 hodd hstore, linked_goto hwritten hzero⟩
  · exact exec_trampsRet_free hload1 heven

end Sys2Proof.Machine

/-! # Trampolines of lane fragments (O18) -/

namespace Sys2Proof.Machine

open Sys2Proof.Claims

variable {s t u : State}

/-! ### The entry of a fragment -/

/-- What a completing lane instruction leaves in its fragment's entry (R77). -/
def SplitEntry.next (e : SplitEntry) (latch : Bool) : SplitEntry :=
  { e with lpc := e.lpc + 3, fmask := if e.keeps then e.fmask else 0, unrun := false,
           chain := if e.chain = 0 then (if latch then 7 else 0) else e.counted, entryWait := none, itemWait := false }

theorem State.laneNext_eq (latch : Bool) : s.laneNext latch = s.setEntry (s.entry.next latch) := rfl

@[simp] theorem State.entry_laneNext (latch : Bool) : (s.laneNext latch).entry = s.entry.next latch := by
  rw [State.laneNext_eq, State.entry_setEntry]

theorem splitFrame_setEntry (s : State) (e : SplitEntry) : splitFrame s (s.setEntry e) := ⟨rfl, fun _ => rfl⟩

theorem splitFrame_trans (h : splitFrame s t) (g : splitFrame t u) : splitFrame s u := by
  obtain ⟨hstate, hmem⟩ := h
  obtain ⟨gstate, gmem⟩ := g
  refine ⟨?_, fun y => (gmem y).trans (hmem y)⟩
  rw [gstate, hstate]

/-! ### Lane trampolines (R141, R142) -/

/-- VTRAMP, once its table entry is loaded. -/
theorem exec_vtramp {a : LaneArgs} {b : List Byte} (hstate : s.entry.state ≠ .handler) (htlv : s.entry.tlv = false)
    (hload : s.loadNow (s.w.trampbase + BitVec.ofNat 64 (8 * (a.imm.extractLsb' 0 20).toNat)) 8 = .ok (b, t))
    (hok : ¬ (bits (ofBytes b) 63 56 ≠ 0 ∨ bits (ofBytes b) 1 0 ≠ 0)) (hbase : bits (ofBytes b) 55 34 = t.w.lbase.toNat) :
    exec (.vtramp a) s = .next ((t.laneNext false).setEntry { (t.laneNext false).entry with
      lpc := BitVec.ofNat 32 (ofBytes b % 2 ^ 34 / 4), tlink := s.entry.lpc, tlv := true }) := by
  change execVtramp a s = _
  simp only [execVtramp, if_neg hstate, htlv, hload, if_neg hok, hbase, Bool.false_eq_true, if_false, ne_eq, not_true_eq_false]

/-- VTRET of a fragment in a trampoline. -/
theorem exec_vtret {a : LaneArgs} (hstate : s.entry.state ≠ .handler) (htlv : s.entry.tlv = true) :
    exec (.vtret a) s = .next (s.returnTo s.entry.tlink.toNat (a.mods.getLsbD 0) (fun lpc =>
      (s.laneNext false).setEntry { (s.laneNext false).entry with lpc := lpc, tlv := false })) := by
  change execVtret a s = _
  simp only [execVtret, if_neg hstate, htlv, if_true]

/-- VTRET of a lane handler whose trap can be returned from. -/
theorem exec_vtret_handler {a : LaneArgs} (hstate : s.entry.state = .handler) (hnr : s.w.trapcause.getLsbD 33 = false)
    (halign : s.w.trappc.extractLsb' 0 2 = 0) :
    exec (.vtret a) s = .next (s.returnTo (((s.w.trappc.toNat : Int) - s.w.lbase.toNat * 2 ^ 34) / 4) (a.mods.getLsbD 0)
      (s.handlerReturn (a.mods.getLsbD 0))) := by
  change execVtret a s = _
  simp only [execVtret, hstate, hnr, halign, if_true, Bool.false_eq_true, if_false, ne_eq, not_true_eq_false]

theorem exec_vtret_misaligned {a : LaneArgs} (hstate : s.entry.state = .handler) (hnr : s.w.trapcause.getLsbD 33 = false)
    (halign : s.w.trappc.extractLsb' 0 2 ≠ 0) : exec (.vtret a) s = .next (s.trapL 0x07 0 0 s.entry.lmask false) := by
  change execVtret a s = _
  simp only [execVtret, hstate, hnr, if_true, Bool.false_eq_true, if_false, if_pos halign]

/-- A return inside the block's region. -/
theorem State.returnTo_inside {at_ p : Int} {skip : Bool} {k : BitVec 32 → State} (hp : p = at_ + if skip then 3 else 0)
    (h0 : 0 ≤ p) (h1 : p < 2 ^ 32) : s.returnTo at_ skip k = k (BitVec.ofInt 32 p) := by
  have htgt : (if skip then at_ + 3 else at_) = p := by rw [hp]; split <;> omega
  simp only [State.returnTo, htgt, inRegion, decide_eq_true h0, decide_eq_true h1, Bool.and_self, if_true]

theorem State.returnTo_outside {at_ p : Int} {skip : Bool} {k : BitVec 32 → State} (hp : p = at_ + if skip then 3 else 0)
    (hout : p < 0 ∨ 2 ^ 32 ≤ p) : s.returnTo at_ skip k = s.trapL 0x07 1 0 s.entry.lmask false := by
  have htgt : (if skip then at_ + 3 else at_) = p := by rw [hp]; split <;> omega
  have hno : inRegion p = false := by
    simp only [inRegion, Bool.and_eq_false_iff, decide_eq_false_iff_not]
    omega
  simp only [State.returnTo, htgt, hno, Bool.false_eq_true, if_false]

/-- The entry of a fragment whose handler has returned (R409). -/
def State.returnEntry (s : State) (skip : Bool) (h : Handler) (lpc : BitVec 32) : SplitEntry :=
  let fmask := if skip || !h.stop then 0 else s.w.trapmask.setWidth 32 &&& s.entry.lmask
  { s.entry with state := .live, lpc := lpc, fmask := fmask, keeps := false, unrun := fmask != 0 && !h.part,
                 chain := s.entry.counted, age := s.now, boost := false }

theorem State.handlerReturn_eq {skip : Bool} {lpc : BitVec 32} {h : Handler} (hlatch : s.w.haltlatch = false)
    (hh : s.w.handler = some h) : s.handlerReturn skip lpc = (s.setEntry (s.returnEntry skip h lpc)).handlerOver := by
  have hno : ((s.setEntry (s.returnEntry skip h lpc)).handlerOver).w.haltlatch = false := hlatch
  simp only [State.handlerReturn, hh, Option.any_some]
  rw [← State.returnEntry, State.resumed, if_neg (by rw [hno]; decide)]

theorem State.entry_handlerOver : s.handlerOver.entry = s.entry := rfl

theorem laneTrampolines_holds : laneTrampolines := by
  intro s s1 a b h e n skip past p
  refine ⟨?_, ?_, ?_, ?_, ?_, ?_⟩
  · intro hstate htlv hload hw hfrag h56 h4 hbase
    have hentry : s1.entry = s.entry := by rw [State.entry, State.entry, hw, hfrag]
    refine ⟨_, exec_vtramp hstate htlv hload (entry_ok h56 h4) (by rw [hw]; exact hbase), ?_⟩
    rw [State.entry_setEntry, State.entry_laneNext, hentry]
    exact ⟨rfl, rfl, rfl, rfl, splitFrame_trans (splitFrame_setEntry _ _) (splitFrame_setEntry _ _)⟩
  · intro hstate htlv hin
    rw [exec_vtret hstate htlv, State.returnTo_inside (p := e.tlink.toNat + past) rfl (by omega) hin]
    refine ⟨_, rfl, ?_⟩
    rw [State.entry_setEntry, State.entry_laneNext]
    exact ⟨rfl, rfl, rfl, splitFrame_trans (splitFrame_setEntry _ _) (splitFrame_setEntry _ _)⟩
  · intro hstate htlv hout
    rw [exec_vtret hstate htlv, State.returnTo_outside rfl (Or.inr hout)]
  · exact fun hstate hnr halign => exec_vtret_misaligned hstate hnr halign
  · intro hstate hnr halign hout
    rw [exec_vtret_handler hstate hnr halign, State.returnTo_outside rfl hout]
  · intro hstate hnr hlatch hh halign h0 h1
    rw [exec_vtret_handler hstate hnr halign, State.returnTo_inside rfl h0 h1, State.handlerReturn_eq hlatch hh]
    refine ⟨_, rfl, ?_⟩
    rw [State.entry_handlerOver, State.entry_setEntry]
    refine ⟨rfl, rfl, by rw [State.returnEntry], rfl, rfl, ?_, ?_⟩
    · simp only [State.returnEntry, Bool.or_eq_true, Bool.not_eq_true', skip, e]
    · exact splitFrame_setEntry s.handlerOver _

/-- Settles O18: the scalar part from the store of the link word (`State.storeNow_link`), the lane part from the return to a lane
address (`State.returnTo_inside`) and the entry that it leaves. -/
theorem trampolines : Obligations.Trampolines := ⟨scalarTrampolines_holds, laneTrampolines_holds⟩

end Sys2Proof.Machine

/-!
# What a lane instruction leaves

The start of a lane instruction whose operands are ready, and the writes that its result is made of: the words of a register with
its sidecar, the latches, the flags and the fragment's entry.
-/

namespace Sys2Proof.Machine

open Sys2Proof.Claims

variable {s t u : State} {a : LaneArgs} {act : Word32} {f g : Nat → Word32}

/-! ### The start of a lane instruction (R48, R78 to R81, R115, R273) -/

/-- An instruction whose operands are ready acts on its active lanes, and uses its lines. -/
theorem State.laneBegin_laneReady {v : LaneUse} (k : Word32 → State) (parts : Bool) (h : laneReady s v (s.active a.mask) = true) :
    s.laneBegin a v k parts = (k (s.active a.mask)).useLines s v (s.active a.mask) := by
  simp only [laneReady, Bool.and_eq_true, Bool.not_eq_true', List.isEmpty_iff] at h
  obtain ⟨⟨⟨⟨⟨hillegal, hpending⟩, hlatch⟩, hcollect⟩, hlost⟩, habsent⟩ := h
  simp only [State.laneBegin, State.fetchLines, hillegal, hpending, hlatch, hcollect, hlost, habsent, Bool.or_self,
    Bool.false_eq_true, if_false, List.find?_nil]

/-- An instruction that names no register, latch or slot has nothing to wait for. -/
theorem laneReady_nothing : laneReady s { srcs := [], runs := [], dsts := [] } act = true := by
  simp [laneReady, LaneUse.illegal, State.pendingV, State.latchPending, State.latchAwaited, State.collecting, State.latchLost,
    State.absent, LaneUse.lines]

theorem State.laneBegin_nothing (k : Word32 → State) :
    s.laneBegin a { srcs := [], runs := [], dsts := [] } k = k (s.active a.mask) := by
  rw [State.laneBegin_laneReady k false laneReady_nothing]
  simp [State.useLines, LaneUse.lines]

/-! ### The frame of a lane instruction -/

theorem laneFrame_trans (h : laneFrame s t) (g : laneFrame t u) : laneFrame s u := by
  obtain ⟨hstate, hmem, hreq⟩ := h
  obtain ⟨gstate, gmem, greq⟩ := g
  refine ⟨?_, fun y => (gmem y).trans (hmem y), fun h => greq (hreq h)⟩
  rw [gstate, hstate]

theorem laneFrame_setEntry (s : State) (e : SplitEntry) : laneFrame s (s.setEntry e) := ⟨rfl, fun _ => rfl, id⟩

theorem laneFrame_laneNext (s : State) (latch : Bool) : laneFrame s (s.laneNext latch) := laneFrame_setEntry s _

theorem laneFrame_setV (s : State) (n : Nat) (act : Word32) (f : Nat → Word32) : laneFrame s (s.setV n act f) :=
  ⟨rfl, fun _ => rfl, id⟩

theorem laneFrame_setX (s : State) (n : Nat) (x : BitVec 128) : laneFrame s (s.setX n x) := ⟨rfl, fun _ => rfl, id⟩

theorem laneFrame_refl (s : State) : laneFrame s s := ⟨rfl, fun _ => rfl, id⟩

/-! ### Latches (R76, R77) -/

/-- The latches of a lane move on and take its result; those of the others stay. -/
theorem get_shiftLatches (l : Sparse 32) (n : Nat) {L : Nat} (hL : L < 32) :
    Sparse.get (shiftLatches l act f) (n * 32 + L) =
      if act.getLsbD L = true ∧ n < 4 then (if n = 0 then f L else Sparse.get l ((n - 1) * 32 + L)) else Sparse.get l (n * 32 + L) := by
  unfold shiftLatches
  simp only [get_setLanes _ _ _ _ hL]
  by_cases hact : act.getLsbD L = true
  · simp only [hact, and_true, true_and]
    by_cases hn : n < 4
    · interval_cases n <;> simp
    · rw [if_neg hn, if_neg (by omega), if_neg (by omega), if_neg (by omega), if_neg (by omega)]
  · simp [hact]

theorem latchesAfter_of (h : t.w.l = shiftLatches s.w.l act f) : latchesAfter s t act f := by
  intro L hL
  simp only [Wave.rl, h, get_shiftLatches _ _ hL]
  split
  · next hact =>
    refine ⟨by simp [hact], fun n hn => ?_⟩
    rw [if_pos ⟨hact, by omega⟩, if_neg (by omega), Nat.add_sub_cancel]
  · next hact =>
    intro n _
    rw [if_neg fun h => hact h.1]

/-- The latches of a wave after a result enters them, and the entry whose valid bits it moves. -/
structure State.Latched (s t : State) (act : Word32) (f : Nat → Word32) : Prop where
  frame : laneFrame s t
  same : t = { s with requests := t.requests, w := { s.w with l := shiftLatches s.w.l act f, split := t.w.split } }
  entry : t.entry = { s.entry with latv := if s.entry.first = true then (s.entry.latv <<< 1) ||| 1 else s.entry.latv }
  others : ∀ k, k ≠ s.frag → Table.find t.w.split k = Table.find s.w.split k

theorem State.latchWords_eq (since : Nat) : ∃ l, (s.requests = [] → l = []) ∧
    s.latchWords since act f = { s with requests := l, w := { s.w with l := shiftLatches s.w.l act f } } := by
  unfold State.latchWords
  dsimp only [State.onW]
  split
  · exact ⟨s.requests, id, rfl⟩
  · exact ⟨_, fun h => by rw [h]; rfl, rfl⟩

theorem State.latchWrite_latched (s : State) (act : Word32) (f : Nat → Word32) : State.Latched s (s.latchWrite act f) act f := by
  obtain ⟨l, hnil, hwords⟩ := State.latchWords_eq (s := s) (act := act) (f := f) s.seq
  unfold State.latchWrite State.latchSince
  dsimp only
  rw [hwords]
  have hentry : ({ s with requests := l, w := { s.w with l := shiftLatches s.w.l act f } } : State).entry = s.entry := rfl
  rw [hentry]
  split
  · next hfirst =>
    refine ⟨⟨rfl, fun _ => rfl, hnil⟩, rfl, ?_, fun k hk => Table.find_put_other _ _ hk⟩
    rw [State.entry_setEntry, if_pos hfirst]
  · next hfirst =>
    refine ⟨⟨rfl, fun _ => rfl, hnil⟩, rfl, ?_, fun _ _ => rfl⟩
    rw [hentry, if_neg hfirst]

end Sys2Proof.Machine

/-! # What a lane result writes: sidecars, latches and registers -/

namespace Sys2Proof.Machine

open Sys2Proof.Claims

variable {s t u : State} {a : LaneArgs} {act : Word32} {f g : Nat → Word32}

/-! ### Sidecars (R6, R162) -/

theorem mkSide_toNat (code : Nat) (tag : BitVec 16) (scales : BitVec 64) :
    (mkSide code tag scales).toNat = code % 32 * 2 ^ 83 + tag.toNat * 2 ^ 64 + scales.toNat := by
  have htag := tag.isLt
  have hscales := scales.isLt
  rw [mkSide, BitVec.toNat_ofNat]
  apply Nat.mod_eq_of_lt
  omega

theorem sideCode_mkSide {code : Nat} (h : code < 32) (tag : BitVec 16) (scales : BitVec 64) :
    sideCode (mkSide code tag scales) = code := by
  have htag := tag.isLt
  have hscales := scales.isLt
  rw [sideCode, bits, mkSide_toNat]
  omega

theorem sideTag_mkSide (code : Nat) (tag : BitVec 16) (scales : BitVec 64) : sideTag (mkSide code tag scales) = tag := by
  have htag := tag.isLt
  have hscales := scales.isLt
  apply BitVec.eq_of_toNat_eq
  rw [sideTag, BitVec.extractLsb'_toNat, Nat.shiftRight_eq_div_pow, mkSide_toNat]
  omega

theorem sideScales_mkSide (code : Nat) (tag : BitVec 16) (scales : BitVec 64) :
    sideScales (mkSide code tag scales) = scales := by
  have htag := tag.isLt
  have hscales := scales.isLt
  apply BitVec.eq_of_toNat_eq
  rw [sideScales, BitVec.extractLsb'_toNat, Nat.shiftRight_eq_div_pow, mkSide_toNat]
  omega

theorem State.rx_setX (s : State) (n : Nat) (x : BitVec 128) (k : Nat) : (s.setX n x).w.rx k = if k = n then x else s.w.rx k :=
  Sparse.get_set _ _ _ _

/-- The sidecar that a result without scales leaves (R162). -/
def sideResult (old : BitVec 128) (act : Word32) (code : Nat) (tag : BitVec 16) : BitVec 128 :=
  if act = 0xFFFFFFFF then mkSide code tag 0 else mkSide code (sideTag old) (sideScales old)

theorem State.sideWrite_eq (s : State) (n : Nat) (act : Word32) (code : Nat) (tag : BitVec 16) :
    s.sideWrite n act code tag none = s.setX n (sideResult (s.w.rx n) act code tag) := by
  unfold State.sideWrite sideResult
  dsimp only
  split <;> rfl

/-! ### A result of one register (R42, R162, R193) -/

/-- The words of a result in its register with their sidecar, unless they are discarded or no lane is active. -/
def State.writeLane (s : State) (a : LaneArgs) (act : Word32) (code : Nat) (tag : BitVec 16) (f : Nat → Word32) : State :=
  if a.w || act = 0 then s else (s.setV a.vd.toNat act f).sideWrite a.vd.toNat act code tag none

theorem State.writeLane_discarded {code : Nat} {tag : BitVec 16} (h : a.w = true ∨ act = 0) : s.writeLane a act code tag f = s :=
  if_pos (by simpa using h)

theorem State.writeLane_kept {code : Nat} {tag : BitVec 16} (h : ¬ (a.w = true ∨ act = 0)) : s.writeLane a act code tag f
    = (s.setV a.vd.toNat act f).setX a.vd.toNat (sideResult (s.w.rx a.vd.toNat) act code tag) :=
  (if_neg (by simpa using h)).trans (State.sideWrite_eq _ _ _ _ _)

theorem laneFrame_writeLane (s : State) (a : LaneArgs) (act : Word32) (code : Nat) (tag : BitVec 16) (f : Nat → Word32) :
    laneFrame s (s.writeLane a act code tag f) := by
  by_cases h : a.w = true ∨ act = 0
  · rw [State.writeLane_discarded h]
    exact laneFrame_refl s
  · rw [State.writeLane_kept h]
    exact laneFrame_trans (laneFrame_setV _ _ _ _) (laneFrame_setX _ _ _)

/-- A result leaves the rest of the wave as it was. -/
theorem State.writeLane_same (s : State) (a : LaneArgs) (act : Word32) (code : Nat) (tag : BitVec 16) (f : Nat → Word32) :
    ∃ v p x, s.writeLane a act code tag f = { s with w := { s.w with v := v, pendV := p, x := x } } := by
  by_cases h : a.w = true ∨ act = 0
  · rw [State.writeLane_discarded h]
    exact ⟨_, _, _, rfl⟩
  · rw [State.writeLane_kept h]
    exact ⟨_, _, _, rfl⟩

theorem mainAfter_writeLane (s : State) (a : LaneArgs) (act : Word32) (code : Nat) (tag : BitVec 16) (f : Nat → Word32) :
    mainAfter s (s.writeLane a act code tag f) a act 1 (fun _ => f) := by
  intro n L hL
  by_cases h : a.w = true ∨ act = 0
  · rw [State.writeLane_discarded h, if_neg]
    rintro ⟨hw, -, -, hact⟩
    rcases h with h | h
    · simp [h] at hw
    · simp [h] at hact
  · rw [State.writeLane_kept h]
    refine (State.setV_rv s _ _ _ hL).trans (if_congr ?_ rfl rfl)
    have hw : a.w = false := by simpa using fun hw : a.w = true => h (Or.inl hw)
    simp only [hw, true_and]
    constructor
    · rintro ⟨rfl, hact⟩
      exact ⟨le_refl _, Nat.lt_succ_self _, hact⟩
    · rintro ⟨hle, hlt, hact⟩
      exact ⟨by omega, hact⟩

theorem sidesAfter_writeLane {code : Nat} (hcode : code < 32) (s : State) (a : LaneArgs) (act : Word32) (tag : BitVec 16)
    (f : Nat → Word32) : sidesAfter s (s.writeLane a act code tag f) a act 1 code tag none := by
  intro n
  by_cases h : a.w = true ∨ act = 0
  · rw [State.writeLane_discarded h, if_pos (h.imp_right Or.inl)]
  · rw [State.writeLane_kept h, State.rx_setX]
    by_cases hn : n = a.vd.toNat
    · rw [if_neg (fun hc => h (hc.imp_right fun hc => hc.resolve_right (by omega))), if_pos hn, ← hn, sideResult]
      split
      · exact ⟨sideCode_mkSide hcode _ _, sideTag_mkSide _ _ _, sideScales_mkSide _ _ _⟩
      · exact ⟨sideCode_mkSide hcode _ _, sideTag_mkSide _ _ _, sideScales_mkSide _ _ _⟩
    · rw [if_neg hn, if_pos (Or.inr (Or.inr (by omega)))]
      rfl

/-! ### Flags (R186) -/

theorem State.orFlags_eq (s : State) (q : Sticky) :
    s.orFlags q = { s with w := { s.w with sflags := s.w.sflags ||| q.setWidth 64 } } := by
  unfold State.orFlags
  split
  · next h => simp [h]
  · rfl

theorem laneFrame_orFlags (s : State) (q : Sticky) : laneFrame s (s.orFlags q) := by
  rw [State.orFlags_eq]
  exact ⟨rfl, fun _ => rfl, id⟩

end Sys2Proof.Machine

/-! # How a lane instruction ends -/

namespace Sys2Proof.Machine

open Sys2Proof.Claims

variable {s t u : State} {a : LaneArgs} {act : Word32} {f g : Nat → Word32} {latch : Bool}

/-! ### The next instruction (R77) -/

/-- A fragment whose entry moved on, with its latches' valid bits where the instruction writes one. -/
theorem fragmentNext_of (hentry : t.entry = SplitEntry.next { s.entry with
      latv := if latch = true ∧ s.entry.first = true then (s.entry.latv <<< 1) ||| 1 else s.entry.latv } latch)
    (hothers : ∀ k, k ≠ s.frag → Table.find t.w.split k = Table.find s.w.split k) : fragmentNext s t latch := by
  refine ⟨hentry.trans ?_, hothers⟩
  have hchain : s.entry.chain ≠ 0 → s.entry.counted = s.entry.chain - 1 := fun h => if_neg h
  unfold SplitEntry.next
  congr 1
  exact ite_congr rfl (fun _ => rfl) hchain

theorem fragmentNext_laneNext (s : State) : fragmentNext s (s.laneNext false) false :=
  fragmentNext_of (by rw [State.entry_laneNext]; rfl) fun _ hk => Table.find_put_other _ _ hk

theorem onlyNext_laneNext (s : State) : onlyNext s (s.laneNext false) :=
  ⟨fragmentNext_laneNext s, rfl, fun _ => rfl⟩

/-- What a result in the latches leaves, once its flags are joined and the fragment goes on (R76, R77, R186). -/
theorem State.Latched.next (h : State.Latched s t act f) (q : Sticky) : fragmentNext s ((t.orFlags q).laneNext true) true := by
  rw [State.orFlags_eq]
  refine fragmentNext_of ?_ fun k hk => ?_
  · rw [State.entry_laneNext]
    refine congrArg (SplitEntry.next · true) (h.entry.trans ?_)
    simp only [true_and]
  · refine (Table.find_put_other _ _ ?_).trans (h.others k hk)
    rw [h.same]
    exact hk

/-! ### Results of one register (R193) -/

/-- A result that R162 admits meets no sidecar that forbids it. -/
theorem mayWrite_sideOk {tag : BitVec 16} (h : mayWrite s a act 1 tag = true) :
    (!a.w && act != 0 && !s.sideOk a.vd.toNat act tag) = false := by
  simp only [mayWrite, List.range_one, List.all_cons, List.all_nil, Bool.and_true, Bool.or_eq_true, Nat.add_zero] at h
  rcases h with ((hw | h0) | hall) | hside
  · simp [hw]
  · simp [eq_of_beq h0]
  · simp [State.sideOk, eq_of_beq hall]
  · simp [State.sideOk, hside]

theorem laneResult_eq {code : Nat} {tag : BitVec 16} {q : Sticky} (hfirst : s.entry.first = true)
    (hmay : mayWrite s a act 1 tag = true) : s.laneResult a act code tag f q
      = (((s.writeLane a act code tag f).latchWrite act f).orFlags q).laneNext true := by
  simp only [State.laneResult, hfirst, mayWrite_sideOk hmay, State.writeLane, Bool.not_true, Bool.not_false, Bool.and_true,
    Bool.false_eq_true, if_false, Bool.or_eq_true, decide_eq_true_eq]

theorem mainAfter_congr {n : Nat} {p q : Nat → Nat → Word32} (h : mainAfter s t a act n p)
    (heq : ∀ r L, L < 32 → act.getLsbD L = true → p r L = q r L) : mainAfter s t a act n q := by
  intro r L hL
  rw [h r L hL]
  split
  · next hc => rw [heq _ _ hL hc.2.2.2]
  · rfl

theorem latchesAfter_congr (h : latchesAfter s t act f) (heq : ∀ L, L < 32 → act.getLsbD L = true → f L = g L) :
    latchesAfter s t act g := by
  intro L hL
  have hlane := h L hL
  split at hlane
  · next hact =>
    rw [if_pos hact, ← heq L hL hact]
    exact hlane
  · next hact =>
    rw [if_neg hact]
    exact hlane

/-- What a result of one register leaves (R76, R77, R162, R186, R193). -/
theorem laneResult_effect {code : Nat} {tag : BitVec 16} {q : Sticky} {res : Nat → Word32 × Sticky} (hfirst : s.entry.first = true)
    (hmay : mayWrite s a act 1 tag = true) (hcode : code < 32)
    (hword : ∀ L, L < 32 → act.getLsbD L = true → f L = (res L).1) (hflags : q = activeOr act (fun L => (res L).2)) :
    laneEffect s (s.laneResult a act code tag f q) a act tag code res := by
  rw [laneResult_eq hfirst hmay]
  have hmain := mainAfter_writeLane s a act code tag f
  have hside := sidesAfter_writeLane hcode s a act tag f
  have hframe := laneFrame_writeLane s a act code tag f
  obtain ⟨v, p, x, hw⟩ := State.writeLane_same s a act code tag f
  rw [hw] at hmain hside hframe ⊢
  generalize hv : ({ s with w := { s.w with v := v, pendV := p, x := x } } : State) = w at hmain hside hframe ⊢
  have hl := State.latchWrite_latched w act f
  have hnext := hl.next q
  generalize w.latchWrite act f = d at hl hnext ⊢
  have hlast : laneFrame d ((d.orFlags q).laneNext true) := laneFrame_trans (laneFrame_orFlags d q) (laneFrame_laneNext _ true)
  have hframe' := laneFrame_trans (laneFrame_trans hframe hl.frame) hlast
  rw [State.orFlags_eq, State.laneNext_eq] at hnext hframe' ⊢
  have hdv : d.w.v = v := by rw [hl.same, ← hv]
  have hdx : d.w.x = x := by rw [hl.same, ← hv]
  have hdl : d.w.l = shiftLatches s.w.l act f := by rw [hl.same, ← hv]
  have hdq : d.w.sflags = s.w.sflags := by rw [hl.same, ← hv]
  have hdg : d.w.gens = s.w.gens := by rw [hl.same, ← hv]
  rw [← hv] at hmain hside hnext
  refine ⟨mainAfter_congr (p := fun _ => f) (fun n L hL => ?_) fun _ => hword, latchesAfter_congr (latchesAfter_of hdl) hword, fun n => ?_,
    ?_, hnext, hdg, hframe'⟩
  · exact (congrArg (Sparse.get · (n * 32 + L)) hdv).trans (hmain n L hL)
  · have hx : ∀ e : SplitEntry, (({ d with w := { d.w with sflags := d.w.sflags ||| q.setWidth 64 } } : State).setEntry e).w.rx n
        = Sparse.get x n := fun _ => congrArg (Sparse.get · n) hdx
    rw [hx]
    exact hside n
  · exact hflags ▸ congrArg (· ||| q.setWidth 64) hdq

/-- With no lane active a result's tag does not matter. -/
theorem laneEffect_idle {code : Nat} {tag tag' : BitVec 16} {res : Nat → Word32 × Sticky} (h0 : act = 0)
    (h : laneEffect s t a act tag code res) : laneEffect s t a act tag' code res := by
  obtain ⟨hmain, hlatch, hside, hrest⟩ := h
  refine ⟨hmain, hlatch, fun n => ?_, hrest⟩
  have hn := hside n
  rw [if_pos (Or.inr (Or.inl h0))] at hn ⊢
  exact hn

/-- The flags of the lanes' results, joined over the active lanes. -/
theorem flagsOr_lanes (res : Nat → Word32 × Sticky) :
    flagsOr (((List.range 32).map (fun L => if act.getLsbD L then res L else (0, 0))).map (·.2))
      = activeOr act (fun L => (res L).2) := by
  unfold flagsOr activeOr
  rw [List.map_map, List.foldl_map]
  refine List.foldl_ext _ _ _ fun b L _ => ?_
  dsimp only [Function.comp]
  split
  · rfl
  · exact BitVec.or_zero

/-- An element-wise instruction gives its function's words in the active lanes (R193, R194). -/
theorem laneAlu_results {i : Instr} {srcs : List Src} {code : Nat} {rule : State → Option (BitVec 16)}
    {res : State → Nat → Word32 × Sticky} (hexec : exec i s = .next (s.laneAlu a srcs code rule res)) (hcode : code < 32) :
    laneResults s i a srcs (rule s) code (res s) := by
  unfold laneResults wideResults
  simp only [List.append_nil, List.filterMap_nil]
  intro tg hready htag hfirst hmay
  have hword : ∀ L, L < 32 → (s.active a.mask).getLsbD L = true →
      ((((List.range 32).map (fun L => if (s.active a.mask).getLsbD L then res s L else (0, 0)))[L]?).getD (0, 0)).1
        = (res s L).1 := by
    intro L hL hact
    simp [hL, hact]
  have hresult := fun (tag : BitVec 16) (hm : mayWrite s a (s.active a.mask) 1 tag = true) =>
    laneResult_effect hfirst hm hcode hword (flagsOr_lanes (res s))
  unfold completes
  rw [hexec, State.laneAlu, State.laneBegin_laneReady _ _ hready]
  by_cases h0 : s.active a.mask = 0
  · rw [if_pos h0]
    exact ⟨_, rfl, laneEffect_idle h0 (hresult 0 (by simp [mayWrite, h0]))⟩
  · rw [if_neg h0, htag]
    exact ⟨_, rfl, hresult tg hmay⟩

end Sys2Proof.Machine

/-!
# Mask instructions, moves and identities (O21)
-/

namespace Sys2Proof.Machine

open Sys2Proof.Claims

variable {s t u : State} {a : LaneArgs} {act : Word32}

/-! ### Masks (R143) -/

theorem maskAfter_setM (s : State) (n : Nat) (act x : Word32) : maskAfter s ((s.setM n act x).laneNext false) n act x :=
  ⟨Sparse.get_set_same _ _ _, fun _ hk => Sparse.get_set_other _ _ hk, fragmentNext_laneNext (s.setM n act x), rfl,
    memSame_trans (memSame_onW _) (memSame_setEntry _)⟩

/-- A mask instruction of two mask sources writes its mask in the active lanes. -/
theorem maskOp_sets (f : Word32 → Word32 → Word32) : ∃ t, maskOp a f s = .next t
    ∧ maskAfter s t (a.vd.toNat % 16) (s.active a.mask) (f (s.w.rm (maskNo a.sa)) (s.w.rm (maskNo a.sb))) :=
  ⟨_, congrArg Host.Outcome.next (State.laneBegin_nothing _), maskAfter_setM _ _ _ _⟩

theorem scalarFromLane_setS {d : BitVec 6} (hd : d ≠ 0) (x : Word64) : scalarFromLane s ((s.setS d x).laneNext false) d x := by
  have hset : s.setS d x = { s with w := { s.w with
      sreg := Sparse.set s.w.sreg d.toNat x, pendS := Sparse.set s.w.pendS d.toNat 0 } } := if_neg hd
  refine ⟨⟨State.setS_rs_same s d x, fun r hr => State.setS_rs_other s x hr⟩, ?_, ?_, ?_⟩
  · have hnext := fragmentNext_laneNext (s.setS d x)
    rw [hset] at hnext ⊢
    exact hnext
  · rw [hset]
    rfl
  · rw [hset]
    exact fun _ => rfl

/-- The register of the scalar window that MCNT writes is not s0. -/
theorem mcnt_register (n : Nat) : BitVec.ofNat 6 (48 + n % 8) ≠ 0 := by
  intro h
  have hnat : (48 + n % 8) % 2 ^ 6 = 0 := congrArg BitVec.toNat h
  omega

theorem exec_mcnt (s : State) (a : LaneArgs) : exec (.mcnt a) s = .next ((if s.active a.mask = 0 then s
    else s.setS (BitVec.ofNat 6 (48 + a.vd.toNat % 8)) (BitVec.ofNat 64 (lanesOf (s.w.rm (maskNo a.sa) &&& s.active a.mask)).length)).laneNext
      false) :=
  congrArg Host.Outcome.next (State.laneBegin_nothing _)

theorem maskInstructions_holds : maskInstructions := by
  intro s a act d x y sets
  refine ⟨⟨?_, ?_, ?_, ?_, ?_, ?_⟩, ?_, ?_, ?_⟩
  · exact maskOp_sets (fun x y => x &&& y)
  · exact maskOp_sets (fun x y => x ||| y)
  · exact maskOp_sets (fun x y => x ^^^ y)
  · exact maskOp_sets (fun x y => x &&& ~~~y)
  · exact maskOp_sets (fun x _ => ~~~x)
  · exact maskOp_sets (fun x _ => x)
  · refine ⟨_, exec_mcnt s a, fun h0 => ?_, fun h0 => ?_⟩
    · rw [if_pos h0]
      exact onlyNext_laneNext s
    · rw [if_neg h0]
      exact scalarFromLane_setS (mcnt_register _) _
  · intro v hready
    refine ⟨_, maskOf (fun L => s.src a.ty.toNat a.imm a.sa L != 0),
      congrArg Host.Outcome.next (State.laneBegin_laneReady _ false hready), maskAfter_setM _ _ _ _,
      fun L hL => getLsbD_maskOf _ hL⟩
  · exact ⟨_, rfl, onlyNext_laneNext s⟩

/-! ### Identities (R103) -/

/-- The identities by their number. -/
theorem laneIdentity_eq (w : Wave) (k L : Nat) : laneIdentity w k L = if k = 0 then L else if k = 1 then L / 4 else if k = 2 then L % 4
    else if k = 3 then w.widx else if k = 4 then w.widx * 32 + L else w.core.toNat := by
  match k with
  | 0 | 1 | 2 | 3 | 4 => rfl
  | n + 5 => simp [laneIdentity]

/-! ### Moves (R102) -/

/-- The flags of words without flags. -/
theorem activeOr_plain : activeOr act (fun _ => 0) = 0 := by
  refine List.foldl_fixed' (fun L => ?_) _
  split
  · exact BitVec.or_zero
  · rfl

/-- The sidecar that a whole move takes from its source. -/
def State.sideOf (s : State) : Src → BitVec 128
  | .reg n => s.w.rx n.toNat
  | _ => 0

theorem exec_vmov_whole (hwhole : a.mods.getLsbD 0 = true) (hslot : a.mods.getLsbD 1 = false) : exec (.vmov a) s
    = .next (s.laneBegin a { srcs := [a.sa], runs := [], dsts := [a.vd.toNat] } (fun act =>
        ((if act = 0 then s else (s.setV a.vd.toNat act (srcA s a)).setX a.vd.toNat (s.sideOf a.sa)).latchWrite act
          (srcA s a)).laneNext true)) := by
  change execVmov a s = _
  rw [execVmov, if_neg (ne_true_of_eq_false hslot), if_pos hwhole]
  rfl

theorem exec_vmov_slot (hslot : a.mods.getLsbD 1 = true) : exec (.vmov a) s
    = .next (s.laneBegin a { srcs := [a.sa], runs := [], dsts := [], slots := [a.vd.toNat % 16] } (fun act =>
        if act ≠ 0 && s.tagged [a.sa] then s.trapL 0x08 0 0 act false
        else ((s.onW (fun w => { w with o := setLanes w.o (a.vd.toNat % 16) act (srcA s a) })).latchWrite act
          (srcA s a)).laneNext true)) := by
  change execVmov a s = _
  rw [execVmov, if_pos hslot]
  rfl

theorem State.Latched.next_plain {f : Nat → Word32} (h : State.Latched s t act f) : fragmentNext s (t.laneNext true) true := by
  have hnext := h.next 0
  rwa [State.orFlags, if_pos rfl] at hnext

/-- The entry moves on from a state with the same split table. -/
theorem fragmentNext_base {latch : Bool} (h : fragmentNext u t latch) (hfrag : u.frag = s.frag)
    (hsplit : u.w.split = s.w.split) : fragmentNext s t latch := by
  have hentry : u.entry = s.entry := by rw [State.entry, State.entry, hfrag, hsplit]
  simp only [fragmentNext, hentry, hfrag, hsplit] at h ⊢
  exact h

/-- What a whole move leaves (R102). -/
theorem moved_whole {f : Nat → Word32} (side : BitVec 128) :
    let t := (((s.setV a.vd.toNat act f).setX a.vd.toNat side).latchWrite act f).laneNext true
    mainAfter s t { a with w := false } act 1 (fun _ => f) ∧ latchesAfter s t act f ∧ fragmentNext s t true
      ∧ t.w.rx a.vd.toNat = side ∧ (∀ r, r ≠ a.vd.toNat → t.w.rx r = s.w.rx r) ∧ t.w.sflags = s.w.sflags ∧ laneFrame s t := by
  have hl := State.latchWrite_latched ((s.setV a.vd.toNat act f).setX a.vd.toNat side) act f
  generalize ((s.setV a.vd.toNat act f).setX a.vd.toNat side).latchWrite act f = d at hl ⊢
  have hv : (d.laneNext true).w.v = setLanes s.w.v a.vd.toNat act f := by rw [State.laneNext_eq, State.setEntry_w_v, hl.same]; rfl
  have hx : (d.laneNext true).w.x = Sparse.set s.w.x a.vd.toNat side := by rw [State.laneNext_eq, State.setEntry_w_x, hl.same]; rfl
  have hlatch : (d.laneNext true).w.l = shiftLatches s.w.l act f := by rw [State.laneNext_eq, State.setEntry_w_l, hl.same]; rfl
  have hq : (d.laneNext true).w.sflags = s.w.sflags := by rw [State.laneNext_eq, State.setEntry_w_sflags, hl.same]; rfl
  refine ⟨fun n L hL => ?_, latchesAfter_of hlatch, fragmentNext_base hl.next_plain rfl rfl, ?_, fun r hr => ?_, hq, ?_⟩
  · refine ((congrArg (Sparse.get · (n * 32 + L)) hv).trans (get_setLanes _ _ _ _ hL)).trans (if_congr ?_ rfl rfl)
    simp only [true_and]
    constructor
    · rintro ⟨rfl, hact⟩
      exact ⟨le_refl _, Nat.lt_succ_self _, hact⟩
    · rintro ⟨hle, hlt, hact⟩
      exact ⟨by omega, hact⟩
  · exact (congrArg (Sparse.get · a.vd.toNat) hx).trans (Sparse.get_set_same _ _ _)
  · exact (congrArg (Sparse.get · r) hx).trans (Sparse.get_set_other _ _ hr)
  · exact laneFrame_trans (laneFrame_trans (laneFrame_trans (laneFrame_setV _ _ _ _) (laneFrame_setX _ _ _)) hl.frame)
      (laneFrame_laneNext _ _)

/-- What a move to an operand slot leaves (R102). -/
theorem moved_slot {f : Nat → Word32} (n : Nat) :
    let t := ((s.onW (fun w => { w with o := setLanes w.o n act f })).latchWrite act f).laneNext true
    (∀ r L, L < 32 → t.w.ro r L = if r = n ∧ act.getLsbD L = true then f L else s.w.ro r L)
      ∧ latchesAfter s t act f ∧ fragmentNext s t true ∧ t.w.v = s.w.v ∧ t.w.x = s.w.x
      ∧ laneFrame { s with w := { s.w with o := t.w.o } } t := by
  have hl := State.latchWrite_latched (s.onW (fun w => { w with o := setLanes w.o n act f })) act f
  generalize (s.onW (fun w => { w with o := setLanes w.o n act f })).latchWrite act f = d at hl ⊢
  have ho : (d.laneNext true).w.o = setLanes s.w.o n act f := by rw [State.laneNext_eq, State.setEntry_w_o, hl.same]; rfl
  have hv : (d.laneNext true).w.v = s.w.v := by rw [State.laneNext_eq, State.setEntry_w_v, hl.same]; rfl
  have hx : (d.laneNext true).w.x = s.w.x := by rw [State.laneNext_eq, State.setEntry_w_x, hl.same]; rfl
  have hlatch : (d.laneNext true).w.l = shiftLatches s.w.l act f := by rw [State.laneNext_eq, State.setEntry_w_l, hl.same]; rfl
  refine ⟨fun r L hL => ?_, latchesAfter_of hlatch, fragmentNext_base hl.next_plain rfl rfl, hv, hx, ?_⟩
  · exact (congrArg (Sparse.get · (r * 32 + L)) ho).trans (get_setLanes _ _ _ _ hL)
  · have hframe := laneFrame_trans hl.frame (laneFrame_laneNext d true)
    rw [ho]
    exact hframe

/-- A special register read for a lane, with what reading the package time counter leaves (R395, R437). -/
theorem State.markPtc_eq {n : Nat} {v : Word64} (hv : s.readSr n = some v) :
    s.markPtc n = { s with w := { s.w with lastPtc := if n = 0 then v else s.w.lastPtc } } := by
  unfold State.markPtc
  split
  · next h0 =>
    subst h0
    have hptc : s.ptcRead = v := Option.some.inj hv
    rw [hptc]
    rfl
  · rfl

theorem exec_vrdsr {v : Word64} (hv : s.readSr (a.imm.extractLsb' 0 12).toNat = some v)
    (hready : laneReady s (useOf a []) (s.active a.mask) = true) :
    completes s (.vrdsr a) (useOf a []) (s.active a.mask) ((s.markPtc (a.imm.extractLsb' 0 12).toNat).laneResult a (s.active a.mask)
      1 0 (fun _ => if a.mods.getLsbD 0 then v.extractLsb' 32 32 else v.extractLsb' 0 32) 0) := by
  change execVrdsr a s = _
  simp only [execVrdsr, hv]
  exact congrArg Host.Outcome.next (State.laneBegin_laneReady _ false hready)

theorem movesAndIdentities_holds : movesAndIdentities := by
  intro s a act x k n who
  refine ⟨?_, ?_, ?_, ?_, ?_⟩
  · intro hpart hslot
    refine laneAlu_results (rule := noTag [a.sa]) (res := fun s L => (srcA s a L, 0)) ?_ (by omega)
    change execVmov a s = _
    rw [execVmov, if_neg (ne_true_of_eq_false hslot), if_neg (ne_true_of_eq_false hpart)]
    rfl
  · intro hwhole hslot h0 hfirst u hready
    refine ⟨_, (exec_vmov_whole hwhole hslot).trans (congrArg Host.Outcome.next (State.laneBegin_laneReady _ false hready)), ?_⟩
    rw [if_neg (show ¬ s.active a.mask = 0 from h0)]
    exact moved_whole (s.sideOf a.sa)
  · intro hslot htag hfirst u hready
    refine ⟨_, (exec_vmov_slot hslot).trans (congrArg Host.Outcome.next (State.laneBegin_laneReady _ false hready)), ?_⟩
    rw [if_neg (by simp [htag])]
    exact moved_slot _
  · have hres : (fun L => plain (BitVec.ofNat 32 (who L) + a.imm))
        = fun L => (BitVec.ofNat 32 (laneIdentity s.w (a.mods.toNat % 8) L) + a.imm, 0) := by
      funext L
      rw [laneIdentity_eq]
      rfl
    rw [hres]
    exact laneAlu_results (rule := noTag [])
      (res := fun s L => (BitVec.ofNat 32 (laneIdentity s.w (a.mods.toNat % 8) L) + a.imm, 0)) rfl (by omega)
  · intro v hv hfirst hmay hready
    refine ⟨_, exec_vrdsr hv hready, ?_⟩
    rw [State.markPtc_eq hv]
    exact laneResult_effect hfirst hmay (by decide) (fun _ _ _ => rfl) activeOr_plain.symm

/-- Settles O21: the mask instructions name no line (`State.laneBegin_nothing`), VMOV, VLID and VRDSR leave what a lane result
leaves (`laneResult_effect`, `laneAlu_results`) or, to a slot and with the whole sidecar, what the latches leave
(`State.latchWrite_latched`). -/
theorem maskMoveAndIdentity : Obligations.MaskMoveAndIdentity := ⟨maskInstructions_holds, movesAndIdentities_holds⟩

end Sys2Proof.Machine

/-!
# Lane branches, calls and returns (O23)

A branch moves its fragment, or splits it over two free entries.  `State.Before s b` says what a call may have written before: the
fragment's entry is as it was but for the latches' valid bits, and every other entry stays.
-/

namespace Sys2Proof.Machine

open Sys2Proof.Claims

variable {s t u b : State} {a : LaneArgs} {act m : Word32} {imm : BitVec 32} {call : Bool}

/-! ### The split entries that a core holds (R117) -/

theorem State.useEntry_room {e : Nat} (h : s.w.splitCache.length < 16) :
    s.useEntry e = s.onW (fun w => { w with splitCache := e :: s.w.splitCache.filter (fun y => y != e) }) := by
  have hle := List.length_filter_le (fun y => y != e) s.w.splitCache
  rw [State.useEntry, if_pos (by omega)]

/-- Entries that are used while there is room for them only enter the list of those that the core holds. -/
theorem State.useEntries_room (l : List Nat) (s : State) (h : s.w.splitCache.length + l.length ≤ 16) :
    ∃ c, l.foldl State.useEntry s = s.onW (fun w => { w with splitCache := c }) := by
  induction l generalizing s with
  | nil => exact ⟨s.w.splitCache, rfl⟩
  | cons e l ih =>
    rw [List.length_cons] at h
    have hle := List.length_filter_le (fun y => y != e) s.w.splitCache
    rw [List.foldl_cons, State.useEntry_room (by omega)]
    obtain ⟨c, hc⟩ := ih (s.onW (fun w => { w with splitCache := e :: s.w.splitCache.filter (fun y => y != e) })) (by
      simp only [State.onW_w, List.length_cons]
      omega)
    exact ⟨c, hc⟩

/-- The entries that differ, but for the fragment's own. -/
theorem Wave.mem_changed {w v : Wave} {f i : Nat} : i ∈ (w.entriesChanged v).filter (fun i => i != f) ↔
    i < 32 ∧ Table.find w.split i ≠ Table.find v.split i ∧ i ≠ f := by
  simp only [Wave.entriesChanged, List.mem_filter, List.mem_range, bne_iff_ne, and_assoc]

/-- Changed entries that were free need no fetch. -/
theorem State.withEntries_free {l : List Nat} (hl : ∀ i, i ≠ s.frag → Table.find s.w.split i ≠ Table.find t.w.split i → i ∈ l)
    (hfree : ∀ i ∈ l, Table.find s.w.split i = none) (hroom : t.w.splitCache.length + l.length ≤ 16) :
    ∃ c, s.withEntries t = t.onW (fun w => { w with splitCache := c }) := by
  have hnodup : ((s.w.entriesChanged t.w).filter (fun i => i != s.frag)).Nodup := (List.nodup_range.filter _).filter _
  have hsub : ∀ i ∈ (s.w.entriesChanged t.w).filter (fun i => i != s.frag), i ∈ l := by
    intro i hi
    obtain ⟨-, hne, hf⟩ := Wave.mem_changed.mp hi
    exact hl i hf hne
  have hlen := (hnodup.subperm hsub).length_le
  have hnone : ((s.w.entriesChanged t.w).filter (fun i => i != s.frag)).find?
      (fun i => (Table.find s.w.split i).isSome && !s.w.splitCache.contains i) = none := by
    rw [List.find?_eq_none]
    intro i hi
    simp [hfree i (hsub i hi)]
  unfold State.withEntries
  dsimp only
  rw [hnone]
  exact State.useEntries_room _ t (by omega)

/-- The two lowest free entries are free and differ. -/
theorem freePair_spec {m : Table SplitEntry} {k l : Nat} (h : freePair m = some (k, l)) :
    k ≠ l ∧ Table.find m k = none ∧ Table.find m l = none := by
  have hnodup : ((List.range 32).filter (fun i => (Table.find m i).isNone)).Nodup := List.nodup_range.filter _
  have hfree : ∀ i ∈ (List.range 32).filter (fun i => (Table.find m i).isNone), Table.find m i = none := by
    intro i hi
    simpa using (List.mem_filter.mp hi).2
  unfold freePair at h
  split at h
  · next x y r hr =>
    obtain ⟨rfl, rfl⟩ : x = k ∧ y = l := by simpa using h
    rw [hr] at hnodup hfree
    refine ⟨?_, hfree _ (by simp), hfree _ (by simp)⟩
    rintro rfl
    simp at hnodup
  · cases h

/-! ### Branches (R118, R119, R136) -/

/-- What may have been written before a branch moves: the latches' valid bits in the fragment's entry, and no other entry. -/
structure State.Before (s b : State) : Prop where
  frag : b.frag = s.frag
  entry : ∃ v, b.entry = { s.entry with latv := v }
  others : ∀ k, k ≠ s.frag → Table.find b.w.split k = Table.find s.w.split k
  cache : b.w.splitCache = s.w.splitCache

theorem State.Before.refl (s : State) : State.Before s s := ⟨rfl, ⟨s.entry.latv, rfl⟩, fun _ _ => rfl, rfl⟩

theorem State.Latched.before {f : Nat → Word32} (h : State.Latched s t act f) : State.Before s t :=
  ⟨by rw [h.same], ⟨_, h.entry⟩, h.others, by rw [h.same]⟩

/-- The entry of a fragment that goes to a branch's target. -/
def State.takenEntry (s b : State) (imm : BitVec 32) (call : Bool) : SplitEntry :=
  { b.entry.next call with
    lpc := BitVec.ofInt 32 (branchTarget s.entry.lpc imm)
    backward := (b.entry.next call).backward || (!call && (imm.extractLsb' 0 16).msb)
    clink := if call then s.entry.lpc + 3 else (b.entry.next call).clink
    clv := call || (b.entry.next call).clv }

theorem State.laneBranch_none (wr : State → State) : s.laneBranch imm 0 call wr = (wr s).laneNext call := rfl

theorem State.laneBranch_all (wr : State → State) (h0 : m ≠ 0) (hall : s.entry.lmask &&& ~~~m = 0)
    (hin : inRegion (branchTarget s.entry.lpc imm) = true) :
    s.laneBranch imm m call wr = ((wr s).laneNext call).setEntry (s.takenEntry (wr s) imm call) := by
  have hin' : inRegion (laneOffset s.entry.lpc (imm.extractLsb' 0 16)) = true := hin
  simp only [State.laneBranch, if_neg h0, if_pos hall, hin', Bool.not_true, Bool.false_eq_true, if_false, State.entry_laneNext]
  rfl

theorem State.laneBranch_some (wr : State → State) {k l : Nat} (h0 : m ≠ 0) (hall : s.entry.lmask &&& ~~~m ≠ 0)
    (hstate : s.entry.state ≠ .handler) (hin : inRegion (branchTarget s.entry.lpc imm) = true)
    (hregang : ((branchRegang s.entry.lpc imm).map inRegion).getD true = true) (hfree : freePair s.w.split = some (k, l)) :
    s.laneBranch imm m call wr = s.withEntries ((wr s).splitTo m (branchTarget s.entry.lpc imm) (branchRegang s.entry.lpc imm) call
      (!call && (imm.extractLsb' 0 16).msb) k l) := by
  have hin' : inRegion (laneOffset s.entry.lpc (imm.extractLsb' 0 16)) = true := hin
  have hregang' : ((regangOf s.entry.lpc imm).map inRegion).getD true = true := hregang
  simp only [State.laneBranch, if_neg h0, if_neg hall, if_neg hstate, hin', hregang', hfree, Bool.not_true, Bool.or_self,
    Bool.false_eq_true, if_false]
  rfl

/-- The link that a part of a branch holds. -/
def linkedAs (e x : SplitEntry) (call : Bool) : Prop :=
  if call then x.clink = e.lpc + 3 ∧ x.clv = true else x.clink = e.clink ∧ x.clv = e.clv

theorem linkedAs_of {e x : SplitEntry} (hlink : x.clink = if call then e.lpc + 3 else e.clink) (hvalid : x.clv = (call || e.clv)) :
    linkedAs e x call := by
  unfold linkedAs
  cases call
  · exact ⟨hlink, hvalid⟩
  · exact ⟨hlink, hvalid⟩

/-- What a divergent branch leaves of its fragment: a waiting parent and two live parts (R119). -/
structure Parts (e : SplitEntry) (f : Nat) (m : Word32) (tgt : Int) (rg : Option Int) (call : Bool) (p x y : SplitEntry) : Prop where
  parent : p.state = .waiting ∧ p.lmask = 0 ∧ p.npart = 2 ∧ p.lpc = (rg.map (fun r => BitVec.ofInt 32 r + 3)).getD 0xFFFFFFFF
  taken : x.state = .live ∧ x.lmask = m ∧ x.lpc = BitVec.ofInt 32 tgt ∧ x.parent = BitVec.ofNat 5 f ∧ linkedAs e x call
  other : y.state = .live ∧ y.lmask = e.lmask &&& ~~~m ∧ y.lpc = e.lpc + 3 ∧ y.parent = BitVec.ofNat 5 f
  regang : x.rga = (rg.map (BitVec.ofInt 32)).getD 0xFFFFFFFF ∧ y.rga = x.rga

/-- A divergent branch writes its fragment's entry and two others. -/
theorem State.splitTo_spec (hb : State.Before s b) (tgt : Int) (rg : Option Int) (back : Bool) (k l : Nat) :
    ∃ p x y, b.splitTo m tgt rg call back k l
        = { b with w := { b.w with split := Table.put (Table.put (Table.put (b.laneNext call).w.split s.frag p) k x) l y } }
      ∧ Parts s.entry s.frag m tgt rg call p x y := by
  obtain ⟨v, hentry⟩ := hb.entry
  have hnext : (b.laneNext call).entry = SplitEntry.next { s.entry with latv := v } call := by rw [State.entry_laneNext, hentry]
  have hlpc : b.entry.lpc = s.entry.lpc := by rw [hentry]
  have hfrag : (b.laneNext call).frag = s.frag := hb.frag
  unfold State.splitTo
  simp only [hnext, hlpc, hfrag]
  refine ⟨_, _, _, rfl, ⟨rfl, rfl, rfl, ?_⟩, ⟨rfl, rfl, rfl, rfl, linkedAs_of rfl rfl⟩, ⟨rfl, rfl, rfl, rfl⟩, ?_, rfl⟩
  · cases rg <;> rfl
  · cases rg <;> rfl

theorem branched_none (hb : State.Before s b) : branched s (b.laneNext call) imm 0 call := by
  obtain ⟨v, hentry⟩ := hb.entry
  refine ⟨fun _ => ?_, fun h => absurd rfl h, fun h => absurd rfl h⟩
  rw [State.entry_laneNext, hentry]
  exact ⟨rfl, rfl, fun k hk => (Table.find_put_other _ _ (hb.frag ▸ hk)).trans (hb.others k hk)⟩

theorem branched_all (hb : State.Before s b) (h0 : m ≠ 0) (hall : s.entry.lmask &&& ~~~m = 0) :
    branched s ((b.laneNext call).setEntry (s.takenEntry b imm call)) imm m call := by
  obtain ⟨v, hentry⟩ := hb.entry
  refine ⟨fun h => absurd h h0, fun _ _ => ?_, fun _ h => absurd hall h⟩
  rw [State.entry_setEntry, State.takenEntry, hentry]
  refine ⟨rfl, rfl, linkedAs_of rfl rfl, fun k hk => ?_⟩
  have hk' : k ≠ b.frag := hb.frag ▸ hk
  exact ((Table.find_put_other _ _ hk').trans (Table.find_put_other _ _ hk')).trans (hb.others k hk)

/-- The entries that a divergent branch leaves. -/
theorem find_splitTo {p x y : SplitEntry} {k l : Nat} (hb : State.Before s b) (hkl : k ≠ l) (hk : k ≠ s.frag) (hl : l ≠ s.frag) :
    let w := Table.put (Table.put (Table.put (b.laneNext call).w.split s.frag p) k x) l y
    Table.find w s.frag = some p ∧ Table.find w k = some x ∧ Table.find w l = some y
      ∧ ∀ f, f ≠ s.frag → f ≠ k → f ≠ l → Table.find w f = Table.find s.w.split f := by
  refine ⟨?_, ?_, Table.find_put_same _ _ _, fun f hf hfk hfl => ?_⟩
  · rw [Table.find_put_other _ _ hl.symm, Table.find_put_other _ _ hk.symm, Table.find_put_same]
  · rw [Table.find_put_other _ _ hkl, Table.find_put_same]
  · rw [Table.find_put_other _ _ hfl, Table.find_put_other _ _ hfk, Table.find_put_other _ _ hf]
    exact (Table.find_put_other _ _ (hb.frag ▸ hf)).trans (hb.others f hf)

theorem entryFrame_cache (s : State) (m : Table SplitEntry) (c : List Nat) :
    entryFrame s { s with w := { s.w with split := m, splitCache := c } } := ⟨rfl, fun _ => rfl⟩

theorem branched_some {k l : Nat} {back : Bool} (hb : State.Before s b) (h0 : m ≠ 0) (hall : s.entry.lmask &&& ~~~m ≠ 0)
    (hhas : hasEntry s = true) (hfree : freePair s.w.split = some (k, l)) (hroom : s.w.splitCache.length ≤ 14) :
    ∃ t, s.withEntries (b.splitTo m (branchTarget s.entry.lpc imm) (branchRegang s.entry.lpc imm) call back k l) = t
      ∧ branched s t imm m call ∧ entryFrame b t := by
  obtain ⟨hkl, hk, hl⟩ := freePair_spec hfree
  have hne : ∀ i, Table.find s.w.split i = none → i ≠ s.frag := by
    rintro i hi rfl
    simp [hasEntry, hi] at hhas
  obtain ⟨p, x, y, hsplit, hparts⟩ := State.splitTo_spec (m := m) (call := call) hb (branchTarget s.entry.lpc imm)
    (branchRegang s.entry.lpc imm) back k l
  have hfind := find_splitTo (p := p) (x := x) (y := y) (call := call) hb hkl (hne k hk) (hne l hl)
  rw [hsplit]
  generalize Table.put (Table.put (Table.put (b.laneNext call).w.split s.frag p) k x) l y = w at hfind ⊢
  obtain ⟨hfp, hfx, hfy, hfo⟩ := hfind
  obtain ⟨c, hc⟩ := State.withEntries_free (s := s) (t := { b with w := { b.w with split := w } }) (l := [k, l])
    (fun i hi hd => by
      by_contra hno
      simp only [List.mem_cons, List.not_mem_nil, or_false, not_or] at hno
      exact hd (hfo i hi hno.1 hno.2).symm)
    (by simp [hk, hl])
    (by
      have hcache := congrArg List.length hb.cache
      simp only [List.length_cons, List.length_nil]
      omega)
  rw [hc]
  refine ⟨_, rfl, ⟨fun h => absurd h h0, fun _ h => absurd h hall, fun _ _ => ⟨k, l, p, x, y, hfree, hfp, hfx, hfy, ?_⟩⟩,
    entryFrame_cache b w c⟩
  obtain ⟨⟨hp1, hp2, hp3, hp4⟩, ⟨hx1, hx2, hx3, hx4, hx5⟩, ⟨hy1, hy2, hy3, hy4⟩, hr, hr'⟩ := hparts
  exact ⟨hp1, hp2, hp3, hp4, hx1, hx2, hx3, hx4, hx5, hy1, hy2, hy3, hy4, hr, hr', hfo⟩

/-- A lane branch that may be made moves or splits its fragment. -/
theorem laneBranch_spec (wr : State → State) (hb : State.Before s (wr s)) (hready : branchReady s imm m = true) :
    ∃ t, s.laneBranch imm m call wr = t ∧ branched s t imm m call ∧ entryFrame (wr s) t
      ∧ (m = 0 ∨ s.entry.lmask &&& ~~~m = 0 → t.w.splitCache = s.w.splitCache) := by
  simp only [branchReady, Bool.and_eq_true, Bool.or_eq_true, beq_iff_eq, bne_iff_ne, decide_eq_true_eq] at hready
  obtain ⟨hhas, hready⟩ := hready
  by_cases h0 : m = 0
  · subst h0
    exact ⟨_, State.laneBranch_none wr, branched_none hb, ⟨rfl, fun _ => rfl⟩, fun _ => hb.cache⟩
  · obtain ⟨hin, hready⟩ := hready.resolve_left h0
    by_cases hall : s.entry.lmask &&& ~~~m = 0
    · exact ⟨_, State.laneBranch_all wr h0 hall hin, branched_all hb h0 hall, ⟨rfl, fun _ => rfl⟩, fun _ => hb.cache⟩
    · obtain ⟨⟨⟨hstate, hregang⟩, hfree⟩, hroom⟩ := hready.resolve_left hall
      obtain ⟨⟨k, l⟩, hfree⟩ := Option.isSome_iff_exists.mp hfree
      obtain ⟨t, ht, hbranched, hframe⟩ := branched_some (back := !call && (imm.extractLsb' 0 16).msb) hb h0 hall hhas hfree hroom
      exact ⟨t, (State.laneBranch_some wr h0 hall hstate hin hregang hfree).trans ht, hbranched, hframe,
        fun h => absurd (h.resolve_left h0) hall⟩

end Sys2Proof.Machine

/-! # VBR, VBRC, VCALL and VRET (O23) -/

namespace Sys2Proof.Machine

open Sys2Proof.Claims

variable {s t u b : State} {a : LaneArgs} {act m : Word32} {imm : BitVec 32} {call : Bool}

/-! ### VBR, VBRC, VCALL and VRET (R137 to R139) -/

/-- The lanes that take VBRC. -/
theorem vbrc_lanes (s : State) (a : LaneArgs) (act : Word32) :
    maskOf (fun L => act.getLsbD L && ((s.src a.ty.toNat a.imm a.sa L == 0) == a.mods.getLsbD 0))
      = (List.range 32).foldl (fun b L =>
          if act.getLsbD L = true ∧ ((s.src a.ty.toNat a.imm a.sa L = 0) ↔ a.mods.getLsbD 0 = true) then b ||| (1#32 <<< L) else b) 0 := by
  refine List.foldl_ext _ _ _ fun b L _ => if_congr ?_ rfl rfl
  rw [Bool.and_eq_true]
  refine and_congr_right fun _ => ?_
  rw [beq_iff_eq, Bool.eq_iff_iff, beq_iff_eq]

/-- What a call writes before it moves: the address behind it, in its register and in the latches. -/
def State.callWrite (s : State) (a : LaneArgs) (act : Word32) (link : Word32) : State :=
  (s.writeLane a act a.ty.toNat 0 (fun _ => link)).latchWrite act (fun _ => link)

theorem State.callWrite_before (s : State) (a : LaneArgs) (act link : Word32) : State.Before s (s.callWrite a act link) := by
  have hl := State.latchWrite_latched (s.writeLane a act a.ty.toNat 0 (fun _ => link)) act (fun _ => link)
  obtain ⟨v, p, x, hw⟩ := State.writeLane_same s a act a.ty.toNat 0 (fun _ => link)
  unfold State.callWrite
  rw [hw] at hl ⊢
  exact ⟨hl.before.frag, hl.before.entry, hl.before.others, hl.before.cache⟩

/-- What a call has written stands after its branch (R138). -/
theorem called_spec {link : Word32} (hframe : entryFrame (s.callWrite a act link) t) :
    mainAfter s t a act 1 (fun _ _ => link) ∧ latchesAfter s t act (fun _ => link) ∧ sidesAfter s t a act 1 a.ty.toNat 0 none
      ∧ laneFrame { s with w := { s.w with splitCache := t.w.splitCache } } t := by
  have hmain := mainAfter_writeLane s a act a.ty.toNat 0 (fun _ => link)
  have hside := sidesAfter_writeLane (code := a.ty.toNat) (by omega) s a act 0 (fun _ => link)
  have hlane := laneFrame_writeLane s a act a.ty.toNat 0 (fun _ => link)
  have hl := State.latchWrite_latched (s.writeLane a act a.ty.toNat 0 (fun _ => link)) act (fun _ => link)
  obtain ⟨v, p, x, hw⟩ := State.writeLane_same s a act a.ty.toNat 0 (fun _ => link)
  unfold State.callWrite at hframe
  rw [hw] at hmain hside hlane hl hframe
  generalize State.latchWrite _ act (fun _ => link) = d at hl hframe
  obtain ⟨hstate, hmem⟩ := hframe
  have hv : t.w.v = v := by rw [hstate, hl.same]
  have hx : t.w.x = x := by rw [hstate, hl.same]
  have hlatch : t.w.l = shiftLatches s.w.l act (fun _ => link) := by rw [hstate, hl.same]
  obtain ⟨hsame, hsmem, hreq⟩ := laneFrame_trans hlane hl.frame
  refine ⟨fun n L hL => ?_, latchesAfter_of hlatch, fun n => ?_, ?_, fun y => (hmem y).trans (hsmem y), fun h => ?_⟩
  · exact (congrArg (Sparse.get · (n * 32 + L)) hv).trans (hmain n L hL)
  · rw [show t.w.rx n = Sparse.get x n from congrArg (Sparse.get · n) hx]
    exact hside n
  · rw [hstate, hsame]
  · rw [hstate]
    exact hreq h

theorem exec_vcall (hstate : s.entry.state ≠ .handler) (hmay : mayWrite s a (s.active a.mask) 1 0 = true)
    (hready : laneReady s (useOf a []) (s.active a.mask) = true) : completes s (.vcall a) (useOf a []) (s.active a.mask)
      (s.laneBranch a.imm (s.active a.mask) true (fun s' => s'.callWrite a (s.active a.mask) (s.entry.lpc + 3))) := by
  change execVcall a s = _
  unfold execVcall
  rw [show ({ srcs := [], runs := [], dsts := if a.w then [] else [a.vd.toNat] } : LaneUse) = useOf a [] from rfl,
    State.laneBegin_laneReady _ _ hready, if_neg hstate,
    if_neg (ne_true_of_eq_false (mayWrite_sideOk hmay))]
  rfl

/-- A return of the fragment to a lane address (R139). -/
def State.returned (s : State) (lpc : BitVec 32) : State :=
  (s.laneNext false).setEntry { (s.laneNext false).entry with lpc := lpc, clv := false }

theorem returned_spec (lpc : BitVec 32) : (s.returned lpc).entry.lpc = lpc ∧ (s.returned lpc).entry.clv = false
    ∧ (s.returned lpc).entry.lmask = s.entry.lmask ∧ splitFrame s (s.returned lpc) := by
  rw [State.returned, State.entry_setEntry, State.entry_laneNext]
  exact ⟨rfl, rfl, rfl, splitFrame_trans (splitFrame_setEntry _ _) (splitFrame_setEntry _ _)⟩

theorem exec_vret_link (hstate : s.entry.state ≠ .handler) (hsa : a.sa = .reg 0) (hclv : s.entry.clv = true) :
    exec (.vret a) s = .next (s.returned s.entry.clink) := by
  change execVret a s = _
  unfold execVret
  rw [if_pos hsa, State.laneBegin_nothing, if_neg hstate, if_pos hsa, if_neg (by simp [hclv])]
  rfl

theorem exec_vret_register (hstate : s.entry.state ≠ .handler) (hsa : a.sa ≠ .reg 0)
    (hready : laneReady s { srcs := [a.sa], runs := [], dsts := [] } (s.active a.mask) = true) :
    completes s (.vret a) { srcs := [a.sa], runs := [], dsts := [] } (s.active a.mask)
      (s.returned (s.src a.ty.toNat a.imm a.sa ((lanesOf s.entry.lmask).headD 0))) := by
  change execVret a s = _
  unfold execVret
  rw [if_neg hsa, State.laneBegin_laneReady _ _ hready, if_neg hstate, if_neg hsa]
  rfl

theorem laneBranches_holds : laneBranches := by
  intro s a act e m
  refine ⟨?_, ?_, ?_, ?_, ?_⟩
  · intro hready
    obtain ⟨t, ht, hbranched, hframe, hcache⟩ := laneBranch_spec (call := false) id (State.Before.refl s) hready
    exact ⟨t, congrArg Host.Outcome.next ht, hbranched, hframe, hcache⟩
  · intro v hready hlane
    obtain ⟨t, ht, hbranched, hframe, hcache⟩ := laneBranch_spec (call := false) id (State.Before.refl s) hready
    refine ⟨t, (congrArg Host.Outcome.next (State.laneBegin_laneReady _ false hlane)).trans ?_, hbranched, hframe, hcache⟩
    rw [vbrc_lanes]
    exact congrArg (fun t => Host.Outcome.next (State.useLines t s v act)) ht
  · intro hready hstate hmay hlane
    obtain ⟨t, ht, hbranched, hframe, hcache⟩ := laneBranch_spec (call := true)
      (fun s' => s'.callWrite a (s.active a.mask) (s.entry.lpc + 3)) (State.callWrite_before s a _ _) hready
    obtain ⟨hmain, hlatch, hside, hlane'⟩ := called_spec hframe
    exact ⟨t, ht ▸ exec_vcall hstate hmay hlane, hbranched, hmain, hlatch, hside, hlane', hcache⟩
  · intro hstate hsa hclv
    exact ⟨_, exec_vret_link hstate hsa hclv, returned_spec _⟩
  · intro v hstate hsa hlane
    exact ⟨_, exec_vret_register hstate hsa hlane, returned_spec _⟩

end Sys2Proof.Machine

/-! # REGANG and END (O23) -/

namespace Sys2Proof.Machine

open Sys2Proof.Claims

variable {s t u : State} {a : LaneArgs} {m : Table SplitEntry} {p x : SplitEntry} {q : Nat}

/-! ### REGANG and END (R107, R121 to R123) -/

theorem Table.find_erase {α : Type} (m : Table α) (a b : Nat) :
    Table.find (Table.erase m a) b = if b = a then none else Table.find m b := by
  induction m with
  | nil => simp [Table.erase]
  | cons c m ih =>
    obtain ⟨k, v⟩ := c
    unfold Table.erase at ih ⊢
    by_cases hk : k = a
    · subst hk
      rw [List.filter_cons_of_neg (by simp), ih]
      by_cases hb : b = k <;> simp [Table.find, hb]
    · rw [List.filter_cons_of_pos (by simpa using hk)]
      by_cases hb : b = k
      · subst hb
        simp [Table.find, hk]
      · simp [Table.find, hb, ih]

/-- A waiting parent that has lost a part, but has lanes or parts left: without parts it is live again (R123). -/
theorem fuseOrEnd_stays (now n : Nat) (hfind : Table.find m q = some x) (hstate : x.state = .waiting)
    (hleft : x.lmask ≠ 0 ∨ x.npart ≠ 0) : ∃ r, Table.find (fuseOrEnd now (n + 1) m q) q = some r ∧ r.lmask = x.lmask
      ∧ r.npart = x.npart ∧ r.latv = x.latv ∧ r.lpc = x.lpc ∧ (x.npart = 0 → r.state = .live) ∧ (x.npart ≠ 0 → r.state = .waiting)
      ∧ ∀ f, f ≠ q → Table.find (fuseOrEnd now (n + 1) m q) f = Table.find m f := by
  unfold fuseOrEnd
  simp only [hfind]
  by_cases hparts : x.npart = 0
  · rw [if_neg (by simp [hstate, hparts]), if_pos (hleft.resolve_right (not_not_intro hparts))]
    exact ⟨_, Table.find_put_same _ _ _, rfl, rfl, rfl, rfl, fun _ => rfl, fun h => absurd hparts h,
      fun f hf => Table.find_put_other _ _ hf⟩
  · rw [if_pos (Or.inr hparts)]
    exact ⟨x, hfind, rfl, rfl, rfl, rfl, fun h => absurd h hparts, fun _ => hstate, fun _ _ => rfl⟩

theorem State.endBlock_busy {f : Nat} (h : Table.find s.w.split f = some x) : s.endBlock = s := by
  refine if_neg fun hempty => ?_
  rw [List.isEmpty_iff.mp hempty] at h
  cases h

/-- An entry that the core holds leads its list when it is used. -/
theorem State.useEntry_held {e : Nat} (hin : s.w.splitCache.contains e = true) (hroom : s.w.splitCache.length ≤ 16) :
    s.useEntry e = s.onW (fun w => { w with splitCache := e :: s.w.splitCache.filter (fun y => y != e) }) := by
  have hlt : (s.w.splitCache.filter (fun y => y != e)).length < s.w.splitCache.length := by
    refine List.length_filter_lt_length_iff_exists.mpr ⟨e, by simpa using hin, by simp⟩
  rw [State.useEntry, if_pos (by omega)]

/-- One changed entry that the core holds needs no fetch. -/
theorem State.withEntries_held (hq : ∀ i, i ≠ s.frag → Table.find s.w.split i ≠ Table.find t.w.split i → i = q)
    (hin : s.w.splitCache.contains q = true) (hcache : t.w.splitCache = s.w.splitCache) (hroom : s.w.splitCache.length ≤ 16) :
    ∃ c, s.withEntries t = t.onW (fun w => { w with splitCache := c }) := by
  have hnodup : ((s.w.entriesChanged t.w).filter (fun i => i != s.frag)).Nodup := (List.nodup_range.filter _).filter _
  have hall : ∀ i ∈ (s.w.entriesChanged t.w).filter (fun i => i != s.frag), i = q := by
    intro i hi
    obtain ⟨-, hne, hf⟩ := Wave.mem_changed.mp hi
    exact hq i hf hne
  unfold State.withEntries
  dsimp only
  generalize (s.w.entriesChanged t.w).filter (fun i => i != s.frag) = l at hnodup hall ⊢
  match l, hnodup, hall with
  | [], _, _ => exact ⟨t.w.splitCache, rfl⟩
  | [i], _, hall =>
    obtain rfl := hall i (by simp)
    simp only [List.find?_cons, hin, Bool.not_true, Bool.and_false, List.find?_nil, List.foldl_cons, List.foldl_nil]
    exact ⟨_, State.useEntry_held (hcache ▸ hin) (hcache ▸ hroom)⟩
  | i :: j :: l, hnodup, hall =>
    have hij : i = j := (hall i (by simp)).trans (hall j (by simp)).symm
    simp [hij] at hnodup

/-- The parent's entry as a part arrives in it, or ends (R121, R122). -/
def SplitEntry.joined (p e : SplitEntry) (arrives : Bool) : SplitEntry :=
  let p := if arrives then { p with lmask := p.lmask ||| e.lmask, latv := p.latv &&& e.latv } else p
  { p with npart := p.npart - 1 }

theorem State.leaveTable_parent {arrives : Bool} (hq : q = s.entry.parent.toNat) (hne : q ≠ s.frag)
    (hp : Table.find s.w.split q = some p) : s.leaveTable arrives = (s.onW (fun w => { w with
      split := fuseOrEnd s.now 32 (Table.put (Table.erase s.w.split s.frag) q (p.joined s.entry arrives)) q })).endBlock := by
  have hfind : Table.find (Table.erase s.w.split s.frag) q = some p := by rw [Table.find_erase, if_neg hne, hp]
  subst hq
  unfold State.leaveTable
  simp only [if_neg hne, hfind]
  rfl

/-- A part has left the table: its entry is free, and its parent has its lanes and one part less (R121 to R123). -/
theorem leaves_spec {arrives : Bool} (hq : q = s.entry.parent.toNat) (hne : q ≠ s.frag) (hp : Table.find s.w.split q = some p)
    (hstate : p.state = .waiting) (hleft : (p.joined s.entry arrives).lmask ≠ 0 ∨ p.npart ≠ 1)
    (hin : s.w.splitCache.contains q = true) (hroom : s.w.splitCache.length ≤ 16) :
    ∃ t, s.withEntries (s.leaveTable arrives) = t ∧ entryFrame s t ∧ Table.find t.w.split s.frag = none
      ∧ (∀ f, f ≠ s.frag → f ≠ q → Table.find t.w.split f = Table.find s.w.split f)
      ∧ ∃ r, Table.find t.w.split q = some r ∧ r.lmask = (p.joined s.entry arrives).lmask ∧ r.npart = p.npart - 1
        ∧ r.latv = (p.joined s.entry arrives).latv ∧ r.lpc = p.lpc
        ∧ (p.npart = 1 → r.state = .live) ∧ (p.npart ≠ 1 → r.state = .waiting) := by
  have hnpart : (p.joined s.entry arrives).npart = p.npart - 1 := by cases arrives <;> rfl
  have hlpc : (p.joined s.entry arrives).lpc = p.lpc := by cases arrives <;> rfl
  have hwaiting : (p.joined s.entry arrives).state = .waiting := by cases arrives <;> exact hstate
  have hone : p.npart - 1 = 0 ↔ p.npart = 1 := sub_eq_zero
  obtain ⟨r, hr, hr1, hr2, hr3, hr4, hlive, hwait, hothers⟩ := fuseOrEnd_stays (q := q) (x := p.joined s.entry arrives) s.now 31
    (m := Table.put (Table.erase s.w.split s.frag) q (p.joined s.entry arrives)) (Table.find_put_same _ _ _) hwaiting
    (hleft.imp_right fun h => by rw [hnpart]; exact fun h0 => h (hone.mp h0))
  rw [State.leaveTable_parent hq hne hp]
  generalize fuseOrEnd s.now (31 + 1) _ q = m at hr hothers ⊢
  have hkeep : ∀ f, f ≠ s.frag → f ≠ q → Table.find m f = Table.find s.w.split f := by
    intro f hf hfq
    rw [hothers f hfq, Table.find_put_other _ _ hfq, Table.find_erase, if_neg hf]
  have hgone : Table.find m s.frag = none := by
    rw [hothers _ hne.symm, Table.find_put_other _ _ hne.symm, Table.find_erase, if_pos rfl]
  rw [State.endBlock_busy (f := q) (x := r) hr]
  obtain ⟨c, hc⟩ := State.withEntries_held (s := s) (t := s.onW (fun w => { w with split := m })) (q := q)
    (fun i hi hd => by
      by_contra hno
      exact hd (hkeep i hi hno).symm) hin rfl hroom
  rw [hc]
  refine ⟨_, rfl, entryFrame_cache s m c, hgone, hkeep, r, hr, hr1, hr2.trans hnpart, hr3, hr4.trans hlpc, fun h => ?_, fun h => ?_⟩
  · exact hlive (hnpart.trans (hone.mpr h))
  · exact hwait fun h0 => h (hone.mp (hnpart ▸ h0))

/-- The last entry of the table is freed: the lane block completes (R107). -/
theorem lastEntry_ends (hsplit : s.w.split = [(s.frag, s.entry)]) (hq : s.entry.parent.toNat = s.frag) :
    s.withEntries (s.leaveTable false)
      = { s with w := { s.w with split := [], lq := s.w.lq.tail, lqhead := (s.w.lqhead + 1) % 8 } } := by
  have herase : Table.erase s.w.split s.frag = [] := by rw [hsplit]; simp [Table.erase]
  have hleave : s.leaveTable false
      = { s with w := { s.w with split := [], lq := s.w.lq.tail, lqhead := (s.w.lqhead + 1) % 8 } } := by
    simp only [State.leaveTable, hq, if_true, herase]
    rfl
  rw [hleave]
  have hnone : (s.w.entriesChanged { s.w with split := [], lq := s.w.lq.tail, lqhead := (s.w.lqhead + 1) % 8 }).filter
      (fun i => i != s.frag) = [] := by
    rw [List.eq_nil_iff_forall_not_mem]
    intro i hi
    obtain ⟨-, hne, hf⟩ := Wave.mem_changed.mp hi
    rw [hsplit] at hne
    simp [Table.find, hf] at hne
  unfold State.withEntries
  dsimp only
  rw [hnone]
  rfl

theorem regangAndEnd_holds : regangAndEnd := by
  intro s a p e q arrives leaves
  refine ⟨fun hno => ⟨_, ?_, onlyNext_laneNext s⟩, fun hhas hstate hp hne hwaiting hparts hin hroom => ⟨fun harrives hlanes => ?_, fun hleft => ?_⟩,
    fun hstate hsplit hq => ?_⟩
  · change execRegang a s = _
    exact congrArg Host.Outcome.next (if_neg hno)
  · obtain ⟨t, ht, hframe, hleaves⟩ := leaves_spec (arrives := true) rfl hne hp hwaiting (Or.inl hlanes) hin hroom
    refine ⟨t, ?_, hframe, hleaves⟩
    change execRegang a s = _
    exact congrArg Host.Outcome.next ((if_pos harrives).trans ((if_neg hstate).trans ht))
  · obtain ⟨t, ht, hframe, hleaves⟩ := leaves_spec (arrives := false) rfl hne hp hwaiting hleft hin hroom
    refine ⟨t, ?_, hframe, hleaves⟩
    change execLend a s = _
    exact congrArg Host.Outcome.next ((if_neg hstate).trans ht)
  · refine ⟨{ s with w := { s.w with split := [], lq := s.w.lq.tail, lqhead := (s.w.lqhead + 1) % 8 } }, ?_, rfl, rfl, rfl, rfl⟩
    change execLend a s = _
    exact congrArg Host.Outcome.next ((if_neg hstate).trans (lastEntry_ends hsplit hq))

end Sys2Proof.Machine

/-! # ITEMNEXT (O23) -/

namespace Sys2Proof.Machine

open Sys2Proof.Claims

variable {s t u : State} {a : LaneArgs} {act : Word32}

/-! ### Items taken (R125, R140) -/

/-- The launch's items at the wave's origin core, in order. -/
def State.myItems (s : State) : List Word32 :=
  ((s.core s.w.origin.toNat).items.filter (fun x => x.1 == s.w.lid)).map (·.2)

/-- The requesting lanes with the items that they take. -/
def State.gotItems (s : State) (a : LaneArgs) (act : Word32) : List (Nat × Word32) :=
  (lanesOf (act &&& s.w.rm (itemMask a))).zip s.myItems

/-- The lanes that take an item. -/
def gotLanes (got : List (Nat × Word32)) : Word32 := maskOf (fun L => got.any (fun x => x.1 == L))

/-- The word that a lane takes. -/
def gotWord (got : List (Nat × Word32)) (L : Nat) : Word32 := ((got.find? (fun x => x.1 == L)).map (·.2)).getD 0

theorem gotItems_lt {x : Nat × Word32} (h : x ∈ s.gotItems a act) : x.1 < 32 :=
  lanesOf_lt (List.of_mem_zip h).1

theorem getLsbD_gotLanes (got : List (Nat × Word32)) {L : Nat} (hL : L < 32) :
    (gotLanes got).getLsbD L = got.any (fun x => x.1 == L) := getLsbD_maskOf _ hL

/-- The lanes that take an item, one after the other. -/
theorem gotLanes_foldl {got : List (Nat × Word32)} (h : ∀ x ∈ got, x.1 < 32) :
    gotLanes got = (got.map (·.1)).foldl (fun b L => b ||| (1#32 <<< L)) 0 := by
  refine BitVec.eq_of_getLsbD_eq fun L hL => ?_
  have hfold := foldl_mask (fun _ => true) (got.map (·.1)) (by simpa using h) 0 hL
  simp only [if_true, Bool.and_true] at hfold
  rw [hfold, getLsbD_gotLanes _ hL, Bool.eq_iff_iff]
  simp

/-- A lane's word after items are taken: the item that it takes, or what it had. -/
theorem got_word (got : List (Nat × Word32)) (old : Word32) {L : Nat} (hL : L < 32) :
    (if (gotLanes got).getLsbD L = true then gotWord got L else old) = ((got.find? (fun x => x.1 == L)).map (·.2)).getD old := by
  rw [getLsbD_gotLanes _ hL, gotWord]
  cases hfind : got.find? (fun x => x.1 == L) with
  | none =>
    rw [if_neg]
    · rfl
    · rw [Bool.not_eq_true, List.any_eq_false]
      exact fun x hx => List.find?_eq_none.mp hfind x hx
  | some y => rw [if_pos (List.any_eq_true.mpr ⟨y, List.mem_of_find?_eq_some hfind, List.find?_some hfind⟩)]; rfl

/-- The state after a launch's items are taken by some lanes. -/
structure State.Took (s t : State) (a : LaneArgs) (got : List (Nat × Word32)) : Prop where
  words : ∀ n L, L < 32 → t.w.rv n L =
    if n = a.vd.toNat then ((got.find? (fun x => x.1 == L)).map (·.2)).getD (s.w.rv n L) else s.w.rv n L
  mask : t.w.rm (itemMask a) = s.w.rm (itemMask a) &&& ~~~gotLanes got
  masks : ∀ n, n ≠ itemMask a → t.w.rm n = s.w.rm n
  left : ((t.core s.w.origin.toNat).items.filter (fun x => x.1 == s.w.lid)).map (·.2) = s.myItems.drop got.length
  others : (t.core s.w.origin.toNat).items.filter (fun x => x.1 != s.w.lid)
    = (s.core s.w.origin.toNat).items.filter (fun x => x.1 != s.w.lid)
  entry : t.entry = s.entry
  sreg : t.w.sreg = s.w.sreg
  mem : memSame s t

theorem State.takeItems_none (h : s.gotItems a act = []) : s.takeItems a act = s :=
  if_pos (List.isEmpty_iff.mpr h)

/-- The items that no lane of the instruction takes. -/
def State.itemsLeft (s : State) (n : Nat) : List (BitVec 32 × Word32) :=
  (s.core s.w.origin.toNat).items.filter (fun x => x.1 != s.w.lid) ++ (s.myItems.drop n).map (fun x => (s.w.lid, x))

theorem State.takeItems_some (h : s.gotItems a act ≠ []) : s.takeItems a act
    = (((s.setCore s.w.origin.toNat { s.core s.w.origin.toNat with items := s.itemsLeft (s.gotItems a act).length }).setV a.vd.toNat
        (gotLanes (s.gotItems a act)) (gotWord (s.gotItems a act))).latchWords s.seq (gotLanes (s.gotItems a act))
        (gotWord (s.gotItems a act))).onW
      (fun w => { w with m := Sparse.set w.m (itemMask a) (w.rm (itemMask a) &&& ~~~gotLanes (s.gotItems a act)) }) :=
  if_neg fun he => h (List.isEmpty_iff.mp he)

/-- The launch's own items among those left, and the others. -/
theorem State.itemsLeft_mine (n : Nat) :
    ((s.itemsLeft n).filter (fun x => x.1 == s.w.lid)).map (·.2) = s.myItems.drop n
      ∧ (s.itemsLeft n).filter (fun x => x.1 != s.w.lid) = (s.core s.w.origin.toNat).items.filter (fun x => x.1 != s.w.lid) := by
  unfold State.itemsLeft
  constructor
  · rw [List.filter_append, List.filter_filter, List.filter_map]
    simp [Function.comp_def]
  · rw [List.filter_append, List.filter_filter, List.filter_map]
    simp [Function.comp_def]

/-- The items of a core are no memory. -/
theorem State.setItems_memSame (g : Nat) (l : List (BitVec 32 × BitVec 32)) :
    memSame s (s.setCore g { s.core g with items := l }) := by
  refine State.cell_congr (s := s) (t := s.setCore g { s.core g with items := l }) rfl rfl rfl (fun k => ?_) rfl
  by_cases hk : k = g
  · rw [hk, State.core_setCore_same]
    exact ⟨rfl, rfl⟩
  · rw [State.core_setCore_other (s := s) _ hk]
    exact ⟨rfl, rfl⟩

theorem takeItems_took (s : State) (a : LaneArgs) (act : Word32) : State.Took s (s.takeItems a act) a (s.gotItems a act) := by
  by_cases h : s.gotItems a act = []
  · rw [State.takeItems_none h, h]
    refine ⟨fun n L _ => ?_, ?_, fun _ _ => rfl, rfl, rfl, rfl, rfl, fun _ => rfl⟩
    · split <;> rfl
    · have hnone : ~~~gotLanes [] = BitVec.allOnes 32 := by
        rw [gotLanes_foldl (by simp)]
        exact BitVec.not_zero
      rw [hnone, BitVec.and_allOnes]
  · rw [State.takeItems_some h]
    generalize s.gotItems a act = got
    obtain ⟨l, -, hl⟩ := State.latchWords_eq (s := (s.setCore s.w.origin.toNat { s.core s.w.origin.toNat with
      items := s.itemsLeft got.length }).setV a.vd.toNat (gotLanes got) (gotWord got)) (act := gotLanes got) (f := gotWord got) s.seq
    rw [hl]
    refine ⟨fun n L hL => ?_, Sparse.get_set_same _ _ _, fun n hn => Sparse.get_set_other _ _ hn, ?_, ?_, rfl, rfl, ?_⟩
    · refine (get_setLanes s.w.v _ _ _ hL).trans ?_
      by_cases hn : n = a.vd.toNat
      · simp only [hn, true_and, if_true]
        exact got_word got _ hL
      · simp only [hn, false_and, if_false]
        rfl
    · refine Eq.trans ?_ (s.itemsLeft_mine got.length).1
      exact congrArg (fun c : Core => (c.items.filter (fun x => x.1 == s.w.lid)).map (·.2)) (Table.getD_put_same _ _ _ _)
    · refine Eq.trans ?_ (s.itemsLeft_mine got.length).2
      exact congrArg (fun c : Core => c.items.filter (fun x => x.1 != s.w.lid)) (Table.getD_put_same _ _ _ _)
    · exact memSame_trans (State.setItems_memSame _ _) (fun _ => rfl)

/-! ### ITEMNEXT -/

/-- With an item for every requesting lane, none of them requests any more. -/
theorem requests_served (h : (lanesOf (act &&& s.w.rm (itemMask a))).length ≤ s.myItems.length) :
    act &&& (s.w.rm (itemMask a) &&& ~~~gotLanes (s.gotItems a act)) = 0 := by
  refine BitVec.eq_of_getLsbD_eq fun L hL => ?_
  rw [← BitVec.and_assoc, BitVec.getLsbD_and, BitVec.getLsbD_not, getLsbD_gotLanes _ hL]
  cases hrequests : (act &&& s.w.rm (itemMask a)).getLsbD L with
  | false => simp
  | true =>
    have hlane : L ∈ (s.gotItems a act).map (·.1) := by
      rw [State.gotItems, List.map_fst_zip h]
      exact (mem_lanesOf hL).mpr hrequests
    obtain ⟨y, hy, hyL⟩ := List.mem_map.mp hlane
    have hany : (s.gotItems a act).any (fun x => x.1 == L) = true := List.any_eq_true.mpr ⟨y, hy, by simp [hyL]⟩
    simp [hany]

/-- The sidecar that an item queue's refill writes as it first executes (R162). -/
theorem State.itemSide_eq (s : State) (a : LaneArgs) (act : Word32) (first : Bool) : ∃ x,
    (if first then s.sideWrite a.vd.toNat act a.ty.toNat 0 none else s) = { s with w := { s.w with x := x } } := by
  by_cases h : first = true
  · rw [if_pos h, State.sideWrite_eq]
    exact ⟨_, rfl⟩
  · rw [if_neg h]
    exact ⟨s.w.x, rfl⟩

/-- ITEMNEXT that need not wait goes on with the items that its lanes take. -/
theorem State.itemNext_done (hside : s.entry.itemWait = true ∨ act = 0 ∨ act = 0xFFFFFFFF ∨ sideTag (s.w.rx a.vd.toNat) = 0)
    (hdone : a.mods.getLsbD 0 = false ∨ (lanesOf (act &&& s.w.rm (itemMask a))).length ≤ s.myItems.length) :
    ∃ x latv, s.itemNext a act = ((({ s with w := { s.w with x := x } } : State).takeItems a act).setEntry
      { s.entry with latv := latv }).laneNext true := by
  have hok : ((!s.entry.itemWait && act != 0) && !s.sideOk a.vd.toNat act 0) = false := by
    rcases hside with h | h | h | h <;> simp [State.sideOk, h]
  obtain ⟨x, hx⟩ := State.itemSide_eq s a act (!s.entry.itemWait && act != 0)
  have htook := takeItems_took ({ s with w := { s.w with x := x } } : State) a act
  refine ⟨x, (s.entry.latv <<< 1) ||| 1, ?_⟩
  unfold State.itemNext
  dsimp only
  rw [hok, hx]
  simp only [Bool.false_eq_true, if_false]
  generalize ({ s with w := { s.w with x := x } } : State).takeItems a act = t at htook ⊢
  have hserved : a.mods.getLsbD 0 = false ∨ act &&& t.w.rm (itemMask a) = 0 := by
    refine hdone.imp_right fun h => ?_
    rw [htook.mask]
    exact requests_served (s := { s with w := { s.w with x := x } }) h
  have hentry : t.entry = s.entry := htook.entry
  rw [if_pos (by rcases hserved with h | h <;> rw [h] <;> simp), hentry]

theorem itemNext_holds : Sys2Proof.Claims.itemNext := by
  intro s a act d g r mine got lanes u hready hdone hside
  obtain ⟨x, latv, hnext⟩ := State.itemNext_done (s := s) (a := a) (act := act) hside hdone
  have htook := takeItems_took ({ s with w := { s.w with x := x } } : State) a act
  have hlanes : lanes = gotLanes got := (gotLanes_foldl fun y hy => gotItems_lt (s := s) (a := a) (act := act) hy).symm
  generalize ({ s with w := { s.w with x := x } } : State).takeItems a act = t at htook hnext
  have hentry : ((t.setEntry { s.entry with latv := latv }).laneNext true).entry = SplitEntry.next { s.entry with latv := latv } true := by
    rw [State.entry_laneNext, State.entry_setEntry]
  refine ⟨(t.setEntry { s.entry with latv := latv }).laneNext true, ?_, htook.words, ?_, htook.masks, htook.left, htook.others,
    by rw [hentry]; rfl, by rw [hentry]; rfl, fun r => ?_, ?_⟩
  · refine (congrArg Host.Outcome.next (State.laneBegin_laneReady (fun act => s.itemNext a act) false hready)).trans ?_
    exact congrArg (fun t => Host.Outcome.next (State.useLines t s u act)) hnext
  · rw [hlanes]
    exact htook.mask
  · exact congrArg (fun m : Sparse 64 => if r = 0 then 0 else Sparse.get m r.toNat) htook.sreg
  · exact memSame_trans htook.mem (memSame_trans (memSame_setEntry _) (memSame_setEntry _))

/-- Settles O23: branches by `laneBranch_spec`, REGANG and END by `leaves_spec` and `lastEntry_ends`, ITEMNEXT by `takeItems_took`. -/
theorem laneControlFlow : Obligations.LaneControlFlow := ⟨laneBranches_holds, regangAndEnd_holds, itemNext_holds⟩

end Sys2Proof.Machine
